-- ==== Sys2Proof/Word.lean ====
section
/-! DEFINITION. The word types of the VZ2 and the plainest readings of their bits (R8, R9, R248). -/

namespace Sys2Proof

/-- A 32-bit word: a register value, an instruction word (R222, R248). -/
abbrev Word := BitVec 32

/-- One byte of memory. -/
abbrev Byte := BitVec 8

/-- A 64-bit value: a register pair, an effective address, a program counter (R27, R28). -/
abbrev Addr := BitVec 64

/-- A register name v0 to v127 as an instruction word holds it (R222). -/
abbrev RegName := BitVec 7

/-- The stall count of an instruction word (R225). -/
abbrev Stall := BitVec 2

/-- Bits [lo + n - 1 : lo] of a word, as a number (R8). -/
def Word.field (w : Word) (lo n : Nat) : Nat := w.toNat / 2 ^ lo % 2 ^ n

/-- Bit `i` of a word. -/
def Word.bit (w : Word) (i : Nat) : Bool := w.getLsbD i

/-- The 64-bit value of a pair: `lo` is the even register (R27, R248). -/
def pairVal (lo hi : Word) : Addr := hi ++ lo

/-- The low word of a 64-bit value. -/
def Addr.low (a : Addr) : Word := a.truncate 32

/-- The high word of a 64-bit value. -/
def Addr.high (a : Addr) : Word := (a >>> 32).truncate 32

/-- A number as a 32-bit word. -/
def Word.ofNat (n : Nat) : Word := BitVec.ofNat 32 n

/-- A number as a 64-bit value. -/
def Addr.ofNat (n : Nat) : Addr := BitVec.ofNat 64 n

end Sys2Proof
end

