-- ==== Sys2Proof/Syntax.lean ====
section
/-! DEFINITION. The syntax: every row of the opcode table is one constructor of `Instr`.
The first 223 are the encoded words (R222 to R247), with their fields already read (R224, R228, R234 to R243);
the last 76 are the steps that agents other than an issuing thread take, and the host's writes. -/

namespace Sys2Proof

/-- The width field: group size k = 1, 2, 4, 8 (R228). -/
inductive Width where
  | w1 | w2 | w4 | w8
  deriving DecidableEq, Repr

/-- The group size of a width (R228). -/
def Width.k : Width → Nat
  | .w1 => 1 | .w2 => 2 | .w4 => 4 | .w8 => 8

/-- The condition field of ISET, ISETN, FCMP and FCMPM (R240). -/
inductive Cond where
  | lt | le | eq | ne
  deriving DecidableEq, Repr

/-- The rounding modes of CVT (R170). -/
inductive Rnd where
  | rne | rz | rdn | rup
  deriving DecidableEq, Repr

/-- The scopes (R240, R96). -/
inductive Scope where
  | core | quad | die | pkg | pod | sys
  deriving DecidableEq, Repr

/-- The format codes of CVT (R235). -/
inductive NumFmt where
  | f32 | f16 | bf16 | e4m3 | e5m2 | i32 | n32
  deriving DecidableEq, Repr

/-- The formats of the FUN group (R237). -/
inductive FunFmt where
  | f32 | f16 | bf16 | v1
  deriving DecidableEq, Repr

/-- The value formats of LDT and STT (R299). -/
inductive FrameFmt where
  | f32 | f16 | bf16 | e4m3
  deriving DecidableEq, Repr

/-- The types of the RED group (R238). -/
inductive RedType where
  | f32 | i32 | n32
  deriving DecidableEq, Repr

/-- The operations of an atomic (R241). -/
inductive AtomOp where
  | add | min | max | and | or | xor | xchg | cas | fadd
  deriving DecidableEq, Repr

/-- The types of an atomic (R241). -/
inductive AtomType where
  | n32 | i32 | n64 | f32
  deriving DecidableEq, Repr

/-- The kind7 field of an atomic: operation, type, order bit (R241). -/
structure AtomKind where
  op : AtomOp
  ty : AtomType
  acqrel : Bool
  deriving DecidableEq, Repr

/-- The levels of a barrier (R242). -/
inductive BarLevel where
  | core | quad | die | pkg | pod
  deriving DecidableEq, Repr

/-- What a remote participant of a COLL brings: its rank, count and format code, and its source bytes (R316). -/
structure CollShare where
  rank : Nat
  count : Nat
  format : Nat
  data : List Byte
  deriving DecidableEq, Repr

/-- What the hypervisor asks of the service mailbox before it answers an event (R395, R80). -/
inductive Repair where
  /-- Write one page-table entry at the entry's physical address. -/
  | setEntry (pa : Nat) (entry : Addr)
  /-- Supply the content of one 4 KiB frame. -/
  | content (pa : Nat) (bytes : List Byte)
  /-- Migrate the unit that holds an address into near memory. -/
  | migrate (va : Addr)
  /-- Enlarge the partition's layer reserve by 64 KiB near pages. -/
  | reserve (pages : List Addr)
  /-- Make an executable page writable, or the reverse (R89). -/
  | setAccess (va : Addr) (toWrite : Bool)
  /-- Move the page-table node that a table entry names on the walk of an address, from an entry of a level (R38). -/
  | moveNode (va : Addr) (level : Nat)
  deriving DecidableEq, Repr

/-- What another package asks of a window (R43, R67): a load, a store of some bytes, or an atomic. -/
inductive RemoteOp where
  | load
  | store (bytes : List Byte)
  | atom (op : AtomOp) (ty : AtomType) (x c : Addr)
  deriving DecidableEq, Repr

/-- One constructor for each row of the opcode table. -/
inductive Instr where
  /-- IADD (R250). Adds a and b modulo 2^32 into d, per group member. -/
  | iadd (d : RegName) (a : RegName) (b : RegName) (w : Width) (st : Stall)
  /-- ISUB (R250). Subtracts b from a modulo 2^32 into d. -/
  | isub (d : RegName) (a : RegName) (b : RegName) (w : Width) (st : Stall)
  /-- IMUL (R250). Writes the low 32 bits of a times b to d. -/
  | imul (d : RegName) (a : RegName) (b : RegName) (w : Width) (st : Stall)
  /-- IMULH (R250). Writes the high 32 bits of the signed product of a and b to d. -/
  | imulh (d : RegName) (a : RegName) (b : RegName) (w : Width) (st : Stall)
  /-- IMULHN (R250). Writes the high 32 bits of the unsigned product of a and b to d. -/
  | imulhn (d : RegName) (a : RegName) (b : RegName) (w : Width) (st : Stall)
  /-- IMAD (R250). Writes the low 32 bits of a times b plus the old d to d. -/
  | imad (d : RegName) (a : RegName) (b : RegName) (w : Width) (st : Stall)
  /-- AND (R250). Writes the bitwise AND of a and b to d. -/
  | and (d : RegName) (a : RegName) (b : RegName) (w : Width) (st : Stall)
  /-- OR (R250). Writes the bitwise OR of a and b to d. -/
  | or (d : RegName) (a : RegName) (b : RegName) (w : Width) (st : Stall)
  /-- XOR (R250). Writes the bitwise XOR of a and b to d. -/
  | xor (d : RegName) (a : RegName) (b : RegName) (w : Width) (st : Stall)
  /-- ANDN (R250). Writes a AND NOT b to d. -/
  | andn (d : RegName) (a : RegName) (b : RegName) (w : Width) (st : Stall)
  /-- SHL (R250). Shifts a left by b[4:0] into d. -/
  | shl (d : RegName) (a : RegName) (b : RegName) (w : Width) (st : Stall)
  /-- SHR (R250). Shifts a right logically by b[4:0] into d. -/
  | shr (d : RegName) (a : RegName) (b : RegName) (w : Width) (st : Stall)
  /-- SAR (R250). Shifts a right arithmetically by b[4:0] into d. -/
  | sar (d : RegName) (a : RegName) (b : RegName) (w : Width) (st : Stall)
  /-- IMIN (R250). Writes the signed minimum of a and b to d. -/
  | imin (d : RegName) (a : RegName) (b : RegName) (w : Width) (st : Stall)
  /-- IMAX (R250). Writes the signed maximum of a and b to d. -/
  | imax (d : RegName) (a : RegName) (b : RegName) (w : Width) (st : Stall)
  /-- IMINN (R250). Writes the unsigned minimum of a and b to d. -/
  | iminn (d : RegName) (a : RegName) (b : RegName) (w : Width) (st : Stall)
  /-- IMAXN (R250). Writes the unsigned maximum of a and b to d. -/
  | imaxn (d : RegName) (a : RegName) (b : RegName) (w : Width) (st : Stall)
  /-- ISET (R251). Writes 1 to d when a compares to b under the signed condition, else 0. -/
  | iset (d : RegName) (a : RegName) (b : RegName) (c : Cond) (st : Stall)
  /-- ISETN (R251). Writes 1 to d when a compares to b under the unsigned condition, else 0. -/
  | isetn (d : RegName) (a : RegName) (b : RegName) (c : Cond) (st : Stall)
  /-- SEL (R250). Copies a or b whole into d according to the old value of d. -/
  | sel (d : RegName) (a : RegName) (b : RegName) (w : Width) (st : Stall)
  /-- BFX (R250). Extracts a bit field of a described by b into d. -/
  | bfx (d : RegName) (a : RegName) (b : RegName) (w : Width) (st : Stall)
  /-- BFI (R250). Inserts a bit field of a described by b into d. -/
  | bfi (d : RegName) (a : RegName) (b : RegName) (w : Width) (st : Stall)
  /-- ADD64 (R252). Adds two 64-bit register pairs. -/
  | add64 (d : RegName) (a : RegName) (b : RegName) (st : Stall)
  /-- SUB64 (R252). Subtracts two 64-bit register pairs. -/
  | sub64 (d : RegName) (a : RegName) (b : RegName) (st : Stall)
  /-- MUL64 (R252). Multiplies two 64-bit pairs, keeping the low 64 bits. -/
  | mul64 (d : RegName) (a : RegName) (b : RegName) (st : Stall)
  /-- MADW (R252). Adds the unsigned 64-bit product of a and b to the pair d. -/
  | madw (d : RegName) (a : RegName) (b : RegName) (st : Stall)
  /-- SHFR (R252). Shifts the pair a right by b[5:0] and keeps the low word. -/
  | shfr (d : RegName) (a : RegName) (b : RegName) (st : Stall)
  /-- ADDI (R253). Adds the sign-extended imm9 to a. -/
  | addi (d : RegName) (a : RegName) (imm : BitVec 9) (st : Stall)
  /-- ANDI (R253). ANDs a with the zero-extended imm9. -/
  | andi (d : RegName) (a : RegName) (imm : BitVec 9) (st : Stall)
  /-- ORI (R253). ORs a with the zero-extended imm9. -/
  | ori (d : RegName) (a : RegName) (imm : BitVec 9) (st : Stall)
  /-- XORI (R253). XORs a with the zero-extended imm9. -/
  | xori (d : RegName) (a : RegName) (imm : BitVec 9) (st : Stall)
  /-- SHLI (R253). Shifts a left by an immediate count. -/
  | shli (d : RegName) (a : RegName) (imm : BitVec 5) (st : Stall)
  /-- SHRI (R253). Shifts a right logically by an immediate count. -/
  | shri (d : RegName) (a : RegName) (imm : BitVec 5) (st : Stall)
  /-- SARI (R253). Shifts a right arithmetically by an immediate count. -/
  | sari (d : RegName) (a : RegName) (imm : BitVec 5) (st : Stall)
  /-- ISETLTI (R253). Writes 1 when a is signed-less than the sign-extended immediate. -/
  | isetlti (d : RegName) (a : RegName) (imm : BitVec 9) (st : Stall)
  /-- MULI (R253). Multiplies a by the sign-extended immediate. -/
  | muli (d : RegName) (a : RegName) (imm : BitVec 9) (st : Stall)
  /-- ADDPI (R253). Adds the sign-extended immediate to a 64-bit pair. -/
  | addpi (d : RegName) (a : RegName) (imm : BitVec 9) (st : Stall)
  /-- LUI (R254). Places imm16 in bits 31:16 of d. -/
  | lui (d : RegName) (imm : BitVec 16) (st : Stall)
  /-- ORLO (R254). ORs the zero-extended imm16 into d. -/
  | orlo (d : RegName) (imm : BitVec 16) (st : Stall)
  /-- MOVI (R254). Writes the sign-extended imm16 to d. -/
  | movi (d : RegName) (imm : BitVec 16) (st : Stall)
  /-- MOVS (R255). Copies a special register into d. -/
  | movs (d : RegName) (n : BitVec 16) (st : Stall)
  /-- MOVTS (R255). Writes the value of d into a special register. -/
  | movts (d : RegName) (n : BitVec 16) (st : Stall)
  /-- WINB (R230). Sets the thread's register window base. -/
  | winb (imm : BitVec 16) (st : Stall)
  /-- MOV (R257). Copies register a whole into d. -/
  | mov (d : RegName) (a : RegName) (w : Width) (st : Stall)
  /-- NOT (R257). Writes the bitwise NOT of a. -/
  | not (d : RegName) (a : RegName) (st : Stall)
  /-- INEG (R257). Writes 0 minus a. -/
  | ineg (d : RegName) (a : RegName) (st : Stall)
  /-- IABS (R257). Writes the signed absolute value of a. -/
  | iabs (d : RegName) (a : RegName) (st : Stall)
  /-- POPC (R257). Writes the number of one bits of a. -/
  | popc (d : RegName) (a : RegName) (st : Stall)
  /-- CLZ (R257). Writes the count of leading zero bits of a. -/
  | clz (d : RegName) (a : RegName) (st : Stall)
  /-- CTZ (R257). Writes the count of trailing zero bits of a. -/
  | ctz (d : RegName) (a : RegName) (st : Stall)
  /-- BREV (R257). Writes a with its bits reversed. -/
  | brev (d : RegName) (a : RegName) (st : Stall)
  /-- SEXT8 (R257). Sign-extends a[7:0]. -/
  | sext8 (d : RegName) (a : RegName) (st : Stall)
  /-- SEXT16 (R257). Sign-extends a[15:0]. -/
  | sext16 (d : RegName) (a : RegName) (st : Stall)
  /-- ZEXT8 (R257). Zero-extends a[7:0]. -/
  | zext8 (d : RegName) (a : RegName) (st : Stall)
  /-- ZEXT16 (R257). Zero-extends a[15:0]. -/
  | zext16 (d : RegName) (a : RegName) (st : Stall)
  /-- IDIV (R257). Divides the old d by a, signed, truncating. -/
  | idiv (d : RegName) (a : RegName) (st : Stall)
  /-- IDIVN (R257). Divides the old d by a, unsigned. -/
  | idivn (d : RegName) (a : RegName) (st : Stall)
  /-- IREM (R257). Writes the signed remainder of the old d by a. -/
  | irem (d : RegName) (a : RegName) (st : Stall)
  /-- IREMN (R257). Writes the unsigned remainder of the old d by a. -/
  | iremn (d : RegName) (a : RegName) (st : Stall)
  /-- CVT (R259). Converts a between numeric formats with the chosen rounding and saturation. -/
  | cvt (d : RegName) (a : RegName) (src : NumFmt) (dst : NumFmt) (sat : Bool) (rnd : Rnd) (st : Stall)
  /-- VOTEANY (R260). Strand collective writing 1 if a is non-zero in some thread of the set. -/
  | voteany (d : RegName) (a : RegName) (st : Stall)
  /-- VOTEALL (R260). Strand collective writing 1 if a is non-zero in every thread of the set. -/
  | voteall (d : RegName) (a : RegName) (st : Stall)
  /-- BALLOT (R260). Strand collective writing the mask of lanes whose a is non-zero. -/
  | ballot (d : RegName) (a : RegName) (st : Stall)
  /-- ACTIVE (R260). Strand collective writing the mask of lanes in the set. -/
  | active (d : RegName) (st : Stall)
  /-- MATCH (R260). Strand collective writing the mask of lanes whose a equals the receiver's. -/
  | matchLanes (d : RegName) (a : RegName) (st : Stall)
  /-- FIRST (R260). Strand collective writing a of the lowest lane of the set. -/
  | first (d : RegName) (a : RegName) (st : Stall)
  /-- SHFL_IDX (R261). Strand collective taking a from the lane named by b. -/
  | shflIdx (d : RegName) (a : RegName) (b : RegName) (st : Stall)
  /-- SHFL_UP (R261). Strand collective taking a from the lane b below. -/
  | shflUp (d : RegName) (a : RegName) (b : RegName) (st : Stall)
  /-- SHFL_DOWN (R261). Strand collective taking a from the lane b above. -/
  | shflDown (d : RegName) (a : RegName) (b : RegName) (st : Stall)
  /-- SHFL_XOR (R261). Strand collective taking a from the lane whose index is XORed with b. -/
  | shflXor (d : RegName) (a : RegName) (b : RegName) (st : Stall)
  /-- BRZ (R262). Branches each thread whose a is zero. -/
  | brz (a : RegName) (off : BitVec 16) (st : Stall)
  /-- BRNZ (R262). Branches each thread whose a is non-zero. -/
  | brnz (a : RegName) (off : BitVec 16) (st : Stall)
  /-- BRLTZ (R262). Branches each thread whose a is signed negative. -/
  | brltz (a : RegName) (off : BitVec 16) (st : Stall)
  /-- BRGEZ (R262). Branches each thread whose a is signed non-negative. -/
  | brgez (a : RegName) (off : BitVec 16) (st : Stall)
  /-- JMP (R263). Jumps to a PC-relative target. -/
  | jmp (off : BitVec 23) (st : Stall)
  /-- CALL (R263). Jumps to a PC-relative target and writes the link to v1. -/
  | call (off : BitVec 23) (st : Stall)
  /-- CALLI (R264). Calls the address in a register or pair and writes the link to v1. -/
  | calli (a : RegName) (pair : Bool) (st : Stall)
  /-- JMPI (R264). Jumps to the address in a register or pair. -/
  | jmpi (a : RegName) (pair : Bool) (st : Stall)
  /-- JPUSH (R137). Pushes or joins a rejoin entry for the executing threads. -/
  | jpush (off : BitVec 23) (st : Stall)
  /-- REJOIN (R137). Marks the thread arrived in its innermost entry and parks it, or pops an overflow entry. -/
  | rejoin (st : Stall)
  /-- BRKN (R137). Removes each thread from its n innermost rejoin entries. -/
  | brkn (n : BitVec 16) (st : Stall)
  /-- EXIT (R268). Ends each executing thread and removes it from every rejoin entry. -/
  | exit (st : Stall)
  /-- REFORM (R269). Files each executing thread into a bobbin once its pending results have arrived. -/
  | reform (st : Stall)
  /-- YIELD (R270). Makes each executing thread not ready for 16 issue opportunities. -/
  | yield (st : Stall)
  /-- NOP (R270). Has no effect. -/
  | nop (st : Stall)
  /-- TRAP (R271). Raises TrapInstr with the given code. -/
  | trap (code : BitVec 8) (st : Stall)
  /-- BRK (R271). Raises Breakpoint with the given code. -/
  | brk (code : BitVec 8) (st : Stall)
  /-- SVC (R272). Raises ServiceCall and parks the lanes for the resident service. -/
  | svc (code : BitVec 8) (st : Stall)
  /-- ERET_RETRY (R216). Ends a handler and issues the trapped instruction again. -/
  | eretRetry (st : Stall)
  /-- ERET_SKIP (R216). Ends a handler and continues after the trapped instruction. -/
  | eretSkip (st : Stall)
  /-- ERET_SUBST (R216). Ends a handler, writes a into the trapped instruction's destination and continues after it. -/
  | eretSubst (a : RegName) (st : Stall)
  /-- ISYNC (R274). Discards the strand's loop buffer and prefetched words. -/
  | isync (st : Stall)
  /-- ICINV (R275). Invalidates the core's instruction-cache lines over a range, optionally discarding every strand's loop buffer. -/
  | icinv (d : RegName) (a : RegName) (sync : Bool) (st : Stall)
  /-- CYCLES (R276). Writes the core's 64-bit cycle count to a pair. -/
  | cycles (d : RegName) (st : Stall)
  /-- LAUNCH (R277). Checks an octet and queues a grid into the launch queue, returning a status. -/
  | launch (d : RegName) (a : RegName) (st : Stall)
  /-- FADD (R279). Adds a and b in f32 with plies. -/
  | fadd (d : RegName) (a : RegName) (b : RegName) (w : Width) (st : Stall)
  /-- FSUB (R279). Subtracts b from a in f32 with plies. -/
  | fsub (d : RegName) (a : RegName) (b : RegName) (w : Width) (st : Stall)
  /-- FMUL (R279). Multiplies a and b in f32 with plies. -/
  | fmul (d : RegName) (a : RegName) (b : RegName) (w : Width) (st : Stall)
  /-- FFMA (R279). Computes a times b plus d with one rounding. -/
  | ffma (d : RegName) (a : RegName) (b : RegName) (w : Width) (st : Stall)
  /-- FMIN (R282). Writes the smaller of a and b under the order of R176. -/
  | fmin (d : RegName) (a : RegName) (b : RegName) (w : Width) (st : Stall)
  /-- FMAX (R282). Writes the larger of a and b under the order of R176. -/
  | fmax (d : RegName) (a : RegName) (b : RegName) (w : Width) (st : Stall)
  /-- FCMP (R284). Writes 1 when a compares to b under the f32 condition. -/
  | fcmp (d : RegName) (a : RegName) (b : RegName) (c : Cond) (st : Stall)
  /-- FCMPM (R285). Writes the comparison flag and the margin a minus b with plies. -/
  | fcmpm (d : RegName) (a : RegName) (b : RegName) (c : Cond) (st : Stall)
  /-- FDIV (R283). Divides a by b in f32 with plies. -/
  | fdiv (d : RegName) (a : RegName) (b : RegName) (w : Width) (st : Stall)
  /-- FABS (R287). Writes a with sign 0. -/
  | fabs (d : RegName) (a : RegName) (f : FunFmt) (st : Stall)
  /-- FNEG (R287). Writes a with its sign inverted. -/
  | fneg (d : RegName) (a : RegName) (f : FunFmt) (st : Stall)
  /-- FFLOOR (R287). Writes the largest integral value not above a. -/
  | ffloor (d : RegName) (a : RegName) (f : FunFmt) (st : Stall)
  /-- FCEIL (R287). Writes the smallest integral value not below a. -/
  | fceil (d : RegName) (a : RegName) (f : FunFmt) (st : Stall)
  /-- FROUND (R287). Rounds a to the nearest integral value, ties to even. -/
  | fround (d : RegName) (a : RegName) (f : FunFmt) (st : Stall)
  /-- FTRUNC (R287). Rounds a toward zero to an integral value. -/
  | ftrunc (d : RegName) (a : RegName) (f : FunFmt) (st : Stall)
  /-- FFRAC (R287). Writes a minus its floor, rounded once. -/
  | ffrac (d : RegName) (a : RegName) (f : FunFmt) (st : Stall)
  /-- FSQRT (R288). Writes the square root of a. -/
  | fsqrt (d : RegName) (a : RegName) (f : FunFmt) (st : Stall)
  /-- FRCP (R288). Writes the reciprocal of a. -/
  | frcp (d : RegName) (a : RegName) (f : FunFmt) (st : Stall)
  /-- FRSQ (R288). Writes the reciprocal square root of a. -/
  | frsq (d : RegName) (a : RegName) (f : FunFmt) (st : Stall)
  /-- FEXP2 (R288). Writes 2 to the power a. -/
  | fexp2 (d : RegName) (a : RegName) (f : FunFmt) (st : Stall)
  /-- FLOG2 (R288). Writes the base-2 logarithm of a. -/
  | flog2 (d : RegName) (a : RegName) (f : FunFmt) (st : Stall)
  /-- FEXP (R288). Writes e to the power a. -/
  | fexp (d : RegName) (a : RegName) (f : FunFmt) (st : Stall)
  /-- FLOG (R288). Writes the natural logarithm of a. -/
  | flog (d : RegName) (a : RegName) (f : FunFmt) (st : Stall)
  /-- FSINPI (R288). Writes sin of pi times a. -/
  | fsinpi (d : RegName) (a : RegName) (f : FunFmt) (st : Stall)
  /-- FCOSPI (R288). Writes cos of pi times a. -/
  | fcospi (d : RegName) (a : RegName) (f : FunFmt) (st : Stall)
  /-- FTANH (R288). Writes tanh of a. -/
  | ftanh (d : RegName) (a : RegName) (f : FunFmt) (st : Stall)
  /-- FSIGM (R288). Writes the logistic sigmoid of a. -/
  | fsigm (d : RegName) (a : RegName) (f : FunFmt) (st : Stall)
  /-- FGELU (R288). Writes GELU of a. -/
  | fgelu (d : RegName) (a : RegName) (f : FunFmt) (st : Stall)
  /-- FERF (R288). Writes the error function of a. -/
  | ferf (d : RegName) (a : RegName) (f : FunFmt) (st : Stall)
  /-- FSQRTX (R246). Retired VZA-1 form that traps RetiredOpcode and is emulated as FSQRT.v1. -/
  | fsqrtx (d : RegName) (a : RegName) (st : Stall)
  /-- FRCPX (R246). Retired VZA-1 form emulated as FRCP.v1. -/
  | frcpx (d : RegName) (a : RegName) (st : Stall)
  /-- FRSQX (R246). Retired VZA-1 form emulated as FRSQ.v1. -/
  | frsqx (d : RegName) (a : RegName) (st : Stall)
  /-- FEXP2X (R246). Retired VZA-1 form emulated as FEXP2.v1. -/
  | fexp2x (d : RegName) (a : RegName) (st : Stall)
  /-- FLOG2X (R246). Retired VZA-1 form emulated as FLOG2.v1. -/
  | flog2x (d : RegName) (a : RegName) (st : Stall)
  /-- FSINPIX (R246). Retired VZA-1 form emulated as FSINPI.v1. -/
  | fsinpix (d : RegName) (a : RegName) (st : Stall)
  /-- FCOSPIX (R246). Retired VZA-1 form emulated as FCOSPI.v1. -/
  | fcospix (d : RegName) (a : RegName) (st : Stall)
  /-- FTANHX (R246). Retired VZA-1 form emulated as FTANH.v1. -/
  | ftanhx (d : RegName) (a : RegName) (st : Stall)
  /-- PADD2 (R291). Adds packed f16 or bf16 pairs. -/
  | padd2 (d : RegName) (a : RegName) (b : RegName) (bf : Bool) (st : Stall)
  /-- PMUL2 (R291). Multiplies packed pairs. -/
  | pmul2 (d : RegName) (a : RegName) (b : RegName) (bf : Bool) (st : Stall)
  /-- PFMA2 (R291). Fused multiply-adds packed pairs into d. -/
  | pfma2 (d : RegName) (a : RegName) (b : RegName) (bf : Bool) (st : Stall)
  /-- PMAX2 (R291). Takes the larger element of packed pairs. -/
  | pmax2 (d : RegName) (a : RegName) (b : RegName) (bf : Bool) (st : Stall)
  /-- PMIN2 (R291). Takes the smaller element of packed pairs. -/
  | pmin2 (d : RegName) (a : RegName) (b : RegName) (bf : Bool) (st : Stall)
  /-- REDMAX (R292). Strand reduction giving the maximum of a over the set. -/
  | redmax (d : RegName) (a : RegName) (t : RedType) (st : Stall)
  /-- REDMIN (R292). Strand reduction giving the minimum of a over the set. -/
  | redmin (d : RegName) (a : RegName) (t : RedType) (st : Stall)
  /-- REDSUM (R292). Strand reduction giving the f32 tree sum of a. -/
  | redsum (d : RegName) (a : RegName) (st : Stall)
  /-- REDVAR (R293). Strand reduction giving mean, M2, count and variance of a. -/
  | redvar (d : RegName) (a : RegName) (st : Stall)
  /-- REDIADD (R292). Strand reduction giving the integer sum of a. -/
  | rediadd (d : RegName) (a : RegName) (t : RedType) (st : Stall)
  /-- REDAND (R292). Strand reduction giving the bitwise AND of a. -/
  | redand (d : RegName) (a : RegName) (t : RedType) (st : Stall)
  /-- REDOR (R292). Strand reduction giving the bitwise OR of a. -/
  | redor (d : RegName) (a : RegName) (t : RedType) (st : Stall)
  /-- REDXOR (R292). Strand reduction giving the bitwise XOR of a. -/
  | redxor (d : RegName) (a : RegName) (t : RedType) (st : Stall)
  /-- PLYGET (R295). Writes partial k of a as a value. -/
  | plyget (d : RegName) (a : RegName) (k : BitVec 4) (st : Stall)
  /-- PLYSET (R295). Sets partial k of d to the value of a. -/
  | plyset (d : RegName) (a : RegName) (k : BitVec 4) (st : Stall)
  /-- PLYZERO (R295). Sets partial k of d to +0. -/
  | plyzero (d : RegName) (k : BitVec 4) (st : Stall)
  /-- PLYLOSE (R295). Sets the ply state of d to LOST. -/
  | plylose (d : RegName) (st : Stall)
  /-- PLYTAG (R295). Writes the tag of a as an integer. -/
  | plytag (d : RegName) (a : RegName) (st : Stall)
  /-- PLYCLRK (R295). Clears the KINK bit of d. -/
  | plyclrk (d : RegName) (st : Stall)
  /-- DREV (R296). Re-evaluates a for the given deltas using its plies. -/
  | drev (d : RegName) (a : RegName) (b : RegName) (w : Width) (st : Stall)
  /-- DFLIP (R296). Writes 1 when the deltas would flip the sign of a. -/
  | dflip (d : RegName) (a : RegName) (b : RegName) (w : Width) (st : Stall)
  /-- LDB (R297). Loads a byte, zero-extended. -/
  | ldb (d : RegName) (a : RegName) (imm : BitVec 7) (st : Stall)
  /-- LDBS (R297). Loads a byte, sign-extended. -/
  | ldbs (d : RegName) (a : RegName) (imm : BitVec 7) (st : Stall)
  /-- LDH (R297). Loads a half-word, zero-extended. -/
  | ldh (d : RegName) (a : RegName) (imm : BitVec 7) (st : Stall)
  /-- LDHS (R297). Loads a half-word, sign-extended. -/
  | ldhs (d : RegName) (a : RegName) (imm : BitVec 7) (st : Stall)
  /-- LDW (R297). Loads k consecutive words. -/
  | ldw (d : RegName) (a : RegName) (imm : BitVec 7) (w : Width) (st : Stall)
  /-- STB (R297). Stores a byte into the store queue. -/
  | stb (d : RegName) (a : RegName) (imm : BitVec 7) (st : Stall)
  /-- STH (R297). Stores a half-word into the store queue. -/
  | sth (d : RegName) (a : RegName) (imm : BitVec 7) (st : Stall)
  /-- STW (R297). Stores k consecutive words into the store queue. -/
  | stw (d : RegName) (a : RegName) (imm : BitVec 7) (w : Width) (st : Stall)
  /-- LDT (R299). Loads a tangent frame into a register with its plies. -/
  | ldt (d : RegName) (a : RegName) (imm : BitVec 7) (f : FrameFmt) (st : Stall)
  /-- STT (R299). Stores a register with its plies as a tangent frame. -/
  | stt (d : RegName) (a : RegName) (imm : BitVec 7) (f : FrameFmt) (st : Stall)
  /-- LDFE (R300). Loads from the own window once every covered granule is full. -/
  | ldfe (d : RegName) (a : RegName) (imm : BitVec 7) (w : Width) (st : Stall)
  /-- LDFEC (R300). Loads once every covered granule is full and sets them empty. -/
  | ldfec (d : RegName) (a : RegName) (imm : BitVec 7) (w : Width) (st : Stall)
  /-- STFE (R300). Stores to the own window and sets the covered granules full. -/
  | stfe (d : RegName) (a : RegName) (imm : BitVec 7) (w : Width) (st : Stall)
  /-- LDA (R301). Acquire load at the given scope. -/
  | lda (d : RegName) (a : RegName) (sc : Scope) (pair : Bool) (st : Stall)
  /-- STL (R301). Release store at the given scope. -/
  | stl (d : RegName) (a : RegName) (sc : Scope) (pair : Bool) (st : Stall)
  /-- FENCE_ACQ (R302). Acquire fence at the given scope. -/
  | fenceAcq (sc : Scope) (st : Stall)
  /-- FENCE_REL (R302). Release fence at the given scope. -/
  | fenceRel (sc : Scope) (st : Stall)
  /-- FENCE_ACQREL (R302). Acquire-release fence at the given scope. -/
  | fenceAcqrel (sc : Scope) (st : Stall)
  /-- FENCE_SC (R302). Sequentially consistent fence at the given scope. -/
  | fenceSc (sc : Scope) (st : Stall)
  /-- FENCE_IFETCH (R302). Release fence that also invalidates instruction caches within its scope. -/
  | fenceIfetch (sc : Scope) (st : Stall)
  /-- FENCE_TABLE (R302). Orders later binding-table lookups after earlier writes. -/
  | fenceTable (sc : Scope) (st : Stall)
  /-- ATOMC (R304). Atomic read-modify-write at core scope in the own window. -/
  | atomc (d : RegName) (a : RegName) (k : AtomKind) (w : Width) (st : Stall)
  /-- ATOMQ (R304). Atomic read-modify-write at quad scope. -/
  | atomq (d : RegName) (a : RegName) (k : AtomKind) (w : Width) (st : Stall)
  /-- ATOMD (R304). Atomic read-modify-write at die scope. -/
  | atomd (d : RegName) (a : RegName) (k : AtomKind) (w : Width) (st : Stall)
  /-- ATOMP (R304). Atomic read-modify-write at package scope. -/
  | atomp (d : RegName) (a : RegName) (k : AtomKind) (w : Width) (st : Stall)
  /-- ATOMX (R304). Atomic read-modify-write at pod or sys scope through a fabric port. -/
  | atomx (d : RegName) (a : RegName) (k : AtomKind) (sys : Bool) (st : Stall)
  /-- SPL (R305). Saves a whole register into a spill slot. -/
  | spl (a : RegName) (imm : BitVec 9) (st : Stall)
  /-- FIL (R305). Restores a whole register from a spill slot. -/
  | fil (d : RegName) (imm : BitVec 9) (st : Stall)
  /-- QACQ (R307). Waits for a free spindle slot and acquires it. -/
  | qacq (quad : Bool) (imm : BitVec 9) (st : Stall)
  /-- QFILL (R307). Fills a spindle slot with the lowest lane's token. -/
  | qfill (d : RegName) (quad : Bool) (imm : BitVec 9) (st : Stall)
  /-- QTAKE (R307). Waits for a token in the spindle FIFO and pops it. -/
  | qtake (d : RegName) (quad : Bool) (imm : BitVec 9) (st : Stall)
  /-- QDONE (R307). Returns a taken spindle slot to free. -/
  | qdone (quad : Bool) (imm : BitVec 9) (st : Stall)
  /-- QTRY (R307). Pops a spindle token if one is present, without waiting. -/
  | qtry (d : RegName) (quad : Bool) (imm : BitVec 9) (st : Stall)
  /-- BARARR (R310). Arrives at a barrier phase and returns the participant count. -/
  | bararr (d : RegName) (l : BarLevel) (imm : BitVec 9) (st : Stall)
  /-- BARWAIT (R310). Waits until the thread's last arrived barrier phase completes. -/
  | barwait (l : BarLevel) (imm : BitVec 9) (st : Stall)
  /-- BAR (R310). Arrives at a barrier and waits for the phase to complete. -/
  | bar (d : RegName) (l : BarLevel) (imm : BitVec 9) (st : Stall)
  /-- QFENCE (R311). Enters a join entry into every engine queue of its mask. -/
  | qfence (mask : BitVec 9) (st : Stall)
  /-- BCOPY (R312). Queues one copy or fill command from an octet. -/
  | bcopy (a : RegName) (st : Stall)
  /-- STREAM (R314). Binds a stream context that fills an operand queue. -/
  | stream (a : RegName) (st : Stall)
  /-- QLD (R315). Strand collective popping stream elements into the threads of the set. -/
  | qld (d : RegName) (q : BitVec 3) (w : Width) (st : Stall)
  /-- COLL (R316). Queues an all-reduce command among matched participants. -/
  | coll (a : RegName) (st : Stall)
  /-- MSIGN_BIND (R319). Binds the thread to a convergence register with a binding word. -/
  | msignBind (d : RegName) (a : RegName) (st : Stall)
  /-- MSIGN_RELEASE (R319). Releases the thread's convergence-register binding. -/
  | msignRelease (d : RegName) (st : Stall)
  /-- MMA (R320). Signs a matrix multiply-accumulate round; the completing signature queues it. -/
  | mma (d : RegName) (a : RegName) (b : RegName) (st : Stall)
  /-- MDRAIN (R320). Signs an accumulator drain round; the completing signature queues it. -/
  | mdrain (d : RegName) (a : RegName) (b : RegName) (st : Stall)
  /-- MZERO (R329). Signs a round that clears the accumulator. -/
  | mzero (st : Stall)
  /-- MLOADC (R329). Signs a round that loads the accumulator from an image. -/
  | mloadc (a : RegName) (st : Stall)
  /-- MHIST (R329). Queues a write of a histogram slot's counters to memory. -/
  | mhist (d : RegName) (a : RegName) (st : Stall)
  /-- MHCLR (R329). Queues a clear of a histogram slot. -/
  | mhclr (d : RegName) (st : Stall)
  /-- MWAIT (R330). Queues a token deposit behind the earlier matrix commands. -/
  | mwait (d : RegName) (st : Stall)
  /-- TEX (R338). Samples a filtered texture, optionally with ply derivatives. -/
  | tex (d : RegName) (a : RegName) (ply : Bool) (half : Bool) (st : Stall)
  /-- TEXF (R340). Fetches one unfiltered texel. -/
  | texf (d : RegName) (a : RegName) (half : Bool) (st : Stall)
  /-- LINS (R341). Sends one layer insertion per lane to the layer unit. -/
  | lins (d : RegName) (a : RegName) (st : Stall)
  /-- LRES (R343). Reads layer k of a pixel of a multi-layer target. -/
  | lres (d : RegName) (a : RegName) (st : Stall)
  /-- LCNT (R343). Reads a pixel's layer count and the target's MOI and DROP bits. -/
  | lcnt (d : RegName) (a : RegName) (st : Stall)
  /-- LCLR (R344). Queues a clear of a multi-layer target into the draw queue. -/
  | lclr (a : RegName) (st : Stall)
  /-- ZTEST (R347). Depth-tests a fragment's samples and optionally writes depth. -/
  | ztest (d : RegName) (a : RegName) (st : Stall)
  /-- OMERGE (R347). Writes a fragment's colour to masked samples under the colour mode. -/
  | omerge (a : RegName) (st : Stall)
  /-- VEMIT (R346). Emits a vertex of a draw's vertex grid. -/
  | vemit (d : RegName) (a : RegName) (st : Stall)
  /-- PEMIT (R346). Emits a primitive of three vertex indices to the binner. -/
  | pemit (a : RegName) (st : Stall)
  /-- DRAW (R345). Checks a draw octet and queues a draw into the draw queue. -/
  | draw (d : RegName) (a : RegName) (st : Stall)
  /-- LCOMP (R343). Composites every layer of a pixel front to back. -/
  | lcomp (d : RegName) (a : RegName) (st : Stall)
  /-- TRVBOX (R349). Tests a ray against the four children of a box node. -/
  | trvbox (d : RegName) (a : RegName) (st : Stall)
  /-- TRVTRI (R350). Tests a ray against one triangle. -/
  | trvtri (d : RegName) (a : RegName) (st : Stall)
  /-- TRVOMM (R351). Reads the opacity micro-map state of a hit. -/
  | trvomm (d : RegName) (a : RegName) (st : Stall)
  /-- TRVPUSH (R352). Pushes a node offset onto the traversal stack. -/
  | trvpush (a : RegName) (st : Stall)
  /-- TRVPOP (R352). Pops a node offset from the traversal stack. -/
  | trvpop (d : RegName) (st : Stall)
  /-- TRVSTEP (R353). Advances traversal by one box node through a binding-table entry. -/
  | trvstep (d : RegName) (a : RegName) (st : Stall)
  /-- LDWV (R246). Retired VZA-1 load that traps RetiredOpcode and is emulated as LDW. -/
  | ldwv (d : RegName) (a : RegName) (imm : BitVec 7) (w : Width) (st : Stall)
  /-- STWV (R246). Retired VZA-1 store that traps RetiredOpcode and is emulated as STW. -/
  | stwv (d : RegName) (a : RegName) (imm : BitVec 7) (w : Width) (st : Stall)
  /-- WALK_MIG_REREAD (R38). Re-reads a migrating table entry until MIG is clear. -/
  | walkMigReread (blk tid : Nat)
  /-- VARIABLE_RESULT_ARRIVE (R225). A variable-latency result arrives in its register and readies waiting threads. -/
  | variableResultArrive (blk tid reg : Nat)
  /-- STORE_QUEUE_DRAIN (R104). A queued store is performed at its home slice or bank. -/
  | storeQueueDrain (blk strand : Nat)
  /-- ATOMIC_RMW_PERFORM (R67). An atomic is performed as one read-modify-write at its agent. -/
  | atomicRmwPerform (blk tid : Nat)
  /-- HANG_TIMEOUT (R147). A parked thread's hang counter reaches 2^HANG and raises Hang 0x01. -/
  | hangTimeout (blk tid : Nat)
  /-- STARVATION_TIMEOUT (R147). A ready thread's starvation timer reaches 2^STARVE and raises Hang 0x02. -/
  | starvationTimeout (blk tid : Nat)
  /-- YIELD_EXPIRY (R270). A yielding thread becomes ready again after 16 issue opportunities. -/
  | yieldExpiry (blk tid : Nat)
  /-- BOBBIN_DRAW (R142). Draws threads from a bobbin into a new strand on count or age. -/
  | bobbinDraw (core bob : Nat)
  /-- DEAL (R157). Places a ready block, or a whole C grid, on cores with room. -/
  | deal (part : Nat)
  /-- BLOCK_END (R268). Ends a block when its last thread has exited and its commands have deposited tokens. -/
  | blockEnd (blk : Nat)
  /-- BLOCK_SAVE (R79). Stops a block's strands and engine commands and writes its context to a frame. -/
  | blockSave (blk : Nat)
  /-- BLOCK_RESTORE (R81). Restores a saved block onto a core and rebuilds its extents. -/
  | blockRestore (blk : Nat)
  /-- MIGRATION (R75). The page-fault duty migrates a 64 KiB unit between tiers. -/
  | migration (part : Nat) (va : Addr) (toNear : Bool)
  /-- SHOOTDOWN (R88). A core receives a shootdown and invalidates translations over a range. -/
  | shootdown (core part : Nat) (va : Addr) (len : Nat) (exec : Bool)
  /-- SHOOTDOWN_ACK (R88). A core acknowledges once every resident strand has passed a boundary. -/
  | shootdownAck (core : Nat)
  /-- DIRTY_LOG_DRAIN (R86). The service copies dirty-log entries to the host buffer and advances TAIL. -/
  | dirtyLogDrain (part : Nat)
  /-- PATROL_SCRUB (R70). A near slice scrubs one storage row every 8 slice cycles. -/
  | patrolScrub (slice row : Nat)
  /-- RETENTION_ENTRY (R71). Re-encodes a near slice to DEC-TED for retention. -/
  | retentionEntry (slice : Nat)
  /-- RETENTION_EXIT (R71). Decodes a slice from retention back to SECDED. -/
  | retentionExit (slice : Nat) (triple : List Nat)
  /-- POISON_CLEAR (R370). Zeroes a freed poisoned page and clears its poison bit. -/
  | poisonClear (part page : Nat)
  /-- ENGINE_COMMAND_START (R313). A queued engine command reaches its engine and is checked. -/
  | engineCommandStart (core q : Nat)
  /-- ENGINE_CHUNK (R313). An engine translates and moves one 4 KiB chunk of a command. -/
  | engineChunk (core q : Nat) (granules : List Nat)
  /-- TOKEN_DEPOSIT (R110). Deposits a command's token into its spindle once its writes are performed. -/
  | tokenDeposit (core q : Nat)
  /-- STREAM_ELEMENT (R314). The affine engine reads one element and appends it to an operand queue. -/
  | streamElement (core blk strand q : Nat)
  /-- COLL_COMBINE (R316). Matched participants' data is combined and written to each destination. -/
  | collCombine (core : Nat) (remote : List CollShare)
  /-- COLL_PEER_TIMEOUT (R316). A COLL unmatched within 2^24 cycles ends with PeerUnreachable. -/
  | collPeerTimeout (core : Nat)
  /-- LAUNCH_QUEUE_ADVANCE (R154). The launch engine moves a queued grid into its dispatch queue. -/
  | launchQueueAdvance (core : Nat)
  /-- DRAW_QUEUE_ADVANCE (R345). A queued draw moves into its dispatch queue. -/
  | drawQueueAdvance (core : Nat)
  /-- QUEUE_REFILL (R155). The overflow engine refills a queue from the spill ring in order. -/
  | queueRefill (ofPart : Bool) (idx q : Nat)
  /-- QUEUE_QUOTA_RESTORE (R156). Restores a block saved by QueueQuota when the spill ring has room. -/
  | queueQuotaRestore (blk : Nat)
  /-- REPLAY_NODE_READY (R149). A graph node whose predecessors have completed is performed by the replay engine. -/
  | replayNodeReady (part rep node : Nat)
  /-- REPLAY_NODE_COMPLETE (R149). A replay node completes with the status its token would carry. -/
  | replayNodeComplete (part rep node : Nat)
  /-- COMPLETION_RECORD (R153). Writes a replay's completion record to DONE after its last node. -/
  | completionRecord (part rep : Nat)
  /-- MMA_ARRAY (R323). The matrix array performs a queued MMA into the accumulator. -/
  | mmaArray (core : Nat)
  /-- MDRAIN_ARRAY (R328). The matrix array drains an accumulator to block memory. -/
  | mdrainArray (core : Nat)
  /-- MZERO_EXEC (R329). The array clears the accumulator. -/
  | mzeroExec (core : Nat)
  /-- MLOADC_EXEC (R329). The array loads the accumulator from an image. -/
  | mloadcExec (core : Nat)
  /-- MHIST_EXEC (R329). Writes a histogram slot's counters to memory. -/
  | mhistExec (core : Nat)
  /-- MHCLR_EXEC (R329). Clears a histogram slot's counters. -/
  | mhclrExec (core : Nat)
  /-- MWAIT_DEPOSIT (R330). Deposits the MWAIT token when earlier matrix commands have completed. -/
  | mwaitDeposit (core : Nat)
  /-- MC_JOIN_TIMEOUT (R325). A multicast MMA stops waiting for partners after 128 cycles. -/
  | mcJoinTimeout (core : Nat)
  /-- MSIGN_RELEASE_COMPLETE (R319). A waiting release lowers the bound count once no open round holds its signature. -/
  | msignReleaseComplete (blk tid : Nat)
  /-- RASTERISE_TILE (R199). The rasteriser processes a screen tile's bin and launches fragment strands. -/
  | rasteriseTile (draw tile : Nat)
  /-- LAYER_INSERT (R204). The layer unit applies a parked insertion in primitive order. -/
  | layerInsert (blk tid : Nat)
  /-- LAYER_POOL_GROW (R206). The growth duty adds pool pages or sets MOI after LayerPoolExhausted. -/
  | layerPoolGrow (part : Nat) (target : Addr)
  /-- LCLR_EXEC (R344). Clears a target's heads, free list and status in chunks and deposits a token. -/
  | lclrExec (core : Nat)
  /-- SEAL (R368). Compares the two copies' signatures and releases or discards quarantined writes. -/
  | seal (blk tid : Nat)
  /-- SERVICE_CALL_PERFORM (R272). The resident service performs a service call and resumes the lanes. -/
  | serviceCallPerform (blk tid : Nat)
  /-- RETIRED_EMULATION (R246). The emulation duty performs a retired instruction and resumes the lanes. -/
  | retiredEmulation (blk tid : Nat)
  /-- PREEMPT_REQUEST (R161). Pre-empts a set of cores after the draw grace and saves their blocks. -/
  | preemptRequest (part : Nat) (cores : List Nat)
  /-- DRAW_GRACE_EXPIRY (R161). The draw grace of a pre-emption request runs out. -/
  | drawGraceExpiry (core : Nat)
  /-- KICK (R152). A 64-bit host write starts a replay of an uploaded graph, applying its patch table. -/
  | kick (part : Nat) (value : Addr)
  /-- RESUME (R373). A host write of GO resumes an exited partition. -/
  | resume (part : Nat)
  /-- HOSTACK_CONTINUE (R395). The hypervisor answers a waiting event with CONTINUE. -/
  | hostackContinue (part evseq : Nat)
  /-- HOSTACK_POOLGROW (R395). The hypervisor adds layer-pool pages from the reserve. -/
  | hostackPoolgrow (part evseq count : Nat)
  /-- HOSTACK_POOLMERGE (R395). The hypervisor sets merge-on-insert for a layer target. -/
  | hostackPoolmerge (part evseq : Nat)
  /-- CONTROL_WINDOW_WRITE (R373). Host write to a partition control register with no behaviour of its own. -/
  | controlWindowWrite (part offset : Nat) (value : Addr)
  /-- GRAPH_UPLOAD (R151). Validates and uploads a graph object and returns a handle. -/
  | graphUpload (part : Nat) (image : List Byte)
  /-- CODE_OBJECT_LOAD (R360). Verifies, loads and links a code object and its dependencies. -/
  | codeObjectLoad (part : Nat) (hash : List Byte) (delivered : List (List Byte))
  /-- CODE_OBJECT_UNLOAD (R361). Withdraws a load handle and frees the object when its count reaches 0. -/
  | codeObjectUnload (part handle : Nat)
  /-- TARGET_CREATE (R202). The resident service creates a multi-layer target and chains its free list. -/
  | targetCreate (part : Nat) (va : Addr) (desc : List Byte)
  /-- KEY_REGISTER (R359). The host registers signature keys for a partition. -/
  | keyRegister (part : Nat) (key : List Byte) (required : Bool)
  /-- HOST_REPAIR_REQUEST (R395). The hypervisor asks the service to migrate, repair a table or supply content. -/
  | hostRepairRequest (part : Nat) (repair : Repair)
  /-- FIRMWARE_IMAGE (R375). The mailbox accepts a new firmware image after a failed verification. -/
  | firmwareImage (image : List Byte)
  /-- POWER_UP (R375). Boots the service cores, verifies firmware and enables the functions. -/
  | powerUp (firmware : List Byte)
  /-- OWNERSHIP_CLAIM (R376). A source claims management ownership. -/
  | ownershipClaim (source : Nat)
  /-- OWNERSHIP_HANDOVER (R376). The owner names a successor for ownership. -/
  | ownershipHandover (source successor : Nat)
  /-- HANDOVER_ACCEPT (R376). The named successor accepts and takes ownership. -/
  | handoverAccept (source : Nat)
  /-- LINK_LOSS (R376). A host-link reset or port link loss releases ownership held through it. -/
  | linkLoss (source : Nat)
  /-- PORT_FAILURE (R374). A failed fabric port is dropped from spraying. -/
  | portFailure (port : Nat)
  /-- REMOTE_WINDOW_ACCESS (R43). A package performs or refuses a window access arriving over the fabric. -/
  | remoteWindowAccess (package part pa size : Nat) (op : RemoteOp)
  /-- THERMAL_STOP (R378). On coolant loss or overheating, pre-empts every partition and removes power. -/
  | thermalStop
  /-- FIXED_LATENCY_RESULT (R225). The result of a class-A or class-B instruction arrives in its register L cycles after issue, or is discarded if a later write has already stood. -/
  | fixedLatencyResult (blk tid reg : Nat)
  /-- WITHHELD_CYCLE (R378). The power governor withholds a whole core cycle from issue, so no issue-opportunity count advances while the cycle counter still does. -/
  | withheldCycle (core : Nat)
  /-- WORD_NOT_INSTRUCTION (R244). A thread issues a word with major 0x00 or 0x7F, or an unassigned minor or reserved field, and takes IllegalInstruction or ReservedEncoding. -/
  | wordNotInstruction (word : Word)
  /-- INSTRUCTION_FETCH_FAULT (R244). A thread's fetch at its PC faults (address beyond 2^48, no execute permission, far-resident, unmapped) and the fault is delivered before any decoding. -/
  | instructionFetchFault (cause sub : Nat)
  deriving DecidableEq, Repr

end Sys2Proof
end

