-- ==== Sys2Proof/Machine/Num.lean ====
section
/-! DEFINITION. The number formats, exact arithmetic on their values, and the one rounding (R164 to R174).
Values are exact: a sign, a natural number and a power of two. Nothing is rounded but by `Fmt.round`. -/

namespace Sys2Proof.Machine

/-- A floating format: exponent bits, mantissa bits, and whether it has infinities (R164). The bias is 2^(eb-1) - 1. -/
structure Fmt where
  eb : Nat
  mb : Nat
  hasInf : Bool
  deriving DecidableEq, Repr

def Fmt.f32 : Fmt := ⟨8, 23, true⟩
def Fmt.f16 : Fmt := ⟨5, 10, true⟩
def Fmt.bf16 : Fmt := ⟨8, 7, true⟩
def Fmt.e4m3 : Fmt := ⟨4, 3, false⟩
def Fmt.e5m2 : Fmt := ⟨5, 2, true⟩

/-- The exponent bias. -/
def Fmt.bias (f : Fmt) : Int := 2 ^ (f.eb - 1) - 1

/-- The exponent of the least bit of a subnormal: min subnormal is 2^quantum. -/
def Fmt.quantum (f : Fmt) : Int := 1 - f.bias - f.mb

/-- The pattern of the largest finite magnitude Emax (R164). -/
def Fmt.maxBits (f : Fmt) : Nat :=
  if f.hasInf then (2 ^ f.eb - 1) * 2 ^ f.mb - 1 else 2 ^ (f.eb + f.mb) - 2

/-- The canonical NaN, with sign 0 (R164, R166). -/
def Fmt.nan (f : Fmt) : Nat :=
  if f.hasInf then (2 ^ f.eb - 1) * 2 ^ f.mb + 2 ^ (f.mb - 1) else 2 ^ (f.eb + f.mb) - 1

/-- The sign bit's weight. -/
def Fmt.signBit (f : Fmt) : Nat := 2 ^ (f.eb + f.mb)

/-- The infinity of a sign. -/
def Fmt.inf (f : Fmt) (neg : Bool) : Nat := (if neg then f.signBit else 0) + (2 ^ f.eb - 1) * 2 ^ f.mb

/-- The zero of a sign. -/
def Fmt.zero (f : Fmt) (neg : Bool) : Nat := if neg then f.signBit else 0

/-- Emax of a sign. -/
def Fmt.maxFin (f : Fmt) (neg : Bool) : Nat := (if neg then f.signBit else 0) + f.maxBits

/-- An exact extended value: a NaN (signalling or quiet, R166), an infinity, or ±m × 2^e with a signed zero at m = 0. -/
inductive Val where
  | nan (sig : Bool)
  | inf (neg : Bool)
  | fin (neg : Bool) (m : Nat) (e : Int)
  deriving DecidableEq, Repr

/-- Read a bit pattern of a format; higher bits are ignored (R167, R165). -/
def Fmt.val (f : Fmt) (bits : Nat) : Val :=
  let b := bits % 2 ^ (f.eb + f.mb + 1)
  let neg := b / f.signBit == 1
  let ex := b / 2 ^ f.mb % 2 ^ f.eb
  let man := b % 2 ^ f.mb
  if f.hasInf && ex == 2 ^ f.eb - 1 then
    if man == 0 then .inf neg else .nan (man / 2 ^ (f.mb - 1) == 0)
  else if !f.hasInf && ex == 2 ^ f.eb - 1 && man == 2 ^ f.mb - 1 then .nan false
  else if ex == 0 then .fin neg man f.quantum
  else .fin neg (2 ^ f.mb + man) (f.quantum + (ex : Int) - 1)

def Val.isNan : Val → Bool
  | .nan _ => true
  | _ => false

def Val.isSig : Val → Bool
  | .nan s => s
  | _ => false

def Val.isInf : Val → Bool
  | .inf _ => true
  | _ => false

def Val.isZero : Val → Bool
  | .fin _ m _ => m == 0
  | _ => false

def Val.sign : Val → Bool
  | .nan _ => false
  | .inf n => n
  | .fin n _ _ => n

def Val.neg : Val → Val
  | .nan s => .nan s
  | .inf n => .inf (!n)
  | .fin n m e => .fin (!n) m e

def Val.abs : Val → Val
  | .nan s => .nan s
  | .inf _ => .inf false
  | .fin _ m e => .fin false m e

/-- The positive zero. -/
def Val.zero : Val := .fin false 0 0

/-- The value 1. -/
def Val.one : Val := .fin false 1 0

/-- A signed integer as an exact value. -/
def Val.ofInt (i : Int) (e : Int) : Val := .fin (i < 0) i.natAbs e

/-- The signed numerator of a finite value on the scale 2^e, for e no larger than its own exponent. -/
def Val.scaled (neg : Bool) (m : Nat) (ev e : Int) : Int :=
  let v : Int := m * 2 ^ (ev - e).toNat
  if neg then -v else v

/-- The exact product; ∞ × 0 is a NaN (R280). -/
def Val.mul : Val → Val → Val
  | .nan s, .nan t => .nan (s || t)
  | .nan s, _ => .nan s
  | _, .nan s => .nan s
  | .inf n, .inf k => .inf (n != k)
  | .inf n, .fin k m _ => if m == 0 then .nan false else .inf (n != k)
  | .fin k m _, .inf n => if m == 0 then .nan false else .inf (n != k)
  | .fin n m e, .fin k m' e' => .fin (n != k) (m * m') (e + e')

/-- The exact sum under a mode: opposite infinities are a NaN, and an exact zero sum of operands of opposite sign is +0,
or −0 toward −∞ (R170, R280). -/
def Val.addIn (down : Bool) : Val → Val → Val
  | .nan s, .nan t => .nan (s || t)
  | .nan s, _ => .nan s
  | _, .nan s => .nan s
  | .inf n, .inf k => if n == k then .inf n else .nan false
  | .inf n, _ => .inf n
  | _, .inf n => .inf n
  | .fin n m e, .fin k m' e' =>
    let q := min e e'
    let s := Val.scaled n m e q + Val.scaled k m' e' q
    if s == 0 then .fin (if n == k then n else down) 0 q else .fin (s < 0) s.natAbs q

/-- The exact sum, rounding to nearest being the mode. -/
def Val.add (a b : Val) : Val := Val.addIn false a b

/-- The exact difference. -/
def Val.sub (a b : Val) : Val := a.add b.neg

/-- Exact comparison of two values that are not NaNs: is a below b? (−0 equals +0.) -/
def Val.lt : Val → Val → Bool
  | .nan _, _ => false
  | _, .nan _ => false
  | .inf n, .inf k => n && !k
  | .inf n, _ => n
  | _, .inf k => !k
  | .fin n m e, .fin k m' e' =>
    let q := min e e'
    Val.scaled n m e q < Val.scaled k m' e' q

/-- Exact equality of two values that are not NaNs (−0 equals +0). -/
def Val.eqv (a b : Val) : Bool := !a.isNan && !b.isNan && !a.lt b && !b.lt a

/-- The exception flags in the bit positions of %fpflags (R171). -/
abbrev Flags := BitVec 5

def Flags.none : Flags := 0#5
def Flags.nv : Flags := 1#5
def Flags.dz : Flags := 2#5
def Flags.of : Flags := 4#5
def Flags.uf : Flags := 8#5
def Flags.nx : Flags := 16#5

/-- The floor of log2 (n / d) for positive n and d. -/
def log2Rat (n d : Nat) : Int :=
  let k : Int := (Nat.log2 n : Int) - Nat.log2 d
  if k ≥ 0 then (if n < d * 2 ^ k.toNat then k - 1 else k) else (if n * 2 ^ (-k).toNat < d then k - 1 else k)

/-- Does a mode round a magnitude away from zero, given the sign, the kept low bit and the remainder against d? -/
def roundsUp (mode : Rnd) (neg : Bool) (odd : Bool) (rem d : Nat) : Bool :=
  match mode with
  | .rne => 2 * rem > d || (2 * rem == d && odd)
  | .rz => false
  | .rdn => neg && rem != 0
  | .rup => !neg && rem != 0

/-- (n / d) × 2^e rounded to a multiple of 2^q: the multiple, and whether it is inexact. -/
def roundAt (mode : Rnd) (neg : Bool) (n d : Nat) (e q : Int) : Nat × Bool :=
  let num := n * 2 ^ (e - q).toNat
  let den := d * 2 ^ (q - e).toNat
  let quo := num / den
  let rem := num % den
  (if roundsUp mode neg (quo % 2 == 1) rem den then quo + 1 else quo, rem != 0)

/-- What stands for a magnitude beyond Emax (R173). -/
def Fmt.overflow (f : Fmt) (mode : Rnd) (sat neg : Bool) : Nat :=
  let toMax := match mode with
    | .rne => false
    | .rz => true
    | .rdn => !neg
    | .rup => neg
  if sat || toMax then f.maxFin neg else if f.hasInf then f.inf neg else f.nan

/-- Round the positive value (n / d) × 2^e, n ≠ 0, with its sign (R170, R173): the pattern and the flags. The exponent is
first unbounded; tininess is detected after rounding; a tiny value is rounded once, to the subnormal quantum. -/
def Fmt.roundRat (f : Fmt) (mode : Rnd) (sat neg : Bool) (n d : Nat) (e : Int) : Nat × Flags :=
  let k := log2Rat n d + e
  let q := k - f.mb
  let (r, inx) := roundAt mode neg n d e q
  let k' := if r == 2 ^ (f.mb + 1) then k + 1 else k
  let s := if neg then f.signBit else 0
  if k' < 1 - f.bias then
    let (r', inx') := roundAt mode neg n d e f.quantum
    (s + r', if inx' then Flags.uf ||| Flags.nx else Flags.none)
  else
    let r1 := if r == 2 ^ (f.mb + 1) then 2 ^ f.mb else r
    let bits := (k' + f.bias).toNat * 2 ^ f.mb + (r1 - 2 ^ f.mb)
    if bits > f.maxBits then (f.overflow mode sat neg, Flags.of ||| Flags.nx)
    else (s + bits, if inx then Flags.nx else Flags.none)

/-- Round an exact value into a format. A NaN gives the canonical NaN and no flag; an infinity gives what R173 says of an
infinite input, without a flag (an e4m3 destination is the caller's to flag). -/
def Fmt.round (f : Fmt) (mode : Rnd) (sat : Bool) : Val → Nat × Flags
  | .nan _ => (f.nan, Flags.none)
  | .inf n => (if sat then f.maxFin n else if f.hasInf then f.inf n else f.nan, Flags.none)
  | .fin n m e => if m == 0 then (f.zero n, Flags.none) else f.roundRat mode sat n m 1 e

/-- RNE into a format, the value alone. -/
def Fmt.rne (f : Fmt) (v : Val) : Nat := (f.round .rne false v).1

/-- RNE into f32 (R170). -/
def rne32 (v : Val) : Word := Word.ofNat (Fmt.f32.rne v)

/-- The exact value of an f32 register word. -/
def f32v (w : Word) : Val := Fmt.f32.val w.toNat

/-- RNE(a / b) of two values, and the flags of R283: invalid, division by zero, range and inexact. -/
def Fmt.div (f : Fmt) (a b : Val) : Nat × Flags :=
  match a, b with
  | .nan s, .nan t => (f.nan, if s || t then Flags.nv else Flags.none)
  | .nan s, _ => (f.nan, if s then Flags.nv else Flags.none)
  | _, .nan s => (f.nan, if s then Flags.nv else Flags.none)
  | .inf _, .inf _ => (f.nan, Flags.nv)
  | .inf n, .fin k _ _ => (f.inf (n != k), Flags.none)
  | .fin n _ _, .inf k => (f.zero (n != k), Flags.none)
  | .fin n m e, .fin k m' e' =>
    if m' == 0 then (if m == 0 then (f.nan, Flags.nv) else (f.inf (n != k), Flags.dz))
    else if m == 0 then (f.zero (n != k), Flags.none)
    else f.roundRat .rne false (n != k) m m' (e - e')

/-- The flags of an operation whose operands are `xs` and whose exact result is `r`, rounded with flags `fl`: NV for a
signalling NaN, or for a NaN result from operands that are no NaNs (R280). -/
def opFlags (xs : List Val) (r : Val) (fl : Flags) : Flags :=
  if xs.any Val.isSig then Flags.nv
  else if r.isNan && !xs.any Val.isNan then Flags.nv
  else if r.isNan then Flags.none else fl

/-- One addition, in a format (R279, R280, R291). -/
def Fmt.addOp (f : Fmt) (x y : Nat) : Nat × Flags :=
  let a := f.val x
  let b := f.val y
  let r := f.round .rne false (a.add b)
  (r.1, opFlags [a, b] (a.add b) r.2)

/-- One subtraction (R279, R280). -/
def Fmt.subOp (f : Fmt) (x y : Nat) : Nat × Flags :=
  let a := f.val x
  let b := f.val y
  let r := f.round .rne false (a.sub b)
  (r.1, opFlags [a, b] (a.sub b) r.2)

/-- One multiplication (R279, R280, R291). -/
def Fmt.mulOp (f : Fmt) (x y : Nat) : Nat × Flags :=
  let a := f.val x
  let b := f.val y
  let r := f.round .rne false (a.mul b)
  (r.1, opFlags [a, b] (a.mul b) r.2)

/-- One fused multiply-add with one rounding; ∞ × 0 is invalid whatever z is (R279, R280, R291). -/
def Fmt.fmaOp (f : Fmt) (x y z : Nat) : Nat × Flags :=
  let a := f.val x
  let b := f.val y
  let c := f.val z
  let p := a.mul b
  let v := p.add c
  let r := f.round .rne false v
  if p.isNan && !a.isNan && !b.isNan then (f.nan, Flags.nv) else (r.1, opFlags [a, b, c] v r.2)

/-- One division (R283). -/
def Fmt.divOp (f : Fmt) (x y : Nat) : Nat × Flags := f.div (f.val x) (f.val y)

/-- Does the first operand win a minimum (or maximum) under the order of R176: −0 below +0, a NaN loses to a number? -/
def chooseFirst (wantMax : Bool) (a b : Val) : Bool :=
  if a.isNan then false
  else if b.isNan then true
  else if a.eqv b then
    (if a.isZero && b.isZero && a.sign != b.sign then (if wantMax then !a.sign else a.sign) else true)
  else if wantMax then b.lt a else a.lt b

/-- A tie of equal values that are not NaNs: −0 and +0 are ordered, so they are no tie (R176, R282). -/
def isTie (a b : Val) : Bool := a.eqv b && !(a.isZero && b.isZero && a.sign != b.sign)

/-- The smaller or larger operand, keeping its bits; two NaNs give the canonical NaN; NV only for a signalling NaN (R282). -/
def Fmt.minmaxOp (f : Fmt) (wantMax : Bool) (x y : Nat) : Nat × Flags :=
  let a := f.val x
  let b := f.val y
  let w := 2 ^ (f.eb + f.mb + 1)
  let r := if a.isNan && b.isNan then f.nan else if chooseFirst wantMax a b then x % w else y % w
  (r, if a.isSig || b.isSig then Flags.nv else Flags.none)

/-- A comparison under a condition: with a NaN operand, lt, le and eq give false and ne gives true (R284). -/
def cmpVal (c : Cond) (a b : Val) : Bool :=
  match c with
  | .lt => a.lt b
  | .le => !a.isNan && !b.isNan && !b.lt a
  | .eq => a.eqv b
  | .ne => !a.eqv b

/-- The integral value of a finite value under a mode: the result as an exact value, keeping the sign of the operand on a
zero result (R287). -/
def Val.toIntegral (mode : Rnd) : Val → Val
  | .fin n m e =>
    if e ≥ 0 then .fin n m e
    else .fin n (roundAt mode n m 1 e 0).1 0
  | v => v

/-- Is a finite value an integer? -/
def Val.isIntegral : Val → Bool
  | .fin _ m e => e ≥ 0 || m % 2 ^ (-e).toNat == 0
  | _ => false

/-- The integer floor of a finite value. -/
def Val.floorInt : Val → Int
  | .fin n m e => Int.fdiv (Val.scaled n m e (min e 0)) (2 ^ (0 - min e 0).toNat)
  | _ => 0

/-- RNE(x + y), RNE(x − y), RNE(x × y) and RNE(x / y) of f32 words, without flags (R170). -/
def add32 (x y : Word) : Word := Word.ofNat (Fmt.f32.addOp x.toNat y.toNat).1
def sub32 (x y : Word) : Word := Word.ofNat (Fmt.f32.subOp x.toNat y.toNat).1
def mul32 (x y : Word) : Word := Word.ofNat (Fmt.f32.mulOp x.toNat y.toNat).1
def div32 (x y : Word) : Word := Word.ofNat (Fmt.f32.divOp x.toNat y.toNat).1

end Sys2Proof.Machine
end

