-- ==== Sys2Proof/Config.lean ====
section
/-! DEFINITION. What an implementation fixes and the free values: constants without a body, of which nothing can be
proved. Each is named in an entry of notes/assumptions. -/

namespace Sys2Proof.Config

/-- The fuses: bit 36 × die + index set means that physical core is fused off (R159). Log 6. -/
opaque fuses : BitVec 72

/-- The n-th free choice between two permitted behaviours: does a cached translation or instruction word still stand
(R41, R91, R92)? Log 6. -/
opaque keepCached : Nat → Bool

/-- The n-th free choice of how many words a strand prefetches (R90); its user takes at most 8. Log 6. -/
opaque prefetchWords : Nat → Nat

/-- How many grids one dispatch queue holds beyond the first before it spills (R155): the spec gives no number. Log 10. -/
opaque dispatchCap : Nat

/-- A word the spec leaves open, by the n-th use. Log 6. -/
opaque freeWord : Nat → Word

/-- How many entries the bins of a draw hold beyond the first (R201): the spec gives no size. Log 33. -/
opaque binSpace : Nat

/-- The service version that SVC 0x00 reports (R272): the spec gives no number. Log 6. -/
opaque serviceVersion : Word

/-- The public-key hash held in fuses for the firmware (R375): the fuses' contents are not given. Log 7. -/
opaque firmwareKeyHash : List Byte

/-- The virtual address at which the resident service maps the n-th scratchpad allocation (R272). Log 6. -/
opaque scratchBase : Nat → Addr

/-- Does the resident service join two grids of this package to one pod barrier (R309)? It decides. Log 22. -/
opaque podJoined : Nat → Nat → Bool

/-- Does the power governor withhold the core cycle that the n-th free choice stands for (R136, R378)? Log 13. -/
opaque withhold : Nat → Bool

/-- The result word of a correctly rounded function where the model's interval arithmetic does not decide the
rounding (R288). Log 8. -/
opaque undecided : Nat → Nat → Word

/-- Does another package refuse a window access to one of its frames (R43)? Its own resident service decides. Log 17. -/
opaque remoteRefuses : Nat → Nat → Bool

/-- The base of the tree that holds the triangle at an address: TRVOMM needs it and names no register for it (R207,
R351). Log 34. -/
opaque treeBase : Addr → Addr

end Sys2Proof.Config
end

