-- ==== Sys2Proof/WellFormed.lean ====
section
/-! DEFINITION. Which instructions the encodings admit: the reserved field values and combinations of R224 and
R230 to R243, which raise ReservedEncoding at decode (R244), and the ranges of the numbers an event names. -/

namespace Sys2Proof

/-- The special-register numbers of R232. Any other number raises ReservedEncoding. -/
def specialDefined (n : BitVec 16) : Bool :=
  let v := n.toNat
  v ≤ 0x0008 || (0x0100 ≤ v && v ≤ 0x0108) || (0x0200 ≤ v && v ≤ 0x0202) || v == 0x0300 || v == 0x0301 ||
    (0x0400 ≤ v && v ≤ 0x0403) || (0x0410 ≤ v && v ≤ 0x0421) || (0x0500 ≤ v && v ≤ 0x0504)

/-- The window bases that WINB accepts (R230). -/
def windowBase (imm : BitVec 16) : Bool :=
  imm.toNat == 0 || imm.toNat == 32 || imm.toNat == 64 || imm.toNat == 96 || imm.toNat == 128

/-- The combinations of operation and type that R241 allows. -/
def AtomKind.allowed (k : AtomKind) : Bool :=
  match k.op, k.ty with
  | .fadd, .f32 => true
  | .fadd, _ => false
  | .xchg, .f32 => true
  | .cas, .f32 => true
  | _, .f32 => false
  | _, _ => true

/-- The d group that kind7 fixes (R241). -/
def AtomKind.group (k : AtomKind) : Width :=
  match k.ty, k.op with
  | .n64, .cas => .w4
  | .n64, _ => .w2
  | _, .cas => .w2
  | _, _ => .w1

/-- An atomic of ATOMC to ATOMP: an allowed combination, and w holds the code of its group (R241). -/
def atomOk (k : AtomKind) (w : Width) : Bool := k.allowed && decide (w = k.group)

/-- Spindle ids: core 0 to 31, quad 0 to 15 (R242). -/
def spindleOk (quad : Bool) (imm : BitVec 9) : Bool :=
  if quad then imm.toNat < 16 else imm.toNat < 32

/-- How many barriers a level has (R3, R242). -/
def BarLevel.count : BarLevel → Nat
  | .core => 16 | .quad => 8 | .die => 8 | .pkg => 4 | .pod => 4

/-- Barrier ids lie below the level's count (R242). -/
def barrierOk (l : BarLevel) (imm : BitVec 9) : Bool := imm.toNat < l.count

/-- The exact FUN operations have no v1 form (R237). -/
def exactFunOk (f : FunFmt) : Bool := f != .v1

/-- A partition number (R2). -/
def partOk (p : Nat) : Bool := p < 24

/-- A physical core number (R3). -/
def coreOk (c : Nat) : Bool := c < 72

/-- The check of the reserved values: no instruction that fails it has an encoding. -/
def Instr.wf : Instr → Bool
  | .movs _ n _ => specialDefined n
  | .movts _ n _ => specialDefined n
  | .winb imm _ => windowBase imm
  | .cvt _ _ src dst _ _ _ => src != dst
  | .brkn n _ => 1 ≤ n.toNat && n.toNat ≤ 16
  | .fabs _ _ f _ => exactFunOk f
  | .fneg _ _ f _ => exactFunOk f
  | .ffloor _ _ f _ => exactFunOk f
  | .fceil _ _ f _ => exactFunOk f
  | .fround _ _ f _ => exactFunOk f
  | .ftrunc _ _ f _ => exactFunOk f
  | .ffrac _ _ f _ => exactFunOk f
  | .rediadd _ _ t _ => t != .f32
  | .atomc _ _ k w _ => atomOk k w
  | .atomq _ _ k w _ => atomOk k w
  | .atomd _ _ k w _ => atomOk k w
  | .atomp _ _ k w _ => atomOk k w
  | .atomx _ _ k _ _ => k.allowed
  | .qacq q imm _ => spindleOk q imm
  | .qfill _ q imm _ => spindleOk q imm
  | .qtake _ q imm _ => spindleOk q imm
  | .qdone q imm _ => spindleOk q imm
  | .qtry _ q imm _ => spindleOk q imm
  | .bararr _ l imm _ => barrierOk l imm
  | .barwait l imm _ => barrierOk l imm
  | .bar _ l imm _ => barrierOk l imm
  | .qfence m _ => m.toNat != 0
  | .msignBind d _ _ => d.toNat < 16
  | .msignRelease d _ => d.toNat < 16
  | .deal p => partOk p
  | .migration p _ _ => partOk p
  | .shootdown c p _ _ _ => coreOk c && partOk p
  | .shootdownAck c => coreOk c
  | .dirtyLogDrain p => partOk p
  | .patrolScrub s _ => s < 128
  | .retentionEntry s => s < 128
  | .retentionExit s _ => s < 128
  | .poisonClear p _ => partOk p
  | .engineCommandStart c q => coreOk c && q < 9
  | .engineChunk c q _ => coreOk c && q < 9
  | .tokenDeposit c q => coreOk c && q < 9
  | .kick p _ => partOk p
  | .resume p => partOk p
  | .hostackContinue p _ => partOk p
  | .hostackPoolgrow p _ _ => partOk p
  | .hostackPoolmerge p _ => partOk p
  | .controlWindowWrite p off _ => partOk p && off < 0x8000 && off % 8 == 0
  | .graphUpload p _ => partOk p
  | .codeObjectLoad p _ _ => partOk p
  | .codeObjectUnload p _ => partOk p
  | .keyRegister p _ _ => partOk p
  | .withheldCycle c => coreOk c
  | .portFailure p => p < 8
  | _ => true

end Sys2Proof
end

