-- ==== Sys2Proof/Decode.lean ====
section
/-! DEFINITION. Decoding and encoding of instruction words (R222 to R247).
A word is cut once into the six fields of the R format; every other format joins neighbouring fields (R223).
A word that is no instruction answers `none`; R244 then names its cause. -/

namespace Sys2Proof

/-- The fields of an instruction word in the R format (R223). -/
structure Fields where
  op : BitVec 7
  d : BitVec 7
  a : BitVec 7
  b : BitVec 7
  w : BitVec 2
  st : BitVec 2
  deriving DecidableEq, Repr

/-- Cut a word into its fields. -/
def fieldsOf (w : Word) : Fields :=
  ⟨w.extractLsb' 25 7, w.extractLsb' 18 7, w.extractLsb' 11 7, w.extractLsb' 4 7, w.extractLsb' 2 2, w.extractLsb' 0 2⟩

/-- Join the fields into a word. -/
def pack (f : Fields) : Word := f.op ++ f.d ++ f.a ++ f.b ++ f.w ++ f.st

/-- imm9 of the I format: bits [10:2]. -/
def Fields.imm9 (f : Fields) : BitVec 9 := f.b ++ f.w

/-- imm16 or off16 of the U and B formats: bits [17:2]. -/
def Fields.imm16 (f : Fields) : BitVec 16 := f.a ++ f.b ++ f.w

/-- off23 of the J format: bits [24:2]. -/
def Fields.off23 (f : Fields) : BitVec 23 := f.d ++ f.a ++ f.b ++ f.w

/-- A shift count: bits [6:2] (R224). -/
def Fields.imm5 (f : Fields) : BitVec 5 := f.imm9.extractLsb' 0 5

/-- A trap code: bits [9:2] (R271). -/
def Fields.code8 (f : Fields) : BitVec 8 := f.imm9.extractLsb' 0 8

/-- minor7[6:4]. -/
def Fields.bHi3 (f : Fields) : BitVec 3 := f.b.extractLsb' 4 3

/-- minor7[3:1]. -/
def Fields.bMid3 (f : Fields) : BitVec 3 := f.b.extractLsb' 1 3

/-- minor7[2:0]. -/
def Fields.bLo3 (f : Fields) : BitVec 3 := f.b.extractLsb' 0 3

/-- minor7[3:0]. -/
def Fields.bLo4 (f : Fields) : BitVec 4 := f.b.extractLsb' 0 4

/-- minor7[0]. -/
def Fields.bLow (f : Fields) : BitVec 1 := f.b.extractLsb' 0 1

/-- The level of a SYNC word, imm16[11:9] (R242). -/
def Fields.aLo3 (f : Fields) : BitVec 3 := f.a.extractLsb' 0 3

/-- The level bit of a spindle operation, imm16[9] (R242). -/
def Fields.aLow (f : Fields) : BitVec 1 := f.a.extractLsb' 0 1

/-- w[0]. -/
def Fields.wLow (f : Fields) : BitVec 1 := f.w.extractLsb' 0 1

/-- The width code (R228). -/
def Width.ofBits (w : BitVec 2) : Width :=
  if w == 0#2 then .w1 else if w == 1#2 then .w2 else if w == 2#2 then .w4 else .w8

/-- The width code (R228). -/
def Width.bits : Width → BitVec 2
  | .w1 => 0#2 | .w2 => 1#2 | .w4 => 2#2 | .w8 => 3#2

/-- The condition code (R240). -/
def Cond.ofBits (w : BitVec 2) : Cond :=
  if w == 0#2 then .lt else if w == 1#2 then .le else if w == 2#2 then .eq else .ne

/-- The condition code (R240). -/
def Cond.bits : Cond → BitVec 2
  | .lt => 0#2 | .le => 1#2 | .eq => 2#2 | .ne => 3#2

/-- The rounding code of CVT (R170). -/
def Rnd.ofBits (w : BitVec 2) : Rnd :=
  if w == 0#2 then .rne else if w == 1#2 then .rz else if w == 2#2 then .rdn else .rup

/-- The rounding code of CVT (R170). -/
def Rnd.bits : Rnd → BitVec 2
  | .rne => 0#2 | .rz => 1#2 | .rdn => 2#2 | .rup => 3#2

/-- The format code of FUN (R237). -/
def FunFmt.ofBits (w : BitVec 2) : FunFmt :=
  if w == 0#2 then .f32 else if w == 1#2 then .f16 else if w == 2#2 then .bf16 else .v1

/-- The format code of FUN (R237). -/
def FunFmt.bits : FunFmt → BitVec 2
  | .f32 => 0#2 | .f16 => 1#2 | .bf16 => 2#2 | .v1 => 3#2

/-- The value format code of LDT and STT (R299). -/
def FrameFmt.ofBits (w : BitVec 2) : FrameFmt :=
  if w == 0#2 then .f32 else if w == 1#2 then .f16 else if w == 2#2 then .bf16 else .e4m3

/-- The value format code of LDT and STT (R299). -/
def FrameFmt.bits : FrameFmt → BitVec 2
  | .f32 => 0#2 | .f16 => 1#2 | .bf16 => 2#2 | .e4m3 => 3#2

/-- The type code of RED; 3 is reserved (R238). -/
def RedType.ofBits (w : BitVec 2) : Option RedType :=
  if w == 0#2 then some .f32 else if w == 1#2 then some .i32 else if w == 2#2 then some .n32 else none

/-- The type code of RED (R238). -/
def RedType.bits : RedType → BitVec 2
  | .f32 => 0#2 | .i32 => 1#2 | .n32 => 2#2

/-- The format code of CVT; 7 is reserved (R235). -/
def NumFmt.ofBits (c : BitVec 3) : Option NumFmt :=
  if c == 0#3 then some .f32 else if c == 1#3 then some .f16 else if c == 2#3 then some .bf16 else
  if c == 3#3 then some .e4m3 else if c == 4#3 then some .e5m2 else if c == 5#3 then some .i32 else
  if c == 6#3 then some .n32 else none

/-- The format code of CVT (R235). -/
def NumFmt.bits : NumFmt → BitVec 3
  | .f32 => 0#3 | .f16 => 1#3 | .bf16 => 2#3 | .e4m3 => 3#3 | .e5m2 => 4#3 | .i32 => 5#3 | .n32 => 6#3

/-- The scope code; 6 and above are reserved (R240). -/
def Scope.ofCode (n : Nat) : Option Scope :=
  if n == 0 then some .core else if n == 1 then some .quad else if n == 2 then some .die else
  if n == 3 then some .pkg else if n == 4 then some .pod else if n == 5 then some .sys else none

/-- The scope code (R240). -/
def Scope.code : Scope → Nat
  | .core => 0 | .quad => 1 | .die => 2 | .pkg => 3 | .pod => 4 | .sys => 5

/-- The level code of a barrier; 5 to 7 are reserved (R242). -/
def BarLevel.ofBits (c : BitVec 3) : Option BarLevel :=
  if c == 0#3 then some .core else if c == 1#3 then some .quad else if c == 2#3 then some .die else
  if c == 3#3 then some .pkg else if c == 4#3 then some .pod else none

/-- The level code of a barrier (R242). -/
def BarLevel.bits : BarLevel → BitVec 3
  | .core => 0#3 | .quad => 1#3 | .die => 2#3 | .pkg => 3#3 | .pod => 4#3

/-- The operation code of an atomic; 9 to 15 are reserved (R241). -/
def AtomOp.ofBits (c : BitVec 4) : Option AtomOp :=
  if c == 0#4 then some .add else if c == 1#4 then some .min else if c == 2#4 then some .max else
  if c == 3#4 then some .and else if c == 4#4 then some .or else if c == 5#4 then some .xor else
  if c == 6#4 then some .xchg else if c == 7#4 then some .cas else if c == 8#4 then some .fadd else none

/-- The operation code of an atomic (R241). -/
def AtomOp.bits : AtomOp → BitVec 4
  | .add => 0#4 | .min => 1#4 | .max => 2#4 | .and => 3#4 | .or => 4#4 | .xor => 5#4 | .xchg => 6#4
  | .cas => 7#4 | .fadd => 8#4

/-- The type code of an atomic (R241). -/
def AtomType.ofBits (c : BitVec 2) : AtomType :=
  if c == 0#2 then .n32 else if c == 1#2 then .i32 else if c == 2#2 then .n64 else .f32

/-- The type code of an atomic (R241). -/
def AtomType.bits : AtomType → BitVec 2
  | .n32 => 0#2 | .i32 => 1#2 | .n64 => 2#2 | .f32 => 3#2

/-- kind7: operation [6:3], type [2:1], order [0] (R241). -/
def AtomKind.ofBits (b : BitVec 7) : Option AtomKind :=
  (AtomOp.ofBits (b.extractLsb' 3 4)).map fun op => ⟨op, AtomType.ofBits (b.extractLsb' 1 2), b.extractLsb' 0 1 == 1#1⟩

/-- kind7 (R241). -/
def AtomKind.bits (k : AtomKind) : BitVec 7 := k.op.bits ++ k.ty.bits ++ BitVec.ofBool k.acqrel

/-- Read the fields under the opcode map and the minor tables (R233 to R243): the reserved combinations of values
that `Instr.wf` names are not looked at here. -/
def decodeFields (f : Fields) : Option Instr :=
  match f.op.toNat with
  | 0x1 => some (.iadd f.d f.a f.b (Width.ofBits f.w) f.st)
  | 0x2 => some (.isub f.d f.a f.b (Width.ofBits f.w) f.st)
  | 0x3 => some (.imul f.d f.a f.b (Width.ofBits f.w) f.st)
  | 0x4 => some (.imulh f.d f.a f.b (Width.ofBits f.w) f.st)
  | 0x5 => some (.imulhn f.d f.a f.b (Width.ofBits f.w) f.st)
  | 0x6 => some (.imad f.d f.a f.b (Width.ofBits f.w) f.st)
  | 0x7 => some (.and f.d f.a f.b (Width.ofBits f.w) f.st)
  | 0x8 => some (.or f.d f.a f.b (Width.ofBits f.w) f.st)
  | 0x9 => some (.xor f.d f.a f.b (Width.ofBits f.w) f.st)
  | 0xa => some (.andn f.d f.a f.b (Width.ofBits f.w) f.st)
  | 0xb => some (.shl f.d f.a f.b (Width.ofBits f.w) f.st)
  | 0xc => some (.shr f.d f.a f.b (Width.ofBits f.w) f.st)
  | 0xd => some (.sar f.d f.a f.b (Width.ofBits f.w) f.st)
  | 0xe => some (.imin f.d f.a f.b (Width.ofBits f.w) f.st)
  | 0xf => some (.imax f.d f.a f.b (Width.ofBits f.w) f.st)
  | 0x10 => some (.iminn f.d f.a f.b (Width.ofBits f.w) f.st)
  | 0x11 => some (.imaxn f.d f.a f.b (Width.ofBits f.w) f.st)
  | 0x12 => some (.iset f.d f.a f.b (Cond.ofBits f.w) f.st)
  | 0x13 => some (.isetn f.d f.a f.b (Cond.ofBits f.w) f.st)
  | 0x14 => some (.sel f.d f.a f.b (Width.ofBits f.w) f.st)
  | 0x15 => some (.bfx f.d f.a f.b (Width.ofBits f.w) f.st)
  | 0x16 => some (.bfi f.d f.a f.b (Width.ofBits f.w) f.st)
  | 0x17 =>
      if f.w == 0#2 then some (.add64 f.d f.a f.b f.st) else none
  | 0x18 =>
      if f.w == 0#2 then some (.sub64 f.d f.a f.b f.st) else none
  | 0x19 =>
      if f.w == 0#2 then some (.mul64 f.d f.a f.b f.st) else none
  | 0x1a =>
      if f.w == 0#2 then some (.madw f.d f.a f.b f.st) else none
  | 0x1b =>
      if f.w == 0#2 then some (.shfr f.d f.a f.b f.st) else none
  | 0x1c => some (.addi f.d f.a f.imm9 f.st)
  | 0x1d => some (.andi f.d f.a f.imm9 f.st)
  | 0x1e => some (.ori f.d f.a f.imm9 f.st)
  | 0x1f => some (.xori f.d f.a f.imm9 f.st)
  | 0x20 =>
      if f.b &&& 0x78#7 == 0#7 then some (.shli f.d f.a f.imm5 f.st) else none
  | 0x21 =>
      if f.b &&& 0x78#7 == 0#7 then some (.shri f.d f.a f.imm5 f.st) else none
  | 0x22 =>
      if f.b &&& 0x78#7 == 0#7 then some (.sari f.d f.a f.imm5 f.st) else none
  | 0x23 => some (.isetlti f.d f.a f.imm9 f.st)
  | 0x24 => some (.muli f.d f.a f.imm9 f.st)
  | 0x25 => some (.addpi f.d f.a f.imm9 f.st)
  | 0x26 => some (.lui f.d f.imm16 f.st)
  | 0x27 => some (.orlo f.d f.imm16 f.st)
  | 0x28 => some (.movi f.d f.imm16 f.st)
  | 0x29 => some (.movs f.d f.imm16 f.st)
  | 0x2a => some (.movts f.d f.imm16 f.st)
  | 0x2b =>
      if f.d == 0#7 then some (.winb f.imm16 f.st) else none
  | 0x2c =>
      if f.b == 0#7 then some (.mov f.d f.a (Width.ofBits f.w) f.st) else
      if f.b == 1#7 && f.w == 0#2 then some (.not f.d f.a f.st) else
      if f.b == 2#7 && f.w == 0#2 then some (.ineg f.d f.a f.st) else
      if f.b == 3#7 && f.w == 0#2 then some (.iabs f.d f.a f.st) else
      if f.b == 4#7 && f.w == 0#2 then some (.popc f.d f.a f.st) else
      if f.b == 5#7 && f.w == 0#2 then some (.clz f.d f.a f.st) else
      if f.b == 6#7 && f.w == 0#2 then some (.ctz f.d f.a f.st) else
      if f.b == 7#7 && f.w == 0#2 then some (.brev f.d f.a f.st) else
      if f.b == 8#7 && f.w == 0#2 then some (.sext8 f.d f.a f.st) else
      if f.b == 9#7 && f.w == 0#2 then some (.sext16 f.d f.a f.st) else
      if f.b == 10#7 && f.w == 0#2 then some (.zext8 f.d f.a f.st) else
      if f.b == 11#7 && f.w == 0#2 then some (.zext16 f.d f.a f.st) else
      if f.b == 0x10#7 && f.w == 0#2 then some (.idiv f.d f.a f.st) else
      if f.b == 0x11#7 && f.w == 0#2 then some (.idivn f.d f.a f.st) else
      if f.b == 0x12#7 && f.w == 0#2 then some (.irem f.d f.a f.st) else
      if f.b == 0x13#7 && f.w == 0#2 then some (.iremn f.d f.a f.st) else none
  | 0x2d => (NumFmt.ofBits f.bHi3).bind fun src => (NumFmt.ofBits f.bMid3).bind fun dst => some (.cvt f.d f.a src dst (f.bLow == 1#1) (Rnd.ofBits f.w) f.st)
  | 0x2e =>
      if f.b == 0#7 && f.w == 0#2 then some (.voteany f.d f.a f.st) else
      if f.b == 1#7 && f.w == 0#2 then some (.voteall f.d f.a f.st) else
      if f.b == 2#7 && f.w == 0#2 then some (.ballot f.d f.a f.st) else
      if f.a == 0#7 && f.b == 3#7 && f.w == 0#2 then some (.active f.d f.st) else
      if f.b == 4#7 && f.w == 0#2 then some (.matchLanes f.d f.a f.st) else
      if f.b == 5#7 && f.w == 0#2 then some (.first f.d f.a f.st) else none
  | 0x2f =>
      if f.w == 0#2 then some (.shflIdx f.d f.a f.b f.st) else
      if f.w == 1#2 then some (.shflUp f.d f.a f.b f.st) else
      if f.w == 2#2 then some (.shflDown f.d f.a f.b f.st) else
      if f.w == 3#2 then some (.shflXor f.d f.a f.b f.st) else none
  | 0x30 => some (.brz f.d f.imm16 f.st)
  | 0x31 => some (.brnz f.d f.imm16 f.st)
  | 0x32 => some (.brltz f.d f.imm16 f.st)
  | 0x33 => some (.brgez f.d f.imm16 f.st)
  | 0x34 => some (.jmp f.off23 f.st)
  | 0x35 => some (.call f.off23 f.st)
  | 0x36 =>
      if f.d == 0#7 && f.b == 0#7 && f.w &&& 2#2 == 0#2 then some (.calli f.a (f.wLow == 1#1) f.st) else none
  | 0x37 =>
      if f.d == 0#7 && f.b == 0#7 && f.w &&& 2#2 == 0#2 then some (.jmpi f.a (f.wLow == 1#1) f.st) else none
  | 0x38 => some (.jpush f.off23 f.st)
  | 0x39 =>
      if f.d == 0#7 && f.a == 0#7 && f.b == 0#7 && f.w == 0#2 then some (.rejoin f.st) else none
  | 0x3a =>
      if f.d == 0#7 then some (.brkn f.imm16 f.st) else none
  | 0x3b =>
      if f.d == 0#7 && f.a == 0#7 && f.b == 0#7 && f.w == 0#2 then some (.exit f.st) else none
  | 0x3c =>
      if f.d == 0#7 && f.a == 0#7 && f.b == 0#7 && f.w == 0#2 then some (.reform f.st) else none
  | 0x3d =>
      if f.d == 0#7 && f.a == 0#7 && f.b == 0#7 && f.w == 0#2 then some (.yield f.st) else none
  | 0x3e =>
      if f.d == 0#7 && f.a == 0#7 && f.b == 0#7 && f.w == 0#2 then some (.nop f.st) else none
  | 0x3f =>
      if f.d == 0#7 && f.a == 0#7 && f.b &&& 0x40#7 == 0#7 then some (.trap f.code8 f.st) else none
  | 0x40 =>
      if f.d == 0#7 && f.a == 0#7 && f.b &&& 0x40#7 == 0#7 then some (.brk f.code8 f.st) else none
  | 0x41 =>
      if f.d == 0#7 && f.a == 0#7 && f.b &&& 0x40#7 == 0#7 then some (.svc f.code8 f.st) else none
  | 0x42 =>
      if f.d == 0#7 && f.a == 0#7 && f.b == 0#7 && f.w == 0#2 then some (.eretRetry f.st) else
      if f.d == 0#7 && f.a == 0#7 && f.b == 0#7 && f.w == 1#2 then some (.eretSkip f.st) else
      if f.d == 0#7 && f.b == 0#7 && f.w == 2#2 then some (.eretSubst f.a f.st) else none
  | 0x43 =>
      if f.d == 0#7 && f.a == 0#7 && f.b == 0#7 && f.w == 0#2 then some (.isync f.st) else none
  | 0x44 =>
      if f.b &&& 0x7e#7 == 0#7 && f.w == 0#2 then some (.icinv f.d f.a (f.bLow == 1#1) f.st) else none
  | 0x45 =>
      if f.a == 0#7 && f.b == 0#7 && f.w == 0#2 then some (.cycles f.d f.st) else none
  | 0x46 =>
      if f.b == 0#7 && f.w == 0#2 then some (.launch f.d f.a f.st) else none
  | 0x47 => some (.fadd f.d f.a f.b (Width.ofBits f.w) f.st)
  | 0x48 => some (.fsub f.d f.a f.b (Width.ofBits f.w) f.st)
  | 0x49 => some (.fmul f.d f.a f.b (Width.ofBits f.w) f.st)
  | 0x4a => some (.ffma f.d f.a f.b (Width.ofBits f.w) f.st)
  | 0x4b => some (.fmin f.d f.a f.b (Width.ofBits f.w) f.st)
  | 0x4c => some (.fmax f.d f.a f.b (Width.ofBits f.w) f.st)
  | 0x4d => some (.fcmp f.d f.a f.b (Cond.ofBits f.w) f.st)
  | 0x4e => some (.fcmpm f.d f.a f.b (Cond.ofBits f.w) f.st)
  | 0x4f => some (.fdiv f.d f.a f.b (Width.ofBits f.w) f.st)
  | 0x50 =>
      if f.b == 0#7 then some (.fabs f.d f.a (FunFmt.ofBits f.w) f.st) else
      if f.b == 1#7 then some (.fneg f.d f.a (FunFmt.ofBits f.w) f.st) else
      if f.b == 2#7 then some (.ffloor f.d f.a (FunFmt.ofBits f.w) f.st) else
      if f.b == 3#7 then some (.fceil f.d f.a (FunFmt.ofBits f.w) f.st) else
      if f.b == 4#7 then some (.fround f.d f.a (FunFmt.ofBits f.w) f.st) else
      if f.b == 5#7 then some (.ftrunc f.d f.a (FunFmt.ofBits f.w) f.st) else
      if f.b == 6#7 then some (.ffrac f.d f.a (FunFmt.ofBits f.w) f.st) else
      if f.b == 8#7 then some (.fsqrt f.d f.a (FunFmt.ofBits f.w) f.st) else
      if f.b == 9#7 then some (.frcp f.d f.a (FunFmt.ofBits f.w) f.st) else
      if f.b == 10#7 then some (.frsq f.d f.a (FunFmt.ofBits f.w) f.st) else
      if f.b == 11#7 then some (.fexp2 f.d f.a (FunFmt.ofBits f.w) f.st) else
      if f.b == 12#7 then some (.flog2 f.d f.a (FunFmt.ofBits f.w) f.st) else
      if f.b == 13#7 then some (.fexp f.d f.a (FunFmt.ofBits f.w) f.st) else
      if f.b == 14#7 then some (.flog f.d f.a (FunFmt.ofBits f.w) f.st) else
      if f.b == 15#7 then some (.fsinpi f.d f.a (FunFmt.ofBits f.w) f.st) else
      if f.b == 0x10#7 then some (.fcospi f.d f.a (FunFmt.ofBits f.w) f.st) else
      if f.b == 0x11#7 then some (.ftanh f.d f.a (FunFmt.ofBits f.w) f.st) else
      if f.b == 0x12#7 then some (.fsigm f.d f.a (FunFmt.ofBits f.w) f.st) else
      if f.b == 0x13#7 then some (.fgelu f.d f.a (FunFmt.ofBits f.w) f.st) else
      if f.b == 0x14#7 then some (.ferf f.d f.a (FunFmt.ofBits f.w) f.st) else
      if f.b == 0x30#7 && f.w == 0#2 then some (.fsqrtx f.d f.a f.st) else
      if f.b == 0x31#7 && f.w == 0#2 then some (.frcpx f.d f.a f.st) else
      if f.b == 0x32#7 && f.w == 0#2 then some (.frsqx f.d f.a f.st) else
      if f.b == 0x33#7 && f.w == 0#2 then some (.fexp2x f.d f.a f.st) else
      if f.b == 0x34#7 && f.w == 0#2 then some (.flog2x f.d f.a f.st) else
      if f.b == 0x35#7 && f.w == 0#2 then some (.fsinpix f.d f.a f.st) else
      if f.b == 0x36#7 && f.w == 0#2 then some (.fcospix f.d f.a f.st) else
      if f.b == 0x37#7 && f.w == 0#2 then some (.ftanhx f.d f.a f.st) else none
  | 0x51 =>
      if f.w &&& 2#2 == 0#2 then some (.padd2 f.d f.a f.b (f.wLow == 1#1) f.st) else none
  | 0x52 =>
      if f.w &&& 2#2 == 0#2 then some (.pmul2 f.d f.a f.b (f.wLow == 1#1) f.st) else none
  | 0x53 =>
      if f.w &&& 2#2 == 0#2 then some (.pfma2 f.d f.a f.b (f.wLow == 1#1) f.st) else none
  | 0x54 =>
      if f.w &&& 2#2 == 0#2 then some (.pmax2 f.d f.a f.b (f.wLow == 1#1) f.st) else none
  | 0x55 =>
      if f.w &&& 2#2 == 0#2 then some (.pmin2 f.d f.a f.b (f.wLow == 1#1) f.st) else none
  | 0x56 =>
      if f.b == 0#7 then (RedType.ofBits f.w).bind fun t => some (.redmax f.d f.a t f.st) else
      if f.b == 1#7 then (RedType.ofBits f.w).bind fun t => some (.redmin f.d f.a t f.st) else
      if f.b == 2#7 && f.w == 0#2 then some (.redsum f.d f.a f.st) else
      if f.b == 3#7 && f.w == 0#2 then some (.redvar f.d f.a f.st) else
      if f.b == 4#7 then (RedType.ofBits f.w).bind fun t => some (.rediadd f.d f.a t f.st) else
      if f.b == 5#7 then (RedType.ofBits f.w).bind fun t => some (.redand f.d f.a t f.st) else
      if f.b == 6#7 then (RedType.ofBits f.w).bind fun t => some (.redor f.d f.a t f.st) else
      if f.b == 7#7 then (RedType.ofBits f.w).bind fun t => some (.redxor f.d f.a t f.st) else none
  | 0x57 =>
      if f.b &&& 0x70#7 == 0#7 && f.w == 0#2 then some (.plyget f.d f.a f.bLo4 f.st) else
      if f.b &&& 0x70#7 == 0x10#7 && f.w == 0#2 then some (.plyset f.d f.a f.bLo4 f.st) else
      if f.a == 0#7 && f.b &&& 0x70#7 == 0x20#7 && f.w == 0#2 then some (.plyzero f.d f.bLo4 f.st) else
      if f.a == 0#7 && f.b == 0x30#7 && f.w == 0#2 then some (.plylose f.d f.st) else
      if f.b == 0x40#7 && f.w == 0#2 then some (.plytag f.d f.a f.st) else
      if f.a == 0#7 && f.b == 0x50#7 && f.w == 0#2 then some (.plyclrk f.d f.st) else none
  | 0x58 => some (.drev f.d f.a f.b (Width.ofBits f.w) f.st)
  | 0x59 => some (.dflip f.d f.a f.b (Width.ofBits f.w) f.st)
  | 0x5a =>
      if f.w == 0#2 then some (.ldb f.d f.a f.b f.st) else none
  | 0x5b =>
      if f.w == 0#2 then some (.ldbs f.d f.a f.b f.st) else none
  | 0x5c =>
      if f.w == 0#2 then some (.ldh f.d f.a f.b f.st) else none
  | 0x5d =>
      if f.w == 0#2 then some (.ldhs f.d f.a f.b f.st) else none
  | 0x5e => some (.ldw f.d f.a f.b (Width.ofBits f.w) f.st)
  | 0x5f =>
      if f.w == 0#2 then some (.stb f.d f.a f.b f.st) else none
  | 0x60 =>
      if f.w == 0#2 then some (.sth f.d f.a f.b f.st) else none
  | 0x61 => some (.stw f.d f.a f.b (Width.ofBits f.w) f.st)
  | 0x62 => some (.ldt f.d f.a f.b (FrameFmt.ofBits f.w) f.st)
  | 0x63 => some (.stt f.d f.a f.b (FrameFmt.ofBits f.w) f.st)
  | 0x64 => some (.ldfe f.d f.a f.b (Width.ofBits f.w) f.st)
  | 0x65 => some (.ldfec f.d f.a f.b (Width.ofBits f.w) f.st)
  | 0x66 => some (.stfe f.d f.a f.b (Width.ofBits f.w) f.st)
  | 0x67 =>
      if f.w &&& 2#2 == 0#2 then (Scope.ofCode f.b.toNat).bind fun sc => some (.lda f.d f.a sc (f.wLow == 1#1) f.st) else none
  | 0x68 =>
      if f.w &&& 2#2 == 0#2 then (Scope.ofCode f.b.toNat).bind fun sc => some (.stl f.d f.a sc (f.wLow == 1#1) f.st) else none
  | 0x69 =>
      if f.d == 0#7 && f.a == 0#7 && f.b &&& 0x70#7 == 0#7 && f.w == 0#2 then (Scope.ofCode f.bLo4.toNat).bind fun sc => some (.fenceAcq sc f.st) else
      if f.d == 0#7 && f.a == 0#7 && f.b &&& 0x70#7 == 0x10#7 && f.w == 0#2 then (Scope.ofCode f.bLo4.toNat).bind fun sc => some (.fenceRel sc f.st) else
      if f.d == 0#7 && f.a == 0#7 && f.b &&& 0x70#7 == 0x20#7 && f.w == 0#2 then (Scope.ofCode f.bLo4.toNat).bind fun sc => some (.fenceAcqrel sc f.st) else
      if f.d == 0#7 && f.a == 0#7 && f.b &&& 0x70#7 == 0x30#7 && f.w == 0#2 then (Scope.ofCode f.bLo4.toNat).bind fun sc => some (.fenceSc sc f.st) else
      if f.d == 0#7 && f.a == 0#7 && f.b &&& 0x70#7 == 0x40#7 && f.w == 0#2 then (Scope.ofCode f.bLo4.toNat).bind fun sc => some (.fenceIfetch sc f.st) else
      if f.d == 0#7 && f.a == 0#7 && f.b &&& 0x70#7 == 0x50#7 && f.w == 0#2 then (Scope.ofCode f.bLo4.toNat).bind fun sc => some (.fenceTable sc f.st) else none
  | 0x6a => (AtomKind.ofBits f.b).bind fun k => some (.atomc f.d f.a k (Width.ofBits f.w) f.st)
  | 0x6b => (AtomKind.ofBits f.b).bind fun k => some (.atomq f.d f.a k (Width.ofBits f.w) f.st)
  | 0x6c => (AtomKind.ofBits f.b).bind fun k => some (.atomd f.d f.a k (Width.ofBits f.w) f.st)
  | 0x6d => (AtomKind.ofBits f.b).bind fun k => some (.atomp f.d f.a k (Width.ofBits f.w) f.st)
  | 0x6e =>
      if f.w &&& 2#2 == 0#2 then (AtomKind.ofBits f.b).bind fun k => some (.atomx f.d f.a k (f.wLow == 1#1) f.st) else none
  | 0x6f =>
      if f.d == 0#7 then some (.spl f.a f.imm9 f.st) else none
  | 0x70 =>
      if f.a == 0#7 then some (.fil f.d f.imm9 f.st) else none
  | 0x71 =>
      if f.d == 0#7 && f.a &&& 0x7e#7 == 0#7 then some (.qacq (f.aLow == 1#1) f.imm9 f.st) else
      if f.a &&& 0x7e#7 == 8#7 then some (.qfill f.d (f.aLow == 1#1) f.imm9 f.st) else
      if f.a &&& 0x7e#7 == 0x10#7 then some (.qtake f.d (f.aLow == 1#1) f.imm9 f.st) else
      if f.d == 0#7 && f.a &&& 0x7e#7 == 0x18#7 then some (.qdone (f.aLow == 1#1) f.imm9 f.st) else
      if f.a &&& 0x7e#7 == 0x20#7 then some (.qtry f.d (f.aLow == 1#1) f.imm9 f.st) else
      if f.a &&& 0x78#7 == 0x28#7 then (BarLevel.ofBits f.aLo3).bind fun l => some (.bararr f.d l f.imm9 f.st) else
      if f.d == 0#7 && f.a &&& 0x78#7 == 0x30#7 then (BarLevel.ofBits f.aLo3).bind fun l => some (.barwait l f.imm9 f.st) else
      if f.a &&& 0x78#7 == 0x38#7 then (BarLevel.ofBits f.aLo3).bind fun l => some (.bar f.d l f.imm9 f.st) else
      if f.d == 0#7 && f.a == 0x40#7 then some (.qfence f.imm9 f.st) else none
  | 0x72 =>
      if f.d == 0#7 && f.b == 0#7 && f.w == 0#2 then some (.bcopy f.a f.st) else none
  | 0x73 =>
      if f.d == 0#7 && f.b == 0#7 && f.w == 0#2 then some (.stream f.a f.st) else none
  | 0x74 =>
      if f.a == 0#7 && f.b &&& 0x78#7 == 0#7 then some (.qld f.d f.bLo3 (Width.ofBits f.w) f.st) else none
  | 0x75 =>
      if f.d == 0#7 && f.b == 0#7 && f.w == 0#2 then some (.coll f.a f.st) else none
  | 0x76 =>
      if f.b == 0#7 && f.w == 0#2 then some (.msignBind f.d f.a f.st) else
      if f.a == 0#7 && f.b == 1#7 && f.w == 0#2 then some (.msignRelease f.d f.st) else none
  | 0x77 =>
      if f.w == 0#2 then some (.mma f.d f.a f.b f.st) else none
  | 0x78 =>
      if f.w == 0#2 then some (.mdrain f.d f.a f.b f.st) else none
  | 0x79 =>
      if f.d == 0#7 && f.a == 0#7 && f.b == 0#7 && f.w == 0#2 then some (.mzero f.st) else
      if f.d == 0#7 && f.b == 1#7 && f.w == 0#2 then some (.mloadc f.a f.st) else
      if f.b == 2#7 && f.w == 0#2 then some (.mhist f.d f.a f.st) else
      if f.a == 0#7 && f.b == 3#7 && f.w == 0#2 then some (.mhclr f.d f.st) else
      if f.a == 0#7 && f.b == 4#7 && f.w == 0#2 then some (.mwait f.d f.st) else none
  | 0x7a =>
      if f.b &&& 0x7e#7 == 0#7 && f.w &&& 2#2 == 0#2 then some (.tex f.d f.a (f.bLow == 1#1) (f.wLow == 1#1) f.st) else none
  | 0x7b =>
      if f.b == 0#7 && f.w &&& 2#2 == 0#2 then some (.texf f.d f.a (f.wLow == 1#1) f.st) else
      if f.b == 1#7 && f.w == 0#2 then some (.lins f.d f.a f.st) else
      if f.b == 2#7 && f.w == 0#2 then some (.lres f.d f.a f.st) else
      if f.b == 3#7 && f.w == 0#2 then some (.lcnt f.d f.a f.st) else
      if f.d == 0#7 && f.b == 4#7 && f.w == 0#2 then some (.lclr f.a f.st) else
      if f.b == 5#7 && f.w == 0#2 then some (.ztest f.d f.a f.st) else
      if f.d == 0#7 && f.b == 6#7 && f.w == 0#2 then some (.omerge f.a f.st) else
      if f.b == 7#7 && f.w == 0#2 then some (.vemit f.d f.a f.st) else
      if f.d == 0#7 && f.b == 8#7 && f.w == 0#2 then some (.pemit f.a f.st) else
      if f.b == 9#7 && f.w == 0#2 then some (.draw f.d f.a f.st) else
      if f.b == 10#7 && f.w == 0#2 then some (.lcomp f.d f.a f.st) else none
  | 0x7c =>
      if f.b == 0#7 && f.w == 0#2 then some (.trvbox f.d f.a f.st) else
      if f.b == 1#7 && f.w == 0#2 then some (.trvtri f.d f.a f.st) else
      if f.b == 2#7 && f.w == 0#2 then some (.trvomm f.d f.a f.st) else
      if f.d == 0#7 && f.b == 3#7 && f.w == 0#2 then some (.trvpush f.a f.st) else
      if f.a == 0#7 && f.b == 4#7 && f.w == 0#2 then some (.trvpop f.d f.st) else
      if f.b == 5#7 && f.w == 0#2 then some (.trvstep f.d f.a f.st) else none
  | 0x7d => some (.ldwv f.d f.a f.b (Width.ofBits f.w) f.st)
  | 0x7e => some (.stwv f.d f.a f.b (Width.ofBits f.w) f.st)  | _ => none

/-- Decode one word: an instruction all of whose field values are assigned (checks 1 to 3 of R244, but for the
retired words, which are instructions of VZA-1). -/
def decode (w : Word) : Option Instr := (decodeFields (fieldsOf w)).filter Instr.wf

/-- The little-endian word of four bytes (R9). -/
def wordOfBytes (b0 b1 b2 b3 : Byte) : Word := b3 ++ b2 ++ b1 ++ b0

/-- The four bytes of a word as memory holds them (R9). -/
def bytesOfWord (w : Word) : List Byte :=
  [w.extractLsb' 0 8, w.extractLsb' 8 8, w.extractLsb' 16 8, w.extractLsb' 24 8]

/-- Decode the word at the head of a list of bytes, and give the rest. -/
def decodeBytes : List Byte → Option (Instr × List Byte)
  | b0 :: b1 :: b2 :: b3 :: rest => (decode (wordOfBytes b0 b1 b2 b3)).map fun i => (i, rest)
  | _ => none

/-- The instruction the decoder reads from a word of the opcode table, laid out in memory (R222). -/
def decodeTableWord (_nbits w : Nat) : Option Instr :=
  (decodeBytes (bytesOfWord (BitVec.ofNat 32 w))).map Prod.fst

/-- The fields of an instruction's word; an event has none. -/
def Instr.fields : Instr → Option Fields
  | .iadd d a b w st => some ⟨0x1#7, d, a, b, w.bits, st⟩
  | .isub d a b w st => some ⟨0x2#7, d, a, b, w.bits, st⟩
  | .imul d a b w st => some ⟨0x3#7, d, a, b, w.bits, st⟩
  | .imulh d a b w st => some ⟨0x4#7, d, a, b, w.bits, st⟩
  | .imulhn d a b w st => some ⟨0x5#7, d, a, b, w.bits, st⟩
  | .imad d a b w st => some ⟨0x6#7, d, a, b, w.bits, st⟩
  | .and d a b w st => some ⟨0x7#7, d, a, b, w.bits, st⟩
  | .or d a b w st => some ⟨0x8#7, d, a, b, w.bits, st⟩
  | .xor d a b w st => some ⟨0x9#7, d, a, b, w.bits, st⟩
  | .andn d a b w st => some ⟨0xa#7, d, a, b, w.bits, st⟩
  | .shl d a b w st => some ⟨0xb#7, d, a, b, w.bits, st⟩
  | .shr d a b w st => some ⟨0xc#7, d, a, b, w.bits, st⟩
  | .sar d a b w st => some ⟨0xd#7, d, a, b, w.bits, st⟩
  | .imin d a b w st => some ⟨0xe#7, d, a, b, w.bits, st⟩
  | .imax d a b w st => some ⟨0xf#7, d, a, b, w.bits, st⟩
  | .iminn d a b w st => some ⟨0x10#7, d, a, b, w.bits, st⟩
  | .imaxn d a b w st => some ⟨0x11#7, d, a, b, w.bits, st⟩
  | .iset d a b c st => some ⟨0x12#7, d, a, b, c.bits, st⟩
  | .isetn d a b c st => some ⟨0x13#7, d, a, b, c.bits, st⟩
  | .sel d a b w st => some ⟨0x14#7, d, a, b, w.bits, st⟩
  | .bfx d a b w st => some ⟨0x15#7, d, a, b, w.bits, st⟩
  | .bfi d a b w st => some ⟨0x16#7, d, a, b, w.bits, st⟩
  | .add64 d a b st => some ⟨0x17#7, d, a, b, 0#2, st⟩
  | .sub64 d a b st => some ⟨0x18#7, d, a, b, 0#2, st⟩
  | .mul64 d a b st => some ⟨0x19#7, d, a, b, 0#2, st⟩
  | .madw d a b st => some ⟨0x1a#7, d, a, b, 0#2, st⟩
  | .shfr d a b st => some ⟨0x1b#7, d, a, b, 0#2, st⟩
  | .addi d a imm st => some ⟨0x1c#7, d, a, (imm.extractLsb' 2 7), (imm.extractLsb' 0 2), st⟩
  | .andi d a imm st => some ⟨0x1d#7, d, a, (imm.extractLsb' 2 7), (imm.extractLsb' 0 2), st⟩
  | .ori d a imm st => some ⟨0x1e#7, d, a, (imm.extractLsb' 2 7), (imm.extractLsb' 0 2), st⟩
  | .xori d a imm st => some ⟨0x1f#7, d, a, (imm.extractLsb' 2 7), (imm.extractLsb' 0 2), st⟩
  | .shli d a imm st => some ⟨0x20#7, d, a, (0#4 ++ imm.extractLsb' 2 3), (imm.extractLsb' 0 2), st⟩
  | .shri d a imm st => some ⟨0x21#7, d, a, (0#4 ++ imm.extractLsb' 2 3), (imm.extractLsb' 0 2), st⟩
  | .sari d a imm st => some ⟨0x22#7, d, a, (0#4 ++ imm.extractLsb' 2 3), (imm.extractLsb' 0 2), st⟩
  | .isetlti d a imm st => some ⟨0x23#7, d, a, (imm.extractLsb' 2 7), (imm.extractLsb' 0 2), st⟩
  | .muli d a imm st => some ⟨0x24#7, d, a, (imm.extractLsb' 2 7), (imm.extractLsb' 0 2), st⟩
  | .addpi d a imm st => some ⟨0x25#7, d, a, (imm.extractLsb' 2 7), (imm.extractLsb' 0 2), st⟩
  | .lui d imm st => some ⟨0x26#7, d, (imm.extractLsb' 9 7), (imm.extractLsb' 2 7), (imm.extractLsb' 0 2), st⟩
  | .orlo d imm st => some ⟨0x27#7, d, (imm.extractLsb' 9 7), (imm.extractLsb' 2 7), (imm.extractLsb' 0 2), st⟩
  | .movi d imm st => some ⟨0x28#7, d, (imm.extractLsb' 9 7), (imm.extractLsb' 2 7), (imm.extractLsb' 0 2), st⟩
  | .movs d n st => some ⟨0x29#7, d, (n.extractLsb' 9 7), (n.extractLsb' 2 7), (n.extractLsb' 0 2), st⟩
  | .movts d n st => some ⟨0x2a#7, d, (n.extractLsb' 9 7), (n.extractLsb' 2 7), (n.extractLsb' 0 2), st⟩
  | .winb imm st => some ⟨0x2b#7, 0#7, (imm.extractLsb' 9 7), (imm.extractLsb' 2 7), (imm.extractLsb' 0 2), st⟩
  | .mov d a w st => some ⟨0x2c#7, d, a, 0#7, w.bits, st⟩
  | .not d a st => some ⟨0x2c#7, d, a, 1#7, 0#2, st⟩
  | .ineg d a st => some ⟨0x2c#7, d, a, 2#7, 0#2, st⟩
  | .iabs d a st => some ⟨0x2c#7, d, a, 3#7, 0#2, st⟩
  | .popc d a st => some ⟨0x2c#7, d, a, 4#7, 0#2, st⟩
  | .clz d a st => some ⟨0x2c#7, d, a, 5#7, 0#2, st⟩
  | .ctz d a st => some ⟨0x2c#7, d, a, 6#7, 0#2, st⟩
  | .brev d a st => some ⟨0x2c#7, d, a, 7#7, 0#2, st⟩
  | .sext8 d a st => some ⟨0x2c#7, d, a, 8#7, 0#2, st⟩
  | .sext16 d a st => some ⟨0x2c#7, d, a, 9#7, 0#2, st⟩
  | .zext8 d a st => some ⟨0x2c#7, d, a, 10#7, 0#2, st⟩
  | .zext16 d a st => some ⟨0x2c#7, d, a, 11#7, 0#2, st⟩
  | .idiv d a st => some ⟨0x2c#7, d, a, 0x10#7, 0#2, st⟩
  | .idivn d a st => some ⟨0x2c#7, d, a, 0x11#7, 0#2, st⟩
  | .irem d a st => some ⟨0x2c#7, d, a, 0x12#7, 0#2, st⟩
  | .iremn d a st => some ⟨0x2c#7, d, a, 0x13#7, 0#2, st⟩
  | .cvt d a src dst sat rnd st => some ⟨0x2d#7, d, a, (src.bits ++ dst.bits ++ (BitVec.ofBool sat)), rnd.bits, st⟩
  | .voteany d a st => some ⟨0x2e#7, d, a, 0#7, 0#2, st⟩
  | .voteall d a st => some ⟨0x2e#7, d, a, 1#7, 0#2, st⟩
  | .ballot d a st => some ⟨0x2e#7, d, a, 2#7, 0#2, st⟩
  | .active d st => some ⟨0x2e#7, d, 0#7, 3#7, 0#2, st⟩
  | .matchLanes d a st => some ⟨0x2e#7, d, a, 4#7, 0#2, st⟩
  | .first d a st => some ⟨0x2e#7, d, a, 5#7, 0#2, st⟩
  | .shflIdx d a b st => some ⟨0x2f#7, d, a, b, 0#2, st⟩
  | .shflUp d a b st => some ⟨0x2f#7, d, a, b, 1#2, st⟩
  | .shflDown d a b st => some ⟨0x2f#7, d, a, b, 2#2, st⟩
  | .shflXor d a b st => some ⟨0x2f#7, d, a, b, 3#2, st⟩
  | .brz a off st => some ⟨0x30#7, a, (off.extractLsb' 9 7), (off.extractLsb' 2 7), (off.extractLsb' 0 2), st⟩
  | .brnz a off st => some ⟨0x31#7, a, (off.extractLsb' 9 7), (off.extractLsb' 2 7), (off.extractLsb' 0 2), st⟩
  | .brltz a off st => some ⟨0x32#7, a, (off.extractLsb' 9 7), (off.extractLsb' 2 7), (off.extractLsb' 0 2), st⟩
  | .brgez a off st => some ⟨0x33#7, a, (off.extractLsb' 9 7), (off.extractLsb' 2 7), (off.extractLsb' 0 2), st⟩
  | .jmp off st => some ⟨0x34#7, (off.extractLsb' 16 7), (off.extractLsb' 9 7), (off.extractLsb' 2 7), (off.extractLsb' 0 2), st⟩
  | .call off st => some ⟨0x35#7, (off.extractLsb' 16 7), (off.extractLsb' 9 7), (off.extractLsb' 2 7), (off.extractLsb' 0 2), st⟩
  | .calli a pair st => some ⟨0x36#7, 0#7, a, 0#7, (0#1 ++ (BitVec.ofBool pair)), st⟩
  | .jmpi a pair st => some ⟨0x37#7, 0#7, a, 0#7, (0#1 ++ (BitVec.ofBool pair)), st⟩
  | .jpush off st => some ⟨0x38#7, (off.extractLsb' 16 7), (off.extractLsb' 9 7), (off.extractLsb' 2 7), (off.extractLsb' 0 2), st⟩
  | .rejoin st => some ⟨0x39#7, 0#7, 0#7, 0#7, 0#2, st⟩
  | .brkn n st => some ⟨0x3a#7, 0#7, (n.extractLsb' 9 7), (n.extractLsb' 2 7), (n.extractLsb' 0 2), st⟩
  | .exit st => some ⟨0x3b#7, 0#7, 0#7, 0#7, 0#2, st⟩
  | .reform st => some ⟨0x3c#7, 0#7, 0#7, 0#7, 0#2, st⟩
  | .yield st => some ⟨0x3d#7, 0#7, 0#7, 0#7, 0#2, st⟩
  | .nop st => some ⟨0x3e#7, 0#7, 0#7, 0#7, 0#2, st⟩
  | .trap code st => some ⟨0x3f#7, 0#7, 0#7, (0#1 ++ code.extractLsb' 2 6), (code.extractLsb' 0 2), st⟩
  | .brk code st => some ⟨0x40#7, 0#7, 0#7, (0#1 ++ code.extractLsb' 2 6), (code.extractLsb' 0 2), st⟩
  | .svc code st => some ⟨0x41#7, 0#7, 0#7, (0#1 ++ code.extractLsb' 2 6), (code.extractLsb' 0 2), st⟩
  | .eretRetry st => some ⟨0x42#7, 0#7, 0#7, 0#7, 0#2, st⟩
  | .eretSkip st => some ⟨0x42#7, 0#7, 0#7, 0#7, 1#2, st⟩
  | .eretSubst a st => some ⟨0x42#7, 0#7, a, 0#7, 2#2, st⟩
  | .isync st => some ⟨0x43#7, 0#7, 0#7, 0#7, 0#2, st⟩
  | .icinv d a sync st => some ⟨0x44#7, d, a, (0#6 ++ (BitVec.ofBool sync)), 0#2, st⟩
  | .cycles d st => some ⟨0x45#7, d, 0#7, 0#7, 0#2, st⟩
  | .launch d a st => some ⟨0x46#7, d, a, 0#7, 0#2, st⟩
  | .fadd d a b w st => some ⟨0x47#7, d, a, b, w.bits, st⟩
  | .fsub d a b w st => some ⟨0x48#7, d, a, b, w.bits, st⟩
  | .fmul d a b w st => some ⟨0x49#7, d, a, b, w.bits, st⟩
  | .ffma d a b w st => some ⟨0x4a#7, d, a, b, w.bits, st⟩
  | .fmin d a b w st => some ⟨0x4b#7, d, a, b, w.bits, st⟩
  | .fmax d a b w st => some ⟨0x4c#7, d, a, b, w.bits, st⟩
  | .fcmp d a b c st => some ⟨0x4d#7, d, a, b, c.bits, st⟩
  | .fcmpm d a b c st => some ⟨0x4e#7, d, a, b, c.bits, st⟩
  | .fdiv d a b w st => some ⟨0x4f#7, d, a, b, w.bits, st⟩
  | .fabs d a f st => some ⟨0x50#7, d, a, 0#7, f.bits, st⟩
  | .fneg d a f st => some ⟨0x50#7, d, a, 1#7, f.bits, st⟩
  | .ffloor d a f st => some ⟨0x50#7, d, a, 2#7, f.bits, st⟩
  | .fceil d a f st => some ⟨0x50#7, d, a, 3#7, f.bits, st⟩
  | .fround d a f st => some ⟨0x50#7, d, a, 4#7, f.bits, st⟩
  | .ftrunc d a f st => some ⟨0x50#7, d, a, 5#7, f.bits, st⟩
  | .ffrac d a f st => some ⟨0x50#7, d, a, 6#7, f.bits, st⟩
  | .fsqrt d a f st => some ⟨0x50#7, d, a, 8#7, f.bits, st⟩
  | .frcp d a f st => some ⟨0x50#7, d, a, 9#7, f.bits, st⟩
  | .frsq d a f st => some ⟨0x50#7, d, a, 10#7, f.bits, st⟩
  | .fexp2 d a f st => some ⟨0x50#7, d, a, 11#7, f.bits, st⟩
  | .flog2 d a f st => some ⟨0x50#7, d, a, 12#7, f.bits, st⟩
  | .fexp d a f st => some ⟨0x50#7, d, a, 13#7, f.bits, st⟩
  | .flog d a f st => some ⟨0x50#7, d, a, 14#7, f.bits, st⟩
  | .fsinpi d a f st => some ⟨0x50#7, d, a, 15#7, f.bits, st⟩
  | .fcospi d a f st => some ⟨0x50#7, d, a, 0x10#7, f.bits, st⟩
  | .ftanh d a f st => some ⟨0x50#7, d, a, 0x11#7, f.bits, st⟩
  | .fsigm d a f st => some ⟨0x50#7, d, a, 0x12#7, f.bits, st⟩
  | .fgelu d a f st => some ⟨0x50#7, d, a, 0x13#7, f.bits, st⟩
  | .ferf d a f st => some ⟨0x50#7, d, a, 0x14#7, f.bits, st⟩
  | .fsqrtx d a st => some ⟨0x50#7, d, a, 0x30#7, 0#2, st⟩
  | .frcpx d a st => some ⟨0x50#7, d, a, 0x31#7, 0#2, st⟩
  | .frsqx d a st => some ⟨0x50#7, d, a, 0x32#7, 0#2, st⟩
  | .fexp2x d a st => some ⟨0x50#7, d, a, 0x33#7, 0#2, st⟩
  | .flog2x d a st => some ⟨0x50#7, d, a, 0x34#7, 0#2, st⟩
  | .fsinpix d a st => some ⟨0x50#7, d, a, 0x35#7, 0#2, st⟩
  | .fcospix d a st => some ⟨0x50#7, d, a, 0x36#7, 0#2, st⟩
  | .ftanhx d a st => some ⟨0x50#7, d, a, 0x37#7, 0#2, st⟩
  | .padd2 d a b bf st => some ⟨0x51#7, d, a, b, (0#1 ++ (BitVec.ofBool bf)), st⟩
  | .pmul2 d a b bf st => some ⟨0x52#7, d, a, b, (0#1 ++ (BitVec.ofBool bf)), st⟩
  | .pfma2 d a b bf st => some ⟨0x53#7, d, a, b, (0#1 ++ (BitVec.ofBool bf)), st⟩
  | .pmax2 d a b bf st => some ⟨0x54#7, d, a, b, (0#1 ++ (BitVec.ofBool bf)), st⟩
  | .pmin2 d a b bf st => some ⟨0x55#7, d, a, b, (0#1 ++ (BitVec.ofBool bf)), st⟩
  | .redmax d a t st => some ⟨0x56#7, d, a, 0#7, t.bits, st⟩
  | .redmin d a t st => some ⟨0x56#7, d, a, 1#7, t.bits, st⟩
  | .redsum d a st => some ⟨0x56#7, d, a, 2#7, 0#2, st⟩
  | .redvar d a st => some ⟨0x56#7, d, a, 3#7, 0#2, st⟩
  | .rediadd d a t st => some ⟨0x56#7, d, a, 4#7, t.bits, st⟩
  | .redand d a t st => some ⟨0x56#7, d, a, 5#7, t.bits, st⟩
  | .redor d a t st => some ⟨0x56#7, d, a, 6#7, t.bits, st⟩
  | .redxor d a t st => some ⟨0x56#7, d, a, 7#7, t.bits, st⟩
  | .plyget d a k st => some ⟨0x57#7, d, a, (0#3 ++ k), 0#2, st⟩
  | .plyset d a k st => some ⟨0x57#7, d, a, (1#3 ++ k), 0#2, st⟩
  | .plyzero d k st => some ⟨0x57#7, d, 0#7, (2#3 ++ k), 0#2, st⟩
  | .plylose d st => some ⟨0x57#7, d, 0#7, 0x30#7, 0#2, st⟩
  | .plytag d a st => some ⟨0x57#7, d, a, 0x40#7, 0#2, st⟩
  | .plyclrk d st => some ⟨0x57#7, d, 0#7, 0x50#7, 0#2, st⟩
  | .drev d a b w st => some ⟨0x58#7, d, a, b, w.bits, st⟩
  | .dflip d a b w st => some ⟨0x59#7, d, a, b, w.bits, st⟩
  | .ldb d a imm st => some ⟨0x5a#7, d, a, imm, 0#2, st⟩
  | .ldbs d a imm st => some ⟨0x5b#7, d, a, imm, 0#2, st⟩
  | .ldh d a imm st => some ⟨0x5c#7, d, a, imm, 0#2, st⟩
  | .ldhs d a imm st => some ⟨0x5d#7, d, a, imm, 0#2, st⟩
  | .ldw d a imm w st => some ⟨0x5e#7, d, a, imm, w.bits, st⟩
  | .stb d a imm st => some ⟨0x5f#7, d, a, imm, 0#2, st⟩
  | .sth d a imm st => some ⟨0x60#7, d, a, imm, 0#2, st⟩
  | .stw d a imm w st => some ⟨0x61#7, d, a, imm, w.bits, st⟩
  | .ldt d a imm f st => some ⟨0x62#7, d, a, imm, f.bits, st⟩
  | .stt d a imm f st => some ⟨0x63#7, d, a, imm, f.bits, st⟩
  | .ldfe d a imm w st => some ⟨0x64#7, d, a, imm, w.bits, st⟩
  | .ldfec d a imm w st => some ⟨0x65#7, d, a, imm, w.bits, st⟩
  | .stfe d a imm w st => some ⟨0x66#7, d, a, imm, w.bits, st⟩
  | .lda d a sc pair st => some ⟨0x67#7, d, a, (BitVec.ofNat 7 sc.code), (0#1 ++ (BitVec.ofBool pair)), st⟩
  | .stl d a sc pair st => some ⟨0x68#7, d, a, (BitVec.ofNat 7 sc.code), (0#1 ++ (BitVec.ofBool pair)), st⟩
  | .fenceAcq sc st => some ⟨0x69#7, 0#7, 0#7, (0#3 ++ (BitVec.ofNat 4 sc.code)), 0#2, st⟩
  | .fenceRel sc st => some ⟨0x69#7, 0#7, 0#7, (1#3 ++ (BitVec.ofNat 4 sc.code)), 0#2, st⟩
  | .fenceAcqrel sc st => some ⟨0x69#7, 0#7, 0#7, (2#3 ++ (BitVec.ofNat 4 sc.code)), 0#2, st⟩
  | .fenceSc sc st => some ⟨0x69#7, 0#7, 0#7, (3#3 ++ (BitVec.ofNat 4 sc.code)), 0#2, st⟩
  | .fenceIfetch sc st => some ⟨0x69#7, 0#7, 0#7, (4#3 ++ (BitVec.ofNat 4 sc.code)), 0#2, st⟩
  | .fenceTable sc st => some ⟨0x69#7, 0#7, 0#7, (5#3 ++ (BitVec.ofNat 4 sc.code)), 0#2, st⟩
  | .atomc d a k w st => some ⟨0x6a#7, d, a, k.bits, w.bits, st⟩
  | .atomq d a k w st => some ⟨0x6b#7, d, a, k.bits, w.bits, st⟩
  | .atomd d a k w st => some ⟨0x6c#7, d, a, k.bits, w.bits, st⟩
  | .atomp d a k w st => some ⟨0x6d#7, d, a, k.bits, w.bits, st⟩
  | .atomx d a k sys st => some ⟨0x6e#7, d, a, k.bits, (0#1 ++ (BitVec.ofBool sys)), st⟩
  | .spl a imm st => some ⟨0x6f#7, 0#7, a, (imm.extractLsb' 2 7), (imm.extractLsb' 0 2), st⟩
  | .fil d imm st => some ⟨0x70#7, d, 0#7, (imm.extractLsb' 2 7), (imm.extractLsb' 0 2), st⟩
  | .qacq quad imm st => some ⟨0x71#7, 0#7, (0#6 ++ (BitVec.ofBool quad)), (imm.extractLsb' 2 7), (imm.extractLsb' 0 2), st⟩
  | .qfill d quad imm st => some ⟨0x71#7, d, (4#6 ++ (BitVec.ofBool quad)), (imm.extractLsb' 2 7), (imm.extractLsb' 0 2), st⟩
  | .qtake d quad imm st => some ⟨0x71#7, d, (8#6 ++ (BitVec.ofBool quad)), (imm.extractLsb' 2 7), (imm.extractLsb' 0 2), st⟩
  | .qdone quad imm st => some ⟨0x71#7, 0#7, (12#6 ++ (BitVec.ofBool quad)), (imm.extractLsb' 2 7), (imm.extractLsb' 0 2), st⟩
  | .qtry d quad imm st => some ⟨0x71#7, d, (0x10#6 ++ (BitVec.ofBool quad)), (imm.extractLsb' 2 7), (imm.extractLsb' 0 2), st⟩
  | .bararr d l imm st => some ⟨0x71#7, d, (5#4 ++ l.bits), (imm.extractLsb' 2 7), (imm.extractLsb' 0 2), st⟩
  | .barwait l imm st => some ⟨0x71#7, 0#7, (6#4 ++ l.bits), (imm.extractLsb' 2 7), (imm.extractLsb' 0 2), st⟩
  | .bar d l imm st => some ⟨0x71#7, d, (7#4 ++ l.bits), (imm.extractLsb' 2 7), (imm.extractLsb' 0 2), st⟩
  | .qfence mask st => some ⟨0x71#7, 0#7, 0x40#7, (mask.extractLsb' 2 7), (mask.extractLsb' 0 2), st⟩
  | .bcopy a st => some ⟨0x72#7, 0#7, a, 0#7, 0#2, st⟩
  | .stream a st => some ⟨0x73#7, 0#7, a, 0#7, 0#2, st⟩
  | .qld d q w st => some ⟨0x74#7, d, 0#7, (0#4 ++ q), w.bits, st⟩
  | .coll a st => some ⟨0x75#7, 0#7, a, 0#7, 0#2, st⟩
  | .msignBind d a st => some ⟨0x76#7, d, a, 0#7, 0#2, st⟩
  | .msignRelease d st => some ⟨0x76#7, d, 0#7, 1#7, 0#2, st⟩
  | .mma d a b st => some ⟨0x77#7, d, a, b, 0#2, st⟩
  | .mdrain d a b st => some ⟨0x78#7, d, a, b, 0#2, st⟩
  | .mzero st => some ⟨0x79#7, 0#7, 0#7, 0#7, 0#2, st⟩
  | .mloadc a st => some ⟨0x79#7, 0#7, a, 1#7, 0#2, st⟩
  | .mhist d a st => some ⟨0x79#7, d, a, 2#7, 0#2, st⟩
  | .mhclr d st => some ⟨0x79#7, d, 0#7, 3#7, 0#2, st⟩
  | .mwait d st => some ⟨0x79#7, d, 0#7, 4#7, 0#2, st⟩
  | .tex d a ply half st => some ⟨0x7a#7, d, a, (0#6 ++ (BitVec.ofBool ply)), (0#1 ++ (BitVec.ofBool half)), st⟩
  | .texf d a half st => some ⟨0x7b#7, d, a, 0#7, (0#1 ++ (BitVec.ofBool half)), st⟩
  | .lins d a st => some ⟨0x7b#7, d, a, 1#7, 0#2, st⟩
  | .lres d a st => some ⟨0x7b#7, d, a, 2#7, 0#2, st⟩
  | .lcnt d a st => some ⟨0x7b#7, d, a, 3#7, 0#2, st⟩
  | .lclr a st => some ⟨0x7b#7, 0#7, a, 4#7, 0#2, st⟩
  | .ztest d a st => some ⟨0x7b#7, d, a, 5#7, 0#2, st⟩
  | .omerge a st => some ⟨0x7b#7, 0#7, a, 6#7, 0#2, st⟩
  | .vemit d a st => some ⟨0x7b#7, d, a, 7#7, 0#2, st⟩
  | .pemit a st => some ⟨0x7b#7, 0#7, a, 8#7, 0#2, st⟩
  | .draw d a st => some ⟨0x7b#7, d, a, 9#7, 0#2, st⟩
  | .lcomp d a st => some ⟨0x7b#7, d, a, 10#7, 0#2, st⟩
  | .trvbox d a st => some ⟨0x7c#7, d, a, 0#7, 0#2, st⟩
  | .trvtri d a st => some ⟨0x7c#7, d, a, 1#7, 0#2, st⟩
  | .trvomm d a st => some ⟨0x7c#7, d, a, 2#7, 0#2, st⟩
  | .trvpush a st => some ⟨0x7c#7, 0#7, a, 3#7, 0#2, st⟩
  | .trvpop d st => some ⟨0x7c#7, d, 0#7, 4#7, 0#2, st⟩
  | .trvstep d a st => some ⟨0x7c#7, d, a, 5#7, 0#2, st⟩
  | .ldwv d a imm w st => some ⟨0x7d#7, d, a, imm, w.bits, st⟩
  | .stwv d a imm w st => some ⟨0x7e#7, d, a, imm, w.bits, st⟩
  | .walkMigReread _ _ => none
  | .variableResultArrive _ _ _ => none
  | .storeQueueDrain _ _ => none
  | .atomicRmwPerform _ _ => none
  | .hangTimeout _ _ => none
  | .starvationTimeout _ _ => none
  | .yieldExpiry _ _ => none
  | .bobbinDraw _ _ => none
  | .deal _ => none
  | .blockEnd _ => none
  | .blockSave _ => none
  | .blockRestore _ => none
  | .migration _ _ _ => none
  | .shootdown _ _ _ _ _ => none
  | .shootdownAck _ => none
  | .dirtyLogDrain _ => none
  | .patrolScrub _ _ => none
  | .retentionEntry _ => none
  | .retentionExit _ _ => none
  | .poisonClear _ _ => none
  | .engineCommandStart _ _ => none
  | .engineChunk _ _ _ => none
  | .tokenDeposit _ _ => none
  | .streamElement _ _ _ _ => none
  | .collCombine _ _ => none
  | .collPeerTimeout _ => none
  | .launchQueueAdvance _ => none
  | .drawQueueAdvance _ => none
  | .queueRefill _ _ _ => none
  | .queueQuotaRestore _ => none
  | .replayNodeReady _ _ _ => none
  | .replayNodeComplete _ _ _ => none
  | .completionRecord _ _ => none
  | .mmaArray _ => none
  | .mdrainArray _ => none
  | .mzeroExec _ => none
  | .mloadcExec _ => none
  | .mhistExec _ => none
  | .mhclrExec _ => none
  | .mwaitDeposit _ => none
  | .mcJoinTimeout _ => none
  | .msignReleaseComplete _ _ => none
  | .rasteriseTile _ _ => none
  | .layerInsert _ _ => none
  | .layerPoolGrow _ _ => none
  | .lclrExec _ => none
  | .seal _ _ => none
  | .serviceCallPerform _ _ => none
  | .retiredEmulation _ _ => none
  | .preemptRequest _ _ => none
  | .drawGraceExpiry _ => none
  | .kick _ _ => none
  | .resume _ => none
  | .hostackContinue _ _ => none
  | .hostackPoolgrow _ _ _ => none
  | .hostackPoolmerge _ _ => none
  | .controlWindowWrite _ _ _ => none
  | .graphUpload _ _ => none
  | .codeObjectLoad _ _ _ => none
  | .codeObjectUnload _ _ => none
  | .targetCreate _ _ _ => none
  | .keyRegister _ _ _ => none
  | .hostRepairRequest _ _ => none
  | .firmwareImage _ => none
  | .powerUp _ => none
  | .ownershipClaim _ => none
  | .ownershipHandover _ _ => none
  | .handoverAccept _ => none
  | .linkLoss _ => none
  | .portFailure _ => none
  | .remoteWindowAccess _ _ _ _ _ => none
  | .thermalStop => none
  | .fixedLatencyResult _ _ _ => none
  | .withheldCycle _ => none
  | .wordNotInstruction _ => none
  | .instructionFetchFault _ _ => none
/-- The word of an instruction (R222, R223). -/
def encode (i : Instr) : Option Word := i.fields.map pack

/-- Is the major opcode one of the retired words of R246? -/
def retiredFields (f : Fields) : Bool :=
  f.op == 0x7d#7 || f.op == 0x7e#7 || (f.op == 0x50#7 && f.b.toNat ≥ 0x30 && f.b.toNat ≤ 0x37)

/-- Check 1 of R244: major 0x00 or 0x7F is IllegalInstruction. -/
def illegalFields (f : Fields) : Bool := f.op == 0#7 || f.op == 0x7f#7

end Sys2Proof
end

