-- ==== Sys2Proof/Machine/State.lean ====
section
/-! DEFINITION. The state of the VZ2 as plain data: everything the spec gives the machine, and the few fields the model
adds (who acts next, a counter of free values), which INVENTORY.md marks as its own. -/

namespace Sys2Proof.Machine

/-- Why the machine stops. -/
inductive Fault where
  /-- Raised by `step` once THERMAL_STOP has removed power from the compute dies (R378): nothing runs after it. Safe. -/
  | poweredOff
  deriving DecidableEq, Repr

/-- Why an instruction has no meaning in the model. -/
inductive Refusal where
  /-- Raised by an arm of `exec` whose instruction is not modelled yet. Safe: nothing is claimed of it. -/
  | notModelled (mnemonic : String)
  deriving DecidableEq, Repr

/-- The ply STATE of a register tag (R184). -/
inductive PlyTag where
  | zero | live | lost
  deriving DecidableEq, Repr

/-- A register: value, STATE, KINK and partials (R53, R184). Partials that are not listed are +0. -/
structure Reg where
  val : Word
  tag : PlyTag
  kink : Bool
  parts : List Word
  deriving DecidableEq, Repr

/-- A value with ZERO plies and KINK clear (R184). -/
def Reg.plain (v : Word) : Reg := ⟨v, .zero, false, []⟩

/-- A thread's name: its block and its index in the block (R131). -/
structure TRef where
  blk : Nat
  tid : Nat
  deriving DecidableEq, Repr

/-- The roles of a block, in their order (R131). -/
inductive Role where
  | main | copy | matrix | epilogue
  deriving DecidableEq, Repr

/-- The progress classes (R145). -/
inductive ProgClass where
  | c | p | w
  deriving DecidableEq, Repr

/-- When a fixed-latency result arrives, and whether its last cycle is tracked by the hardware (R225, R183); none for a
variable-latency result. -/
abbrev Due := Option (Nat × Bool)

/-- A result on its way (R225). `dead` once a later write of the thread has taken the register (R227); `held` while the
result is not yet known: it comes with a seal (R278). -/
structure Pending where
  reg : Nat
  res : Reg
  due : Due
  dead : Bool
  held : Bool
  deriving DecidableEq, Repr

/-- Where an access goes once translated: a block's own memory (R57), or a pod physical address (R31). -/
inductive Loc where
  | win (blk off : Nat)
  | phys (pa : Nat)
  deriving DecidableEq, Repr

/-- One write that waits in a store queue, or in a quarantine (R97, R104, R113). `fill` marks a STFE (R300). -/
structure QWrite where
  t : TRef
  loc : Loc
  bytes : List Byte
  fill : Bool
  deriving DecidableEq, Repr

/-- An atomic on its way to its agent (R67, R304): the operation, the operands, the first result register, and the issue that it belongs
to, by core, cycle and slot, with its lane's place in that issue. -/
structure Rmw where
  op : AtomOp
  ty : AtomType
  loc : Loc
  x : Addr
  c : Addr
  reg : Nat
  issue : Nat × Nat × Nat
  rank : Nat
  deriving DecidableEq, Repr

/-- A full/empty load that waits at the bank of its own window (R59, R300): its destination registers, the offset and the
words it reads, whether it empties, and the number of its arrival. -/
structure FeWait where
  dst : List Nat
  off : Nat
  words : Nat
  empties : Bool
  order : Nat
  deriving DecidableEq, Repr

/-- What a parked thread waits for; `sealRest` is a seal inside a STT, with the elements still to be written (R133, R137, R139, R146, R206, R246, R269, R272, R319, R320, R368). -/
inductive Park where
  | rejoin
  | collective (i : Instr)
  | ready (i : Instr)
  | barrier (level : BarLevel) (id phase : Nat)
  | granule (w : FeWait)
  | atomic (r : Rmw)
  | unbind (cv : Nat)
  | exit
  | reform
  | round
  | layer (i : Instr) (n : Nat)
  | pool (i : Instr)
  | service (code : Nat)
  | retired (word : Word)
  | seal (before : Bool)
  | sealRest (rest : List (Addr × Loc × List Byte))
  | poison (sub : Nat) (mask : BitVec 64) (first : Nat) (word : Word)
  deriving DecidableEq, Repr

/-- The trap special registers (R214): CAUSE and IN of %trapcause, the faulting pc, the mask, FIRST and SUB, the word, the
handler address. -/
structure TrapRegs where
  inHandler : Bool
  cause : BitVec 8
  epc : BitVec 48
  mask : BitVec 64
  first : BitVec 6
  sub : BitVec 8
  inst : Word
  vec : BitVec 48
  deriving DecidableEq, Repr

/-- A fragment thread's place in its draw (R345, R347), and which of LINS (0), ZTEST (1) and OMERGE (2) it has performed
(R204). -/
structure Frag where
  draw : Nat
  x : Nat
  y : Nat
  prim : Nat
  cov : Nat
  did : List Nat
  deriving DecidableEq, Repr

/-- One thread (R130). `barAt` is the address of a BAR whose arrival has been counted and whose wait has not ended (R310,
R147); `word` is the word it issued last, for %trapinst (R214); `walk` is the address whose walk waits for a migrating
node (R38); `again` marks an instruction that has been issued, has waited, and is performed when it is issued once more: it
keeps the operands that it read (R227). `acq` and `table` are the model's own: memory as it stood, with the thread's own writes, when the
thread last could have learnt of another's writes, and the same as of its last FENCE table, which its lookups may still see (R114). -/
structure Thread where
  role : Role
  strand : Nat
  lane : Nat
  live : Bool
  filed : Bool
  pc : Addr
  wb : Nat
  regs : List Reg
  pend : List Pending
  stall : Nat
  spills : List (Nat × Reg)
  trap : TrapRegs
  fpctl : BitVec 5
  fpflags : BitVec 5
  plystride : BitVec 24
  chk : Bool
  park : Option Park
  yield : Nat
  age : Nat
  starve : Nat
  hang : Nat
  overflow : List (Addr × Addr)
  trvCount : Nat
  trvRestart : Bool
  phases : List (BarLevel × Nat × Nat)
  cv : Option (Nat × Nat)
  frag : Option Frag
  sig : BitVec 64
  recs : Nat
  sealed : Bool
  barAt : Option Addr
  word : Word
  walk : Option Addr
  again : Bool
  acq : List Host.Cell
  table : List Host.Cell
  deriving DecidableEq, Repr

/-- An entry of a strand's rejoin file (R137): the rejoin pc, the JPUSH's address, the threads that pushed it and those of
them that have arrived; `fresh` in the cycle in which it was pushed, when the other port does not see it yet (R267). -/
structure RejoinEntry where
  pc : Addr
  at_ : Addr
  mask : List TRef
  arrived : List TRef
  fresh : Bool
  deriving DecidableEq, Repr

/-- A strand's loop buffer (R90): the target and the branch that bound it, and the words fetched since entry. -/
structure LoopBuf where
  lo : Nat
  hi : Nat
  words : List (Nat × Word)
  deriving DecidableEq, Repr

/-- One operand queue of a strand (R314): its elements, as lists of words. -/
abbrev OperandQueue := List (List Word)

/-- One strand (R130, R132, R137, R138, R90, R297, R314). `holds` are the content hashes of the code objects that it executes
from (R385). A strand that a bobbin has made of threads of several blocks (R142)
stands in each of these blocks, as equal parts under one name `joint`: the place of its first part. -/
structure Strand where
  role : Role
  slot : Nat
  off : Nat
  live : Bool
  rejoin : List RejoinEntry
  serial : Bool
  loopBuf : Option LoopBuf
  prefetched : List (Nat × Word)
  queue : List QWrite
  opq : List OperandQueue
  age : Nat
  joint : Option (Nat × Nat)
  holds : List (List Byte)
  deriving DecidableEq, Repr

/-- A spindle (R306, R307): free and acquired slots, the FIFO of tokens, taken slots, the sets that wait for it in order of
arrival, by block, lowest thread and pc. -/
structure Spindle where
  free : Nat
  acq : Nat
  fifo : List Word
  taken : Nat
  waiters : List (Nat × Nat × Addr)
  deriving DecidableEq, Repr

/-- A spindle as a claim starts it (R306). -/
def Spindle.fresh : Spindle := ⟨16, 0, [], 0, []⟩

/-- An extent (R47). -/
structure Extent where
  vbase : Nat
  pages : Nat
  frame : Nat
  pkg : Nat
  rd : Bool
  wr : Bool
  deriving DecidableEq, Repr

/-- The kernel record (R357), as dispatch uses it. `code` is the base of the code object that holds it (R140). -/
structure Kernel where
  entry : Addr
  code : Addr
  block : Nat
  width : Nat
  cls : ProgClass
  bf16 : Bool
  regs : Nat
  d : Nat
  plycat : Word
  blockmem : Nat
  spill : Nat
  trvBase : Nat
  trvN : Nat
  roles : List (Nat × Nat)
  cspin : BitVec 32
  qspin : BitVec 16
  barriers : List Nat
  tvec : Option Addr
  deriving DecidableEq, Repr

/-- Where a grid's completion goes (R149, R154, R345): a core spindle of the launching block, a replay's node, or a draw. -/
inductive GridDone where
  | token (blk spindle tag : Nat)
  | node (part rep node : Nat)
  | draw (d : Nat)
  | none
  deriving DecidableEq, Repr

/-- A grid (R130, R134, R154, R157). `core` is the core from whose launch queue it came (R100), `joined` are the grids that the resident service joins to its pod barriers on this package
(R309). -/
structure Grid where
  part : Nat
  num : Nat
  kernel : Kernel
  prio : Nat
  count : Nat
  next : Nat
  quad : Nat
  doubled : Bool
  param : Addr
  done : GridDone
  ranges : List (Nat × Nat × Bool × Bool)
  ended : List (Nat × Nat)
  draw : Option (Nat × Bool)
  joined : List Nat
  core : Nat
  deriving DecidableEq, Repr

/-- Which copy of a doubled block (R365): the partner's block id. -/
inductive CopyKind where
  | single
  | leading (partner : Nat)
  | trailing (partner : Nat)
  deriving DecidableEq, Repr

/-- Why a block is saved (R79, R80, R156, R161, R85): the cause and subcode delivered, or cause 0 for a pre-emption or an
exit, the addresses whose units the delivered lanes name (R80), these lanes (R45), and whether the duty that serves the cause was
host-assisted when it was raised (R163). -/
structure SaveWhy where
  cause : Nat
  sub : Nat
  units : List Nat
  lanes : List TRef
  host : Bool
  deriving DecidableEq, Repr

/-- A save that no fault asks for: a pre-emption, an exit, or a fellow of a block that is saved (R79, R161). -/
def SaveWhy.pause : SaveWhy := ⟨0, 0, [], [], false⟩

/-- Where a block is (R79, R81): on a core, saved in a context frame, or ended. A saved block is `ready` once it may be
restored. -/
inductive Place where
  | onCore (core : Nat)
  | saved (ready : Bool) (why : SaveWhy)
  | ended
  deriving DecidableEq, Repr

/-- One operation that a queue of a core holds (R311, R320, R329, R344), each with its operand words or values. -/
inductive CmdOp where
  | copy (oct : List Word)
  | stream (oct : List Word) (strand : Nat)
  | coll (oct : List Word) (nth : Nat)
  | launch (kernel : Kernel) (oct : List Word)
  | mma (fmt : Word) (a b : Addr) (acc : Nat)
  | mdrain (opt : Word) (dst r c : Addr) (acc : Nat)
  | mzero (acc : Nat)
  | mloadc (src : Addr) (acc : Nat)
  | mhist (slot : Nat) (dst : Addr)
  | mhclr (slot : Nat)
  | mwait (word : Word)
  | draw (oct : List Word) (record : List Addr)
  | lclr (target : Addr) (word : Word)
  | join (id : Nat)
  deriving DecidableEq, Repr

/-- What an engine command has under way (R46, R111): the homes of the present chunk, of the source by pieces (address, home, bytes) and
of its first destination byte in every window; once a result is ready, the writes still to be made and the status that
follows them; the tile that a frozen MMA has taken from the bypass latch (R220, R326); and the source bytes that it read when it began, by
address, of which some granules may be the ones that it uses (log 85). -/
structure ChunkWork where
  srcs : List (Nat × Loc × Nat)
  dsts : List Loc
  busy : Bool
  outs : List (Loc × List Byte)
  status : Nat
  tile : List Word
  early : List (Nat × List Byte)
  deriving DecidableEq, Repr

/-- Nothing under way. -/
def ChunkWork.none : ChunkWork := ⟨[], [], false, [], 0, [], []⟩

/-- A queue entry: its operation, the block that issued it, whether it has started and passed its checks, how many bytes
(or elements) are done, the granules of the present chunk that are still to be written, and its status once it has
finished (R110, R313, R221); since when it stands, and what it has under way. -/
structure Cmd where
  op : CmdOp
  blk : Nat
  started : Bool
  done : Nat
  left : List Nat
  fin : Option Nat
  since : Nat
  work : ChunkWork
  deriving DecidableEq, Repr

/-- What a copy of a doubled block holds until its seals (R113, R278): a command for a queue, a QFENCE with its mask, or a
LAUNCH or DRAW with the registers, by thread, that receive its status. -/
inductive HeldOp where
  | cmd (queue : Nat) (c : Cmd)
  | fence (mask : BitVec 9)
  | status (isDraw : Bool) (dsts : List (TRef × Nat)) (oct : List Word)
  deriving DecidableEq, Repr

/-- A held operation with the lanes of its issue, lowest first, those of them that have not reached their seal, and the number of its issue
(R113, log 86). -/
structure Held where
  op : HeldOp
  lanes : List TRef
  left : List TRef
  num : Nat
  deriving DecidableEq, Repr

/-- An engine or dispatch queue with its entries in the spill ring, in order (R155). -/
structure EQueue where
  q : List Cmd
  spill : List Cmd
  deriving DecidableEq, Repr

/-- One open round of a convergence register (R317, R320): its number, the operation its first signature recorded, and the
threads that have signed. -/
structure Round where
  num : Nat
  op : CmdOp
  signed : List TRef
  deriving DecidableEq, Repr

/-- A convergence register (R317): free when `holder` is none. -/
structure CvReg where
  n : Nat
  acc : Nat
  holder : Option Nat
  bound : Nat
  nextRound : Nat
  rounds : List Round
  deriving DecidableEq, Repr

/-- A free convergence register (R317). -/
def CvReg.free : CvReg := ⟨0, 0, none, 0, 0, []⟩

/-- An accumulator of 128 × 128 f32, row-major; an empty list is all +0 (R7, R317). -/
structure Acc where
  vals : List Word
  holder : Option Nat
  deriving DecidableEq, Repr

/-- A histogram slot: 32 counters; an empty list is all 0 (R178, R331). -/
structure Hist where
  counts : List Word
  holder : Option Nat
  deriving DecidableEq, Repr

/-- What a save takes from the core's matrix unit and a restore puts back (R217, R333). -/
structure MatrixSave where
  cvs : List (Nat × CvReg)
  accs : List (Nat × Acc)
  hist : List (Nat × Hist)
  deriving DecidableEq, Repr

/-- Nothing held. -/
def MatrixSave.none : MatrixSave := ⟨[], [], []⟩

/-- The participants of a block's barriers above core level, fixed when it claimed them (R158, R309): the blocks on its quad, its die and
its package. -/
structure Claim where
  quad : List Nat
  die : List Nat
  pkg : List Nat
  deriving DecidableEq, Repr

/-- What the leading copy's operation on a quad spindle gave, for the trailing copy (R366): the spindle, the lowest thread, the result
words, or the subcode of an IllegalWait. -/
structure QuadEcho where
  id : Nat
  tid : Nat
  vals : List Word
  trap : Option Nat
  deriving DecidableEq, Repr

/-- One block (R130, R131, R56). `badMem` are the 8-byte words of its memory with an uncorrectable error, `softMem` those with
a single-bit error (R68, R69). `olds` are the old values that the leading copy's atomics have forwarded to the threads of
a trailing copy, each with the offset of an atomic on block memory, in the order of performance (R113, R366), `echoes` what its
operations on quad spindles gave. `ctx` are the pages of its context frame while it is saved, `image` the matrix save image in it, if any,
and `spillAt` the pages reserved for its spill stacks (R217, R220, R54). -/
structure Block where
  grid : Nat
  num : Nat
  copy : CopyKind
  group : Nat
  place : Place
  homeCore : Nat
  saving : Option SaveWhy
  threads : List Thread
  strands : List Strand
  memSize : Nat
  mem : List Host.Cell
  full : List Nat
  badMem : List Nat
  softMem : List Nat
  reformAge : Nat
  spindles : List (Nat × Spindle)
  extents : List Extent
  mwaitStatus : Nat
  savedCmds : List (Nat × Cmd)
  matrix : MatrixSave
  quarantine : List QWrite
  held : List Held
  reissued : Bool
  status : Nat
  filedSaved : List (Nat × Nat)
  olds : List (Nat × Option Nat × List Word)
  collCounts : List (Nat × Nat)
  echoes : List QuadEcho
  claim : Claim
  ctx : List Nat
  image : List Byte
  spillAt : List Nat
  deriving DecidableEq, Repr

/-- A bobbin (R140): its key (grid, code object base, role, pc), its threshold of a coalescing point (R149), and its
threads with their waiting counts, oldest first. -/
structure Bobbin where
  key : Option (Nat × Addr × Role × Addr)
  threads : List (TRef × Nat)
  deriving DecidableEq, Repr

/-- A cached translation (R50): the partition, the virtual page number of its first page, its pages, and the leaf. -/
structure TlbEntry where
  part : Nat
  vpn : Nat
  pages : Nat
  pte : Addr
  level : Nat
  deriving DecidableEq, Repr

/-- A cached table entry of the walk cache (R50): the partition, the level, the virtual page prefix, the entry. -/
structure WalkEntry where
  part : Nat
  level : Nat
  prefix_ : Nat
  pte : Addr
  deriving DecidableEq, Repr

/-- A shootdown a core has received and not acknowledged (R88), by the number of its receipt. -/
structure Shootdown where
  part : Nat
  va : Nat
  len : Nat
  exec : Bool
  num : Nat
  deriving DecidableEq, Repr

/-- One issue: a core and slot, the threads that issue together in lane order, their pc, and the word once fetched
(R134). -/
structure Issue where
  core : Nat
  slot : Nat
  lanes : List TRef
  pc : Addr
  word : Word
  deriving DecidableEq, Repr

/-- A core's pending pre-emption request (R161): the partition, and the cycle at which the draw grace ends. -/
structure Preempt where
  part : Nat
  graceEnd : Nat
  deriving DecidableEq, Repr

/-- One physical core. `pcache` are the lines that its poison cache holds: line n has the bits of pages 512n to 512n + 511, which
are those of the bitmap at all times (R50, R51). `corrected` is its correctable-error counter (R68). The bypass latch names its holding block and its format (R326). `last` holds the issues of the latest cycle:
slot, port and lanes (R183). `turn` is the model's own: the issues of the present cycle not yet made. -/
structure Core where
  cycles : Nat
  hangExp : Nat
  starveExp : Nat
  tlb : List TlbEntry
  walkCache : List WalkEntry
  pcache : List Nat
  corrected : Nat
  icache : List (Nat × Word)
  cvs : List CvReg
  accs : List Acc
  latch : Option (Nat × Nat × List Word)
  hist : List Hist
  queues : List EQueue
  bobbins : List Bobbin
  shoots : List Shootdown
  preempt : Option Preempt
  last : List (Nat × Nat × List TRef)
  turn : List Issue
  deriving DecidableEq, Repr

/-- A core after reset (log 3). -/
def Core.reset : Core :=
  { cycles := 0, hangExp := 24, starveExp := 20, tlb := [], walkCache := [], pcache := [], corrected := 0,
    icache := [],
    cvs := List.replicate 16 CvReg.free, accs := List.replicate 4 ⟨[], none⟩, latch := none,
    hist := List.replicate 16 ⟨[], none⟩, queues := List.replicate 9 ⟨[], []⟩,
    bobbins := List.replicate 64 ⟨none, []⟩, shoots := [], preempt := none, last := [], turn := [] }

/-- The state of one node of a replay (R149, R153): waiting, performed by the replay engine as an engine command is, since a cycle, or
complete with a status. -/
inductive NodeState where
  | waiting
  | running (progress : Nat) (left : List Nat) (work : ChunkWork) (since : Nat)
  | complete (status : Nat)
  deriving DecidableEq, Repr

/-- A replay of a graph (R152, R153): its sequence number, handle, priority, the patched image, its nodes' states. -/
structure Replay where
  seq : Nat
  handle : Nat
  prio : Nat
  image : List Byte
  nodes : List NodeState
  recorded : Bool
  deriving DecidableEq, Repr

/-- An uploaded graph (R148, R151). -/
structure Graph where
  handle : Nat
  image : List Byte
  deriving DecidableEq, Repr

/-- What a notification waits for (R395). -/
inductive HostEvent where
  | repair (blk : Nat)
  | poison (blk tid : Nat)
  | pool (target : Addr)
  | notice
  deriving DecidableEq, Repr

/-- One notification posted in the service mailbox (R395): partition, duty, EVSEQ, arguments, and the event while it
waits. -/
structure Notice where
  part : Nat
  duty : Nat
  evseq : Nat
  args : List Nat
  waiting : Option HostEvent
  deriving DecidableEq, Repr

/-- A dispatch-queue entry: a grid (R155). -/
structure DQueue where
  q : List Nat
  spill : List Nat
  deriving DecidableEq, Repr

/-- One partition (R2, R33, R82, R152, R155, R163, R373). `drainOn` marks a dirty-log drain that was raised in hardware mode and is
not yet served (R86, R163). `pool` are the free frames of its pinned near memory for context frames and spill stacks (R54, R62, R217).
`resumeOn` marks a resumption that waits for its slices to leave retention (R71). -/
structure Part where
  root : BitVec 34
  tbEn : Bool
  dlBase : BitVec 31
  dlEn : Bool
  dlHead : BitVec 13
  dlTail : BitVec 13
  quota : BitVec 16
  duty : BitVec 6
  preReq : Bool
  grace : BitVec 12
  exited : Bool
  reason : BitVec 8
  kicks : List Addr
  kSeq : BitVec 32
  kHandle : BitVec 16
  kStatus : BitVec 16
  evseq : BitVec 32
  cores : List Nat
  slices : List Nat
  channels : List Nat
  freeNear : List Nat
  freeFar : List Nat
  pool : List Nat
  resumeOn : Bool
  reserve : List Addr
  exports : List (Nat × Nat × Nat × Nat)
  dispatch : List DQueue
  repaired : List (Nat × Nat)
  gridNum : Nat
  graphs : List Graph
  replays : List Replay
  thresholds : List (Nat × Addr × Nat)
  keys : List (List Byte)
  sigRequired : Bool
  scratch : List (Nat × Nat)
  targets : List Addr
  logRoom : Nat
  drainOn : Bool
  logDrained : List Addr
  migratedIn : List Nat
  collCounts : List (Nat × Nat)
  deriving DecidableEq, Repr

/-- A partition after reset (R33, R82, R155, R163, R373, R152; log 3 for what the spec gives no reset value). -/
def Part.reset : Part :=
  { root := 0, tbEn := false, dlBase := 0, dlEn := false, dlHead := 0, dlTail := 0, quota := 16, duty := 0,
    preReq := false, grace := 2048, exited := false, reason := 0, kicks := [], kSeq := 0, kHandle := 0, kStatus := 0, evseq := 0,
    cores := [], slices := [], channels := [], freeNear := [], freeFar := [], pool := [], resumeOn := false, reserve := [], exports := [],
    dispatch := List.replicate 8 ⟨[], []⟩, repaired := [], gridNum := 0, graphs := [], replays := [], thresholds := [],
    keys := [], sigRequired := false, scratch := [], targets := [], logRoom := 0, drainOn := false, logDrained := [], migratedIn := [],
    collCounts := [] }

/-- A loaded code object (R360, R361): its hash and image, the load handles that partitions hold, the objects it imports,
the partitions whose handle was withdrawn and that still drain, the pages of its code with the frames of the near copy, the frames
of its master in far channel 0 (R30), and the partitions that have it mapped. -/
structure CodeObj where
  hash : List Byte
  image : List Byte
  handles : List (Nat × Nat)
  draining : List Nat
  imports : List (List Byte)
  near : List (Nat × Nat)
  master : List Nat
  mapped : List Nat
  deriving DecidableEq, Repr

/-- The acknowledgements that a change of the tables waits for (R88): of each core, for each range of pages, of a shootdown received from a
number on, which revokes execute where that is asked for. -/
structure AckWait where
  since : Nat
  exec : Bool
  left : List (Nat × Nat × Nat)
  deriving DecidableEq, Repr

/-- A migration in progress (R75): the partition, the leaves moved (virtual page, size in pages, new frame), the direction,
and the acknowledgements that it waits for. -/
structure Migration where
  part : Nat
  leaves : List (Nat × Nat × Nat)
  toNear : Bool
  acks : AckWait
  deriving DecidableEq, Repr

/-- What the service does once every core has acknowledged: set flags in a leaf (R89), or free the old frame of a table node (R38). -/
inductive AfterAck where
  | setFlags (vpn flags : Nat)
  | freeNode (frame : Nat)
  deriving DecidableEq, Repr

/-- A change of a partition's tables that waits for acknowledgements (R88, R89). -/
structure TableChange where
  part : Nat
  act : AfterAck
  acks : AckWait
  deriving DecidableEq, Repr

/-- A page-table node that is being moved (R38): the partition, an address under it, the level of the entry that names it, that entry's
address, the new frame. -/
structure NodeMove where
  part : Nat
  va : Nat
  level : Nat
  ent : Nat
  frame : Nat
  deriving DecidableEq, Repr

/-- The resident service (R163, R370, R375, R376). `stopping` stands from a thermal stop until the compute dies are without power (R378). -/
structure Service where
  booted : Bool
  verified : Bool
  enabled : Bool
  objects : List CodeObj
  nearSlices : List Nat
  codeFrames : List Nat
  records : List (Nat × Nat)
  mailbox : List Notice
  results : List (Option Nat × List Byte)
  owner : Option Nat
  successor : Option Nat
  busy : List Nat
  ports : List Bool
  retention : List Nat
  moves : List Migration
  changes : List TableChange
  nodes : List NodeMove
  shootNum : Nat
  stopping : Bool
  deriving DecidableEq, Repr

/-- The service after reset. -/
def Service.reset : Service :=
  { booted := false, verified := false, enabled := false, objects := [], nearSlices := [], codeFrames := [],
    records := [], mailbox := [], results := [], owner := none, successor := none, busy := [],
    ports := List.replicate 8 true, retention := [], moves := [], changes := [], nodes := [], shootNum := 0, stopping := false }

/-- A vertex that VEMIT stored (R346): the block, its index, the octet and the t partials of the attributes. -/
structure Vertex where
  blk : Nat
  index : Nat
  vals : List Reg
  deriving DecidableEq, Repr

/-- A primitive that PEMIT made (R346): its vertex block number, and the three vertices, or none if it is dropped. -/
structure Prim where
  blk : Nat
  verts : List (List Reg)
  flags : Nat
  num : Option Nat
  deriving DecidableEq, Repr

/-- A layer node (R203). -/
structure LayerNode where
  depth : Word
  rgba : List Nat
  cov : Nat
  tag : Nat
  merges : Nat
  next : Nat
  dzx : Nat
  dzy : Nat
  prim : Word
  deriving DecidableEq, Repr

/-- A pixel's list as it stood before an insertion of a primitive of a draw, for the reads of lower-numbered primitives
(R204). -/
structure LayerSnap where
  target : Addr
  pixel : Nat
  prim : Nat
  nodes : List LayerNode
  deriving DecidableEq, Repr

/-- A draw that runs (R199, R345): its octet and record, its vertex grid and fragment kernel, the emitted vertices and
primitives, the screen tiles rasterised, and its fragment grids with their tile and primitive. `from_` says, by tile, from which primitive
number on its bin now is; `spills` are the tiles flushed early, each with whether its spill frame is written, and its pages (R201). -/
structure Draw where
  part : Nat
  core : Nat
  oct : List Word
  record : List Addr
  vgrid : Nat
  fkernel : Kernel
  prio : Nat
  verts : List Vertex
  prims : List Prim
  numbered : Bool
  tilesDone : List Nat
  frags : List (Nat × Nat × Nat)
  from_ : List (Nat × Nat)
  spills : List (Nat × Bool × List Nat)
  snaps : List LayerSnap
  done : GridDone
  finished : Bool
  status : Nat
  deriving DecidableEq, Repr

/-- A step that an agent takes by itself, as the model asks for it (log 4): each is one row of the opcode table. -/
inductive Event where
  | walkMigReread (blk tid : Nat)
  | variableResultArrive (blk tid reg : Nat)
  | fixedLatencyResult (blk tid reg : Nat)
  | storeQueueDrain (blk strand : Nat)
  | atomicRmwPerform (blk tid : Nat)
  | hangTimeout (blk tid : Nat)
  | starvationTimeout (blk tid : Nat)
  | yieldExpiry (blk tid : Nat)
  | bobbinDraw (core bob : Nat)
  | deal (part : Nat)
  | blockEnd (blk : Nat)
  | blockSave (blk : Nat)
  | blockRestore (blk : Nat)
  | migration (part : Nat) (va : Addr) (toNear : Bool)
  | shootdown (core part : Nat) (va : Addr) (len : Nat) (exec : Bool)
  | shootdownAck (core : Nat)
  | dirtyLogDrain (part : Nat)
  | poisonClear (part page : Nat)
  | engineCommandStart (core q : Nat)
  | engineChunk (core q : Nat) (granules : List Nat)
  | tokenDeposit (core q : Nat)
  | streamElement (core blk strand q : Nat)
  | collCombine (core : Nat) (remote : List CollShare)
  | collPeerTimeout (core : Nat)
  | launchQueueAdvance (core : Nat)
  | drawQueueAdvance (core : Nat)
  | queueRefill (ofPart : Bool) (idx q : Nat)
  | queueQuotaRestore (blk : Nat)
  | replayNodeReady (part rep node : Nat)
  | replayNodeComplete (part rep node : Nat)
  | completionRecord (part rep : Nat)
  | mmaArray (core : Nat)
  | mdrainArray (core : Nat)
  | mzeroExec (core : Nat)
  | mloadcExec (core : Nat)
  | mhistExec (core : Nat)
  | mhclrExec (core : Nat)
  | mwaitDeposit (core : Nat)
  | mcJoinTimeout (core : Nat)
  | msignReleaseComplete (blk tid : Nat)
  | rasteriseTile (draw tile : Nat)
  | layerInsert (blk tid : Nat)
  | layerPoolGrow (part : Nat) (target : Addr)
  | lclrExec (core : Nat)
  | seal (blk tid : Nat)
  | serviceCallPerform (blk tid : Nat)
  | retiredEmulation (blk tid : Nat)
  | preemptRequest (part : Nat) (cores : List Nat)
  | drawGraceExpiry (core : Nat)
  deriving DecidableEq, Repr

/-- An entry of the list of those that act next (log 4): one step of an agent, a request of a source that may or may not own the device (R376,
log 57), or one step of a core. -/
inductive Turn where
  | event (i : Instr)
  | request (source : Nat) (i : Instr)
  | core (c : Nat)
  deriving DecidableEq, Repr

/-- A quad spindle that a quad group claims (R306). -/
structure QuadSpindle where
  grid : Nat
  group : Nat
  id : Nat
  sp : Spindle
  deriving DecidableEq, Repr

/-- The machine. `poison` is the poison bitmap, as the list of the pages whose bit is set (R51, log 15); `badNear` and `softNear`
are the 8-byte words with an uncorrectable and with a single-bit error, `sliceErrs` the correctable-error counters of the near
slices (R68, R69). The last ten fields are the model's own (log 4, log 6): a number for the next QFENCE entry or parked insertion, the count of
free values used, the events that are due now, the agents that act next, the events that are enabled, how many of them act
before the next core, whether they have been counted since a core acted, the core whose turn it is, and the issue being performed. -/
structure State where
  mem : List Host.Cell
  pkg : BitVec 6
  pod : List Nat
  hv : BitVec 72
  lpct : List Byte
  poison : List Nat
  badNear : List Nat
  softNear : List Nat
  sliceErrs : List Nat
  cores : List Core
  blocks : List Block
  grids : List Grid
  parts : List Part
  qspindles : List QuadSpindle
  draws : List Draw
  svc : Service
  power : Bool
  nextJoin : Nat
  free : Nat
  due : List Event
  agenda : List Turn
  work : List Event
  batch : Nat
  quiet : Bool
  rr : Nat
  issue : Issue
  deriving DecidableEq, Repr

/-- The machine right after reset: the values the spec states (R33, R82, R144, R155, R163, R373), and for the rest the
values that log 2, log 3 and log 4 name. -/
def State.reset : State :=
  { mem := [], pkg := 0, pod := [], hv := 0, lpct := (List.range 72).map (BitVec.ofNat 8), poison := [], badNear := [],
    softNear := [], sliceErrs := List.replicate 128 0,
    cores := List.replicate 72 Core.reset, blocks := [], grids := [], parts := List.replicate 24 Part.reset,
    qspindles := [], draws := [], svc := Service.reset, power := true, nextJoin := 0, free := 0, due := [], agenda := [],
    work := [], batch := 0, quiet := false, rr := 0, issue := ⟨0, 0, [], 0, 0⟩ }

end Sys2Proof.Machine
end

