-- ==== Sys2Proof/Machine/Memory.lean ====
section
/-! DEFINITION. Memory as a list of cells in one canonical form: addresses strictly rising, and no cell that holds what an
unlisted address reads as. That value is 0 (log 2; for block memory R56 gives it). Bytes are little-endian (R9). -/

namespace Sys2Proof.Machine

/-- What an unlisted address reads as (log 2, R56). -/
def Mem.blank : Byte := 0

/-- The byte at an address. -/
def Mem.get : List Host.Cell → Nat → Byte
  | [], _ => Mem.blank
  | (k, v) :: r, a => if k = a then v else if a < k then Mem.blank else Mem.get r a

/-- Write one byte, keeping the canonical form. -/
def Mem.put : List Host.Cell → Nat → Byte → List Host.Cell
  | [], a, b => if b = Mem.blank then [] else [(a, b)]
  | (k, v) :: r, a, b =>
    if k = a then (if b = Mem.blank then r else (a, b) :: r)
    else if a < k then (if b = Mem.blank then (k, v) :: r else (a, b) :: (k, v) :: r)
    else (k, v) :: Mem.put r a b

/-- Every address listed is above `lo`, rising, and holds no blank. -/
def Mem.wfFrom : Option Nat → List Host.Cell → Bool
  | _, [] => true
  | lo, (k, v) :: r => (match lo with | none => true | some l => decide (l < k)) && v != Mem.blank && Mem.wfFrom (some k) r

/-- The canonical form. -/
def Mem.wf (m : List Host.Cell) : Bool := Mem.wfFrom none m

/-- `n` bytes from an address on. -/
def Mem.getN (m : List Host.Cell) (a : Nat) : Nat → List Byte
  | 0 => []
  | n + 1 => Mem.get m a :: Mem.getN m (a + 1) n

/-- Write bytes from an address on. -/
def Mem.putN (m : List Host.Cell) (a : Nat) : List Byte → List Host.Cell
  | [] => m
  | b :: bs => Mem.putN (Mem.put m a b) (a + 1) bs

/-- Write a list of cells, one by one. -/
def Mem.putAll (m : List Host.Cell) : List Host.Cell → List Host.Cell
  | [] => m
  | (a, b) :: r => Mem.putAll (Mem.put m a b) r

/-- Make `n` bytes from an address on blank. -/
def Mem.erase (m : List Host.Cell) (a n : Nat) : List Host.Cell :=
  m.filter fun c => c.1 < a || a + n ≤ c.1

/-- Copy `n` bytes; source and destination do not overlap. -/
def Mem.move (m : List Host.Cell) (src dst n : Nat) : List Host.Cell :=
  Mem.putAll (Mem.erase m dst n)
    ((m.filter fun c => src ≤ c.1 && c.1 < src + n).map fun c => (c.1 - src + dst, c.2))

/-- The number that bytes hold, little-endian (R9). -/
def leNat : List Byte → Nat
  | [] => 0
  | b :: r => b.toNat + 256 * leNat r

/-- `n` bytes of a number, little-endian (R9). -/
def leBytes : Nat → Nat → List Byte
  | 0, _ => []
  | n + 1, v => BitVec.ofNat 8 v :: leBytes n (v / 256)

/-- The bytes of a word. -/
def wordBytes (w : Word) : List Byte := leBytes 4 w.toNat

/-- The words that bytes hold; a short tail is dropped. -/
def wordsOf : List Byte → List Word
  | a :: b :: c :: d :: r => Word.ofNat (leNat [a, b, c, d]) :: wordsOf r
  | _ => []

/-- The first word that bytes hold, short bytes zero-extended. -/
def wordOf (l : List Byte) : Word := Word.ofNat (leNat (l.take 4))

/-- The 64-bit value that bytes hold. -/
def addrOf (l : List Byte) : Addr := Addr.ofNat (leNat (l.take 8))

/-- Lay the bytes `new`, which start at `na`, over the bytes `old`, which start at `oa`. -/
def overlay (old : List Byte) (oa : Nat) (new : List Byte) (na : Nat) : List Byte :=
  old.zipIdx.map fun (b, i) => if na ≤ oa + i && oa + i < na + new.length then new.getD (oa + i - na) b else b

end Sys2Proof.Machine
end

