-- ==== Sys2Proof/Machine/Operands.lean ====
section
/-! DEFINITION. The operand forms: the register groups of every instruction (R228, R229, R241, R260 and each chapter's own),
how a register name finds its architectural register (R230), and reading and writing registers. -/

namespace Sys2Proof.Machine

/-- The three register fields, in the order in which R245 checks their alignment. -/
inductive RegField where
  | d | a | b
  deriving DecidableEq, Repr

/-- One operand group: the field that names it, its base register and its size. -/
structure Group where
  field : RegField
  base : RegName
  size : Nat
  deriving DecidableEq, Repr

/-- The operand groups of an instruction, in the order d, a, b. `lw` is the size of a lane mask: 2 where the strand has 64
lanes, else 1 (R260). The fields of the agents' own steps name no register. -/
def Instr.groups (lw : Nat) : Instr → List Group
  | .iadd d a b w _ => [⟨.d, d, w.k⟩, ⟨.a, a, w.k⟩, ⟨.b, b, w.k⟩]
  | .isub d a b w _ => [⟨.d, d, w.k⟩, ⟨.a, a, w.k⟩, ⟨.b, b, w.k⟩]
  | .imul d a b w _ => [⟨.d, d, w.k⟩, ⟨.a, a, w.k⟩, ⟨.b, b, w.k⟩]
  | .imulh d a b w _ => [⟨.d, d, w.k⟩, ⟨.a, a, w.k⟩, ⟨.b, b, w.k⟩]
  | .imulhn d a b w _ => [⟨.d, d, w.k⟩, ⟨.a, a, w.k⟩, ⟨.b, b, w.k⟩]
  | .imad d a b w _ => [⟨.d, d, w.k⟩, ⟨.a, a, w.k⟩, ⟨.b, b, w.k⟩]
  | .and d a b w _ => [⟨.d, d, w.k⟩, ⟨.a, a, w.k⟩, ⟨.b, b, w.k⟩]
  | .or d a b w _ => [⟨.d, d, w.k⟩, ⟨.a, a, w.k⟩, ⟨.b, b, w.k⟩]
  | .xor d a b w _ => [⟨.d, d, w.k⟩, ⟨.a, a, w.k⟩, ⟨.b, b, w.k⟩]
  | .andn d a b w _ => [⟨.d, d, w.k⟩, ⟨.a, a, w.k⟩, ⟨.b, b, w.k⟩]
  | .shl d a b w _ => [⟨.d, d, w.k⟩, ⟨.a, a, w.k⟩, ⟨.b, b, w.k⟩]
  | .shr d a b w _ => [⟨.d, d, w.k⟩, ⟨.a, a, w.k⟩, ⟨.b, b, w.k⟩]
  | .sar d a b w _ => [⟨.d, d, w.k⟩, ⟨.a, a, w.k⟩, ⟨.b, b, w.k⟩]
  | .imin d a b w _ => [⟨.d, d, w.k⟩, ⟨.a, a, w.k⟩, ⟨.b, b, w.k⟩]
  | .imax d a b w _ => [⟨.d, d, w.k⟩, ⟨.a, a, w.k⟩, ⟨.b, b, w.k⟩]
  | .iminn d a b w _ => [⟨.d, d, w.k⟩, ⟨.a, a, w.k⟩, ⟨.b, b, w.k⟩]
  | .imaxn d a b w _ => [⟨.d, d, w.k⟩, ⟨.a, a, w.k⟩, ⟨.b, b, w.k⟩]
  | .iset d a b _ _ => [⟨.d, d, 1⟩, ⟨.a, a, 1⟩, ⟨.b, b, 1⟩]
  | .isetn d a b _ _ => [⟨.d, d, 1⟩, ⟨.a, a, 1⟩, ⟨.b, b, 1⟩]
  | .sel d a b w _ => [⟨.d, d, w.k⟩, ⟨.a, a, w.k⟩, ⟨.b, b, w.k⟩]
  | .bfx d a b w _ => [⟨.d, d, w.k⟩, ⟨.a, a, w.k⟩, ⟨.b, b, w.k⟩]
  | .bfi d a b w _ => [⟨.d, d, w.k⟩, ⟨.a, a, w.k⟩, ⟨.b, b, w.k⟩]
  | .add64 d a b _ => [⟨.d, d, 2⟩, ⟨.a, a, 2⟩, ⟨.b, b, 2⟩]
  | .sub64 d a b _ => [⟨.d, d, 2⟩, ⟨.a, a, 2⟩, ⟨.b, b, 2⟩]
  | .mul64 d a b _ => [⟨.d, d, 2⟩, ⟨.a, a, 2⟩, ⟨.b, b, 2⟩]
  | .madw d a b _ => [⟨.d, d, 2⟩, ⟨.a, a, 1⟩, ⟨.b, b, 1⟩]
  | .shfr d a b _ => [⟨.d, d, 1⟩, ⟨.a, a, 2⟩, ⟨.b, b, 1⟩]
  | .addi d a _ _ => [⟨.d, d, 1⟩, ⟨.a, a, 1⟩]
  | .andi d a _ _ => [⟨.d, d, 1⟩, ⟨.a, a, 1⟩]
  | .ori d a _ _ => [⟨.d, d, 1⟩, ⟨.a, a, 1⟩]
  | .xori d a _ _ => [⟨.d, d, 1⟩, ⟨.a, a, 1⟩]
  | .shli d a _ _ => [⟨.d, d, 1⟩, ⟨.a, a, 1⟩]
  | .shri d a _ _ => [⟨.d, d, 1⟩, ⟨.a, a, 1⟩]
  | .sari d a _ _ => [⟨.d, d, 1⟩, ⟨.a, a, 1⟩]
  | .isetlti d a _ _ => [⟨.d, d, 1⟩, ⟨.a, a, 1⟩]
  | .muli d a _ _ => [⟨.d, d, 1⟩, ⟨.a, a, 1⟩]
  | .addpi d a _ _ => [⟨.d, d, 2⟩, ⟨.a, a, 2⟩]
  | .lui d _ _ => [⟨.d, d, 1⟩]
  | .orlo d _ _ => [⟨.d, d, 1⟩]
  | .movi d _ _ => [⟨.d, d, 1⟩]
  | .movs d _ _ => [⟨.d, d, 1⟩]
  | .movts d _ _ => [⟨.d, d, 1⟩]
  | .mov d a w _ => [⟨.d, d, w.k⟩, ⟨.a, a, w.k⟩]
  | .not d a _ => [⟨.d, d, 1⟩, ⟨.a, a, 1⟩]
  | .ineg d a _ => [⟨.d, d, 1⟩, ⟨.a, a, 1⟩]
  | .iabs d a _ => [⟨.d, d, 1⟩, ⟨.a, a, 1⟩]
  | .popc d a _ => [⟨.d, d, 1⟩, ⟨.a, a, 1⟩]
  | .clz d a _ => [⟨.d, d, 1⟩, ⟨.a, a, 1⟩]
  | .ctz d a _ => [⟨.d, d, 1⟩, ⟨.a, a, 1⟩]
  | .brev d a _ => [⟨.d, d, 1⟩, ⟨.a, a, 1⟩]
  | .sext8 d a _ => [⟨.d, d, 1⟩, ⟨.a, a, 1⟩]
  | .sext16 d a _ => [⟨.d, d, 1⟩, ⟨.a, a, 1⟩]
  | .zext8 d a _ => [⟨.d, d, 1⟩, ⟨.a, a, 1⟩]
  | .zext16 d a _ => [⟨.d, d, 1⟩, ⟨.a, a, 1⟩]
  | .idiv d a _ => [⟨.d, d, 1⟩, ⟨.a, a, 1⟩]
  | .idivn d a _ => [⟨.d, d, 1⟩, ⟨.a, a, 1⟩]
  | .irem d a _ => [⟨.d, d, 1⟩, ⟨.a, a, 1⟩]
  | .iremn d a _ => [⟨.d, d, 1⟩, ⟨.a, a, 1⟩]
  | .cvt d a _ _ _ _ _ => [⟨.d, d, 1⟩, ⟨.a, a, 1⟩]
  | .voteany d a _ => [⟨.d, d, 1⟩, ⟨.a, a, 1⟩]
  | .voteall d a _ => [⟨.d, d, 1⟩, ⟨.a, a, 1⟩]
  | .ballot d a _ => [⟨.d, d, lw⟩, ⟨.a, a, 1⟩]
  | .active d _ => [⟨.d, d, lw⟩]
  | .matchLanes d a _ => [⟨.d, d, lw⟩, ⟨.a, a, 1⟩]
  | .first d a _ => [⟨.d, d, 1⟩, ⟨.a, a, 1⟩]
  | .shflIdx d a b _ => [⟨.d, d, 1⟩, ⟨.a, a, 1⟩, ⟨.b, b, 1⟩]
  | .shflUp d a b _ => [⟨.d, d, 1⟩, ⟨.a, a, 1⟩, ⟨.b, b, 1⟩]
  | .shflDown d a b _ => [⟨.d, d, 1⟩, ⟨.a, a, 1⟩, ⟨.b, b, 1⟩]
  | .shflXor d a b _ => [⟨.d, d, 1⟩, ⟨.a, a, 1⟩, ⟨.b, b, 1⟩]
  | .brz a _ _ => [⟨.a, a, 1⟩]
  | .brnz a _ _ => [⟨.a, a, 1⟩]
  | .brltz a _ _ => [⟨.a, a, 1⟩]
  | .brgez a _ _ => [⟨.a, a, 1⟩]
  | .calli a pair _ => [⟨.a, a, (if pair then 2 else 1)⟩]
  | .jmpi a pair _ => [⟨.a, a, (if pair then 2 else 1)⟩]
  | .eretSubst a _ => [⟨.a, a, 1⟩]
  | .icinv d a _ _ => [⟨.d, d, 1⟩, ⟨.a, a, 2⟩]
  | .cycles d _ => [⟨.d, d, 2⟩]
  | .launch d a _ => [⟨.d, d, 1⟩, ⟨.a, a, 8⟩]
  | .fadd d a b w _ => [⟨.d, d, w.k⟩, ⟨.a, a, w.k⟩, ⟨.b, b, w.k⟩]
  | .fsub d a b w _ => [⟨.d, d, w.k⟩, ⟨.a, a, w.k⟩, ⟨.b, b, w.k⟩]
  | .fmul d a b w _ => [⟨.d, d, w.k⟩, ⟨.a, a, w.k⟩, ⟨.b, b, w.k⟩]
  | .ffma d a b w _ => [⟨.d, d, w.k⟩, ⟨.a, a, w.k⟩, ⟨.b, b, w.k⟩]
  | .fmin d a b w _ => [⟨.d, d, w.k⟩, ⟨.a, a, w.k⟩, ⟨.b, b, w.k⟩]
  | .fmax d a b w _ => [⟨.d, d, w.k⟩, ⟨.a, a, w.k⟩, ⟨.b, b, w.k⟩]
  | .fcmp d a b _ _ => [⟨.d, d, 1⟩, ⟨.a, a, 1⟩, ⟨.b, b, 1⟩]
  | .fcmpm d a b _ _ => [⟨.d, d, 2⟩, ⟨.a, a, 1⟩, ⟨.b, b, 1⟩]
  | .fdiv d a b w _ => [⟨.d, d, w.k⟩, ⟨.a, a, w.k⟩, ⟨.b, b, w.k⟩]
  | .fabs d a _ _ => [⟨.d, d, 1⟩, ⟨.a, a, 1⟩]
  | .fneg d a _ _ => [⟨.d, d, 1⟩, ⟨.a, a, 1⟩]
  | .ffloor d a _ _ => [⟨.d, d, 1⟩, ⟨.a, a, 1⟩]
  | .fceil d a _ _ => [⟨.d, d, 1⟩, ⟨.a, a, 1⟩]
  | .fround d a _ _ => [⟨.d, d, 1⟩, ⟨.a, a, 1⟩]
  | .ftrunc d a _ _ => [⟨.d, d, 1⟩, ⟨.a, a, 1⟩]
  | .ffrac d a _ _ => [⟨.d, d, 1⟩, ⟨.a, a, 1⟩]
  | .fsqrt d a _ _ => [⟨.d, d, 1⟩, ⟨.a, a, 1⟩]
  | .frcp d a _ _ => [⟨.d, d, 1⟩, ⟨.a, a, 1⟩]
  | .frsq d a _ _ => [⟨.d, d, 1⟩, ⟨.a, a, 1⟩]
  | .fexp2 d a _ _ => [⟨.d, d, 1⟩, ⟨.a, a, 1⟩]
  | .flog2 d a _ _ => [⟨.d, d, 1⟩, ⟨.a, a, 1⟩]
  | .fexp d a _ _ => [⟨.d, d, 1⟩, ⟨.a, a, 1⟩]
  | .flog d a _ _ => [⟨.d, d, 1⟩, ⟨.a, a, 1⟩]
  | .fsinpi d a _ _ => [⟨.d, d, 1⟩, ⟨.a, a, 1⟩]
  | .fcospi d a _ _ => [⟨.d, d, 1⟩, ⟨.a, a, 1⟩]
  | .ftanh d a _ _ => [⟨.d, d, 1⟩, ⟨.a, a, 1⟩]
  | .fsigm d a _ _ => [⟨.d, d, 1⟩, ⟨.a, a, 1⟩]
  | .fgelu d a _ _ => [⟨.d, d, 1⟩, ⟨.a, a, 1⟩]
  | .ferf d a _ _ => [⟨.d, d, 1⟩, ⟨.a, a, 1⟩]
  | .fsqrtx d a _ => [⟨.d, d, 1⟩, ⟨.a, a, 1⟩]
  | .frcpx d a _ => [⟨.d, d, 1⟩, ⟨.a, a, 1⟩]
  | .frsqx d a _ => [⟨.d, d, 1⟩, ⟨.a, a, 1⟩]
  | .fexp2x d a _ => [⟨.d, d, 1⟩, ⟨.a, a, 1⟩]
  | .flog2x d a _ => [⟨.d, d, 1⟩, ⟨.a, a, 1⟩]
  | .fsinpix d a _ => [⟨.d, d, 1⟩, ⟨.a, a, 1⟩]
  | .fcospix d a _ => [⟨.d, d, 1⟩, ⟨.a, a, 1⟩]
  | .ftanhx d a _ => [⟨.d, d, 1⟩, ⟨.a, a, 1⟩]
  | .padd2 d a b _ _ => [⟨.d, d, 1⟩, ⟨.a, a, 1⟩, ⟨.b, b, 1⟩]
  | .pmul2 d a b _ _ => [⟨.d, d, 1⟩, ⟨.a, a, 1⟩, ⟨.b, b, 1⟩]
  | .pfma2 d a b _ _ => [⟨.d, d, 1⟩, ⟨.a, a, 1⟩, ⟨.b, b, 1⟩]
  | .pmax2 d a b _ _ => [⟨.d, d, 1⟩, ⟨.a, a, 1⟩, ⟨.b, b, 1⟩]
  | .pmin2 d a b _ _ => [⟨.d, d, 1⟩, ⟨.a, a, 1⟩, ⟨.b, b, 1⟩]
  | .redmax d a _ _ => [⟨.d, d, 1⟩, ⟨.a, a, 1⟩]
  | .redmin d a _ _ => [⟨.d, d, 1⟩, ⟨.a, a, 1⟩]
  | .redsum d a _ => [⟨.d, d, 1⟩, ⟨.a, a, 1⟩]
  | .redvar d a _ => [⟨.d, d, 4⟩, ⟨.a, a, 1⟩]
  | .rediadd d a _ _ => [⟨.d, d, 1⟩, ⟨.a, a, 1⟩]
  | .redand d a _ _ => [⟨.d, d, 1⟩, ⟨.a, a, 1⟩]
  | .redor d a _ _ => [⟨.d, d, 1⟩, ⟨.a, a, 1⟩]
  | .redxor d a _ _ => [⟨.d, d, 1⟩, ⟨.a, a, 1⟩]
  | .plyget d a _ _ => [⟨.d, d, 1⟩, ⟨.a, a, 1⟩]
  | .plyset d a _ _ => [⟨.d, d, 1⟩, ⟨.a, a, 1⟩]
  | .plyzero d _ _ => [⟨.d, d, 1⟩]
  | .plylose d _ => [⟨.d, d, 1⟩]
  | .plytag d a _ => [⟨.d, d, 1⟩, ⟨.a, a, 1⟩]
  | .plyclrk d _ => [⟨.d, d, 1⟩]
  | .drev d a b w _ => [⟨.d, d, 1⟩, ⟨.a, a, 1⟩, ⟨.b, b, w.k⟩]
  | .dflip d a b w _ => [⟨.d, d, 1⟩, ⟨.a, a, 1⟩, ⟨.b, b, w.k⟩]
  | .ldb d a _ _ => [⟨.d, d, 1⟩, ⟨.a, a, 2⟩]
  | .ldbs d a _ _ => [⟨.d, d, 1⟩, ⟨.a, a, 2⟩]
  | .ldh d a _ _ => [⟨.d, d, 1⟩, ⟨.a, a, 2⟩]
  | .ldhs d a _ _ => [⟨.d, d, 1⟩, ⟨.a, a, 2⟩]
  | .ldw d a _ w _ => [⟨.d, d, w.k⟩, ⟨.a, a, 2⟩]
  | .stb d a _ _ => [⟨.d, d, 1⟩, ⟨.a, a, 2⟩]
  | .sth d a _ _ => [⟨.d, d, 1⟩, ⟨.a, a, 2⟩]
  | .stw d a _ w _ => [⟨.d, d, w.k⟩, ⟨.a, a, 2⟩]
  | .ldt d a _ _ _ => [⟨.d, d, 1⟩, ⟨.a, a, 2⟩]
  | .stt d a _ _ _ => [⟨.d, d, 1⟩, ⟨.a, a, 2⟩]
  | .ldfe d a _ w _ => [⟨.d, d, w.k⟩, ⟨.a, a, 2⟩]
  | .ldfec d a _ w _ => [⟨.d, d, w.k⟩, ⟨.a, a, 2⟩]
  | .stfe d a _ w _ => [⟨.d, d, w.k⟩, ⟨.a, a, 2⟩]
  | .lda d a _ pair _ => [⟨.d, d, (if pair then 2 else 1)⟩, ⟨.a, a, 2⟩]
  | .stl d a _ pair _ => [⟨.d, d, (if pair then 2 else 1)⟩, ⟨.a, a, 2⟩]
  | .atomc d a k _ _ => [⟨.d, d, k.group.k⟩, ⟨.a, a, 2⟩]
  | .atomq d a k _ _ => [⟨.d, d, k.group.k⟩, ⟨.a, a, 2⟩]
  | .atomd d a k _ _ => [⟨.d, d, k.group.k⟩, ⟨.a, a, 2⟩]
  | .atomp d a k _ _ => [⟨.d, d, k.group.k⟩, ⟨.a, a, 2⟩]
  | .atomx d a k _ _ => [⟨.d, d, k.group.k⟩, ⟨.a, a, 2⟩]
  | .spl a _ _ => [⟨.a, a, 1⟩]
  | .fil d _ _ => [⟨.d, d, 1⟩]
  | .qfill d _ _ _ => [⟨.d, d, 1⟩]
  | .qtake d _ _ _ => [⟨.d, d, 1⟩]
  | .qtry d _ _ _ => [⟨.d, d, 2⟩]
  | .bararr d _ _ _ => [⟨.d, d, 1⟩]
  | .bar d _ _ _ => [⟨.d, d, 1⟩]
  | .bcopy a _ => [⟨.a, a, 8⟩]
  | .stream a _ => [⟨.a, a, 8⟩]
  | .qld d _ w _ => [⟨.d, d, w.k⟩]
  | .coll a _ => [⟨.a, a, 8⟩]
  | .msignBind _ a _ => [⟨.a, a, 1⟩]
  | .mma d a b _ => [⟨.d, d, 1⟩, ⟨.a, a, 2⟩, ⟨.b, b, 2⟩]
  | .mdrain d a b _ => [⟨.d, d, 1⟩, ⟨.a, a, 2⟩, ⟨.b, b, 4⟩]
  | .mloadc a _ => [⟨.a, a, 2⟩]
  | .mhist d a _ => [⟨.d, d, 1⟩, ⟨.a, a, 2⟩]
  | .mhclr d _ => [⟨.d, d, 1⟩]
  | .mwait d _ => [⟨.d, d, 1⟩]
  | .tex d a _ half _ => [⟨.d, d, (if half then 2 else 4)⟩, ⟨.a, a, 4⟩]
  | .texf d a half _ => [⟨.d, d, (if half then 2 else 4)⟩, ⟨.a, a, 4⟩]
  | .lins d a _ => [⟨.d, d, 1⟩, ⟨.a, a, 8⟩]
  | .lres d a _ => [⟨.d, d, 4⟩, ⟨.a, a, 4⟩]
  | .lcnt d a _ => [⟨.d, d, 1⟩, ⟨.a, a, 4⟩]
  | .lclr a _ => [⟨.a, a, 4⟩]
  | .ztest d a _ => [⟨.d, d, 1⟩, ⟨.a, a, 2⟩]
  | .omerge a _ => [⟨.a, a, 4⟩]
  | .vemit d a _ => [⟨.d, d, 1⟩, ⟨.a, a, 8⟩]
  | .pemit a _ => [⟨.a, a, 4⟩]
  | .draw d a _ => [⟨.d, d, 1⟩, ⟨.a, a, 8⟩]
  | .lcomp d a _ => [⟨.d, d, 2⟩, ⟨.a, a, 4⟩]
  | .trvbox d a _ => [⟨.d, d, 4⟩, ⟨.a, a, 8⟩]
  | .trvtri d a _ => [⟨.d, d, 4⟩, ⟨.a, a, 8⟩]
  | .trvomm d a _ => [⟨.d, d, 1⟩, ⟨.a, a, 4⟩]
  | .trvpush a _ => [⟨.a, a, 1⟩]
  | .trvpop d _ => [⟨.d, d, 1⟩]
  | .trvstep d a _ => [⟨.d, d, 4⟩, ⟨.a, a, 8⟩]
  | .ldwv d a _ w _ => [⟨.d, d, w.k⟩, ⟨.a, a, 2⟩]
  | .stwv d a _ w _ => [⟨.d, d, w.k⟩, ⟨.a, a, 2⟩]
  | .winb .. | .jmp .. | .call .. | .jpush .. | .rejoin .. | .brkn .. | .exit .. | .reform .. | .yield ..
  | .nop .. | .trap .. | .brk .. | .svc .. | .eretRetry .. | .eretSkip .. | .isync .. | .fenceAcq ..
  | .fenceRel .. | .fenceAcqrel .. | .fenceSc .. | .fenceIfetch .. | .fenceTable .. | .qacq .. | .qdone ..
  | .barwait .. | .qfence .. | .msignRelease .. | .mzero .. | .walkMigReread .. | .variableResultArrive ..
  | .storeQueueDrain .. | .atomicRmwPerform .. | .hangTimeout .. | .starvationTimeout .. | .yieldExpiry ..
  | .bobbinDraw .. | .deal .. | .blockEnd .. | .blockSave .. | .blockRestore .. | .migration .. | .shootdown ..
  | .shootdownAck .. | .dirtyLogDrain .. | .patrolScrub .. | .retentionEntry .. | .retentionExit ..
  | .poisonClear .. | .engineCommandStart .. | .engineChunk .. | .tokenDeposit .. | .streamElement ..
  | .collCombine .. | .collPeerTimeout .. | .launchQueueAdvance .. | .drawQueueAdvance .. | .queueRefill ..
  | .queueQuotaRestore .. | .replayNodeReady .. | .replayNodeComplete .. | .completionRecord .. | .mmaArray ..
  | .mdrainArray .. | .mzeroExec .. | .mloadcExec .. | .mhistExec .. | .mhclrExec .. | .mwaitDeposit ..
  | .mcJoinTimeout .. | .msignReleaseComplete .. | .rasteriseTile .. | .layerInsert .. | .layerPoolGrow ..
  | .lclrExec .. | .seal .. | .serviceCallPerform .. | .retiredEmulation .. | .preemptRequest ..
  | .drawGraceExpiry .. | .kick .. | .resume .. | .hostackContinue .. | .hostackPoolgrow ..
  | .hostackPoolmerge .. | .controlWindowWrite .. | .graphUpload .. | .codeObjectLoad .. | .codeObjectUnload ..
  | .targetCreate .. | .keyRegister .. | .hostRepairRequest .. | .firmwareImage .. | .powerUp ..
  | .ownershipClaim .. | .ownershipHandover .. | .handoverAccept .. | .linkLoss .. | .portFailure ..
  | .remoteWindowAccess .. | .thermalStop | .fixedLatencyResult .. | .withheldCycle ..
  | .wordNotInstruction .. | .instructionFetchFault .. => []

/-- The words of a value of an atomic's type (R241). -/
def AtomType.words : AtomType → Nat
  | .n64 => 2
  | _ => 1

/-- The destination of an instruction: its base register and size (R216), the registers that it writes: of a CAS the compare
half (R304), of TRVBOX d and d+1 (R349), of TRVSTEP d+2 and d+3 (R353). None where d is no destination (stores, engine
words, log 26) or there is no d. -/
def Instr.dest (lw : Nat) : Instr → Option (RegName × Nat)
  | .iadd d _ _ w _ => some (d, w.k)
  | .isub d _ _ w _ => some (d, w.k)
  | .imul d _ _ w _ => some (d, w.k)
  | .imulh d _ _ w _ => some (d, w.k)
  | .imulhn d _ _ w _ => some (d, w.k)
  | .imad d _ _ w _ => some (d, w.k)
  | .and d _ _ w _ => some (d, w.k)
  | .or d _ _ w _ => some (d, w.k)
  | .xor d _ _ w _ => some (d, w.k)
  | .andn d _ _ w _ => some (d, w.k)
  | .shl d _ _ w _ => some (d, w.k)
  | .shr d _ _ w _ => some (d, w.k)
  | .sar d _ _ w _ => some (d, w.k)
  | .imin d _ _ w _ => some (d, w.k)
  | .imax d _ _ w _ => some (d, w.k)
  | .iminn d _ _ w _ => some (d, w.k)
  | .imaxn d _ _ w _ => some (d, w.k)
  | .iset d _ _ _ _ => some (d, 1)
  | .isetn d _ _ _ _ => some (d, 1)
  | .sel d _ _ w _ => some (d, w.k)
  | .bfx d _ _ w _ => some (d, w.k)
  | .bfi d _ _ w _ => some (d, w.k)
  | .add64 d _ _ _ => some (d, 2)
  | .sub64 d _ _ _ => some (d, 2)
  | .mul64 d _ _ _ => some (d, 2)
  | .madw d _ _ _ => some (d, 2)
  | .shfr d _ _ _ => some (d, 1)
  | .addi d _ _ _ => some (d, 1)
  | .andi d _ _ _ => some (d, 1)
  | .ori d _ _ _ => some (d, 1)
  | .xori d _ _ _ => some (d, 1)
  | .shli d _ _ _ => some (d, 1)
  | .shri d _ _ _ => some (d, 1)
  | .sari d _ _ _ => some (d, 1)
  | .isetlti d _ _ _ => some (d, 1)
  | .muli d _ _ _ => some (d, 1)
  | .addpi d _ _ _ => some (d, 2)
  | .lui d _ _ => some (d, 1)
  | .orlo d _ _ => some (d, 1)
  | .movi d _ _ => some (d, 1)
  | .movs d _ _ => some (d, 1)
  | .mov d _ w _ => some (d, w.k)
  | .not d _ _ => some (d, 1)
  | .ineg d _ _ => some (d, 1)
  | .iabs d _ _ => some (d, 1)
  | .popc d _ _ => some (d, 1)
  | .clz d _ _ => some (d, 1)
  | .ctz d _ _ => some (d, 1)
  | .brev d _ _ => some (d, 1)
  | .sext8 d _ _ => some (d, 1)
  | .sext16 d _ _ => some (d, 1)
  | .zext8 d _ _ => some (d, 1)
  | .zext16 d _ _ => some (d, 1)
  | .idiv d _ _ => some (d, 1)
  | .idivn d _ _ => some (d, 1)
  | .irem d _ _ => some (d, 1)
  | .iremn d _ _ => some (d, 1)
  | .cvt d _ _ _ _ _ _ => some (d, 1)
  | .voteany d _ _ => some (d, 1)
  | .voteall d _ _ => some (d, 1)
  | .ballot d _ _ => some (d, lw)
  | .active d _ => some (d, lw)
  | .matchLanes d _ _ => some (d, lw)
  | .first d _ _ => some (d, 1)
  | .shflIdx d _ _ _ => some (d, 1)
  | .shflUp d _ _ _ => some (d, 1)
  | .shflDown d _ _ _ => some (d, 1)
  | .shflXor d _ _ _ => some (d, 1)
  | .cycles d _ => some (d, 2)
  | .launch d _ _ => some (d, 1)
  | .fadd d _ _ w _ => some (d, w.k)
  | .fsub d _ _ w _ => some (d, w.k)
  | .fmul d _ _ w _ => some (d, w.k)
  | .ffma d _ _ w _ => some (d, w.k)
  | .fmin d _ _ w _ => some (d, w.k)
  | .fmax d _ _ w _ => some (d, w.k)
  | .fcmp d _ _ _ _ => some (d, 1)
  | .fcmpm d _ _ _ _ => some (d, 2)
  | .fdiv d _ _ w _ => some (d, w.k)
  | .fabs d _ _ _ => some (d, 1)
  | .fneg d _ _ _ => some (d, 1)
  | .ffloor d _ _ _ => some (d, 1)
  | .fceil d _ _ _ => some (d, 1)
  | .fround d _ _ _ => some (d, 1)
  | .ftrunc d _ _ _ => some (d, 1)
  | .ffrac d _ _ _ => some (d, 1)
  | .fsqrt d _ _ _ => some (d, 1)
  | .frcp d _ _ _ => some (d, 1)
  | .frsq d _ _ _ => some (d, 1)
  | .fexp2 d _ _ _ => some (d, 1)
  | .flog2 d _ _ _ => some (d, 1)
  | .fexp d _ _ _ => some (d, 1)
  | .flog d _ _ _ => some (d, 1)
  | .fsinpi d _ _ _ => some (d, 1)
  | .fcospi d _ _ _ => some (d, 1)
  | .ftanh d _ _ _ => some (d, 1)
  | .fsigm d _ _ _ => some (d, 1)
  | .fgelu d _ _ _ => some (d, 1)
  | .ferf d _ _ _ => some (d, 1)
  | .fsqrtx d _ _ => some (d, 1)
  | .frcpx d _ _ => some (d, 1)
  | .frsqx d _ _ => some (d, 1)
  | .fexp2x d _ _ => some (d, 1)
  | .flog2x d _ _ => some (d, 1)
  | .fsinpix d _ _ => some (d, 1)
  | .fcospix d _ _ => some (d, 1)
  | .ftanhx d _ _ => some (d, 1)
  | .padd2 d _ _ _ _ => some (d, 1)
  | .pmul2 d _ _ _ _ => some (d, 1)
  | .pfma2 d _ _ _ _ => some (d, 1)
  | .pmax2 d _ _ _ _ => some (d, 1)
  | .pmin2 d _ _ _ _ => some (d, 1)
  | .redmax d _ _ _ => some (d, 1)
  | .redmin d _ _ _ => some (d, 1)
  | .redsum d _ _ => some (d, 1)
  | .redvar d _ _ => some (d, 4)
  | .rediadd d _ _ _ => some (d, 1)
  | .redand d _ _ _ => some (d, 1)
  | .redor d _ _ _ => some (d, 1)
  | .redxor d _ _ _ => some (d, 1)
  | .plyget d _ _ _ => some (d, 1)
  | .plyset d _ _ _ => some (d, 1)
  | .plyzero d _ _ => some (d, 1)
  | .plylose d _ => some (d, 1)
  | .plytag d _ _ => some (d, 1)
  | .plyclrk d _ => some (d, 1)
  | .drev d _ _ _ _ => some (d, 1)
  | .dflip d _ _ _ _ => some (d, 1)
  | .ldb d _ _ _ => some (d, 1)
  | .ldbs d _ _ _ => some (d, 1)
  | .ldh d _ _ _ => some (d, 1)
  | .ldhs d _ _ _ => some (d, 1)
  | .ldw d _ _ w _ => some (d, w.k)
  | .ldt d _ _ _ _ => some (d, 1)
  | .ldfe d _ _ w _ => some (d, w.k)
  | .ldfec d _ _ w _ => some (d, w.k)
  | .lda d _ _ pair _ => some (d, (if pair then 2 else 1))
  | .atomc d _ k _ _ => some (d, AtomType.words k.ty)
  | .atomq d _ k _ _ => some (d, AtomType.words k.ty)
  | .atomd d _ k _ _ => some (d, AtomType.words k.ty)
  | .atomp d _ k _ _ => some (d, AtomType.words k.ty)
  | .atomx d _ k _ _ => some (d, AtomType.words k.ty)
  | .fil d _ _ => some (d, 1)
  | .qtake d _ _ _ => some (d, 1)
  | .qtry d _ _ _ => some (d, 2)
  | .bararr d _ _ _ => some (d, 1)
  | .bar d _ _ _ => some (d, 1)
  | .qld d _ w _ => some (d, w.k)
  | .tex d _ _ half _ => some (d, (if half then 2 else 4))
  | .texf d _ half _ => some (d, (if half then 2 else 4))
  | .lins d _ _ => some (d, 1)
  | .lres d _ _ => some (d, 4)
  | .lcnt d _ _ => some (d, 1)
  | .ztest d _ _ => some (d, 1)
  | .draw d _ _ => some (d, 1)
  | .lcomp d _ _ => some (d, 2)
  | .trvbox d _ _ => some (d, 2)
  | .trvtri d _ _ => some (d, 4)
  | .trvomm d _ _ => some (d, 1)
  | .trvpop d _ => some (d, 1)
  | .trvstep d _ _ => some (d + 2, 2)
  | .ldwv d _ _ w _ => some (d, w.k)
  | .movts .. | .winb .. | .brz .. | .brnz .. | .brltz .. | .brgez .. | .jmp .. | .call .. | .calli ..
  | .jmpi .. | .jpush .. | .rejoin .. | .brkn .. | .exit .. | .reform .. | .yield .. | .nop .. | .trap ..
  | .brk .. | .svc .. | .eretRetry .. | .eretSkip .. | .eretSubst .. | .isync .. | .icinv .. | .stb ..
  | .sth .. | .stw .. | .stt .. | .stfe .. | .stl .. | .fenceAcq .. | .fenceRel .. | .fenceAcqrel ..
  | .fenceSc .. | .fenceIfetch .. | .fenceTable .. | .spl .. | .qacq .. | .qfill .. | .qdone .. | .barwait ..
  | .qfence .. | .bcopy .. | .stream .. | .coll .. | .msignBind .. | .msignRelease .. | .mma .. | .mdrain ..
  | .mzero .. | .mloadc .. | .mhist .. | .mhclr .. | .mwait .. | .lclr .. | .omerge .. | .vemit .. | .pemit ..
  | .trvpush .. | .stwv .. | .walkMigReread .. | .variableResultArrive .. | .storeQueueDrain ..
  | .atomicRmwPerform .. | .hangTimeout .. | .starvationTimeout .. | .yieldExpiry .. | .bobbinDraw ..
  | .deal .. | .blockEnd .. | .blockSave .. | .blockRestore .. | .migration .. | .shootdown ..
  | .shootdownAck .. | .dirtyLogDrain .. | .patrolScrub .. | .retentionEntry .. | .retentionExit ..
  | .poisonClear .. | .engineCommandStart .. | .engineChunk .. | .tokenDeposit .. | .streamElement ..
  | .collCombine .. | .collPeerTimeout .. | .launchQueueAdvance .. | .drawQueueAdvance .. | .queueRefill ..
  | .queueQuotaRestore .. | .replayNodeReady .. | .replayNodeComplete .. | .completionRecord .. | .mmaArray ..
  | .mdrainArray .. | .mzeroExec .. | .mloadcExec .. | .mhistExec .. | .mhclrExec .. | .mwaitDeposit ..
  | .mcJoinTimeout .. | .msignReleaseComplete .. | .rasteriseTile .. | .layerInsert .. | .layerPoolGrow ..
  | .lclrExec .. | .seal .. | .serviceCallPerform .. | .retiredEmulation .. | .preemptRequest ..
  | .drawGraceExpiry .. | .kick .. | .resume .. | .hostackContinue .. | .hostackPoolgrow ..
  | .hostackPoolmerge .. | .controlWindowWrite .. | .graphUpload .. | .codeObjectLoad .. | .codeObjectUnload ..
  | .targetCreate .. | .keyRegister .. | .hostRepairRequest .. | .firmwareImage .. | .powerUp ..
  | .ownershipClaim .. | .ownershipHandover .. | .handoverAccept .. | .linkLoss .. | .portFailure ..
  | .remoteWindowAccess .. | .thermalStop | .fixedLatencyResult .. | .withheldCycle ..
  | .wordNotInstruction .. | .instructionFetchFault .. => none

/-- The value 1, 2 or 3 by which R245 names a misaligned field. -/
def RegField.sub : RegField → Nat
  | .d => 1 | .a => 2 | .b => 3

/-- Is a group misaligned under R228? -/
def Group.misaligned (g : Group) : Bool := g.base.toNat % g.size != 0

/-- The subcode of the first misaligned group, in the order d, a, b (R244 check 4, R245). -/
def misalignedSub : List Group → Option Nat
  | [] => none
  | g :: r => if g.misaligned then some g.field.sub else misalignedSub r

/-- The architectural register that a name selects under a window base (R230). -/
def archOf (wb : Nat) (r : RegName) : Nat := if r.toNat < 32 then r.toNat else r.toNat + wb

/-- Register name `r + i` of a group. -/
def member (r : RegName) (i : Nat) : RegName := r + BitVec.ofNat 7 i

/-- The architectural registers of a group under a window base. -/
def Group.archs (wb : Nat) (g : Group) : List Nat := (List.range g.size).map fun i => archOf wb (member g.base i)

/-- The registers that the vector quad of MDRAIN names are checked where they are used (R327), all others by R231. -/
def Instr.rangeGroups (lw : Nat) (i : Instr) : List Group :=
  match i with
  | .mdrain .. => (Instr.groups lw i).filter fun g => g.field != .b
  | _ => Instr.groups lw i

/-- Every architectural register that the operands of an instruction name, without the vector quad of MDRAIN, of which only
the pairs that the options use are read (R327). -/
def Instr.archs (lw wb : Nat) (i : Instr) : List Nat := (Instr.rangeGroups lw i).flatMap (Group.archs wb)

/-- An architectural register of a thread: register 0 reads as zero with ZERO plies and KINK clear; a register at or above
the allocation reads 0 (R230, R231). -/
def Thread.reg (t : Thread) (a : Nat) : Reg := if a = 0 then Reg.plain 0 else (t.regs[a]?).getD (Reg.plain 0)

/-- Write an architectural register: writes to register 0, and to a register at or above the allocation, are discarded
(R230, R231). -/
def Thread.setReg (t : Thread) (a : Nat) (r : Reg) : Thread := if a = 0 then t else { t with regs := t.regs.set a r }

/-- The register that a name selects. -/
def Thread.get (t : Thread) (r : RegName) : Reg := t.reg (archOf t.wb r)

/-- The value bits of a named register. -/
def Thread.val (t : Thread) (r : RegName) : Word := (t.get r).val

/-- The value of member i of a group. -/
def Thread.valAt (t : Thread) (r : RegName) (i : Nat) : Word := t.val (member r i)

/-- The 64-bit value of a pair (R27, R248). -/
def Thread.pair (t : Thread) (r : RegName) : Addr := pairVal (t.val r) (t.valAt r 1)

/-- The values of a group of n registers. -/
def Thread.vals (t : Thread) (r : RegName) (n : Nat) : List Word := (List.range n).map (t.valAt r)

/-- The whole registers of a group of n. -/
def Thread.group (t : Thread) (r : RegName) (n : Nat) : List Reg := (List.range n).map fun i => t.get (member r i)

/-- Every earlier result still pending for an architectural register is overtaken by a new one (R227). -/
def Thread.overtake (t : Thread) (a : Nat) : Thread :=
  { t with pend := t.pend.map fun p => if p.reg = a then { p with dead := true } else p }

/-- Write an architectural register at once, overtaking what is pending for it. -/
def Thread.putNow (t : Thread) (a : Nat) (r : Reg) : Thread := (t.overtake a).setReg a r

/-- A result on its way to an architectural register: `due` is the core cycle of a fixed-latency result, none for a
variable-latency one (R225, R227). A result for register 0 is discarded (R230). -/
def Thread.result (t : Thread) (a : Nat) (r : Reg) (due : Due) : Thread :=
  if a = 0 then t else { t.overtake a with pend := (t.overtake a).pend ++ [⟨a, r, due, false, false⟩] }

/-- The results of a group, in order of its members. -/
def Thread.results (t : Thread) (r : RegName) (due : Due) : Nat → List Reg → Thread
  | _, [] => t
  | i, x :: xs => (t.result (archOf t.wb (member r i)) x due).results r due (i + 1) xs

/-- The results on their way to a thread have arrived; a held one stays held (R211, R217, R278). -/
def Thread.settleResults (th : Thread) : Thread :=
  { (th.pend.foldl (fun t p => if p.held || p.dead then t else t.setReg p.reg p.res) th) with pend := th.pend.filter (·.held) }

/-- Does an instruction of the thread wait that has been issued and has read its registers? A fixed-latency result is put
into its register only after it: what it reads is as it was before that result (R227). -/
def Thread.reads (th : Thread) : Bool :=
  th.again || match th.park with
    | some (.collective _) => true
    | some (.ready _) => true
    | some (.layer ..) => true
    | some (.seal before) => before
    | some .round => true
    | _ => false

/-- The results on their way to a thread whose context is saved have arrived, but for those that an instruction of it that waits has not
read: they arrive once it has been performed (R217, R227). -/
def Thread.savedResults (th : Thread) : Thread :=
  if th.reads then { th with pend := th.pend.map fun p => if p.held then p else { p with due := some (0, false) } }
  else th.settleResults

/-- Is a fixed-latency result still on its way to one of these registers (R226)? -/
def Thread.early (t : Thread) (now : Nat) (archs : List Nat) : Bool :=
  t.pend.any fun p => !p.dead && archs.contains p.reg && match p.due with
    | some (c, tracked) => decide (now < if tracked then c - 1 else c)
    | none => false

/-- Must the thread wait for a result for one of these registers: a variable-latency one (R225, R133), or the tracked
fifth cycle of a class-B one (R183)? -/
def Thread.awaits (t : Thread) (now : Nat) (archs : List Nat) : Bool :=
  t.pend.any fun p => !p.dead && archs.contains p.reg && match p.due with
    | some (c, tracked) => tracked && now + 1 == c
    | none => true

end Sys2Proof.Machine
end

