-- ==== Sys2Proof/Machine/Ops.lean ====
section
/-! DEFINITION. The shared operations: finding and changing a thread, its block and its core; reading and writing a home
location; a strand's store queue; taking a trap and returning from one; and running one issue lane by lane. -/

namespace Sys2Proof.Machine

/-! ### Finding and changing the parts of the state -/

/-- Change one block. -/
def State.modBlock (s : State) (b : Nat) (f : Block → Block) : State := { s with blocks := s.blocks.modify b f }

/-- Change one thread of a block. -/
def Block.modThread (b : Block) (tid : Nat) (f : Thread → Thread) : Block := { b with threads := b.threads.modify tid f }

/-- Change one strand of a block. -/
def Block.modStrand (b : Block) (k : Nat) (f : Strand → Strand) : Block := { b with strands := b.strands.modify k f }

/-- Change one thread. -/
def State.modThread (s : State) (t : TRef) (f : Thread → Thread) : State := s.modBlock t.blk fun b => b.modThread t.tid f

/-- Change one core. -/
def State.modCore (s : State) (c : Nat) (f : Core → Core) : State := { s with cores := s.cores.modify c f }

/-- Change one partition. -/
def State.modPart (s : State) (p : Nat) (f : Part → Part) : State := { s with parts := s.parts.modify p f }

/-- Change one grid. -/
def State.modGrid (s : State) (g : Nat) (f : Grid → Grid) : State := { s with grids := s.grids.modify g f }

/-- Change one draw. -/
def State.modDraw (s : State) (d : Nat) (f : Draw → Draw) : State := { s with draws := s.draws.modify d f }

/-- A thread, if there is one of that name. -/
def State.thread? (s : State) (t : TRef) : Option Thread := (s.blocks[t.blk]?).bind fun b => b.threads[t.tid]?

/-- A block's grid. -/
def State.grid? (s : State) (blk : Nat) : Option Grid := (s.blocks[blk]?).bind fun b => s.grids[b.grid]?

/-- A block's partition. -/
def State.partOf (s : State) (blk : Nat) : Nat := ((s.grid? blk).map fun g => g.part).getD 0

/-- A core, or the core as reset leaves it where there is none of that number. -/
def State.core (s : State) (c : Nat) : Core := (s.cores[c]?).getD Core.reset

/-- A partition, or a partition as reset leaves it. -/
def State.part (s : State) (p : Nat) : Part := (s.parts[p]?).getD Part.reset

/-- The core that holds a block, if one does. -/
def State.coreOf (s : State) (blk : Nat) : Option Nat :=
  (s.blocks[blk]?).bind fun b => match b.place with | .onCore c => some c | _ => none

/-- The strand of a thread. -/
def State.strand? (s : State) (blk k : Nat) : Option Strand := (s.blocks[blk]?).bind fun b => b.strands[k]?

/-- The parts of the strand that stands at a place: itself, or every part under its joint name (R142). -/
def State.strandParts (s : State) (blk k : Nat) : List (Nat × Nat) :=
  match (s.strand? blk k).bind Strand.joint with
  | none => [(blk, k)]
  | some j => s.blocks.zipIdx.flatMap fun x => x.1.strands.zipIdx.filterMap fun y =>
      if y.1.joint = some j then some (x.2, y.2) else none

/-- Change one strand, in all its parts. -/
def State.modStrand (s : State) (blk k : Nat) (f : Strand → Strand) : State :=
  (s.strandParts blk k).foldl (fun s p => s.modBlock p.1 fun b => b.modStrand p.2 f) s

/-- Is a place the first part of its strand? What is done once for a strand is done there. -/
def State.firstPart (s : State) (blk k : Nat) : Bool := (s.strandParts blk k).head? == some (blk, k)

/-- The threads of a block that are in its strand k, by thread index. -/
def Block.threadsIn (b : Block) (k : Nat) : List Nat :=
  (List.range b.threads.length).filter fun i => match b.threads[i]? with
    | some th => th.live && !th.filed && th.strand == k
    | none => false

/-- The live threads of a strand. -/
def State.strandThreads (s : State) (blk k : Nat) : List TRef :=
  (s.strandParts blk k).flatMap fun p => (((s.blocks[p.1]?).map fun b => b.threadsIn p.2).getD []).map (TRef.mk p.1)

/-- A strand with no entry, for a thread without one. -/
def Strand.blank : Strand := ⟨.main, 0, 0, false, [], false, none, [], [], [], 0, none, []⟩

/-- A kernel with no registers, for a thread without a grid. -/
def Kernel.blank : Kernel :=
  ⟨0, 0, 0, 8, .c, false, 0, 0, 0, 0, 0, 0, 0, [], 0, 0, [], none⟩

/-- The kernel record of a block's grid. -/
def State.kernel (s : State) (blk : Nat) : Kernel := ((s.grid? blk).map fun g => g.kernel).getD Kernel.blank

/-- The declared ply count D of a block's kernel (R181). -/
def State.plyN (s : State) (blk : Nat) : Nat := (s.kernel blk).d

/-- The size of a lane mask: a pair where the strand has 64 lanes (R260). -/
def State.laneWords (s : State) (blk : Nat) : Nat := if (s.kernel blk).width = 64 then 2 else 1

/-- Is a block one of the two copies of a doubled block (R365)? -/
def Block.doubled (b : Block) : Bool := b.copy != .single

/-- The other copy of a doubled block. -/
def Block.partner (b : Block) : Option Nat :=
  match b.copy with | .single => none | .leading p => some p | .trailing p => some p

/-- Does the trailing copy stand here (R365)? -/
def Block.trailing (b : Block) : Bool := match b.copy with | .trailing _ => true | _ => false

/-- Ask for an event as soon as it can happen, once (log 4). -/
def State.want (s : State) (e : Event) : State := if s.work.contains e then s else { s with work := s.work ++ [e] }

/-- Ask for several events. -/
def State.wantAll (s : State) (l : List Event) : State := l.foldl State.want s

/-- An event that is due now (log 4). -/
def State.mustNow (s : State) (e : Event) : State := { s with due := s.due ++ [e] }

/-! ### Notifications (R395) and poison (R51, R370) -/

/-- A bit of the duty map (R163). -/
def State.hostDuty (s : State) (p bit : Nat) : Bool := (s.part p).duty.getLsbD bit

/-- Post a notification in the service mailbox: EVSEQ counts per partition from 1 (R395). -/
def State.notify (s : State) (p duty : Nat) (args : List Nat) (waiting : Option HostEvent) : State :=
  let n := (s.part p).evseq + 1#32
  let s' := s.modPart p fun q => { q with evseq := n }
  { s' with svc := { s'.svc with mailbox := s'.svc.mailbox ++ [⟨p, duty, n.toNat, args, waiting⟩] } }

/-- Insert into a strictly rising list. -/
def insertUp (x : Nat) : List Nat → List Nat
  | [] => [x]
  | y :: r => if x = y then y :: r else if x < y then x :: y :: r else y :: insertUp x r

/-- Mark a 4 KiB page poisoned, for every core at once (R51). Pages are numbered by pod physical address (log 15). -/
def State.poisonPage (s : State) (page : Nat) : State := { s with poison := insertUp page s.poison }

/-! ### Home locations (R61, R68, R69) -/

/-- The bytes at a home. -/
def State.homeRead (s : State) (l : Loc) (n : Nat) : List Byte :=
  match l with
  | .win b off => Mem.getN ((s.blocks[b]?).map (·.mem) |>.getD []) off n
  | .phys pa => Mem.getN s.mem pa n

/-- The granules of block memory that a span covers (R55). -/
def granulesOf (off n : Nat) : List Nat :=
  if n = 0 then [] else (List.range ((off + n - 1) / 16 - off / 16 + 1)).map (· + off / 16)

/-- The 8-byte words that a span touches. -/
def wordsTouched (a n : Nat) : List Nat :=
  if n = 0 then [] else (List.range ((a + n - 1) / 8 - a / 8 + 1)).map (· + a / 8)

/-- The near slice of a word of pod memory, or one past the last (R29). -/
def sliceOfWord (w : Nat) : Nat := min 128 (8 * w % 2 ^ 46 / 0x02000000)

/-- Reading n bytes at a home corrects the single-bit errors there: the words are written back, and each is counted in the counter of the
slice, or of the core that holds the block (R68). -/
def State.correct (s : State) (l : Loc) (n : Nat) : State :=
  match l with
  | .win b off =>
    match s.blocks[b]? with
    | none => s
    | some k =>
      let hit := (wordsTouched off n).filter k.softMem.contains
      if hit.isEmpty then s
      else
        let s := s.modBlock b fun k => { k with softMem := k.softMem.filter fun w => !hit.contains w }
        match k.place with
        | .onCore c => s.modCore c fun x => { x with corrected := x.corrected + hit.length }
        | _ => s
  | .phys pa =>
    let hit := (wordsTouched pa n).filter s.softNear.contains
    { s with softNear := s.softNear.filter fun w => !hit.contains w,
             sliceErrs := hit.foldl (fun e w => e.modify (sliceOfWord w) (· + 1)) s.sliceErrs }

/-- The words of `bad` that a write of n bytes at a does not cover whole: those still fail (R69). -/
def stillBad (bad : List Nat) (a n : Nat) : List Nat := bad.filter fun w => !(a ≤ 8 * w && 8 * w + 8 ≤ a + n)

/-- The words of `soft` that a write does not touch: it stores the words it touches with new check bits (R68, log 16). -/
def stillSoft (soft : List Nat) (a n : Nat) : List Nat := soft.filter fun w => !(wordsTouched a n).contains w

/-- Write bytes at a home; a fill also sets the full bits of the granules it covers (R59, R68, R69, R300). -/
def State.homeWrite (s : State) (l : Loc) (bytes : List Byte) (fill : Bool) : State :=
  match l with
  | .win b off => s.modBlock b fun k =>
      { k with mem := Mem.putN k.mem off bytes, badMem := stillBad k.badMem off bytes.length,
               softMem := stillSoft k.softMem off bytes.length,
               full := if fill then (granulesOf off bytes.length).foldl (fun f g => insertUp g f) k.full else k.full }
  | .phys pa => { s with mem := Mem.putN s.mem pa bytes, badNear := stillBad s.badNear pa bytes.length,
                          softNear := stillSoft s.softNear pa bytes.length }

/-- Does a span at a home hold an uncorrectable error (R68, R69)? -/
def State.homeBad (s : State) (l : Loc) (n : Nat) : Bool :=
  match l with
  | .win b off => (wordsTouched off n).any fun w => ((s.blocks[b]?).map (·.badMem) |>.getD []).contains w
  | .phys pa => (wordsTouched pa n).any fun w => s.badNear.contains w

/-! ### The signature of a doubled block (R367) -/

/-- One bit of CRC-64/ECMA-182. -/
def crcStep (c : BitVec 64) : BitVec 64 :=
  if c.getLsbD 63 then (c <<< 1) ^^^ 0x42F0E1EBA9EA3693#64 else c <<< 1

/-- Fold one byte into a signature. -/
def crcByte (c : BitVec 64) (b : Byte) : BitVec 64 :=
  crcStep (crcStep (crcStep (crcStep (crcStep (crcStep (crcStep (crcStep (c ^^^ (b.zeroExtend 64 <<< 56)))))))))

/-- Fold a 17-byte record: an address, eight data bytes and a byte mask (R367). -/
def crcRecord (c : BitVec 64) (va : Nat) (data : List Byte) (mask : Nat) : BitVec 64 :=
  (leBytes 8 va ++ data ++ leBytes 1 mask).foldl crcByte c

/-! ### The strands of several blocks (R142) -/

/-- A strand's entries and queued writes with only some of its threads. -/
def Strand.only (k : Strand) (p : TRef → Bool) : Strand :=
  { k with
    rejoin := (k.rejoin.map fun e => { e with mask := e.mask.filter p, arrived := e.arrived.filter p }).filter fun e =>
      !e.mask.isEmpty,
    queue := k.queue.filter fun w => p w.t }

/-- The threads of a block leave the strands that they share with threads of other blocks, each with its part (log 35). -/
def State.splitBlock (s : State) (blk : Nat) : State :=
  let js := (((s.blocks[blk]?).map (·.strands)).getD []).filterMap Strand.joint
  if js.isEmpty then s
  else
    let part := fun (b : Nat) (k : Strand) => match k.joint with
      | none => k
      | some j => if b = blk then { k.only (fun t => t.blk == blk) with joint := none }
          else if js.contains j then k.only fun t => t.blk != blk else k
    { s with blocks := s.blocks.zipIdx.map fun x => { x.1 with strands := x.1.strands.map (part x.2) } }

/-! ### Saving a block (R79, R365) -/

/-- The blocks that are saved together with a block: its quad group and its other copy (R79, R365). -/
def State.members (s : State) (blk : Nat) : List Nat :=
  match s.blocks[blk]? with
  | none => []
  | some b => (List.range s.blocks.length).filter fun k =>
      match s.blocks[k]? with
      | some c => c.grid == b.grid && (c.num == b.num || (b.group != 0 && c.group == b.group))
      | none => false

/-- Ask that a block be saved with its group: from now on none of its threads is ready (R79, R133). -/
def State.requestSave (s : State) (blk : Nat) (why : SaveWhy) : State :=
  (s.members blk).foldl (fun s k =>
    match s.blocks[k]? with
    | none => s
    | some c => match c.place, c.saving with
      | .onCore _, none =>
        (s.modBlock k fun b => { b with saving := some (if k = blk then why else SaveWhy.pause) }).mustNow (.blockSave k)
      | _, _ => s) s

/-- What a wait leaves behind when its thread ends with its block: an atomic that was sent is still performed (R211). -/
def Park.afterStop : Park → Option Park
  | .atomic r => some (.atomic r)
  | _ => none

/-- A core's bobbins without the threads of a block. -/
def Core.dropFiled (c : Core) (blk : Nat) : Core :=
  { c with bobbins := c.bobbins.map fun b =>
      let l := b.threads.filter fun x => x.1.blk != blk
      ⟨if l.isEmpty then none else b.key, l⟩ }

/-- No bobbin holds a thread of a block any more. -/
def State.unfile (s : State) (blk : Nat) : State := { s with cores := s.cores.map fun c => c.dropFiled blk }

/-- A held operation without the lanes of a block. -/
def Held.forget (blk : Nat) (h : Held) : Held :=
  { h with lanes := h.lanes.filter fun t => t.blk != blk, left := h.left.filter fun t => t.blk != blk }

/-- What a block holds is discarded (R368); what was issued together with lanes of other blocks (R142) is issued by the block of the lowest
of these, and no operation waits for this block's lanes any more (log 86). -/
def State.forgetLanes (s : State) (blk : Nat) : State :=
  let l := ((((s.blocks[blk]?).map (·.held)).getD []).map (Held.forget blk)).filter fun h => !h.lanes.isEmpty
  { s with blocks := s.blocks.zipIdx.map fun x => if x.1.held.isEmpty && l.isEmpty then x.1 else { x.1 with
      held := if x.2 = blk then []
        else x.1.held.map (Held.forget blk) ++ l.filter fun h => (h.lanes.head?).map (·.blk) == some x.2 } }

/-- End every thread of a block, filed ones too, and of its other copy, with a status (R215, R218, R369). -/
def State.stopBlock (s : State) (blk status : Nat) : State :=
  let one := fun (s : State) (k : Nat) => ((((s.splitBlock k).unfile k).forgetLanes k).modBlock k fun b =>
    { b with status := if b.status = 0 then status else b.status,
             threads := b.threads.map fun t => { t with live := false, park := t.park.bind Park.afterStop, filed := false } }).want
      (.blockEnd k)
  match (s.blocks[blk]?).bind Block.partner with
  | some p => one (one s blk) p
  | none => one s blk

/-! ### Taking a trap (R211 to R215) -/

/-- What one lane of an issue raised: the cause, the subcode, and the page or address that the handling needs (R212). -/
structure LaneTrap where
  t : TRef
  cause : Nat
  sub : Nat
  aux : Nat
  deriving DecidableEq, Repr

/-- The place of a cause in the order of delivery (R212, R45): lower is delivered first. -/
def causeRank (c : Nat) : Nat :=
  if c ≤ 0x06 then c
  else match c with
    | 0x30 => 0x10
    | 0x20 => 0x20
    | 0x23 => 0x21
    | 0x22 => 0x22
    | 0x21 => 0x23
    | 0x24 => 0x24
    | 0x38 => 0x30
    | 0x39 => 0x31
    | 0x40 => 0x32
    | 0x41 => 0x33
    | 0x10 => 0x40
    | 0x11 => 0x41
    | 0x12 => 0x42
    | 0x13 => 0x43
    | 0x14 => 0x44
    | _ => 0x50 + c

/-- The trap of the delivered cause that the lowest lane raised (R212). -/
def chosenTrap : List LaneTrap → Option LaneTrap
  | [] => none
  | x :: r => match chosenTrap r with
    | none => some x
    | some y => if causeRank y.cause < causeRank x.cause then some y else some x

/-- The lanes that are delivered: the chosen cause with the chosen subcode (R212). -/
def deliveredTraps (l : List LaneTrap) : List LaneTrap :=
  match chosenTrap l with
  | none => []
  | some x => l.filter fun y => y.cause == x.cause && y.sub == x.sub

/-- The mask of the delivered lanes, bit i for lane i of the strand (R11, R214, log 9). -/
def State.trapMask (s : State) (l : List LaneTrap) : BitVec 64 :=
  l.foldl (fun m x => match s.thread? x.t with | some th => m ||| (1#64 <<< th.lane) | none => m) 0#64

/-- The lowest bit set of a mask. -/
def lowestBit (m : BitVec 64) : Nat := ((List.range 64).find? m.getLsbD).getD 0

/-- The trap registers after delivery (R214, R215). -/
def TrapRegs.taken (r : TrapRegs) (cause sub : Nat) (pc : Addr) (mask : BitVec 64) (first : Nat) (word : Word) : TrapRegs :=
  { r with inHandler := true, cause := BitVec.ofNat 8 cause, epc := pc.truncate 48, mask := mask,
           first := BitVec.ofNat 6 first, sub := BitVec.ofNat 8 sub, inst := word }

/-- A thread in its handler: at %tvech:%tvec, out of whatever it was parked in (R215, R147). -/
def Thread.enterHandler (th : Thread) (cause sub : Nat) (mask : BitVec 64) (first : Nat) (word : Word) : Thread :=
  { th with trap := th.trap.taken cause sub th.pc mask first word, pc := th.trap.vec.zeroExtend 64, park := none, hang := 0,
            again := false, sealed := false }

/-- A trapped thread's arrival mark in its innermost rejoin entry is withdrawn (R137). -/
def Strand.unarrive (k : Strand) (t : TRef) : Strand :=
  { k with rejoin := k.rejoin.map fun e => { e with arrived := e.arrived.erase t } }

/-- TAKING AN EXCEPTION: a user-handled cause is delivered to one thread (R215). Without a handler, or in one already, the
block ends with Aborted (0x0006). In a doubled block the trap folds its record into the signature (R367). -/
def State.takeTrap (s : State) (t : TRef) (cause sub : Nat) (mask : BitVec 64) (first : Nat) (word : Word) : State :=
  match s.thread? t with
  | none => s
  | some th =>
    if th.trap.inHandler || th.trap.vec == 0#48 then s.stopBlock t.blk 0x0006
    else
      let dbl := ((s.blocks[t.blk]?).map Block.doubled).getD false
      (s.modThread t fun th =>
        { th.enterHandler cause sub mask first word with
          sig := if dbl then crcRecord th.sig (th.pc.toNat % 2 ^ 48) (leBytes 8 cause) 0 else th.sig,
          recs := if dbl then th.recs + 1 else th.recs }).modStrand
        t.blk th.strand fun k => k.unarrive t

/-- A thread that leaves its wait (R147). -/
def Thread.unpark (th : Thread) : Thread := { th with park := none, hang := 0 }

/-- A thread that goes on at the next word. -/
def Thread.advance (th : Thread) : Thread := { th with pc := th.pc + 4#64 }

/-- Park a lane at the instruction boundary. -/
def State.parkAt (s : State) (t : TRef) (p : Park) : State := s.modThread t fun th => { th with park := some p }

/-- A lane whose fetch waits for a migrating table node (R38); it has not issued. -/
def State.waitFetch (s : State) (t : TRef) (pc : Addr) : State := s.modThread t fun th => { th with walk := some pc }

/-- A lane whose walk meets a migrating node stays at its instruction and waits for the node (R38). -/
def State.waitWalk (s : State) (t : TRef) (ea : Addr) : State := s.modThread t fun th => { th with walk := some ea, again := true }

/-- Note a poisoned page in the service's ring of 64 records (R370). -/
def State.recordPoison (s : State) (p frame : Nat) : State :=
  let r := s.svc.records ++ [(p, frame)]
  { s with svc := { s.svc with records := r.drop (r.length - 64) } }

/-- Every instruction that a delivered lane issued earlier has completed (R211). -/
def State.completeEarlier (s : State) (l : List LaneTrap) : State := l.foldl (fun s x => s.modThread x.t Thread.settleResults) s

/-- Deliver to the delivered lanes of one issue (R213, R215): user-handled causes enter the handler; MigrationFault,
TableFault and QueueQuota save the block (R79, R156); Poison is first handled by its duty (R370); RetiredOpcode,
ServiceCall and LayerPoolExhausted park the lanes for their duty (R246, R272, R206). In host-assisted mode the emulation duty
posts a notification, which no action of HOSTACK answers (R395, log 61). -/
def State.deliver (s : State) (l : List LaneTrap) (i : Option Instr) : State :=
  match l with
  | [] => s
  | x :: _ =>
    let s := s.completeEarlier l
    let mask := s.trapMask l
    let first := lowestBit mask
    let word := s.issue.word
    let p := s.partOf x.t.blk
    match x.cause with
    | 0x22 => s.requestSave x.t.blk ⟨x.cause, x.sub, (l.map (·.aux)).dedup, l.map (·.t), s.hostDuty p 0⟩
    | 0x23 => s.requestSave x.t.blk ⟨x.cause, x.sub, (l.map (·.aux)).dedup, l.map (·.t), s.hostDuty p 0⟩
    | 0x40 => s.requestSave x.t.blk ⟨x.cause, x.sub, [], l.map (·.t), false⟩
    | 0x04 => l.foldl (fun s y => (s.parkAt y.t (.retired word)).want (.retiredEmulation y.t.blk y.t.tid))
        (if s.hostDuty p 4 then s.notify p 4 [word.toNat] none else s)
    | 0x1A => l.foldl (fun s y => (s.parkAt y.t (.service y.sub)).want (.serviceCallPerform y.t.blk y.t.tid)) s
    | 0x41 =>
      let s' := l.foldl (fun s y => match i with | some j => s.parkAt y.t (.pool j) | none => s) s
      ((l.map (·.aux)).dedup).foldl (fun (s : State) va =>
        if s.hostDuty p 5 then s.notify p 5 [va] (some (.pool (Addr.ofNat va))) else s.want (.layerPoolGrow p (Addr.ofNat va))) s'
    | 0x24 =>
      if s.hostDuty p 3 then
        l.foldl (fun s y => (s.parkAt y.t (.poison y.sub mask first word)).notify p 3 [y.aux] (some (.poison y.t.blk y.t.tid))) s
      else l.foldl (fun s y => (if y.sub = 3 then s else s.recordPoison p y.aux).takeTrap y.t y.cause y.sub mask first word) s
    | _ => l.foldl (fun s y => s.takeTrap y.t y.cause y.sub mask first word) s

/-! ### Full/empty loads that wait (R59, R300) -/

/-- Are the granules under a span all full? -/
def Block.spanFull (b : Block) (off n : Nat) : Bool := (granulesOf off n).all b.full.contains

/-- Results for several architectural registers, in order, with ZERO plies and variable latency. -/
def Thread.give (th : Thread) (dst : List Nat) (vs : List Word) : Thread :=
  (dst.zip vs).foldl (fun t x => t.result x.1 (Reg.plain x.2) none) th

/-- A full/empty load performed: every covered granule is full; LDFEC empties them in the same step (R300). -/
def State.feDone (s : State) (t : TRef) (x : FeWait) : State :=
  let bytes := s.homeRead (.win t.blk x.off) (4 * x.words)
  let s := s.correct (.win t.blk x.off) (4 * x.words)
  let s := if x.empties then s.modBlock t.blk fun b => { b with full := b.full.filter fun g => !(granulesOf x.off (4 * x.words)).contains g }
           else s
  s.modThread t fun th => th.give x.dst (wordsOf bytes)

/-- One thread that waits on a granule: it completes if it can, with Poison 0x03 for an uncorrectable word (R69). -/
def State.wakeGranule (s : State) (x : TRef × FeWait) : State :=
  match s.blocks[x.1.blk]? with
  | none => s
  | some b =>
    if !b.spanFull x.2.off (4 * x.2.words) then s
    else if s.homeBad (.win x.1.blk x.2.off) (4 * x.2.words) then
      let word := ((s.thread? x.1).map (·.word)).getD 0
      State.deliver { s.modThread x.1 Thread.unpark with issue := { s.issue with word := word } } [⟨x.1, 0x24, 0x03, 0⟩] none
    else (s.feDone x.1 x.2).modThread x.1 fun th => th.unpark.advance

/-- The full/empty loads of a block that wait, in the order in which the bank serves them: every LDFE, then the LDFECs in
order of arrival (R59). -/
def State.feWaits (s : State) (blk : Nat) : List (TRef × FeWait) :=
  let l := ((((s.blocks[blk]?).map (·.threads)).getD []).zipIdx.filterMap fun x => match x.1.park with
    | some (.granule w) => some (⟨blk, x.2⟩, w)
    | _ => none).insertionSort fun a b => a.2.order ≤ b.2.order
  l.filter (!·.2.empties) ++ l.filter (·.2.empties)

/-- The threads of a block that wait on granules: those that can complete do (R59). -/
def State.wakeGranules (s : State) (blk : Nat) : State := (s.feWaits blk).foldl State.wakeGranule s

/-- A fill at a home: the bits of its granules are set, and the loads that wait for them complete (R59). -/
def State.homeFill (s : State) (l : Loc) (bytes : List Byte) : State :=
  match l with
  | .win b _ => (s.homeWrite l bytes true).wakeGranules b
  | .phys _ => s.homeWrite l bytes true

/-! ### The store queue of a strand (R97, R104) and the quarantine (R113) -/

/-- What is left of a quarantined write once a later write of the same copy to n bytes at a physical address has been performed: the
bytes before and after it (R113, R103). -/
def QWrite.without (pa n : Nat) (w : QWrite) : List QWrite :=
  match w.loc with
  | .win .. => [w]
  | .phys a =>
    let k := w.bytes.length
    if a + k ≤ pa || pa + n ≤ a then [w]
    else (if a < pa then [{ w with bytes := w.bytes.take (pa - a) }] else []) ++
      (if pa + n < a + k then [{ w with loc := .phys (pa + n), bytes := w.bytes.drop (pa + n - a) }] else [])

/-- A copy's quarantine after a later write of it at a location has been performed at its home. -/
def Block.overtaken (b : Block) (l : Loc) (n : Nat) : Block :=
  match l with
  | .win .. => b
  | .phys pa => { b with quarantine := b.quarantine.flatMap (QWrite.without pa n) }

/-- Perform one write that leaves a store queue: at its home, or into the quarantine of a doubled block (R113). -/
def State.performWrite (s : State) (w : QWrite) : State :=
  match w.loc, (s.blocks[w.t.blk]?).map Block.doubled with
  | .phys _, some true => s.modBlock w.t.blk fun b => { b with quarantine := b.quarantine ++ [w] }
  | _, _ => if w.fill then s.homeFill w.loc w.bytes else s.homeWrite w.loc w.bytes false

/-- Perform the oldest write of a strand's store queue. -/
def State.drainOne (s : State) (blk k : Nat) : State :=
  match (s.strand? blk k).map (·.queue) with
  | some (w :: r) => (s.modStrand blk k fun st => { st with queue := r }).performWrite w
  | _ => s

/-- Perform every write of a strand's store queue, in order: a fence, an atomic or an engine issue waits for them (R110,
R302, log 12). -/
def State.drainStrand (s : State) (blk k : Nat) : State :=
  match (s.strand? blk k).map (·.queue) with
  | some ws => ws.foldl State.performWrite (s.modStrand blk k fun st => { st with queue := [] })
  | none => s

/-- The store queues of every strand of a block, performed (R76, R115, R268). -/
def State.drainBlock (s : State) (blk : Nat) : State :=
  (List.range (((s.blocks[blk]?).map (·.strands.length)).getD 0)).foldl (fun s k => s.drainStrand blk k) s

/-- Enter a write into the thread's store queue. -/
def State.enqueueWrite (s : State) (t : TRef) (th : Thread) (w : QWrite) : State :=
  (s.modStrand t.blk th.strand fun st => { st with queue := st.queue ++ [w] }).want (.storeQueueDrain t.blk th.strand)

/-- Lay a queued write over bytes read at a location. -/
def layOver (l : Loc) (old : List Byte) (w : QWrite) : List Byte :=
  match l, w.loc with
  | .win b o, .win b' o' => if b = b' then overlay old o w.bytes o' else old
  | .phys p, .phys p' => overlay old p w.bytes p'
  | _, _ => old

/-- What the threads of a copy read at a location once their writes have left the store queues: the bytes given, under the copy's
quarantine (R113). -/
def State.inCopy (s : State) (blk : Nat) (l : Loc) (bytes : List Byte) : List Byte :=
  (((s.blocks[blk]?).map (·.quarantine)).getD []).foldl (layOver l) bytes

/-- What a thread's read of a location returns: the home, under the quarantine of its copy (R113), under the writes that
its own strand has queued (R61, R103). -/
def State.visible (s : State) (t : TRef) (th : Thread) (l : Loc) (n : Nat) : List Byte :=
  (((s.strand? t.blk th.strand).map (·.queue)).getD []).foldl (layOver l) (s.inCopy t.blk l (s.homeRead l n))

/-! ### Returning from a trap (R216, R273) -/

/-- The address at which a handler resumes, as the trap registers stand. -/
def Thread.resumePc (th : Thread) : Addr := th.trap.epc.zeroExtend 64

/-- RETURNING FROM AN EXCEPTION: IN is cleared, and the thread continues at the trapped instruction (retry) or after it
(skip). -/
def Thread.resume (th : Thread) (skip : Bool) : Thread :=
  { th with trap := { th.trap with inHandler := false }, pc := if skip then th.resumePc + 4#64 else th.resumePc,
            barAt := if skip then none else th.barAt }

/-- ERET.subst: as skip, and the value goes to every register of the trapped instruction's destination, with ZERO plies and
KINK clear (R216). -/
def Thread.resumeSubst (lw : Nat) (th : Thread) (v : Word) : Thread :=
  match (decode th.trap.inst).bind (Instr.dest lw) with
  | some (d, n) => ((List.range n).foldl (fun t i => t.putNow (archOf t.wb (member d i)) (Reg.plain v)) th).resume true
  | none => th.resume true

/-! ### Running one issue -/

/-- What an instruction did in one lane: performed, going on at PC + 4; performed or parked, the body having set the pc;
nothing, the lane staying at the instruction; or a cause raised, with the state as the checks left it. -/
inductive Lane where
  | next (s : State)
  | go (s : State)
  | stay (s : State)
  | trap (s : State) (cause sub aux : Nat)

/-- What an instruction does in one lane. -/
abbrev Body := State → TRef → Thread → Lane

/-- The thread of a lane that may issue now: live, not parked, on the issuing core in a block that is not being saved, at
the issue's pc (R133, R134). -/
def State.issuable (s : State) (t : TRef) : Option Thread :=
  match s.blocks[t.blk]?, s.thread? t with
  | some b, some th =>
    if th.live && !th.filed && th.park.isNone && th.walk.isNone && b.saving.isNone && b.place == .onCore s.issue.core && th.pc == s.issue.pc
    then some th else none
  | _, _ => none

/-- One lane: the register range check (R231, R244 check 5), the early-access check (R226), then the body. -/
def State.lane (s : State) (i : Instr) (body : Body) (t : TRef) : Lane :=
  match s.issuable t with
  | none => .stay s
  | some th =>
    let lw := s.laneWords t.blk
    let beyond := ((Instr.rangeGroups lw i).flatMap (Group.archs th.wb)).any fun a => decide (max 1 th.regs.length ≤ a)
    if beyond then .trap s 0x05 0x01 0
    else if th.chk && th.early (s.core s.issue.core).cycles (Instr.archs lw th.wb i) then .trap s 0x06 0 0
    else body s t th

/-- The stall count that a thread now observes (R225), and the word it has issued. -/
def Thread.issued (st : Stall) (word : Word) (th : Thread) : Thread :=
  { th with stall := st.toNat, word := word, again := false }

/-- The stall count after an issue that raises a cause: it is observed whatever becomes of the instruction (R225). -/
def Thread.stalled (st : Stall) (th : Thread) : Thread := { th with stall := st.toNat, again := false }

/-- One lane of an issue, folded over the state and the causes raised so far. -/
def laneStep (i : Instr) (st : Stall) (body : Body) (acc : State × List LaneTrap) (t : TRef) : State × List LaneTrap :=
  match acc.1.lane i body t with
  | .next s => (s.modThread t fun th => (th.issued st s.issue.word).advance, acc.2)
  | .go s => (s.modThread t (Thread.issued st s.issue.word), acc.2)
  | .stay s => (s, acc.2)
  | .trap s c sub aux => (s, acc.2 ++ [⟨t, c, sub, aux⟩])

/-- The lanes that may act in the present issue. -/
def State.issuing (s : State) : List TRef := s.issue.lanes.filter fun t => (s.issuable t).isSome

/-- The pages in which lanes of an issue found an uncorrectable error are poisoned: after the issue, before any later access (R51,
R69). -/
def State.markErrors (s : State) (l : List LaneTrap) : State :=
  l.foldl (fun s x => if x.cause = 0x24 ∧ x.sub = 0x02 then s.poisonPage x.aux else s) s

/-- Every lane that raised a cause observes the stall count, and the delivered ones take their trap (R212, R225). -/
def State.deliverIssued (s : State) (st : Stall) (l : List LaneTrap) (i : Option Instr) : State :=
  State.deliver ((l.foldl (fun s x => s.modThread x.t (Thread.stalled st)) s).markErrors l) (deliveredTraps l) i

/-- The lanes of an issue, lowest lane first (R211, R244, R304): the alignment check holds for all of them, then each lane
acts, then the delivered lanes take their trap. -/
def State.runLanes (s : State) (i : Instr) (st : Stall) (body : Body) : State :=
  let lw := s.laneWords ((s.issue.lanes.head?).map (·.blk) |>.getD 0)
  match misalignedSub (Instr.groups lw i) with
  | some sub => s.deliverIssued st (s.issuing.map fun t => ⟨t, 0x02, sub, 0⟩) (some i)
  | none =>
    let r := s.issue.lanes.foldl (laneStep i st body) (s, [])
    r.1.deliverIssued st r.2 (some i)

/-- What a thread-local instruction sees besides its thread: the core's cycle count, the kernel, the strand's width in
mask words. -/
structure TCtx where
  now : Nat
  kernel : Kernel
  deriving DecidableEq, Repr

/-- What a thread-local instruction does: goes on with the thread changed, sets the pc itself, or raises a cause, with the
thread as the trap leaves it (a flag set, R172). -/
inductive TLane where
  | next (th : Thread)
  | go (th : Thread)
  | trap (th : Thread) (cause sub : Nat)

/-- The context of a thread of the present issue. -/
def State.tctx (s : State) (t : TRef) : TCtx := ⟨(s.core s.issue.core).cycles, s.kernel t.blk⟩

/-- A thread-local body as a body. -/
def localBody (f : TCtx → Thread → TLane) : Body := fun s t th =>
  match f (s.tctx t) th with
  | .next th' => .next (s.modThread t fun _ => th')
  | .go th' => .go (s.modThread t fun _ => th')
  | .trap th' c sub => .trap (s.modThread t fun _ => th') c sub 0

/-- Run a thread-local instruction. -/
def State.runLocal (s : State) (i : Instr) (st : Stall) (f : TCtx → Thread → TLane) : Host.Outcome State Fault Refusal :=
  .next (s.runLanes i st (localBody f))

/-- Run an instruction lane by lane. -/
def State.run (s : State) (i : Instr) (st : Stall) (body : Body) : Host.Outcome State Fault Refusal :=
  .next (s.runLanes i st body)

/-- When a class-A result arrives: 2 cycles after issue (R225). -/
def TCtx.dueA (c : TCtx) : Due := some (c.now + 2, false)

/-- When a class-B result arrives: 4 cycles after issue, or 5 with D of 5 to 8, the fifth tracked (R225, R183). -/
def TCtx.dueB (c : TCtx) : Due := if 5 ≤ c.kernel.d then some (c.now + 5, true) else some (c.now + 4, false)

/-- A variable-latency result (R225). -/
def dueV (_ : TCtx) : Due := none

end Sys2Proof.Machine
end

