-- ==== Sys2Proof/Machine/Flags.lean ====
section
/-! DEFINITION. Flags and plies: raising and trapping floating exceptions (R171, R172, R281), the result tag (R185), the
integer ply rule (R188, R249), and the rounded partials (R186). -/

namespace Sys2Proof.Machine

/-! ### Floating exceptions -/

/-- OR exceptions into %fpflags (R172). -/
def Thread.raise (th : Thread) (fl : Flags) : Thread := { th with fpflags := th.fpflags ||| fl }

/-- The cause of the lowest enabled exception among those raised (R172): 0x10 + the flag's bit. -/
def enabledCause (en fl : Flags) : Option Nat :=
  let m := en &&& fl
  if m.getLsbD 0 then some 0x10
  else if m.getLsbD 1 then some 0x11
  else if m.getLsbD 2 then some 0x12
  else if m.getLsbD 3 then some 0x13
  else if m.getLsbD 4 then some 0x14
  else none

/-- Raise exceptions, then trap on an enabled one with the destination unwritten, or go on (R172, R281). -/
def fpFinish (th : Thread) (fl : Flags) (k : Thread → Thread) : TLane :=
  match enabledCause th.fpctl fl with
  | some c => .trap (th.raise fl) c 0
  | none => .next (k (th.raise fl))

/-! ### Tags and partials -/

/-- Partial i of a register: +0 unless it is LIVE (R184, R185). -/
def Reg.part (r : Reg) (i : Nat) : Word := if r.tag = .live then r.parts.getD i 0 else 0

/-- Partial i as an exact value. -/
def Reg.partV (r : Reg) (i : Nat) : Val := f32v (r.part i)

/-- A partial as it is written: a NaN is the canonical NaN (R185). -/
def canonPart (w : Word) : Word := if (f32v w).isNan then 0x7FC00000 else w

/-- The exact f32 value of a register. -/
def Reg.v (r : Reg) : Val := f32v r.val

/-- The result STATE that the inputs give (R185). -/
def joinTag (ins : List Reg) : PlyTag :=
  if ins.any fun r => r.tag == .lost then .lost
  else if ins.any fun r => r.tag == .live then .live
  else .zero

/-- A floating result under R185: `nan` says that its value is a NaN, `kink` that the rule itself sets KINK. -/
def fpReg (ins : List Reg) (v : Word) (nan kink : Bool) (parts : List Word) : Reg :=
  let tag := if nan && joinTag ins != .zero then .lost else joinTag ins
  ⟨v, tag, ins.any (·.kink) || kink, if tag = .live then parts else []⟩

/-- A result whose rule gives STATE ZERO unless it is a NaN (R185, R186, R187). -/
def fpZeroReg (ins : List Reg) (v : Word) (nan kink : Bool) : Reg :=
  ⟨v, if nan && joinTag ins != .zero then .lost else .zero, ins.any (·.kink) || kink, []⟩

/-- An integer result (R188, R249). -/
def intReg (ins : List Reg) (v : Word) : Reg :=
  ⟨v, if joinTag ins = .zero then .zero else .lost, ins.any (·.kink), []⟩

/-- The partials 0 to D − 1 of a result. -/
def partsOf (d : Nat) (f : Nat → Word) : List Word := (List.range d).map f

/-- Is a word an f32 NaN? -/
def isNan32 (w : Word) : Bool := (f32v w).isNan

end Sys2Proof.Machine
end

