-- ==== Sys2Proof/Machine/Float.lean ====
section
/-! DEFINITION. Floating arithmetic, comparisons and conversions with their plies (R170 to R174, R185 to R188, R190,
R258, R259, R279 to R285). -/

namespace Sys2Proof.Machine

/-! ### Shared forms -/

/-- A three-register floating form with a width: the k operations of a lane are one instruction for flags and traps
(R279, R281). `f` takes D, the registers a + i and b + i, and the old d + i. -/
def fp3 (d a b : RegName) (k : Nat) (due : TCtx → Due) (f : Nat → Reg → Reg → Reg → Reg × Flags) : TCtx → Thread → TLane :=
  fun c th =>
    let r := (List.range k).map fun i =>
      f c.kernel.d (th.get (member a i)) (th.get (member b i)) (th.get (member d i))
    fpFinish th (r.foldl (fun m x => m ||| x.2) Flags.none) fun th => th.results d (due c) 0 (r.map (·.1))

/-- A one-source floating form. -/
def fp1 (d a : RegName) (due : TCtx → Due) (f : Nat → Reg → Reg × Flags) : TCtx → Thread → TLane :=
  fun c th =>
    let r := f c.kernel.d (th.get a)
    fpFinish th r.2 fun th => th.result (archOf th.wb d) r.1 (due c)

/-- A result word and its flags as a register and flags, under the tag rule of R185 and a rule for partial i. -/
def fpOut (n : Nat) (ins : List Reg) (r : Nat × Flags) (part : Nat → Word) : Reg × Flags :=
  (fpReg ins (Word.ofNat r.1) (isNan32 (Word.ofNat r.1)) false (partsOf n part), r.2)

/-- FADD of two registers (R279, R186). -/
def faddReg (n : Nat) (x y : Reg) : Reg × Flags :=
  fpOut n [x, y] (Fmt.f32.addOp x.val.toNat y.val.toNat) fun i => rne32 ((x.partV i).add (y.partV i))

/-- FSUB of two registers (R279, R186). -/
def fsubReg (n : Nat) (x y : Reg) : Reg × Flags :=
  fpOut n [x, y] (Fmt.f32.subOp x.val.toNat y.val.toNat) fun i => rne32 ((x.partV i).sub (y.partV i))

/-- FMUL of two registers (R279, R186). -/
def fmulReg (n : Nat) (x y : Reg) : Reg × Flags :=
  fpOut n [x, y] (Fmt.f32.mulOp x.val.toNat y.val.toNat) fun i =>
    rne32 ((x.v.mul (y.partV i)).add (f32v (rne32 (y.v.mul (x.partV i)))))

/-- FFMA: x × y + z (R279, R186). -/
def ffmaReg (n : Nat) (x y z : Reg) : Reg × Flags :=
  fpOut n [x, y, z] (Fmt.f32.fmaOp x.val.toNat y.val.toNat z.val.toNat) fun i =>
    rne32 ((x.v.mul (y.partV i)).add (f32v (rne32 ((y.v.mul (x.partV i)).add (z.partV i)))))

/-- The term q·db of a partial of FDIV; by a zero divisor a zero db contributes nothing to the numerator (R283, log 97). -/
def fdivTerm (q : Val) (y : Reg) (i : Nat) : Val :=
  if y.v.isZero && (y.partV i).isZero then .fin false 0 0 else q.mul (y.partV i)

/-- FDIV of two registers (R283, R186): partial i is RNE((da − q·db) / b). -/
def fdivReg (n : Nat) (x y : Reg) : Reg × Flags :=
  let q := Fmt.f32.divOp x.val.toNat y.val.toNat
  fpOut n [x, y] q fun i =>
    Word.ofNat (Fmt.f32.div ((x.partV i).sub (fdivTerm (Fmt.f32.val q.1) y i)) y.v).1

/-- FMIN and FMAX of two registers (R282, R186): the chosen operand's bits, STATE and partials, a NaN among them canonical
(R185). -/
def fminmaxReg (wantMax : Bool) (n : Nat) (x y : Reg) : Reg × Flags :=
  let r := Fmt.f32.minmaxOp wantMax x.val.toNat y.val.toNat
  let c := if chooseFirst wantMax x.v y.v then x else y
  let nan := isNan32 (Word.ofNat r.1)
  let tag := if nan then (if joinTag [x, y] = .zero then .zero else .lost) else c.tag
  (⟨Word.ofNat r.1, tag, x.kink || y.kink || isTie x.v y.v, if tag = .live then partsOf n fun i => canonPart (c.part i) else []⟩,
    r.2)

/-- The flag of a comparison, and NV for a signalling NaN (R284). -/
def fcmpFlag (c : Cond) (x y : Reg) : Word × Flags :=
  (if cmpVal c x.v y.v then 1 else 0, if x.v.isSig || y.v.isSig then Flags.nv else Flags.none)

/-! ### The instructions 0x47 to 0x4F -/

/-- FADD (R279). -/
def execFadd (d a b : RegName) (w : Width) (st : Stall) (s : State) : Host.Outcome State Fault Refusal :=
  s.runLocal (.fadd d a b w st) st (fp3 d a b w.k TCtx.dueB fun n x y _ => faddReg n x y)

/-- FSUB (R279). -/
def execFsub (d a b : RegName) (w : Width) (st : Stall) (s : State) : Host.Outcome State Fault Refusal :=
  s.runLocal (.fsub d a b w st) st (fp3 d a b w.k TCtx.dueB fun n x y _ => fsubReg n x y)

/-- FMUL (R279). -/
def execFmul (d a b : RegName) (w : Width) (st : Stall) (s : State) : Host.Outcome State Fault Refusal :=
  s.runLocal (.fmul d a b w st) st (fp3 d a b w.k TCtx.dueB fun n x y _ => fmulReg n x y)

/-- FFMA (R279): d ← a × b + d. -/
def execFfma (d a b : RegName) (w : Width) (st : Stall) (s : State) : Host.Outcome State Fault Refusal :=
  s.runLocal (.ffma d a b w st) st (fp3 d a b w.k TCtx.dueB ffmaReg)

/-- FMIN (R282). -/
def execFmin (d a b : RegName) (w : Width) (st : Stall) (s : State) : Host.Outcome State Fault Refusal :=
  s.runLocal (.fmin d a b w st) st (fp3 d a b w.k TCtx.dueB fun n x y _ => fminmaxReg false n x y)

/-- FMAX (R282). -/
def execFmax (d a b : RegName) (w : Width) (st : Stall) (s : State) : Host.Outcome State Fault Refusal :=
  s.runLocal (.fmax d a b w st) st (fp3 d a b w.k TCtx.dueB fun n x y _ => fminmaxReg true n x y)

/-- FCMP (R284): the flag with ZERO plies. -/
def execFcmp (d a b : RegName) (c : Cond) (st : Stall) (s : State) : Host.Outcome State Fault Refusal :=
  s.runLocal (.fcmp d a b c st) st (fp3 d a b 1 TCtx.dueB fun _ x y _ =>
    (Reg.plain (fcmpFlag c x y).1, (fcmpFlag c x y).2))

/-- FCMPM (R285): the flag, and the margin a − b as FSUB gives it. -/
def execFcmpm (d a b : RegName) (c : Cond) (st : Stall) (s : State) : Host.Outcome State Fault Refusal :=
  s.runLocal (.fcmpm d a b c st) st fun cx th =>
    let f := fcmpFlag c (th.get a) (th.get b)
    let m := fsubReg cx.kernel.d (th.get a) (th.get b)
    fpFinish th (f.2 ||| m.2) fun th => th.results d cx.dueB 0 [Reg.plain f.1, m.1]

/-- FDIV (R283), with variable latency. -/
def execFdiv (d a b : RegName) (w : Width) (st : Stall) (s : State) : Host.Outcome State Fault Refusal :=
  s.runLocal (.fdiv d a b w st) st (fp3 d a b w.k dueV fun n x y _ => fdivReg n x y)

/-! ### CVT (R258, R259, R173, R174, R187) -/

/-- The floating format of a CVT code, if it is one (R235). -/
def floatFmt : NumFmt → Option Fmt
  | .f32 => some .f32
  | .f16 => some .f16
  | .bf16 => some .bf16
  | .e4m3 => some .e4m3
  | .e5m2 => some .e5m2
  | .i32 => none
  | .n32 => none

/-- A conversion between floating formats (R173): the pattern, the flags, and whether .sat clamped a value beyond Emax. -/
def cvtFloat (dst : Fmt) (mode : Rnd) (sat : Bool) (v : Val) : Nat × Flags × Bool :=
  match v with
  | .nan sig => (dst.nan, if sig then Flags.nv else Flags.none, false)
  | .inf n => if sat then (dst.maxFin n, Flags.none, true)
              else if dst.hasInf then (dst.inf n, Flags.none, false) else (dst.nan, Flags.nv, false)
  | .fin _ _ _ =>
    let r := dst.round mode sat v
    (r.1, r.2, sat && r.2.getLsbD 2)

/-- The range of an integer format. -/
def intRange (signed : Bool) : Int × Int := if signed then (-(2 ^ 31), 2 ^ 31 - 1) else (0, 2 ^ 32 - 1)

/-- A conversion from a floating value to i32 or n32 (R174). -/
def cvtToInt (signed : Bool) (mode : Rnd) (sat : Bool) (v : Val) : Word × Flags :=
  let bad : Word := if signed then 0x80000000 else 0xFFFFFFFF
  let lo := (intRange signed).1
  let hi := (intRange signed).2
  match v with
  | .nan _ => (if sat then 0 else bad, Flags.nv)
  | .inf n => if sat then (BitVec.ofInt 32 (if n then lo else hi), Flags.nx) else (bad, Flags.nv)
  | .fin _ _ _ =>
    let r := v.toIntegral mode
    let i := r.floorInt
    let inexact := !r.eqv v
    if lo ≤ i && i ≤ hi then (BitVec.ofInt 32 i, if inexact then Flags.nx else Flags.none)
    else if sat then (BitVec.ofInt 32 (if i < lo then lo else hi), Flags.nx)
    else (bad, Flags.nv)

/-- A conversion between i32 and n32 (R174): the bits, or with .sat the value clamped. -/
def cvtIntInt (srcSigned : Bool) (sat : Bool) (w : Word) : Word :=
  if sat && w.msb then (if srcSigned then 0 else 0x7FFFFFFF) else w

/-- CVT of one register (R259, R187, R188). -/
def cvtReg (src dst : NumFmt) (sat : Bool) (mode : Rnd) (x : Reg) : Reg × Flags :=
  match floatFmt src, floatFmt dst with
  | some f, some g =>
    let r := cvtFloat g mode sat (f.val x.val.toNat)
    let w := Word.ofNat r.1
    (if r.2.2 then fpZeroReg [x] w false true
     else fpReg [x] w (g.val r.1).isNan false x.parts, r.2.1)
  | some f, none =>
    let r := cvtToInt (dst = .i32) mode sat (f.val x.val.toNat)
    (⟨r.1, .zero, x.kink, []⟩, r.2)
  | none, some g =>
    let v := if src = .i32 then Val.ofInt x.val.toInt 0 else Val.ofInt x.val.toNat 0
    let r := g.round mode sat v
    (intReg [x] (Word.ofNat r.1), r.2)
  | none, none => (intReg [x] (cvtIntInt (src = .i32) sat x.val), Flags.none)

/-- CVT (R258, R259). -/
def execCvt (d a : RegName) (src dst : NumFmt) (sat : Bool) (rnd : Rnd) (st : Stall) (s : State) :
    Host.Outcome State Fault Refusal :=
  s.runLocal (.cvt d a src dst sat rnd st) st (fp1 d a TCtx.dueB fun _ x => cvtReg src dst sat rnd x)

end Sys2Proof.Machine
end

