-- ==== Sys2Proof/Machine/Integer.lean ====
section
/-! DEFINITION. The integer instructions on registers and immediates, the constants, the IUN group (R248 to R254, R257). -/

namespace Sys2Proof.Machine

/-! ### Shared forms -/

/-- A three-register form with a width: operation i takes the registers a + i, b + i and the old d + i (R228, R248). -/
def op3 (d a b : RegName) (k : Nat) (due : TCtx → Due) (f : Reg → Reg → Reg → Reg) : TCtx → Thread → TLane :=
  fun c th => .next (th.results d (due c) 0
    ((List.range k).map fun i => f (th.get (member a i)) (th.get (member b i)) (th.get (member d i))))

/-- A two-register form: the register a and the old d. -/
def op2 (d a : RegName) (due : TCtx → Due) (f : Reg → Reg → Reg) : TCtx → Thread → TLane :=
  fun c th => .next (th.result (archOf th.wb d) (f (th.get a) (th.get d)) (due c))

/-- An integer operation on two values, under the ply rule of R249. -/
def int2 (f : Word → Word → Word) : Reg → Reg → Reg → Reg := fun x y _ => intReg [x, y] (f x.val y.val)

/-- An integer operation that also reads the old d. -/
def int3 (f : Word → Word → Word → Word) : Reg → Reg → Reg → Reg := fun x y z => intReg [x, y, z] (f x.val y.val z.val)

/-- An integer operation on one value. -/
def int1 (f : Word → Word) : Reg → Reg → Reg := fun x _ => intReg [x] (f x.val)

/-- A division form: it reads the old d and a (R257). -/
def intD (f : Word → Word → Word) : Reg → Reg → Reg := fun x z => intReg [x, z] (f z.val x.val)

/-- A pair result: both members take the same state (R249). -/
def pairReg (ins : List Reg) (v : Addr) : List Reg := [intReg ins (Addr.low v), intReg ins (Addr.high v)]

/-- The 64-bit value of two registers. -/
def Reg.pairVal (l h : Reg) : Addr := Sys2Proof.pairVal l.val h.val

/-- A form with pair operands a:2 and b:2 and a pair result (R252). -/
def opPair (d a b : RegName) (due : TCtx → Due) (f : Addr → Addr → Addr) : TCtx → Thread → TLane :=
  fun c th => .next (th.results d (due c) 0
    (pairReg (th.group a 2 ++ th.group b 2) (f (th.pair a) (th.pair b))))

/-! ### The operations on values -/

/-- The high word of the signed product. -/
def mulHigh (x y : Word) : Word := Word.ofNat (((x.toInt * y.toInt) / 2 ^ 32) % 2 ^ 32).toNat

/-- The high word of the unsigned product. -/
def mulHighU (x y : Word) : Word := Word.ofNat (x.toNat * y.toNat / 2 ^ 32)

/-- A shift count: b[4:0]. -/
def shiftCount (b : Word) : Nat := b.toNat % 32

/-- The field length of BFX and BFI: min(b[13:8], 32) (R250). -/
def fieldLen (b : Word) : Nat := min (b.field 8 6) 32

/-- The mask 2^n − 1 as a word. -/
def onesMask (n : Nat) : Word := Word.ofNat (2 ^ n - 1)

/-- BFX (R250). -/
def bfxVal (x b : Word) : Word := (x >>> shiftCount b) &&& onesMask (fieldLen b)

/-- BFI (R250). -/
def bfiVal (x b z : Word) : Word :=
  let m := onesMask (fieldLen b) <<< shiftCount b
  (z &&& ~~~m) ||| ((x <<< shiftCount b) &&& m)

/-- A flag as a register value. -/
def flagWord (b : Bool) : Word := if b then 1 else 0

/-- Signed comparison under a condition (R240, R251). -/
def cmpSigned (c : Cond) (x y : Word) : Bool :=
  match c with
  | .lt => x.slt y
  | .le => x.sle y
  | .eq => x == y
  | .ne => x != y

/-- Unsigned comparison under a condition (R240, R251). -/
def cmpUnsigned (c : Cond) (x y : Word) : Bool :=
  match c with
  | .lt => x.ult y
  | .le => x.ule y
  | .eq => x == y
  | .ne => x != y

/-- The number of one bits. -/
def popCount (x : Word) : Word := Word.ofNat ((List.range 32).countP x.getLsbD)

/-- The number of leading zero bits; 32 for zero. -/
def leadingZeros (x : Word) : Word := Word.ofNat (((List.range 32).find? fun i => x.getLsbD (31 - i)).getD 32)

/-- The number of trailing zero bits; 32 for zero. -/
def trailingZeros (x : Word) : Word := Word.ofNat (((List.range 32).find? x.getLsbD).getD 32)

/-- The bits in reverse order. -/
def bitReverse (x : Word) : Word := x.reverse

/-- Signed division, truncated; by zero it is all ones, and the overflow gives 0x8000_0000 (R257). -/
def divSigned (n d : Word) : Word := if d = 0 then 0xFFFFFFFF else n.sdiv d

/-- Unsigned division; by zero it is all ones (R257). -/
def divUnsigned (n d : Word) : Word := if d = 0 then 0xFFFFFFFF else n.udiv d

/-- Signed remainder, with the dividend's sign; by zero it is the dividend, and at the overflow 0 (R257). -/
def remSigned (n d : Word) : Word := if d = 0 then n else n.srem d

/-- Unsigned remainder; by zero it is the dividend (R257). -/
def remUnsigned (n d : Word) : Word := if d = 0 then n else n.umod d

/-- |s(x)|; 0x8000_0000 stays (R257). -/
def absVal (x : Word) : Word := if x.msb then -x else x

/-- The value of MOVI's and ADDI's immediate, sign-extended to a word (R224). -/
def sext32 {n : Nat} (i : BitVec n) : Word := i.signExtend 32

/-- An immediate zero-extended to a word (R224). -/
def zext32 {n : Nat} (i : BitVec n) : Word := i.zeroExtend 32

/-! ### The instructions -/

/-- IADD (R250): d ← a + b. -/
def execIadd (d a b : RegName) (w : Width) (st : Stall) (s : State) : Host.Outcome State Fault Refusal :=
  s.runLocal (.iadd d a b w st) st (op3 d a b w.k TCtx.dueA (int2 (fun x y => x + y)))

/-- ISUB (R250): d ← a − b. -/
def execIsub (d a b : RegName) (w : Width) (st : Stall) (s : State) : Host.Outcome State Fault Refusal :=
  s.runLocal (.isub d a b w st) st (op3 d a b w.k TCtx.dueA (int2 (fun x y => x - y)))

/-- IMUL (R250): the low word of a × b. -/
def execImul (d a b : RegName) (w : Width) (st : Stall) (s : State) : Host.Outcome State Fault Refusal :=
  s.runLocal (.imul d a b w st) st (op3 d a b w.k TCtx.dueB (int2 (fun x y => x * y)))

/-- IMULH (R250): the high word of s(a) × s(b). -/
def execImulh (d a b : RegName) (w : Width) (st : Stall) (s : State) : Host.Outcome State Fault Refusal :=
  s.runLocal (.imulh d a b w st) st (op3 d a b w.k TCtx.dueB (int2 mulHigh))

/-- IMULHN (R250): the high word of u(a) × u(b). -/
def execImulhn (d a b : RegName) (w : Width) (st : Stall) (s : State) : Host.Outcome State Fault Refusal :=
  s.runLocal (.imulhn d a b w st) st (op3 d a b w.k TCtx.dueB (int2 mulHighU))

/-- IMAD (R250): the low word of a × b + old d. -/
def execImad (d a b : RegName) (w : Width) (st : Stall) (s : State) : Host.Outcome State Fault Refusal :=
  s.runLocal (.imad d a b w st) st (op3 d a b w.k TCtx.dueB (int3 (fun x y z => x * y + z)))

/-- AND (R250). -/
def execAnd (d a b : RegName) (w : Width) (st : Stall) (s : State) : Host.Outcome State Fault Refusal :=
  s.runLocal (.and d a b w st) st (op3 d a b w.k TCtx.dueA (int2 (fun x y => x &&& y)))

/-- OR (R250). -/
def execOr (d a b : RegName) (w : Width) (st : Stall) (s : State) : Host.Outcome State Fault Refusal :=
  s.runLocal (.or d a b w st) st (op3 d a b w.k TCtx.dueA (int2 (fun x y => x ||| y)))

/-- XOR (R250). -/
def execXor (d a b : RegName) (w : Width) (st : Stall) (s : State) : Host.Outcome State Fault Refusal :=
  s.runLocal (.xor d a b w st) st (op3 d a b w.k TCtx.dueA (int2 (fun x y => x ^^^ y)))

/-- ANDN (R250): a AND NOT b. -/
def execAndn (d a b : RegName) (w : Width) (st : Stall) (s : State) : Host.Outcome State Fault Refusal :=
  s.runLocal (.andn d a b w st) st (op3 d a b w.k TCtx.dueA (int2 (fun x y => x &&& ~~~y)))

/-- SHL (R250). -/
def execShl (d a b : RegName) (w : Width) (st : Stall) (s : State) : Host.Outcome State Fault Refusal :=
  s.runLocal (.shl d a b w st) st (op3 d a b w.k TCtx.dueA (int2 (fun x y => x <<< shiftCount y)))

/-- SHR (R250), filling with zeros. -/
def execShr (d a b : RegName) (w : Width) (st : Stall) (s : State) : Host.Outcome State Fault Refusal :=
  s.runLocal (.shr d a b w st) st (op3 d a b w.k TCtx.dueA (int2 (fun x y => x >>> shiftCount y)))

/-- SAR (R250), filling with a[31]. -/
def execSar (d a b : RegName) (w : Width) (st : Stall) (s : State) : Host.Outcome State Fault Refusal :=
  s.runLocal (.sar d a b w st) st (op3 d a b w.k TCtx.dueA (int2 (fun x y => x.sshiftRight (shiftCount y))))

/-- IMIN (R250): the smaller by s(). -/
def execImin (d a b : RegName) (w : Width) (st : Stall) (s : State) : Host.Outcome State Fault Refusal :=
  s.runLocal (.imin d a b w st) st (op3 d a b w.k TCtx.dueA (int2 (fun x y => if y.slt x then y else x)))

/-- IMAX (R250): the larger by s(). -/
def execImax (d a b : RegName) (w : Width) (st : Stall) (s : State) : Host.Outcome State Fault Refusal :=
  s.runLocal (.imax d a b w st) st (op3 d a b w.k TCtx.dueA (int2 (fun x y => if x.slt y then y else x)))

/-- IMINN (R250): the smaller by u(). -/
def execIminn (d a b : RegName) (w : Width) (st : Stall) (s : State) : Host.Outcome State Fault Refusal :=
  s.runLocal (.iminn d a b w st) st (op3 d a b w.k TCtx.dueA (int2 (fun x y => if y.ult x then y else x)))

/-- IMAXN (R250): the larger by u(). -/
def execImaxn (d a b : RegName) (w : Width) (st : Stall) (s : State) : Host.Outcome State Fault Refusal :=
  s.runLocal (.imaxn d a b w st) st (op3 d a b w.k TCtx.dueA (int2 (fun x y => if x.ult y then y else x)))

/-- BFX (R250): a field of a. -/
def execBfx (d a b : RegName) (w : Width) (st : Stall) (s : State) : Host.Outcome State Fault Refusal :=
  s.runLocal (.bfx d a b w st) st (op3 d a b w.k TCtx.dueA (int2 bfxVal))

/-- BFI (R250): a field of a into old d. -/
def execBfi (d a b : RegName) (w : Width) (st : Stall) (s : State) : Host.Outcome State Fault Refusal :=
  s.runLocal (.bfi d a b w st) st (op3 d a b w.k TCtx.dueA (int3 bfiVal))

/-- SEL (R250, R188): the whole register a or b, as old d is not zero or is. -/
def execSel (d a b : RegName) (w : Width) (st : Stall) (s : State) : Host.Outcome State Fault Refusal :=
  s.runLocal (.sel d a b w st) st (op3 d a b w.k TCtx.dueA fun x y z => if z.val ≠ 0 then x else y)

/-- ISET (R251): a signed comparison. -/
def execIset (d a b : RegName) (c : Cond) (st : Stall) (s : State) : Host.Outcome State Fault Refusal :=
  s.runLocal (.iset d a b c st) st (op3 d a b 1 TCtx.dueA (int2 fun x y => flagWord (cmpSigned c x y)))

/-- ISETN (R251): an unsigned comparison. -/
def execIsetn (d a b : RegName) (c : Cond) (st : Stall) (s : State) : Host.Outcome State Fault Refusal :=
  s.runLocal (.isetn d a b c st) st (op3 d a b 1 TCtx.dueA (int2 fun x y => flagWord (cmpUnsigned c x y)))

/-- ADD64 (R252). -/
def execAdd64 (d a b : RegName) (st : Stall) (s : State) : Host.Outcome State Fault Refusal :=
  s.runLocal (.add64 d a b st) st (opPair d a b TCtx.dueA fun x y => x + y)

/-- SUB64 (R252). -/
def execSub64 (d a b : RegName) (st : Stall) (s : State) : Host.Outcome State Fault Refusal :=
  s.runLocal (.sub64 d a b st) st (opPair d a b TCtx.dueA fun x y => x - y)

/-- MUL64 (R252): the low 64 bits. -/
def execMul64 (d a b : RegName) (st : Stall) (s : State) : Host.Outcome State Fault Refusal :=
  s.runLocal (.mul64 d a b st) st (opPair d a b TCtx.dueB fun x y => x * y)

/-- MADW (R252): u(a) × u(b) + old d:2. -/
def execMadw (d a b : RegName) (st : Stall) (s : State) : Host.Outcome State Fault Refusal :=
  s.runLocal (.madw d a b st) st (fun c th => .next (th.results d c.dueB 0
    (pairReg ([th.get a, th.get b] ++ th.group d 2) ((th.val a).zeroExtend 64 * (th.val b).zeroExtend 64 + th.pair d))))

/-- SHFR (R252): the low word of a:2 shifted right by b[5:0]. -/
def execShfr (d a b : RegName) (st : Stall) (s : State) : Host.Outcome State Fault Refusal :=
  s.runLocal (.shfr d a b st) st (fun c th => .next (th.result (archOf th.wb d)
    (intReg (th.group a 2 ++ [th.get b]) (Addr.low (th.pair a >>> ((th.val b).toNat % 64)))) c.dueA))

/-- ADDI (R253). -/
def execAddi (d a : RegName) (imm : BitVec 9) (st : Stall) (s : State) : Host.Outcome State Fault Refusal :=
  s.runLocal (.addi d a imm st) st (op2 d a TCtx.dueA (int1 fun x => x + sext32 imm))

/-- ANDI (R253). -/
def execAndi (d a : RegName) (imm : BitVec 9) (st : Stall) (s : State) : Host.Outcome State Fault Refusal :=
  s.runLocal (.andi d a imm st) st (op2 d a TCtx.dueA (int1 fun x => x &&& zext32 imm))

/-- ORI (R253). -/
def execOri (d a : RegName) (imm : BitVec 9) (st : Stall) (s : State) : Host.Outcome State Fault Refusal :=
  s.runLocal (.ori d a imm st) st (op2 d a TCtx.dueA (int1 fun x => x ||| zext32 imm))

/-- XORI (R253). -/
def execXori (d a : RegName) (imm : BitVec 9) (st : Stall) (s : State) : Host.Outcome State Fault Refusal :=
  s.runLocal (.xori d a imm st) st (op2 d a TCtx.dueA (int1 fun x => x ^^^ zext32 imm))

/-- SHLI (R253). -/
def execShli (d a : RegName) (imm : BitVec 5) (st : Stall) (s : State) : Host.Outcome State Fault Refusal :=
  s.runLocal (.shli d a imm st) st (op2 d a TCtx.dueA (int1 fun x => x <<< imm.toNat))

/-- SHRI (R253). -/
def execShri (d a : RegName) (imm : BitVec 5) (st : Stall) (s : State) : Host.Outcome State Fault Refusal :=
  s.runLocal (.shri d a imm st) st (op2 d a TCtx.dueA (int1 fun x => x >>> imm.toNat))

/-- SARI (R253). -/
def execSari (d a : RegName) (imm : BitVec 5) (st : Stall) (s : State) : Host.Outcome State Fault Refusal :=
  s.runLocal (.sari d a imm st) st (op2 d a TCtx.dueA (int1 fun x => x.sshiftRight imm.toNat))

/-- ISETLTI (R253). -/
def execIsetlti (d a : RegName) (imm : BitVec 9) (st : Stall) (s : State) : Host.Outcome State Fault Refusal :=
  s.runLocal (.isetlti d a imm st) st (op2 d a TCtx.dueA (int1 fun x => flagWord (x.slt (sext32 imm))))

/-- MULI (R253). -/
def execMuli (d a : RegName) (imm : BitVec 9) (st : Stall) (s : State) : Host.Outcome State Fault Refusal :=
  s.runLocal (.muli d a imm st) st (op2 d a TCtx.dueB (int1 fun x => x * sext32 imm))

/-- ADDPI (R253): a pair plus an immediate widened to 64 bits. -/
def execAddpi (d a : RegName) (imm : BitVec 9) (st : Stall) (s : State) : Host.Outcome State Fault Refusal :=
  s.runLocal (.addpi d a imm st) st (fun c th => .next (th.results d c.dueA 0
    (pairReg (th.group a 2) (th.pair a + imm.signExtend 64))))

/-- LUI (R254): imm16 in the high half, ZERO plies. -/
def execLui (d : RegName) (imm : BitVec 16) (st : Stall) (s : State) : Host.Outcome State Fault Refusal :=
  s.runLocal (.lui d imm st) st (fun c th => .next (th.result (archOf th.wb d) (Reg.plain (zext32 imm <<< 16)) c.dueA))

/-- ORLO (R254): old d OR imm16. -/
def execOrlo (d : RegName) (imm : BitVec 16) (st : Stall) (s : State) : Host.Outcome State Fault Refusal :=
  s.runLocal (.orlo d imm st) st (fun c th => .next (th.result (archOf th.wb d) (intReg [th.get d] (th.val d ||| zext32 imm)) c.dueA))

/-- MOVI (R254): the immediate sign-extended, ZERO plies. -/
def execMovi (d : RegName) (imm : BitVec 16) (st : Stall) (s : State) : Host.Outcome State Fault Refusal :=
  s.runLocal (.movi d imm st) st (fun c th => .next (th.result (archOf th.wb d) (Reg.plain (sext32 imm)) c.dueA))

/-- MOV (R257, R188): the whole register. -/
def execMov (d a : RegName) (w : Width) (st : Stall) (s : State) : Host.Outcome State Fault Refusal :=
  s.runLocal (.mov d a w st) st (op3 d a a w.k TCtx.dueA fun x _ _ => x)

/-- NOT (R257). -/
def execNot (d a : RegName) (st : Stall) (s : State) : Host.Outcome State Fault Refusal :=
  s.runLocal (.not d a st) st (op2 d a TCtx.dueA (int1 fun x => ~~~x))

/-- INEG (R257). -/
def execIneg (d a : RegName) (st : Stall) (s : State) : Host.Outcome State Fault Refusal :=
  s.runLocal (.ineg d a st) st (op2 d a TCtx.dueA (int1 fun x => 0 - x))

/-- IABS (R257). -/
def execIabs (d a : RegName) (st : Stall) (s : State) : Host.Outcome State Fault Refusal :=
  s.runLocal (.iabs d a st) st (op2 d a TCtx.dueA (int1 absVal))

/-- POPC (R257). -/
def execPopc (d a : RegName) (st : Stall) (s : State) : Host.Outcome State Fault Refusal :=
  s.runLocal (.popc d a st) st (op2 d a TCtx.dueA (int1 popCount))

/-- CLZ (R257). -/
def execClz (d a : RegName) (st : Stall) (s : State) : Host.Outcome State Fault Refusal :=
  s.runLocal (.clz d a st) st (op2 d a TCtx.dueA (int1 leadingZeros))

/-- CTZ (R257). -/
def execCtz (d a : RegName) (st : Stall) (s : State) : Host.Outcome State Fault Refusal :=
  s.runLocal (.ctz d a st) st (op2 d a TCtx.dueA (int1 trailingZeros))

/-- BREV (R257). -/
def execBrev (d a : RegName) (st : Stall) (s : State) : Host.Outcome State Fault Refusal :=
  s.runLocal (.brev d a st) st (op2 d a TCtx.dueA (int1 bitReverse))

/-- SEXT8 (R257). -/
def execSext8 (d a : RegName) (st : Stall) (s : State) : Host.Outcome State Fault Refusal :=
  s.runLocal (.sext8 d a st) st (op2 d a TCtx.dueA (int1 fun x => (x.truncate 8).signExtend 32))

/-- SEXT16 (R257). -/
def execSext16 (d a : RegName) (st : Stall) (s : State) : Host.Outcome State Fault Refusal :=
  s.runLocal (.sext16 d a st) st (op2 d a TCtx.dueA (int1 fun x => (x.truncate 16).signExtend 32))

/-- ZEXT8 (R257). -/
def execZext8 (d a : RegName) (st : Stall) (s : State) : Host.Outcome State Fault Refusal :=
  s.runLocal (.zext8 d a st) st (op2 d a TCtx.dueA (int1 fun x => (x.truncate 8).zeroExtend 32))

/-- ZEXT16 (R257). -/
def execZext16 (d a : RegName) (st : Stall) (s : State) : Host.Outcome State Fault Refusal :=
  s.runLocal (.zext16 d a st) st (op2 d a TCtx.dueA (int1 fun x => (x.truncate 16).zeroExtend 32))

/-- IDIV (R257): old d ÷ a, truncated, signed. -/
def execIdiv (d a : RegName) (st : Stall) (s : State) : Host.Outcome State Fault Refusal :=
  s.runLocal (.idiv d a st) st (op2 d a dueV (intD divSigned))

/-- IDIVN (R257): old d ÷ a, unsigned. -/
def execIdivn (d a : RegName) (st : Stall) (s : State) : Host.Outcome State Fault Refusal :=
  s.runLocal (.idivn d a st) st (op2 d a dueV (intD divUnsigned))

/-- IREM (R257): the signed remainder. -/
def execIrem (d a : RegName) (st : Stall) (s : State) : Host.Outcome State Fault Refusal :=
  s.runLocal (.irem d a st) st (op2 d a dueV (intD remSigned))

/-- IREMN (R257): the unsigned remainder. -/
def execIremn (d a : RegName) (st : Stall) (s : State) : Host.Outcome State Fault Refusal :=
  s.runLocal (.iremn d a st) st (op2 d a dueV (intD remUnsigned))

end Sys2Proof.Machine
end

