-- ==== Sys2Proof/Machine/Collect.lean ====
section
/-! DEFINITION. The results of the strand collectives LANE, SHFL and RED (R176, R177, R188, R260, R261, R292, R293), as
functions of the members of the collective set. -/

namespace Sys2Proof.Machine

/-- The members of a collective set: lowest lane first. -/
abbrev Members := List (TRef × Thread)

/-- The lanes of a set as a mask, under a test. -/
def maskWhere (m : Members) (p : Thread → Bool) : Addr :=
  m.foldl (fun a x => if p x.2 then a ||| (1#64 <<< x.2.lane) else a) 0#64

/-- A mask result: one register, or the pair where the strand has 64 lanes (R260). -/
def maskRegs (w : Nat) (v : Addr) : List Reg :=
  if w = 64 then [Reg.plain (Addr.low v), Reg.plain (Addr.high v)] else [Reg.plain (Addr.low v)]

/-- The four modes of SHFL (R261). -/
inductive ShflMode where
  | idx | up | down | xor
  deriving DecidableEq, Repr

/-- The source lane of a SHFL; none where it falls outside 0 … W − 1 (R261). -/
def shflSrc (mode : ShflMode) (w lane c : Nat) : Option Nat :=
  match mode with
  | .idx => if c < w then some c else none
  | .up => if c ≤ lane then some (lane - c) else none
  | .down => if lane + c < w then some (lane + c) else none
  | .xor => if (lane ^^^ c) < w then some (lane ^^^ c) else none

/-- What SHFL delivers to one member: the whole register (R261). -/
def shflReg (mode : ShflMode) (w : Nat) (m : Members) (th : Thread) (a b : RegName) : Reg :=
  match shflSrc mode w th.lane ((th.val b).field 0 6) with
  | none => th.get a
  | some l => match m.find? fun x => x.2.lane == l with
    | some x => x.2.get a
    | none => th.get a

/-! ### The tree of R176 -/

/-- A node of the tree: it combines its children, passes the one that is present, or is absent. -/
def treeNode {α : Type} (comb : α → α → α × Flags) : Option α → Option α → Option α × Flags
  | some l, some r => (some (comb l r).1, (comb l r).2)
  | some l, none => (some l, Flags.none)
  | none, r => (r, Flags.none)

/-- One level of the tree: nodes 2i and 2i + 1 of the level below. -/
def treeLevel {α : Type} (comb : α → α → α × Flags) : List (Option α) → List (Option α) × Flags
  | l :: r :: rest =>
    ((treeNode comb l r).1 :: (treeLevel comb rest).1, (treeNode comb l r).2 ||| (treeLevel comb rest).2)
  | [l] => ([l], Flags.none)
  | [] => ([], Flags.none)

/-- The root after `n` levels, with the flags of every node. -/
def treeRoot {α : Type} (comb : α → α → α × Flags) : Nat → List (Option α) → Option α × Flags
  | 0, l => (l.headD none, Flags.none)
  | n + 1, l =>
    let x := treeLevel comb l
    let r := treeRoot comb n x.1
    (r.1, x.2 ||| r.2)

/-- The leaves: lane i of the strand, absent where it is not in the set. -/
def leaves {α : Type} (m : Members) (f : Thread → α) : List (Option α) :=
  (List.range 64).map fun i => (m.find? fun x => x.2.lane == i).map fun x => f x.2

/-- The root over the lanes of a set; a width below 64 leaves the upper lanes absent, which pass nothing. -/
def redRoot {α : Type} (m : Members) (f : Thread → α) (comb : α → α → α × Flags) : Option α × Flags :=
  treeRoot comb 6 (leaves m f)

/-- The integer reductions (R176). -/
inductive RedInt where
  | max | min | add | and | or | xor
  deriving DecidableEq, Repr

/-- One node of an integer reduction: signed under i32, unsigned under n32 (R176). -/
def redIntVal (op : RedInt) (signed : Bool) (x y : Word) : Word :=
  match op with
  | .max => if (if signed then x.slt y else x.ult y) then y else x
  | .min => if (if signed then y.slt x else y.ult x) then y else x
  | .add => x + y
  | .and => x &&& y
  | .or => x ||| y
  | .xor => x ^^^ y

/-- An integer reduction: its value with the tag of R188. -/
def redInt (op : RedInt) (signed : Bool) (m : Members) (a : RegName) : Reg :=
  let v := (redRoot m (fun th => th.val a) fun x y => (redIntVal op signed x y, Flags.none)).1.getD 0
  intReg (m.map fun x => x.2.get a) v

/-- REDMAX and REDMIN of a type (R176, R188, R292). -/
def redMinmax (wantMax : Bool) (t : RedType) (n : Nat) (m : Members) (a : RegName) : Reg × Flags :=
  match t with
  | .f32 => let r := redRoot m (fun th => th.get a) (fminmaxReg wantMax n); (r.1.getD (Reg.plain 0), r.2)
  | .i32 => (redInt (if wantMax then .max else .min) true m a, Flags.none)
  | .n32 => (redInt (if wantMax then .max else .min) false m a, Flags.none)

/-- REDSUM (R176, R188). -/
def redSum (n : Nat) (m : Members) (a : RegName) : Reg × Flags :=
  let r := redRoot m (fun th => th.get a) (faddReg n)
  (r.1.getD (Reg.plain 0), r.2)

/-! ### REDVAR (R177, R293) -/

/-- The triple of R177: count, mean and M2. -/
structure Moment where
  n : Nat
  m : Nat
  m2 : Nat
  deriving DecidableEq, Repr

/-- RNE of a quotient of two positive counts. -/
def countRatio (x y : Nat) : Nat × Flags := Fmt.f32.roundRat .rne false false x y 0

/-- One combination of R177, each operation rounded, with the flags that it raises. -/
def Moment.comb (a b : Moment) : Moment × Flags :=
  let n := a.n + b.n
  let f := Fmt.f32
  let δ := if (f.val a.m).eqv (f.val b.m) then (0, Flags.none) else f.subOp b.m a.m
  let q := countRatio b.n n
  let step := f.mulOp δ.1 q.1
  let m := f.addOp a.m step.1
  let q' := countRatio (a.n * b.n) n
  let sq := f.mulOp δ.1 δ.1
  let t := f.mulOp sq.1 q'.1
  let sum := f.addOp a.m2 b.m2
  let m2 := f.addOp sum.1 t.1
  (⟨n, m.1, m2.1⟩, δ.2 ||| q.2 ||| step.2 ||| m.2 ||| q'.2 ||| sq.2 ||| t.2 ||| sum.2 ||| m2.2)

/-- The four results of REDVAR (R293) and the flags of its tree nodes (R294). -/
def redVar (m : Members) (a : RegName) : List Reg × Flags :=
  let f := Fmt.f32
  let r := redRoot m (fun th => (⟨1, (th.val a).toNat, 0⟩ : Moment)) Moment.comb
  let x := r.1.getD ⟨1, 0, 0⟩
  let anyNan := m.any fun y => isNan32 (y.2.val a)
  let out := fun (v : Nat) => intReg (m.map fun y => y.2.get a) (Word.ofNat v)
  let var := (f.div (f.val x.m2) (.fin false x.n 0)).1
  ([out (if anyNan then f.nan else x.m), out (if anyNan then f.nan else x.m2), out x.n,
    out (if anyNan then f.nan else var)], r.2)

/-! ### What a collective writes in one member -/

/-- The destination of a value collective, what one member receives, and the flags raised; none for an instruction that is
no value collective. `w` is the strand's width, `n` the kernel's D. -/
def collectiveOut (i : Instr) (w n : Nat) (m : Members) (th : Thread) : Option (RegName × List Reg × Flags) :=
  let one := fun (d : RegName) (r : Reg) => some (d, [r], Flags.none)
  let shfl := fun (mode : ShflMode) (d a b : RegName) => one d (shflReg mode w m th a b)
  match i with
  | .voteany d a _ => one d (Reg.plain (flagWord (m.any fun x => x.2.val a != 0)))
  | .voteall d a _ => one d (Reg.plain (flagWord (m.all fun x => x.2.val a != 0)))
  | .ballot d a _ => some (d, maskRegs w (maskWhere m fun x => x.val a != 0), Flags.none)
  | .active d _ => some (d, maskRegs w (maskWhere m fun _ => true), Flags.none)
  | .matchLanes d a _ => some (d, maskRegs w (maskWhere m fun x => x.val a == th.val a), Flags.none)
  | .first d a _ => one d (Reg.plain (((m.head?).map fun x => x.2.val a).getD 0))
  | .shflIdx d a b _ => shfl .idx d a b
  | .shflUp d a b _ => shfl .up d a b
  | .shflDown d a b _ => shfl .down d a b
  | .shflXor d a b _ => shfl .xor d a b
  | .redmax d a t _ => some (d, [(redMinmax true t n m a).1], (redMinmax true t n m a).2)
  | .redmin d a t _ => some (d, [(redMinmax false t n m a).1], (redMinmax false t n m a).2)
  | .redsum d a _ => some (d, [(redSum n m a).1], (redSum n m a).2)
  | .redvar d a _ => some (d, redVar m a)
  | .rediadd d a _ _ => one d (redInt .add false m a)
  | .redand d a _ _ => one d (redInt .and false m a)
  | .redor d a _ _ => one d (redInt .or false m a)
  | .redxor d a _ _ => one d (redInt .xor false m a)
  | _ => none

end Sys2Proof.Machine
end

