-- ==== Sys2Proof/Machine/Xlat.lean ====
section
/-! DEFINITION. Addresses (R26 to R31), the page tables and the walk (R32 to R41), the leaf checks (R42, R43), the block
aperture (R57, R58), extents and the TLB (R47 to R50), the dirty log (R82 to R85). -/

namespace Sys2Proof.Machine

/-! ### Physical addresses (R29, R31) -/

/-- The first far address. -/
def farBase : Nat := 0x010000000000

/-- The near slice of a local physical address: 0 to 63 on die 0, 64 to 127 on die 1 (R29). -/
def nearSlice (pa : Nat) : Option Nat := if pa < 0x100000000 then some (pa / 0x02000000) else none

/-- The far channel of a local physical address (R29). -/
def farChannel (pa : Nat) : Option Nat :=
  if farBase ≤ pa && pa < 0x028000000000 then some ((pa - farBase) / 0x000400000000) else none

/-- Is a local physical address near or far memory, and neither unpopulated nor a device register (R29)? -/
def populated (pa : Nat) : Bool := (nearSlice pa).isSome || (farChannel pa).isSome

/-- The pod physical address of a local one (R31). -/
def State.podPa (s : State) (pa : Nat) : Nat := s.pkg.toNat * 2 ^ 46 + pa

/-- Is a local physical address in the slices and channels that a partition owns (R30)? -/
def Part.owns (p : Part) (pa : Nat) : Bool :=
  (match nearSlice pa with | some k => p.slices.contains k | none => false) ||
  (match farChannel pa with | some c => p.channels.contains c | none => false)

/-- The frames that the masters of the code objects take in far channel 0 (R30, R360). -/
def State.masters (s : State) : List Nat := s.svc.objects.flatMap (·.master)

/-- Is a local physical address in the shared code region: a master in far channel 0, or a near copy (R30, R360)? -/
def State.inCode (s : State) (pa : Nat) : Bool := s.masters.contains (pa / 4096) || s.svc.codeFrames.contains (pa / 4096)

/-! ### The poison bitmap (R51) -/

/-- How many bits the poison bitmap has. -/
def bitmapBits : Nat := 403701760

/-- The bitmap lies at the start of far channel 0 (log 15). -/
def bitmapBase : Nat := farBase

/-- The bit of a page, by a local physical address. -/
def poisonIndex (pa : Nat) : Option Nat :=
  if (nearSlice pa).isSome then some (pa / 4096)
  else if (farChannel pa).isSome then some (2 ^ 20 + (pa - farBase) / 4096)
  else none

/-- A byte of the bitmap. -/
def State.bitmapByte (s : State) (k : Nat) : Byte :=
  BitVec.ofNat 8 (((s.poison.filterMap fun p =>
    if p / 2 ^ 34 = s.pkg.toNat then (poisonIndex (p % 2 ^ 34 * 4096)).bind fun i => if i / 8 = k then some (2 ^ (i % 8)) else none
    else none)).sum)

/-- What far channel 0 holds at a local physical address: the bitmap, or memory. -/
def State.channel0 (s : State) (pa : Nat) : Byte :=
  if bitmapBase ≤ pa && pa < bitmapBase + bitmapBits / 8 then s.bitmapByte (pa - bitmapBase) else Mem.get s.mem (s.podPa pa)

/-- The lines of the poison cache after the check of a page: its line is held, 1,024 lines at most (R50); which page of another
package is poisoned is checked there (R43). -/
def State.fillPoison (s : State) (core page : Nat) : State :=
  if page / 2 ^ 34 = s.pkg.toNat then
    s.modCore core fun c => { c with pcache := (page / 512 :: c.pcache.filter (· != page / 512)).take 1024 }
  else s

/-- The physical die of a local near address. -/
def nearDie (pa : Nat) : Nat := pa / 0x80000000

/-! ### Page-table entries (R34, R35) -/

def Pte.v (e : Addr) : Bool := e.getLsbD 0
def Pte.nres (e : Addr) : Bool := e.getLsbD 1
def Pte.rd (e : Addr) : Bool := e.getLsbD 2
def Pte.wr (e : Addr) : Bool := e.getLsbD 3
def Pte.ex (e : Addr) : Bool := e.getLsbD 4
def Pte.ac (e : Addr) : Bool := e.getLsbD 5
def Pte.di (e : Addr) : Bool := e.getLsbD 6
def Pte.leaf (e : Addr) : Bool := e.getLsbD 7
def Pte.cont (e : Addr) : Bool := e.getLsbD 8
def Pte.tier (e : Addr) : Bool := e.getLsbD 9
def Pte.pin (e : Addr) : Bool := e.getLsbD 10
def Pte.mig (e : Addr) : Bool := e.getLsbD 11

/-- The frame number of an entry. -/
def Pte.frame (e : Addr) : Nat := (e.extractLsb' 12 34).toNat

/-- The package of an entry. -/
def Pte.pkg (e : Addr) : BitVec 6 := e.extractLsb' 58 6

/-- The pages that a leaf of a level maps, as a power of two. -/
def levelShift (level : Nat) : Nat := 9 * level

/-- Is an entry with V = 1 malformed (R35)? -/
def Pte.malformed (e : Addr) (level : Nat) : Bool :=
  (e.extractLsb' 46 12 != 0#12) || Pte.nres e || (level == 3 && Pte.leaf e) || (level == 0 && !Pte.leaf e) ||
  (Pte.leaf e && (level == 1 || level == 2) && Pte.frame e % 2 ^ levelShift level != 0) ||
  (Pte.leaf e && Pte.wr e && Pte.ex e)

/-- The kind of an access (R42); `probe` is an atomic whose scope cannot reach its location, which is checked as an atomic
and never performed (R67, R40); `plan` is one element of a frame that is checked as a store before any element is written
(R193). -/
inductive Access where
  | load | store | rmw | probe | plan | fetch
  deriving DecidableEq, Repr

/-- The outcome of a translation: a home location, a fault, a wait for a migrating page or node, or the partition's exit
because the dirty log is full. -/
inductive Xl where
  | ok (s : State) (l : Loc)
  | fault (s : State) (cause sub aux : Nat)
  | wait (s : State)
  | exit (s : State)

/-- What a walk ends in: a leaf with its level and the address of its entry, a fault, or a wait (R38). -/
inductive WalkR where
  | leaf (s : State) (pte : Addr) (level : Nat) (ent : Nat)
  | fault (s : State) (cause sub : Nat)
  | wait (s : State)

/-- The 8 bytes of a page-table entry at a local physical address. The entry is read as it stands, be its page poisoned or its word
in error: the spec names no such check of a walk (R37, log 63). -/
def State.readEntry (s : State) (pa : Nat) : Addr := addrOf (Mem.getN s.mem (s.podPa pa) 8)

/-- Write a page-table entry. -/
def State.writeEntry (s : State) (pa : Nat) (e : Addr) : State :=
  s.homeWrite (.phys (s.podPa pa)) (leBytes 8 e.toNat) false

/-- One free choice: does a cached copy still stand (log 6)? -/
def State.choose (s : State) : Bool × State := (Config.keepCached s.free, { s with free := s.free + 1 })

/-- A table entry of the walk cache of `r`, if one is there and still stands (R41, R50). One that equals the entry `now` of the
table is used; of one that differs, a free choice says whether it still stands. -/
def State.cachedEntry (r s : State) (core part level pre : Nat) (now : Addr) : Option Addr × State :=
  match (r.core core).walkCache.find? fun e => e.part == part && e.level == level && e.prefix_ == pre with
  | none => (none, s)
  | some e =>
    if e.pte = now then (some e.pte, s)
    else
      let (k, s') := s.choose
      (if k then some e.pte else none, s')

/-- The walk of R37 from a level down, on the tables of `r`, the machine as the walk finds it: a walk changes no entry. `va` is below 2^48.
`core` is the core whose walk cache is used. A single-bit error in an entry is corrected (R68). -/
def State.walkFrom (r : State) (core part va : Nat) : Nat → Nat → State → WalkR
  | level, node, s =>
    let pre := va / 2 ^ (12 + levelShift level)
    let ent := node + 8 * (pre % 512)
    let (hit, s) := if level = 0 then (none, s.correct (.phys (r.podPa ent)) 8)
      else r.cachedEntry (s.correct (.phys (r.podPa ent)) 8) core part level pre (r.readEntry ent)
    let e := hit.getD (r.readEntry ent)
    if !Pte.v e then
      if !Pte.nres e then .fault s 0x21 0x01
      else if level == 0 || (Pte.leaf e && level ≤ 2) then .fault s 0x22 0x02
      else .fault s 0x23 0x02
    else if Pte.malformed e level then .fault s 0x23 0x04
    else if Pte.leaf e then .leaf s e level ent
    else match level with
      | 0 => .leaf s e 0 ent
      | n + 1 =>
        if Pte.pkg e != r.pkg then .fault s 0x23 0x01
        else if !(r.part part).owns (Pte.frame e * 4096) then .fault s 0x23 0x03
        else if !Pte.tier e && !Pte.pin e then .fault s 0x23 0x03
        else if Pte.mig e then .wait s
        else
          let s := s.modCore core fun c =>
            if hit.isSome then c else { c with walkCache := (⟨part, n + 1, pre, e⟩ :: c.walkCache).take 256 }
          r.walkFrom core part va n (Pte.frame e * 4096) s

/-- The walk of a virtual address (R37), with the root check of R33. -/
def State.walk (s : State) (core part va : Nat) : WalkR :=
  let root := (s.part part).root.toNat * 4096
  if !(s.part part).owns root then .fault s 0x23 0x03 else s.walkFrom core part va 3 root s

/-! ### The dirty log (R82 to R85) and the partition's exit -/

/-- The blocks of a partition that stand on a core. -/
def State.residentOf (s : State) (p : Nat) : List Nat :=
  (List.range s.blocks.length).filter fun k =>
    (s.coreOf k).isSome && s.partOf k == p

/-- The partition exits: no block is dispatched or restored, every block on a core is saved, the hypervisor is notified
with the reason (R85, R156, R378). -/
def State.exitPart (s : State) (p reason : Nat) : State :=
  if (s.part p).exited then s else
  let s := s.modPart p fun q => { q with exited := true, reason := BitVec.ofNat 8 reason }
  ((s.residentOf p).foldl (fun s b => s.requestSave b SaveWhy.pause) s).notify p 16 [reason] none

/-- Does the ring lie in the partition's own far memory (R82)? -/
def Part.ringOk (p : Part) : Bool := match farChannel (p.dlBase.toNat * 32768) with | some c => p.channels.contains c | none => false

/-- Is the ring full (R82)? -/
def Part.ringFull (p : Part) : Bool :=
  p.dlHead.truncate 12 == p.dlTail.truncate 12 && p.dlHead.getLsbD 12 != p.dlTail.getLsbD 12

/-- The entry of R83 for a leaf. -/
def logEntry (head : BitVec 13) (level : Nat) (pte : Addr) : Nat :=
  (if head.getLsbD 12 then 2 ^ 63 else 0) + level * 2 ^ 61 + (Pte.pkg pte).toNat * 2 ^ 52 + Pte.frame pte

/-- The drain of the dirty log (R86): the service copies the entries for which the host buffer has room, and advances TAIL. -/
def State.drainLog (s : State) (part : Nat) : State :=
  let p := s.part part
  let k := min (p.dlHead - p.dlTail).toNat p.logRoom
  let out := (List.range k).map fun i => s.readEntry (p.dlBase.toNat * 32768 + 8 * ((p.dlTail.toNat + i) % 4096))
  s.modPart part fun p =>
    { p with dlTail := p.dlTail + BitVec.ofNat 13 k, logRoom := p.logRoom - k, drainOn := false, logDrained := p.logDrained ++ out }

/-- Before an append to a full ring the drain in hardware mode makes room, where the host buffer has any (R86). -/
def State.roomForAppend (s : State) (part : Nat) : State :=
  let p := s.part part
  if p.ringOk && p.ringFull && (!s.hostDuty part 1 || p.drainOn) then s.drainLog part else s

/-- Set DI in a leaf, with its append (R40, R84); none where the append fails (R85). Under hardware drain duty the service
drains at 2,048 entries (R86). -/
def State.setDirty (s : State) (part : Nat) (ent level : Nat) (pte : Addr) : Option State :=
  if !(s.part part).dlEn then some (s.writeEntry ent (pte ||| 0x40#64))
  else
    let s := s.roomForAppend part
    let p := s.part part
    if !p.ringOk || p.ringFull then none
    else
      let at_ := p.dlBase.toNat * 32768 + 8 * (p.dlHead.truncate 12).toNat
      let s := s.writeEntry at_ (Addr.ofNat (logEntry p.dlHead level pte))
      let s := (s.modPart part fun q => { q with dlHead := q.dlHead + 1 }).writeEntry ent (pte ||| 0x40#64)
      let n := (s.part part).dlHead - (s.part part).dlTail
      some (if !s.hostDuty part 1 && 2048 ≤ n.toNat then
          (s.modPart part fun q => { q with drainOn := true }).want (.dirtyLogDrain part)
        else s)

/-! ### The leaf checks (R42, R43) -/

/-- The local physical address that a leaf gives for a virtual address. -/
def leafPa (pte : Addr) (level va : Nat) : Nat := Pte.frame pte * 4096 + va % 2 ^ (12 + levelShift level)

/-- Does no port work that could reach another package (R374)? -/
def State.cutOff (s : State) : Bool := !s.svc.ports.contains true

/-- Checks 1 to 8 of R42, in order: check 1 asks for the FRAME of the leaf, check 8 for the page accessed (log 53); check 6 stands
before check 7 for a far leaf that migrates (R77, log 64); `engine` leaves out checks 5 and 6 and waits at check 7 (R46). None: all passed. -/
def State.leafFault (s : State) (part : Nat) (engine : Bool) (k : Access) (pte : Addr) (level va : Nat) :
    Option (Nat × Nat) :=
  let pa := leafPa pte level va
  let frame := Pte.frame pte * 4096
  let isLocal := Pte.pkg pte == s.pkg
  let code := isLocal && s.inCode frame && !(s.part part).owns frame
  if isLocal && !((s.part part).owns frame || code) then some (0x23, 0x05)
  else if code && Pte.wr pte then some (0x23, 0x05)
  else if !populated pa then some (0x21, 0x05)
  else if !isLocal && !s.pod.contains (Pte.pkg pte).toNat then some (0x21, 0x08)
  else if k == .load && !Pte.rd pte then some (0x21, 0x02)
  else if (k == .store || k == .rmw || k == .probe || k == .plan) && !Pte.wr pte then some (0x21, 0x03)
  else if (k == .rmw || k == .probe) && !Pte.rd pte then some (0x21, 0x02)
  else if k == .fetch && !Pte.ex pte then some (0x21, 0x04)
  else if !engine && !isLocal && Pte.tier pte then some (0x21, 0x06)
  else if !engine && isLocal && Pte.tier pte then some (0x22, 0x01)
  else if isLocal && Pte.mig pte then (if engine then none else some (0x22, 0x03))
  else if !isLocal && (Config.remoteRefuses (Pte.pkg pte).toNat (pa / 4096) || s.cutOff) then some (0x21, 0x07)
  else if s.poison.contains (((Pte.pkg pte).toNat * 2 ^ 46 + pa) / 4096) then some (0x24, 0x01)
  else none

/-- The home of a checked leaf. -/
def leafLoc (pte : Addr) (level va : Nat) : Loc := .phys ((Pte.pkg pte).toNat * 2 ^ 46 + leafPa pte level va)

/-- What a fault's handling needs: the poisoned page, or else the address (R80, R370). -/
def faultAux (cause : Nat) (pte : Addr) (level va : Nat) : Nat :=
  if cause = 0x24 then ((Pte.pkg pte).toNat * 2 ^ 46 + leafPa pte level va) / 4096 else va

/-- The set of the TLB that a translation falls in: 256 sets of 8 ways (R50, log 6). -/
def TlbEntry.set (e : TlbEntry) : Nat := e.vpn / e.pages % 256

/-- The TLB with a translation put into it: the oldest of its set leaves where the set is full (R50, log 6). -/
def putTlb (l : List TlbEntry) (e : TlbEntry) : List TlbEntry :=
  let rest := l.filter fun x => !(x.part == e.part && x.vpn == e.vpn && x.pages == e.pages)
  let ways := (rest.filter fun x => x.set == e.set).take 7
  e :: rest.filter fun x => x.set != e.set || ways.contains x

/-- The entry that a cached translation gives a page: of a 64 KiB one, the page's own frame (R36). -/
def TlbEntry.pteAt (e : TlbEntry) (va : Nat) : Addr :=
  if e.pages = 16 then e.pte + Addr.ofNat ((va / 4096 - e.vpn) * 4096) else e.pte

/-- The aligned group of 16 entries around a level-0 entry as one translation, if the four conditions of R36 hold. A flag AC or DI is
set in it if it is set in all of them. -/
def State.contGroup (s : State) (ent : Nat) : Option Addr :=
  let es := (List.range 16).map fun i => s.readEntry (ent / 128 * 128 + 8 * i)
  let bare := fun (e : Addr) => e &&& ~~~0x60#64
  match es with
  | [] => none
  | e :: _ =>
    if (es.all fun x => Pte.v x && Pte.cont x) && Pte.frame e % 16 == 0 &&
        es.zipIdx.all fun x => bare x.1 == bare e + Addr.ofNat (4096 * x.2)
    then some (es.foldl (· &&& ·) (bare e ||| 0x60#64) &&& 0x60#64 ||| bare e) else none

/-- Put the translation of a leaf into the core's TLB (R50): for a 4 KiB leaf with CONT = 1 that of its group may be cached instead, a
free choice (R36, log 6). -/
def State.fillTlb (s : State) (core part va level : Nat) (pte : Addr) (ent : Nat) : State :=
  let pages := 2 ^ levelShift level
  let put := fun (s : State) (e : TlbEntry) => s.modCore core fun c => { c with tlb := putTlb c.tlb e }
  match (if level = 0 && Pte.cont pte then s.contGroup ent else none) with
  | some g =>
    let (wide, s) := (s.correct (.phys (s.podPa (ent / 128 * 128))) 128).choose
    put s (if wide then ⟨part, va / 65536 * 16, 16, g, 0⟩ else ⟨part, va / 4096, 1, pte, 0⟩)
  | none => put s ⟨part, va / 4096 / pages * pages, pages, pte, level⟩

/-- Translate through the walk: AC is set when the leaf is reached, then the checks, then DI for a write that passed them
(R40). -/
def State.xlatWalk (s : State) (core part : Nat) (engine : Bool) (k : Access) (va : Nat) : Xl :=
  match s.walk core part va with
  | .fault s c sub => .fault s c sub va
  | .wait s => .wait s
  | .leaf s pte level ent =>
    let s := if Pte.ac pte then s else s.writeEntry ent (pte ||| 0x20#64)
    let pte := pte ||| 0x20#64
    let isWrite := k == .store || k == .rmw
    match s.leafFault part engine k pte level va with
    | some (c, sub) => .fault s c sub (faultAux c pte level va)
    | none =>
      if engine && Pte.pkg pte == s.pkg && Pte.mig pte then .wait s
      else if isWrite && !Pte.di pte then
        match s.setDirty part ent level pte with
        | none => .exit (s.exitPart part 1)
        | some s => .ok (s.fillTlb core part va level (pte ||| 0x40#64) ent) (leafLoc pte level va)
      else .ok (s.fillTlb core part va level pte ent) (leafLoc pte level va)

/-- The cached translation that stands for an access, if any: a write does not use one with DI = 0 (R40, R41). -/
def State.tlbHit (s : State) (core part : Nat) (k : Access) (va : Nat) : Option TlbEntry × State :=
  match (s.core core).tlb.find? fun e => e.part == part && e.vpn ≤ va / 4096 && va / 4096 < e.vpn + e.pages with
  | none => (none, s)
  | some e =>
    if (k == .store || k == .rmw) && !Pte.di e.pte then (none, s)
    else let (keep, s') := s.choose; (if keep then some e else none, s')

/-- Translate an address below 2^48 outside the aperture, without the extents. -/
def State.xlatPage (s : State) (core part : Nat) (engine : Bool) (k : Access) (va : Nat) : Xl :=
  if !(s.part part).tbEn then .fault s 0x21 0x09 va
  else match s.tlbHit core part k va with
    | (none, s) => s.xlatWalk core part engine k va
    | (some e, s) =>
      let pte := e.pteAt va
      match s.leafFault part engine k pte e.level va with
      | some (c, sub) => .fault s c sub (faultAux c pte e.level va)
      | none => if engine && Pte.pkg pte == s.pkg && Pte.mig pte then s.xlatWalk core part engine k va
                else .ok s (leafLoc pte e.level va)

/-- The extent that covers a page with the permission an access needs (R47, R48, R150). -/
def findExtent (l : List Extent) (k : Access) (va : Nat) : Option Extent :=
  l.find? fun e => e.vbase ≤ va / 4096 && va / 4096 < e.vbase + e.pages && k != .fetch &&
    (k == .store || k == .plan || e.rd) && (k == .load || e.wr)

/-! ### The block aperture (R57, R58) -/

/-- Is an effective address in the block aperture? -/
def inAperture (ea : Nat) : Bool := ea / 2 ^ 32 == 0xFF00

/-- The block whose memory window WIN of a block names (R57, R58). -/
def State.window (s : State) (blk win : Nat) : Option Nat :=
  if win = 0 then some blk
  else match s.blocks[blk]?, s.coreOf blk with
    | some b, some c =>
      if b.group = 0 || win < 4 then none
      else if c % 4 = win - 4 then some blk
      else (List.range s.blocks.length).find? fun k =>
        match s.blocks[k]?, s.coreOf k with
        | some b', some c' => b'.grid == b.grid && b'.group == b.group && b'.trailing == b.trailing &&
            c' / 4 == c / 4 && c' % 4 == win - 4
        | _, _ => false
    | _, _ => none

/-- Resolve an aperture address (R57, R58): a location, or the subcode of the AccessFault. -/
def State.aperture (s : State) (blk ea : Nat) : Except Nat Loc :=
  let win := ea / 2 ^ 19 % 8
  let off := ea % 2 ^ 19
  if ea / 2 ^ 22 % 2 ^ 10 != 0 || (1 ≤ win && win ≤ 3) then .error 0x0A
  else match s.window blk win with
    | none => .error 0x0B
    | some k => if off < ((s.blocks[k]?).map (·.memSize)).getD 0 then .ok (.win k off) else .error 0x0A

/-! ### A thread's access and an engine's -/

/-- An access that has been checked against the poison cache: the page's line is in it (R48, R50). -/
def Xl.lined (core : Nat) : Xl → Xl
  | .ok s (.phys pa) => .ok (s.fillPoison core (pa / 4096)) (.phys pa)
  | x => x

/-- Translate an effective address for a block's access (R28, R57, R48, R37, R42): the aperture, the extents, the TLB, the
walk. Alignment is checked before (R298). A fetch from the aperture, for which the spec gives no path, is not permitted
(log 24). -/
def State.xlat (s : State) (core blk : Nat) (engine : Bool) (k : Access) (ea : Addr) : Xl :=
  let va := ea.toNat
  if 2 ^ 48 ≤ va then .fault s 0x20 0x01 va
  else if inAperture va && k == .fetch then .fault s 0x21 0x04 va
  else if inAperture va then
    match s.aperture blk va with
    | .ok l => .ok s l
    | .error sub => .fault s 0x21 sub va
  else
    let part := s.partOf blk
    match (if (s.part part).tbEn then findExtent (((s.blocks[blk]?).map (·.extents)).getD []) k va else none) with
    | some e =>
      let pa := e.pkg * 2 ^ 46 + (e.frame + (va / 4096 - e.vbase)) * 4096 + va % 4096
      if e.pkg ≠ s.pkg.toNat && s.cutOff then .fault s 0x21 0x07 va
      else if s.poison.contains (pa / 4096) then .fault s 0x24 0x01 (pa / 4096)
      else Xl.lined core (.ok s (.phys pa))
    | none => (s.xlatPage core part engine k va).lined core

/-- Does an access of a thread need a walk: neither an extent nor a cached translation serves it (R48, R50)? -/
def State.mustWalk (s : State) (core blk : Nat) (k : Access) (ea : Addr) : Bool :=
  let va := ea.toNat
  let part := s.partOf blk
  va < 2 ^ 48 && !inAperture va && (s.part part).tbEn &&
    (findExtent (((s.blocks[blk]?).map (·.extents)).getD []) k va).isNone && (s.tlbHit core part k va).1.isNone

/-- Translate an access of a thread: the reads of a walk are ordered after the thread's earlier writes, which are performed
before it (R41). -/
def State.translate (s : State) (t : TRef) (k : Access) (ea : Addr) : Xl :=
  let core := s.issue.core
  match s.thread? t with
  | some th => (if s.mustWalk core t.blk k ea then s.drainStrand t.blk th.strand else s).xlat core t.blk false k ea
  | none => s.xlat core t.blk false k ea

end Sys2Proof.Machine
end

