-- ==== Sys2Proof/Machine/Fetch.lean ====
section
/-! DEFINITION. Fetching: the instruction cache, loop buffers and prefetched words (R90 to R92), the fetch of an issue, and
the two events of a fetch that gives no instruction (R244). -/

namespace Sys2Proof.Machine

/-- Look a word up by address. -/
def findWord (l : List (Nat × Word)) (a : Nat) : Option Word := (l.find? fun x => x.1 == a).map (·.2)

/-- Does a loop buffer cover an address (R90)? -/
def LoopBuf.covers (b : LoopBuf) (a : Nat) : Bool := b.lo ≤ a && a ≤ b.hi

/-- The word that a strand holds for an address: in its loop buffer, or prefetched (R90, R91). -/
def Strand.heldWord (k : Strand) (pc : Nat) : Option Word :=
  match k.loopBuf with
  | some b => if b.covers pc then findWord b.words pc else findWord k.prefetched pc
  | none => findWord k.prefetched pc

/-- A word entering the loop buffer that covers it, the first time that the strand fetches it (R90). -/
def Strand.keepWord (k : Strand) (pc : Nat) (w : Word) : Strand :=
  { k with loopBuf := k.loopBuf.map fun b =>
      if b.covers pc && (findWord b.words pc).isNone then { b with words := (pc, w) :: b.words } else b }

/-- The word of a fetch, or why there is none. -/
inductive Fetched where
  | word (s : State) (w : Word)
  | fault (s : State) (cause sub aux : Nat)
  | wait (s : State)

/-- Read one instruction word through the translation and the core's instruction cache, which may still hold an older word
(R41, R92, R109); a word under a write in the quarantine of the fetching copy is read there, past the cache (R113). An uncorrectable error is
Poison (R51, R69), a single-bit one is corrected (R68). -/
def State.fetchMem (s : State) (core blk : Nat) (pc : Addr) : Fetched :=
  match s.xlat core blk false .fetch pc with
  | .fault s c sub aux => .fault s c sub aux
  | .wait s => .wait s
  | .exit s => .wait s
  | .ok s l =>
    match l with
    | .win _ _ => .fault s 0x21 0x04 pc.toNat
    | .phys pa =>
      let old := findWord (s.core core).icache pa
      let (keep, s) := match old with | none => (false, s) | some _ => s.choose
      let home := s.homeRead l 4
      let now := s.inCopy blk l home
      match (if keep && now == home then old else none) with
      | some w => .word s w
      | none =>
        if s.homeBad l 4 then .fault (s.poisonPage (pa / 4096)) 0x24 0x02 (pa / 4096)
        else
          let s := s.correct l 4
          if now ≠ home then .word s (wordOf now)
          else .word (s.modCore core fun c => { c with icache := (pa, wordOf now) :: c.icache.filter fun x => x.1 != pa }) (wordOf now)

/-- The word that a thread's strand already holds for a pc. -/
def State.heldFor (s : State) (t : TRef) (pc : Addr) : Option Word :=
  match s.thread? t with
  | some th => (s.strand? t.blk th.strand).bind fun st => st.heldWord pc.toNat
  | none => none

/-- The word enters the loop buffer of a lane's strand (R90). -/
def State.keepFor (pc : Addr) (w : Word) (s : State) (t : TRef) : State :=
  match s.thread? t with
  | some th => s.modStrand t.blk th.strand fun st => st.keepWord pc.toNat w
  | none => s

/-- The issue goes on with a word in some of its lanes: it enters the loop buffers of their strands. -/
def State.issueWith (s : State) (w : Word) (lanes : List TRef) : State :=
  lanes.foldl (State.keepFor s.issue.pc w) { s with issue := { s.issue with word := w, lanes := lanes } }

/-- Fetch for some lanes of the issue: the earlier writes of their strands are performed before a walk (R41). -/
def State.fetchLanes (s : State) (lanes : List TRef) : Fetched :=
  let drain := fun (s : State) (t : TRef) => match s.thread? t with
    | some th => s.drainStrand t.blk th.strand
    | none => s
  match lanes with
  | [] => .wait s
  | t :: _ =>
    (if s.mustWalk s.issue.core t.blk .fetch s.issue.pc then lanes.foldl drain s else s).fetchMem s.issue.core t.blk s.issue.pc

/-- The age of a thread's entity: of its strand in a W grid, else its own (R134). -/
def State.entityAge (s : State) (t : TRef) : Nat :=
  match s.thread? t with
  | some th => if (s.kernel t.blk).cls = .w then ((s.strand? t.blk th.strand).map (·.age)).getD 0 else th.age
  | none => 0

/-- The first of a list in a strict order. -/
def leastBy {α : Type} (lt : α → α → Bool) : List α → Option α
  | [] => none
  | x :: r => match leastBy lt r with
    | none => some x
    | some y => if lt y x then some y else some x

/-- The lane whose word an issue takes: that of the oldest entity, where it is one that must issue now (its age was 64 or more before this
opportunity, R134), else the lowest lane (log 83). -/
def State.leadLane (s : State) : Option TRef :=
  match leastBy (fun x y => decide (y.1 < x.1)) (((s.issue.lanes.map fun t => (s.entityAge t, t)).filter fun x => 64 < x.1)) with
  | some x => some x.2
  | none => s.issue.lanes.head?

/-- Fetch the word of the present issue. Where the leading lane's strand holds a word for its pc (R90, R91), the lanes issue whose strands
hold the same word, or hold none and fetch the same; else all lanes that hold none, and fetch, and those that hold the word fetched. The
others issue another time (log 83). -/
def State.fetch (s : State) : Fetched :=
  let pc := s.issue.pc
  let bare := s.issue.lanes.filter fun t => (s.heldFor t pc).isNone
  let with_ := fun (w : Word) (others : Bool) => s.issue.lanes.filter fun t => match s.heldFor t pc with
    | some x => x == w
    | none => others
  match s.leadLane with
  | none => .wait s
  | some t =>
    match s.heldFor t pc, bare with
    | some w, [] => .word (s.issueWith w (with_ w true)) w
    | some w, _ => match s.fetchLanes bare with
      | .word s' w' => .word (s'.issueWith w (with_ w (w' == w))) w
      | .fault s' _ _ _ => .word (s'.issueWith w (with_ w false)) w
      | .wait s' => .word (s'.issueWith w (with_ w false)) w
    | none, _ => match s.fetchLanes bare with
      | .word s' w => .word (s'.issueWith w (with_ w true)) w
      | r => r

/-- The physical page behind an address, for the poison record (R370). -/
def State.pageBehind (s : State) (core part va : Nat) : Nat :=
  match s.walk core part va with
  | .leaf _ pte level _ => ((Pte.pkg pte).toNat * 2 ^ 46 + leafPa pte level va) / 4096
  | _ => 0

/-- A fetch fault is delivered before any decoding, to every lane of the issue (R244). -/
def State.fetchFault (s : State) (cause sub : Nat) : State :=
  let aux := if cause = 0x24 then
      s.pageBehind s.issue.core (s.partOf ((s.issue.lanes.head?).map (·.blk) |>.getD 0)) s.issue.pc.toNat
    else s.issue.pc.toNat
  s.deliver (s.issuing.map fun t => ⟨t, cause, sub, aux⟩) none

/-- INSTRUCTION_FETCH_FAULT (R244, R28, R42). The word is not known; %trapinst is written as 0 (log 25). -/
def execInstructionFetchFault (cause sub : Nat) (s : State) : Host.Outcome State Fault Refusal :=
  .next (State.fetchFault { s with issue := { s.issue with word := 0 } } cause sub)

/-- WORD_NOT_INSTRUCTION (R244, R245): IllegalInstruction for the majors 0x00 and 0x7F, ReservedEncoding for every other
word that decodes to nothing. -/
def execWordNotInstruction (word : Word) (s : State) : Host.Outcome State Fault Refusal :=
  let s := { s with issue := { s.issue with word := word } }
  let c := if illegalFields (fieldsOf word) then 0x01 else 0x03
  .next (s.deliver (s.issuing.map fun t => ⟨t, c, 0, 0⟩) none)

end Sys2Proof.Machine
end

