-- ==== Sys2Proof/Machine/Control.lean ====
section
/-! DEFINITION. Branches, jumps and calls, the rejoin file, serial mode, EXIT, REFORM, YIELD, traps and returns, fetch
control (R90, R91, R137, R138, R141, R262 to R276). -/

namespace Sys2Proof.Machine

/-! ### The loop buffer under a control transfer (R90) -/

/-- The strand discards its loop buffer. -/
def Strand.leaveLoop (k : Strand) : Strand := { k with loopBuf := none }

/-- The loop buffer that a backward branch or JMP enters: at most 31 words back, on one 4 KiB page (R90). A jump to its own address
counts as backward (log 72). -/
def loopEntered (pc tgt : Nat) : Option LoopBuf :=
  if tgt ≤ pc && pc - tgt ≤ 31 * 4 && pc / 4096 == tgt / 4096 then some ⟨tgt, pc, []⟩ else none

/-- A branch or JMP taken from `pc` to `tgt`: inside the buffer it stays, else it is left, and a backward one enters. -/
def Strand.jumped (k : Strand) (pc tgt : Nat) : Strand :=
  match k.loopBuf with
  | some b => if b.covers tgt then k else { k with loopBuf := loopEntered pc tgt }
  | none => { k with loopBuf := loopEntered pc tgt }

/-- A branch that falls through past the end of the buffer leaves it. -/
def Strand.fellThrough (k : Strand) (pc : Nat) : Strand :=
  match k.loopBuf with
  | some b => if pc = b.hi then k.leaveLoop else k
  | none => k

/-! ### Branches, jumps and calls -/

/-- The target of a B- or J-format instruction: PC + 4 + offset × 4 (R223). -/
def relTarget {n : Nat} (pc : Addr) (off : BitVec n) : Addr := pc + 4#64 + (off.signExtend 64 <<< 2)

/-- A thread that goes on at a target. -/
def Thread.goto (th : Thread) (pc : Addr) : Thread := { th with pc := pc }

/-- A conditional branch (R262): the test is on the value bits alone (R190). -/
def branch (a : RegName) (off : BitVec 16) (test : Word → Bool) : Body := fun s t th =>
  if test (th.val a) then
    .go ((s.modThread t fun th => th.goto (relTarget th.pc off)).modStrand t.blk th.strand fun k =>
      k.jumped th.pc.toNat (relTarget th.pc off).toNat)
  else .next (s.modStrand t.blk th.strand fun k => k.fellThrough th.pc.toNat)

/-- BRZ (R262). -/
def execBrz (a : RegName) (off : BitVec 16) (st : Stall) (s : State) : Host.Outcome State Fault Refusal :=
  s.run (.brz a off st) st (branch a off fun v => v == 0)

/-- BRNZ (R262). -/
def execBrnz (a : RegName) (off : BitVec 16) (st : Stall) (s : State) : Host.Outcome State Fault Refusal :=
  s.run (.brnz a off st) st (branch a off fun v => v != 0)

/-- BRLTZ (R262). -/
def execBrltz (a : RegName) (off : BitVec 16) (st : Stall) (s : State) : Host.Outcome State Fault Refusal :=
  s.run (.brltz a off st) st (branch a off fun v => v.msb)

/-- BRGEZ (R262). -/
def execBrgez (a : RegName) (off : BitVec 16) (st : Stall) (s : State) : Host.Outcome State Fault Refusal :=
  s.run (.brgez a off st) st (branch a off fun v => !v.msb)

/-- JMP (R263). -/
def execJmp (off : BitVec 23) (st : Stall) (s : State) : Host.Outcome State Fault Refusal :=
  s.run (.jmp off st) st fun s t th =>
    .go ((s.modThread t fun th => th.goto (relTarget th.pc off)).modStrand t.blk th.strand fun k =>
      k.jumped th.pc.toNat (relTarget th.pc off).toNat)

/-- The link: v1 ← (PC + 4)[31:0] with ZERO plies, there when the target's first instruction issues (R225, R263, R231). -/
def Thread.link (th : Thread) : Thread := th.putNow 1 (Reg.plain (Addr.low (th.pc + 4#64)))

/-- A transfer that leaves the loop buffer (R90). -/
def transferOut (s : State) (t : TRef) (th : Thread) (f : Thread → Thread) : Lane :=
  .go ((s.modThread t f).modStrand t.blk th.strand Strand.leaveLoop)

/-- CALL (R263). -/
def execCall (off : BitVec 23) (st : Stall) (s : State) : Host.Outcome State Fault Refusal :=
  s.run (.call off st) st fun s t th => transferOut s t th fun th => th.link.goto (relTarget th.pc off)

/-- The target of a single-register form: the high half of the pc, then a with bits [1:0] cleared (R264). -/
def singleTarget (pc : Addr) (v : Word) : Addr :=
  (0#16 ++ pc.extractLsb' 32 16 ++ v : BitVec 64) &&& ~~~3#64

/-- The target of CALLI and JMPI, and the fault of a pair beyond 48 bits (R264). -/
def indirect (a : RegName) (pair : Bool) (f : Addr → Thread → Thread) : Body := fun s t th =>
  if pair then
    if (th.pair a).extractLsb' 48 16 != 0#16 then .trap s 0x20 0x01 (th.pair a).toNat
    else transferOut s t th (f (th.pair a &&& ~~~3#64))
  else transferOut s t th (f (singleTarget th.pc (th.val a)))

/-- CALLI (R264): a is read before v1 is written. -/
def execCalli (a : RegName) (pair : Bool) (st : Stall) (s : State) : Host.Outcome State Fault Refusal :=
  s.run (.calli a pair st) st (indirect a pair fun tgt th => th.link.goto tgt)

/-- JMPI (R264). -/
def execJmpi (a : RegName) (pair : Bool) (st : Stall) (s : State) : Host.Outcome State Fault Refusal :=
  s.run (.jmpi a pair st) st (indirect a pair fun tgt th => th.goto tgt)

/-! ### The rejoin file (R137, R138); its head is the top entry -/

/-- How many entries of the file hold a thread. -/
def Strand.depth (k : Strand) (t : TRef) : Nat := k.rejoin.countP fun e => e.mask.contains t

/-- A thread leaves its n innermost entries. An entry whose mask is now empty is removed with the completed ones, at the end of the
cycle (R137, R267). -/
def leaveEntries (t : TRef) : Nat → List RejoinEntry → List RejoinEntry
  | _, [] => []
  | 0, l => l
  | n + 1, e :: r =>
    if e.mask.contains t then { e with mask := e.mask.erase t, arrived := e.arrived.erase t } :: leaveEntries t n r
    else e :: leaveEntries t (n + 1) r

/-- A thread leaves its n innermost entries of its strand's file. -/
def Strand.leave (k : Strand) (t : TRef) (n : Nat) : Strand := { k with rejoin := leaveEntries t n k.rejoin }

/-- A thread joins a mask. -/
def addRef (t : TRef) (l : List TRef) : List TRef := if l.contains t then l else l ++ [t]

/-- Is an entry that of a JPUSH: its rejoin pc and its address (R137)? -/
def RejoinEntry.fits (e : RejoinEntry) (label at_ : Addr) : Bool := e.pc == label && e.at_ == at_

/-- The top entry as a JPUSH finds it: what the other port has pushed in this cycle does not stand in the file yet (R267). -/
def Strand.topFor (k : Strand) (label at_ : Addr) : Option RejoinEntry := k.rejoin.find? fun e => !e.fresh || e.fits label at_

/-- A thread joins the mask of the top entry, below what the other port has pushed in this cycle (R137, R267). -/
def joinTop (t : TRef) (label at_ : Addr) : List RejoinEntry → List RejoinEntry
  | [] => []
  | e :: r => if !e.fresh || e.fits label at_ then { e with mask := addRef t e.mask } :: r else e :: joinTop t label at_ r

/-- Does the top entry take this JPUSH (R137)? -/
def Strand.joinsTop (k : Strand) (label at_ : Addr) : Bool := (k.topFor label at_).any fun e => e.fits label at_

/-- JPUSH by one thread into the file: joined to the top entry, or pushed (R137). -/
def Strand.push (k : Strand) (t : TRef) (label at_ : Addr) : Strand :=
  if k.joinsTop label at_ then { k with rejoin := joinTop t label at_ k.rejoin }
  else { k with rejoin := ⟨label, at_, [t], [], true⟩ :: k.rejoin }

/-- The strand of a thread, or a blank one. -/
def State.strandOf (s : State) (t : TRef) (th : Thread) : Strand := (s.strand? t.blk th.strand).getD Strand.blank

/-- JPUSH (R137, R138, R266): into the file, or in serial mode onto the thread's overflow stack; a depth beyond 64 raises
RegRange 0x02. -/
def execJpush (off : BitVec 23) (st : Stall) (s : State) : Host.Outcome State Fault Refusal :=
  s.run (.jpush off st) st fun s t th =>
    let k := s.strandOf t th
    let label := relTarget th.pc off
    let inTop := (k.topFor label th.pc).any fun e => e.mask.contains t
    if !k.serial && k.joinsTop label th.pc && inTop then .next s
    else if 64 ≤ k.depth t + th.overflow.length then .trap s 0x05 0x02 0
    else if k.serial || (k.rejoin.length = 16 && !k.joinsTop label th.pc) then
      .next ((s.modStrand t.blk th.strand fun k => { k with serial := true }).modThread t fun th =>
        { th with overflow := (label, th.pc) :: th.overflow })
    else .next (s.modStrand t.blk th.strand fun k => k.push t label th.pc)

/-- REJOIN (R137, R138): pops the overflow stack, or marks the thread arrived in its innermost entry and parks; with no
entry it is a NOP. Its wait on the own strand is legal in every class (R146). -/
def execRejoin (st : Stall) (s : State) : Host.Outcome State Fault Refusal :=
  s.run (.rejoin st) st fun s t th =>
    match th.overflow with
    | (pc, _) :: r => .go (s.modThread t fun th => { th with overflow := r, pc := pc })
    | [] =>
      let rec mark : List RejoinEntry → List RejoinEntry
        | [] => []
        | e :: r => if e.mask.contains t then { e with arrived := addRef t e.arrived } :: r else e :: mark r
      if (s.strandOf t th).depth t = 0 then .next s
      else .go ((s.modStrand t.blk th.strand fun k => { k with rejoin := mark k.rejoin }).parkAt t .rejoin)

/-- BRKN (R137, R138): leaves n entries, those of the overflow stack first. -/
def execBrkn (n : BitVec 16) (st : Stall) (s : State) : Host.Outcome State Fault Refusal :=
  s.run (.brkn n st) st fun s t th =>
    let top := min n.toNat th.overflow.length
    .next ((s.modThread t fun th => { th with overflow := th.overflow.drop top }).modStrand t.blk th.strand fun k =>
      k.leave t (n.toNat - top))

/-! ### Seals (R368), EXIT, REFORM, YIELD, NOP -/

/-- A seal point of a doubled block before the instruction: the thread parks until the same thread of the other copy
reaches it; once the seal has matched the instruction goes on (R368). The seal stands until the instruction has been performed, or its
thread has entered its handler. -/
def State.sealGate (s : State) (t : TRef) (th : Thread) (k : State → Lane) : Lane :=
  let set := fun (s : State) (x : Bool) => s.modThread t fun th => { th with sealed := x }
  if ((s.blocks[t.blk]?).map Block.doubled).getD false && !th.sealed then
    .go ((s.parkAt t (.seal true)).want (.seal t.blk t.tid))
  else if th.sealed then match k (set s false) with
    | .next s => .next s
    | .go s => .go s
    | .stay s => .stay (set s true)
    | .trap s c sub aux => .trap (set s true) c sub aux
  else k s

/-- Does an open round hold a signature of a thread (R319)? -/
def CvReg.signedBy (c : CvReg) (t : TRef) : Bool := c.rounds.any fun r => r.signed.contains t

/-- Lower a bound count; at 0 with no open round the register becomes free (R319). -/
def CvReg.release (c : CvReg) : CvReg :=
  if c.bound ≤ 1 && c.rounds.isEmpty then CvReg.free else { c with bound := c.bound - 1 }

/-- A thread's convergence register on a core. -/
def State.cvReg (s : State) (core i : Nat) : CvReg := ((s.core core).cvs[i]?).getD CvReg.free

/-- A thread gives up its binding, if it has one (R319). -/
def State.unbind (s : State) (core : Nat) (t : TRef) (th : Thread) : State :=
  match th.cv with
  | none => s
  | some (i, _) => (s.modCore core fun c => { c with cvs := c.cvs.modify i CvReg.release }).modThread t fun th =>
      { th with cv := none }

/-- A strand whose threads have all left ends (R141). -/
def State.closeStrand (s : State) (blk k : Nat) : State :=
  if !(s.strandThreads blk k).isEmpty then s else s.modStrand blk k fun st => { st with live := false }

/-- Have all threads of a block exited? -/
def Block.done (b : Block) : Bool := b.threads.all fun th => !th.live

/-- A thread ends: it gives up its binding, leaves every entry, and its strand ends with its last thread (R137, R138, R319).
What it issued earlier completes. The block ends in its own event (R268). -/
def State.exitThread (s : State) (core : Nat) (t : TRef) (th : Thread) : State :=
  let s := s.unbind core t th
  let s := (s.modStrand t.blk th.strand fun k => k.leave t k.rejoin.length).modThread t fun th =>
    { th.settleResults with live := false, overflow := [], park := none, hang := 0 }
  let s := s.closeStrand t.blk th.strand
  if ((s.blocks[t.blk]?).map Block.done).getD false then s.want (.blockEnd t.blk) else s

/-- Does an open round hold a signature of the thread, so that its EXIT waits (R319)? -/
def State.exitWaits (s : State) (core : Nat) (t : TRef) (th : Thread) : Bool :=
  match th.cv with | some (i, _) => (s.cvReg core i).signedBy t | none => false

/-- EXIT (R137, R138, R268, R319): the thread leaves every entry and ends; it waits, not ready, while an open round holds a
signature of it; in a doubled block it is a seal (R368). -/
def execExit (st : Stall) (s : State) : Host.Outcome State Fault Refusal :=
  s.run (.exit st) st fun s t th =>
    if s.exitWaits s.issue.core t th then .go (s.parkAt t .exit)
    else s.sealGate t th fun s => .go (s.exitThread s.issue.core t th)

/-- An EXIT that has waited ends its thread once no open round holds a signature of it, at a seal in a doubled block (R319,
R368). -/
def State.settleExit (core : Nat) (s : State) (t : TRef) (th : Thread) : State :=
  if s.exitWaits core t th then s
  else if ((s.blocks[t.blk]?).map Block.doubled).getD false then (s.parkAt t (.seal true)).want (.seal t.blk t.tid)
  else s.exitThread core t th

/-- The key under which REFORM files a thread (R140, R141). -/
def State.bobbinKey (s : State) (t : TRef) (th : Thread) : Nat × Addr × Role × Addr :=
  (((s.blocks[t.blk]?).map (·.grid)).getD 0, (s.kernel t.blk).code, th.role, th.pc + 4#64)

/-- The bobbin that takes a key: the one that has it, else a free one (R141). -/
def pickBobbin (l : List Bobbin) (key : Nat × Addr × Role × Addr) : Option Nat :=
  match l.findIdx? fun b => b.key == some key with
  | some i => some i
  | none => l.findIdx? fun b => b.key == none

/-- A thread moves out of its strand (R141, R269): the writes that wait in the strand's store queue are performed first, so
that they stay before the thread's later events (R103, R104, log 12); it leaves every entry, and is filed in a bobbin; with
none to take it, it goes on alone in a strand of its own. -/
def State.reformThread (s : State) (core : Nat) (t : TRef) (th : Thread) : State :=
  let key := s.bobbinKey t th
  let k := s.strandOf t th
  let s := (s.drainStrand t.blk th.strand).modStrand t.blk th.strand fun k => (k.leave t k.rejoin.length).leaveLoop
  match pickBobbin (s.core core).bobbins key with
  | some i =>
    let s := (s.modThread t fun th => { th.unpark.advance with overflow := [], filed := true }).modCore core
      fun c => { c with bobbins := c.bobbins.modify i fun b => { b with key := some key, threads := b.threads ++ [(t, 0)] } }
    s.closeStrand t.blk th.strand
  | none =>
    let n := ((s.blocks[t.blk]?).map (·.strands.length)).getD 0
    let s := (s.modBlock t.blk fun b => { b with strands := b.strands ++
      [{ Strand.blank with role := k.role, slot := k.slot, off := k.off, live := true, opq := List.replicate 8 [], holds := k.holds }] }).modThread t
      fun th => { th.unpark.advance with overflow := [], strand := n }
    s.closeStrand t.blk th.strand

/-- REFORM (R141, R269): the thread waits, having issued, for every result that is pending for it (R133), and moves. -/
def execReform (st : Stall) (s : State) : Host.Outcome State Fault Refusal :=
  s.run (.reform st) st fun s t th =>
    if !th.pend.isEmpty then .go (s.parkAt t .reform) else .go (s.reformThread s.issue.core t th)

/-- YIELD (R270): not ready for the next 16 issue opportunities. -/
def execYield (st : Stall) (s : State) : Host.Outcome State Fault Refusal :=
  s.runLocal (.yield st) st fun _ th => .next { th with yield := 16 }

/-- NOP (R270). -/
def execNop (st : Stall) (s : State) : Host.Outcome State Fault Refusal :=
  s.runLocal (.nop st) st fun _ th => .next th

/-! ### Traps, service calls and returns (R271 to R273) -/

/-- TRAP (R271): raises TrapInstr with the code; it leaves the loop buffer (R90). -/
def execTrap (code : BitVec 8) (st : Stall) (s : State) : Host.Outcome State Fault Refusal :=
  s.run (.trap code st) st fun s t th => .trap (s.modStrand t.blk th.strand Strand.leaveLoop) 0x18 code.toNat 0

/-- BRK (R271): raises Breakpoint with the code. -/
def execBrk (code : BitVec 8) (st : Stall) (s : State) : Host.Outcome State Fault Refusal :=
  s.run (.brk code st) st fun s _ _ => .trap s 0x19 code.toNat 0

/-- SVC (R272): raises ServiceCall; the lanes park until the service has performed it. -/
def execSvc (code : BitVec 8) (st : Stall) (s : State) : Host.Outcome State Fault Refusal :=
  s.run (.svc code st) st fun s t th => .trap (s.modStrand t.blk th.strand Strand.leaveLoop) 0x1A code.toNat 0

/-- An ERET form: IllegalInstruction 0x01 outside a handler, else the return (R216). -/
def eretForm (f : State → TRef → Thread → Thread) : Body := fun s t th =>
  if th.trap.inHandler then transferOut s t th (f s t) else .trap s 0x01 0x01 0

/-- ERET.retry (R216, R273). -/
def execEretRetry (st : Stall) (s : State) : Host.Outcome State Fault Refusal :=
  s.run (.eretRetry st) st (eretForm fun _ _ th => th.resume false)

/-- ERET.skip (R216, R273). -/
def execEretSkip (st : Stall) (s : State) : Host.Outcome State Fault Refusal :=
  s.run (.eretSkip st) st (eretForm fun _ _ th => th.resume true)

/-- ERET.subst (R216, R273): the value of a into the trapped instruction's destination. -/
def execEretSubst (a : RegName) (st : Stall) (s : State) : Host.Outcome State Fault Refusal :=
  s.run (.eretSubst a st) st (eretForm fun s t th => Thread.resumeSubst (s.laneWords t.blk) th (th.val a))

/-! ### Fetch control and the cycle counter (R274 to R276) -/

/-- A strand without its loop buffer and prefetched words (R91). -/
def Strand.discard (k : Strand) : Strand := { k with loopBuf := none, prefetched := [] }

/-- ISYNC (R274, R91). -/
def execIsync (st : Stall) (s : State) : Host.Outcome State Fault Refusal :=
  s.run (.isync st) st fun s t th => .next (s.modStrand t.blk th.strand Strand.discard)

/-- Every strand of a core without its loop buffer and prefetched words (R91, R92). -/
def State.discardAll (s : State) (core : Nat) : State :=
  { s with blocks := s.blocks.map fun b =>
      if b.place = .onCore core then { b with strands := b.strands.map Strand.discard } else b }

/-- Invalidate the cached words of one page's part of a range; a part that does not translate is skipped (R275). None where a fetch of it
would wait for a migrating table node (R38). A line of the instruction cache is one word (R91, log 71). -/
def State.icinvPage (s : State) (core blk lo len page : Nat) : Option State :=
  match s.xlat core blk false .fetch (Addr.ofNat (4096 * page)) with
  | .ok s (.phys pa) => some (s.modCore core fun c => { c with icache := c.icache.filter fun x =>
      !(x.1 / 4096 == pa / 4096 && lo < 4096 * page + x.1 % 4096 + 4 && 4096 * page + x.1 % 4096 < lo + len) })
  | .ok s _ => some s
  | .fault s _ _ _ => some s
  | .wait _ => none
  | .exit s => some s

/-- ICINV (R275): invalidates the core's cached words that overlap [a:2, a:2 + d); it waits for a migrating table node as a fetch does,
and then goes over the whole range. -/
def execIcinv (d a : RegName) (sync : Bool) (st : Stall) (s : State) : Host.Outcome State Fault Refusal :=
  s.run (.icinv d a sync st) st fun s t th =>
    let lo := (th.pair a).toNat
    let len := (th.val d).toNat
    let core := s.issue.core
    let pages := if len = 0 then [] else (List.range ((lo + len - 1) / 4096 - lo / 4096 + 1)).map (· + lo / 4096)
    let one := fun (r : State × Option Nat) (p : Nat) => match r.2 with
      | some w => (r.1, some w)
      | none => match r.1.icinvPage core t.blk lo len p with
        | some s => (s, none)
        | none => (r.1, some p)
    match pages.foldl one (s, none) with
    | (s, some p) => .stay (s.waitWalk t (Addr.ofNat (4096 * p)))
    | (s, none) => .next (if sync then s.discardAll core else s)

/-- CYCLES (R276): the core's cycle count at issue. -/
def execCycles (d : RegName) (st : Stall) (s : State) : Host.Outcome State Fault Refusal :=
  s.run (.cycles d st) st fun s t th =>
    let v := Addr.ofNat (s.core s.issue.core).cycles
    .next (s.modThread t fun _ => th.results d none 0 [Reg.plain (Addr.low v), Reg.plain (Addr.high v)])

end Sys2Proof.Machine
end

