-- ==== Sys2Proof/Machine/Queue.lean ====
section
/-! DEFINITION. Spindles and their tokens (R306, R307), the engine queues of a core with their spill ring (R155, R156,
R311), joins (R101), and what the copies of a doubled block hold back (R113). -/

namespace Sys2Proof.Machine

/-! ### Spindles -/

/-- The spindle of a block, if the block has claimed it (R306, R308). A trailing copy names the quad spindles of the leading copy's group
(R366). -/
def State.spindle? (s : State) (blk : Nat) (quad : Bool) (id : Nat) : Option Spindle :=
  match s.blocks[blk]? with
  | none => none
  | some b =>
    if quad then
      if b.group = 0 then none
      else (s.qspindles.find? fun q => q.grid == b.grid && q.group == b.group && q.id == id).map (·.sp)
    else (b.spindles.find? fun q => q.1 == id).map (·.2)

/-- Change the spindle of a block. -/
def State.modSpindle (s : State) (blk : Nat) (quad : Bool) (id : Nat) (f : Spindle → Spindle) : State :=
  match s.blocks[blk]? with
  | none => s
  | some b =>
    if quad then
      { s with qspindles := s.qspindles.map fun q =>
          if q.grid == b.grid && q.group == b.group && q.id == id then { q with sp := f q.sp } else q }
    else s.modBlock blk fun b => { b with spindles := b.spindles.map fun q => if q.1 == id then (q.1, f q.2) else q }

/-- A slot acquired (R307). -/
def Spindle.acquire (x : Spindle) : Spindle := { x with free := x.free - 1, acq := x.acq + 1 }

/-- A slot filled with a token: an acquired one if there is one, else a free one; none if there is neither (R307). -/
def Spindle.fill (x : Spindle) (t : Word) : Option Spindle :=
  if 0 < x.acq then some { x with acq := x.acq - 1, fifo := x.fifo ++ [t] }
  else if 0 < x.free then some { x with free := x.free - 1, fifo := x.fifo ++ [t] }
  else none

/-- The head of the FIFO taken (R307). -/
def Spindle.take (x : Spindle) : Option (Word × Spindle) :=
  match x.fifo with
  | [] => none
  | t :: r => some (t, { x with fifo := r, taken := x.taken + 1 })

/-- A taken slot returned (R307). -/
def Spindle.finish (x : Spindle) : Spindle := if 0 < x.taken then { x with taken := x.taken - 1, free := x.free + 1 } else x

/-- The counts of R306 sum to 16. -/
def Spindle.total (x : Spindle) : Nat := x.free + x.acq + x.fifo.length + x.taken

/-- The token of a command: status in bits [15:0], tag in bits [31:16] (R307). -/
def tokenWord (status tag : Nat) : Word := Word.ofNat (tag * 65536 + status)

/-- Deposit a token in a core spindle of a block: it takes a free slot, and waits while there is none; it is discarded
where the block has ended or has no such spindle (R277, R307). -/
def State.deposit (s : State) (blk id : Nat) (t : Word) : Option State :=
  match s.spindle? blk false id, (s.blocks[blk]?).map Block.place with
  | none, _ => some s
  | some _, some .ended => some s
  | some x, _ =>
    if x.free = 0 then none
    else some (s.modSpindle blk false id fun x => { x with free := x.free - 1, fifo := x.fifo ++ [t] })

/-- Has a core issues of its present cycle still to make? The deposits of a cycle come before its issues (R307), so one that comes up between
two of them belongs to the next cycle. -/
def State.midCycle (s : State) (core : Nat) : Bool := !(s.core core).turn.isEmpty

/-- Deposit a token of a command that a block issued, in both copies where the block is doubled and the command was issued
once for both (R366). -/
def State.depositBoth (s : State) (blk id : Nat) (both : Bool) (t : Word) : Option State :=
  match s.deposit blk id t, (if both then (s.blocks[blk]?).bind Block.partner else none) with
  | some s', some p => s'.deposit p id t
  | r, _ => r

/-! ### Engine queues (R155, R156, R311) -/

/-- The bits of QFENCE's mask, and the places of the queues in a core's list. -/
def qStream : Nat := 4
def qColl : Nat := 5
def qLaunch : Nat := 6
def qMatrix : Nat := 7
def qDraw : Nat := 8

/-- The entries of one engine queue (R155). -/
def queueCap : Nat := 32

/-- A queue of a core. -/
def State.queue (s : State) (core q : Nat) : EQueue := ((s.core core).queues[q]?).getD ⟨[], []⟩

/-- Change a queue of a core. -/
def State.modQueue (s : State) (core q : Nat) (f : EQueue → EQueue) : State :=
  s.modCore core fun c => { c with queues := c.queues.modify q f }

/-- The entries that a partition has in its spill ring (R155). -/
def State.spillUsed (s : State) (p : Nat) : Nat :=
  (s.cores.map fun c => (c.queues.map fun q => q.spill.countP fun e => s.partOf e.blk == p).sum).sum +
    ((s.part p).dispatch.map fun d => d.spill.length).sum

/-- Do `n` more entries keep within QUOTA (R155, R156)? -/
def State.spillFits (s : State) (p n : Nat) : Bool := n = 0 || s.spillUsed p + n ≤ (s.part p).quota.toNat * 1024

/-- Does an entry hold a stream context: a STREAM that has started? It stands in its queue no longer, but in order of its deposit (R100,
R160). -/
def Cmd.inContext (c : Cmd) : Bool := match c.op with | .stream .. => c.started | _ => false

/-- The entries that a queue holds on the core. -/
def EQueue.standing (q : EQueue) : Nat := q.q.countP fun c => !c.inContext

/-- Would one more entry of a queue be spilled? -/
def EQueue.full (q : EQueue) : Bool := queueCap ≤ q.standing || !q.spill.isEmpty

/-- A queue with one more entry, spilled where the queue is full. -/
def EQueue.push (q : EQueue) (c : Cmd) : EQueue :=
  if q.full then { q with spill := q.spill ++ [c] } else { q with q := q.q ++ [c] }

/-- A fresh entry. -/
def Cmd.fresh (op : CmdOp) (blk now : Nat) : Cmd := ⟨op, blk, false, 0, [], none, now, ChunkWork.none⟩

/-- Enter one entry into each of several queues of a core, all of them or none (R156). -/
def State.enterQueues (s : State) (core blk : Nat) (qs : List Nat) (op : CmdOp) : Option State :=
  let n := qs.countP fun q => (s.queue core q).full
  if s.spillFits (s.partOf blk) n then
    let c := Cmd.fresh op blk (s.core core).cycles
    some (qs.foldl (fun s q => s.modQueue core q fun x => x.push c) s)
  else none

/-- Enter one entry into a queue. -/
def State.enterQueue (s : State) (core blk q : Nat) (op : CmdOp) : Option State := s.enterQueues core blk [q] op

/-- The entries of a queue that stand, spilled ones last. -/
def EQueue.all (q : EQueue) : List Cmd := q.q ++ q.spill

/-- Is the head of a queue the join entry `id`? -/
def EQueue.headJoin (q : EQueue) (id : Nat) : Bool :=
  match q.all with
  | c :: _ => c.op == .join id
  | [] => false

/-- Does a queue hold the join entry `id`? -/
def EQueue.hasJoin (q : EQueue) (id : Nat) : Bool := q.all.any fun c => c.op == .join id

/-- A queue without its first entry. -/
def EQueue.pop (q : EQueue) : EQueue :=
  match q.q with
  | _ :: r => { q with q := r }
  | [] => { q with spill := q.spill.drop 1 }

/-- A queue without the join entry `id`. -/
def EQueue.dropJoin (q : EQueue) (id : Nat) : EQueue :=
  ⟨q.q.filter fun c => c.op != .join id, q.spill.filter fun c => c.op != .join id⟩

/-- Is a grid or draw that came from a core's queue, for a block, ahead of what stands in the queue of another core: it came from there, or
its block now stands there (R100, R221, log 30)? -/
def State.aheadAt (s : State) (core from_ blk : Nat) : Bool := from_ == core || s.coreOf blk == some core

/-- Has a grid that came from a core's launch queue, or a draw from its draw queue, or one of a block that has been restored there, still to
deposit its token (R101, R154)? -/
def State.outstanding (s : State) (core q : Nat) : Bool :=
  if q = qLaunch then s.grids.any fun g => match g.done with | .token b _ _ => s.aheadAt core g.core b | _ => false
  else if q = qDraw then s.draws.any fun d => match d.done with | .token b _ _ => s.aheadAt core d.core b | _ => false
  else false

/-- A join entry that stands at the head of every queue it was entered into, with every command ahead of it complete, is
passed by all of them at once (R101). -/
def State.passJoin (core : Nat) (s : State) (id : Nat) : State :=
  let qs := (s.core core).queues
  if qs.zipIdx.all fun x => !x.1.hasJoin id || (x.1.headJoin id && !s.outstanding core x.2) then
    s.modCore core fun c => { c with queues := c.queues.map fun q => q.dropJoin id }
  else s

/-- Every join entry of a core that may be passed now is passed. -/
def State.passJoins (s : State) (core : Nat) : State :=
  (((s.core core).queues.flatMap fun q => match q.all with
    | c :: _ => (match c.op with | .join id => [id] | _ => [])
    | [] => []).dedup).foldl (State.passJoin core) s

/-- A queue's head is removed, and the joins that this frees are passed. -/
def State.popQueue (s : State) (core q : Nat) : State := (s.modQueue core q EQueue.pop).passJoins core

/-- Change the head of a queue. -/
def State.modHead (s : State) (core q : Nat) (f : Cmd → Cmd) : State :=
  s.modQueue core q fun x => { x with q := x.q.modify 0 f }

/-- The head of a queue. -/
def State.head? (s : State) (core q : Nat) : Option Cmd := (s.queue core q).q.head?

/-! ### Commands of a doubled block -/

/-- Hold something back until the next seals of the lanes of its issue (R113, log 86). -/
def State.hold (s : State) (blk : Nat) (lanes : List TRef) (h : HeldOp) : State :=
  ({ s with nextJoin := s.nextJoin + 1 } : State).modBlock blk fun b => { b with held := b.held ++ [⟨h, lanes, lanes, s.nextJoin⟩] }

/-- Is a block one of two copies? -/
def State.isDoubled (s : State) (blk : Nat) : Bool := ((s.blocks[blk]?).map Block.doubled).getD false

/-- Issue an engine command of a thread for the lanes of its issue: held in a doubled block, else entered into its queue; none beyond the
quota. -/
def State.issueCmd (s : State) (core : Nat) (lanes : List TRef) (t : TRef) (q : Nat) (op : CmdOp) : Option State :=
  if s.isDoubled t.blk then some (s.hold t.blk lanes (.cmd q (Cmd.fresh op t.blk (s.core core).cycles)))
  else s.enterQueue core t.blk q op

/-- A QFENCE's entry in every queue of its mask (R311, R101). -/
def State.enterFence (s : State) (core blk : Nat) (mask : BitVec 9) : Option State :=
  match s.enterQueues core blk ((List.range 9).filter mask.getLsbD) (.join s.nextJoin) with
  | some s' => some ((State.passJoins { s' with nextJoin := s.nextJoin + 1 } core))
  | none => none

end Sys2Proof.Machine
end

