-- ==== Sys2Proof/Machine/Collective.lean ====
section
/-! DEFINITION. The strand collectives (R139, R146): the collective set, the wait for it, and LANE, SHFL, RED, the spindle
operations, QFENCE and QLD performed over it (R260, R261, R292 to R294, R307, R311, R315). -/

namespace Sys2Proof.Machine

/-! ### The collective set (R139) -/

/-- The innermost entry of a thread in its strand's file. -/
def Strand.innermost (k : Strand) (t : TRef) : Option RejoinEntry := k.rejoin.find? fun e => e.mask.contains t

/-- The collective set of a thread: the mask of its innermost entry; under an overflow stack those of it with the same
stack; without an entry every live thread of the strand (R139). A thread with an overflow stack and no entry in the file takes the threads
of the whole strand with the same stack (log 67). -/
def State.collSet (s : State) (t : TRef) : List TRef :=
  match s.thread? t with
  | none => []
  | some th =>
    let k := (s.strand? t.blk th.strand).getD Strand.blank
    let base := match k.innermost t with | some e => e.mask | none => s.strandThreads t.blk th.strand
    if th.overflow.isEmpty then base
    else base.filter fun u => match s.thread? u with
      | some x => x.live && x.overflow == th.overflow
      | none => false

/-- The collective at which a thread is parked. -/
def Thread.atCollective (th : Thread) : Option Instr :=
  match th.park with
  | some (.collective i) => some i
  | some (.ready i) => some i
  | _ => none

/-- The members of a set that is complete: every thread of it parked at a collective with the same pc; lowest lane
first. -/
def State.complete (s : State) (t : TRef) : Option Members :=
  match s.thread? t with
  | none => none
  | some th =>
    let m := (s.collSet t).filterMap fun u => (s.thread? u).map fun x => (u, x)
    if m.all fun x => x.2.atCollective.isSome && x.2.pc == th.pc then
      some (m.insertionSort fun x y => x.2.lane ≤ y.2.lane)
    else none

/-! ### Performing one -/

/-- A member of a performed collective goes on at PC + 4 (R139). -/
def State.release (s : State) (t : TRef) (f : Thread → Thread) : State :=
  s.modThread t fun th => (f th).unpark.advance

/-- Every member goes on. -/
def State.releaseAll (s : State) (m : Members) (f : Thread → Thread) : State :=
  m.foldl (fun s x => s.release x.1 f) s

/-- Traps of a performed collective: the members leave the wait at the instruction, and the delivered ones trap (R294,
R137). -/
def State.trapMembers (s : State) (l : List LaneTrap) : State :=
  match l with
  | [] => s
  | x :: _ =>
    let word := ((s.thread? x.t).map (·.word)).getD 0
    let s := l.foldl (fun s y => s.modThread y.t Thread.unpark) { s with issue := { s.issue with word := word } }
    s.deliver (deliveredTraps l) none

/-- Every member takes the same trap. -/
def State.trapAll (s : State) (m : Members) (cause sub : Nat) : State :=
  s.trapMembers (m.map fun x => ⟨x.1, cause, sub, 0⟩)

/-- One member of a value collective: its result, or its floating trap with d unwritten (R294). -/
def valueMember (i : Instr) (w n : Nat) (m : Members) (acc : State × List LaneTrap) (x : TRef × Thread) :
    State × List LaneTrap :=
  match collectiveOut i w n m x.2 with
  | none => acc
  | some (d, rs, fl) =>
    match enabledCause x.2.fpctl fl with
    | some c => (acc.1.modThread x.1 fun th => th.raise fl, acc.2 ++ [⟨x.1, c, 0, 0⟩])
    | none => (acc.1.release x.1 fun th => (th.raise fl).results d none 0 rs, acc.2)

/-- A value collective performed over its members: every source is read before any result is written (R261). -/
def State.performValue (s : State) (blk : Nat) (i : Instr) (m : Members) : State :=
  let k := s.kernel blk
  let r := m.foldl (valueMember i k.width k.d m) (s, [])
  r.1.trapMembers r.2

/-- The spindle that a spindle operation names. -/
def spindleOf : Instr → Option (Bool × Nat)
  | .qacq q n _ => some (q, n.toNat)
  | .qfill _ q n _ => some (q, n.toNat)
  | .qtake _ q n _ => some (q, n.toNat)
  | .qdone q n _ => some (q, n.toNat)
  | .qtry _ q n _ => some (q, n.toNat)
  | _ => none

/-- Two waits of one kind on a spindle. -/
def sameWait : Instr → Instr → Bool
  | .qacq .., .qacq .. => true
  | .qtake .., .qtake .. => true
  | _, _ => false

/-- The set that a waiter entry stands for still waits, with an instruction of the same kind. -/
def State.stillWaits (s : State) (i : Instr) (w : Nat × Nat × Addr) : Bool :=
  match s.thread? ⟨w.1, w.2.1⟩ with
  | some th => th.pc == w.2.2 && (match th.atCollective with | some j => sameWait i j | none => false)
  | none => false

/-- A set begins, or goes on, to wait for its spindle or queue. -/
def State.waitReady (s : State) (i : Instr) (m : Members) : State :=
  m.foldl (fun s x => s.modThread x.1 fun th => { th with park := some (.ready i) }) s

/-- One result register of every member, with ZERO plies. -/
def giveOne (d : RegName) (v : Word) (th : Thread) : Thread := th.results d none 0 [Reg.plain v]

/-- The result words of a spindle operation in its destination (R307). -/
def giveSpindle (i : Instr) (vs : List Word) (th : Thread) : Thread :=
  match i with
  | .qtake d .. => th.results d none 0 (vs.map Reg.plain)
  | .qtry d .. => th.results d none 0 (vs.map Reg.plain)
  | _ => th

/-- The lowest thread of a set's lowest lane. -/
def Members.lead (m : Members) : Nat := ((m.head?).map (·.1.tid)).getD 0

/-- What an operation on a quad spindle gave is kept for the trailing copy (R366, log 27). -/
def State.echo (s : State) (blk : Nat) (m : Members) (quad : Bool) (id : Nat) (vs : List Word) (trap : Option Nat) : State :=
  match quad, (s.blocks[blk]?).map Block.copy with
  | true, some (.leading p) => s.modBlock p fun b => { b with echoes := b.echoes ++ [⟨id, m.lead, vs, trap⟩] }
  | _, _ => s

/-- A spindle operation performed: its members go on with its result words. -/
def State.spun (s : State) (blk : Nat) (i : Instr) (m : Members) (quad : Bool) (id : Nat) (vs : List Word) : State :=
  (s.echo blk m quad id vs none).releaseAll m (giveSpindle i vs)

/-- A trailing copy's operation on a quad spindle has no effect of its own: it ends with, and as, the leading copy's (R366, log 27). -/
def State.followLead (s : State) (blk : Nat) (i : Instr) (m : Members) (id : Nat) : State :=
  match (((s.blocks[blk]?).map (·.echoes)).getD []).find? fun e => e.id == id && e.tid == m.lead with
  | none => s.waitReady i m
  | some e =>
    let s := s.modBlock blk fun b => { b with echoes := b.echoes.erase e }
    match e.trap with
    | some c => s.trapAll m 0x30 c
    | none => s.releaseAll m (giveSpindle i e.vals)

/-- A wait on a spindle in order of arrival (R307): the operation `f`, with its result words, where it can be done and no earlier set of
the same kind waits. -/
def State.waitSpindle (s : State) (blk : Nat) (i : Instr) (m : Members) (quad : Bool) (id : Nat)
    (f : Spindle → Option (Spindle × List Word)) : State :=
  let key := (blk, m.lead, ((m.head?).map (·.2.pc)).getD 0)
  match s.spindle? blk quad id with
  | none => s
  | some x =>
    let ws := x.waiters.filter fun w => s.stillWaits i w || w == key
    let first := match ws with | [] => true | w :: _ => w == key
    match (if first then f x else none) with
    | some (x', vs) => (s.modSpindle blk quad id fun y => { x' with waiters := y.waiters.erase key }).spun blk i m quad id vs
    | none =>
      (s.modSpindle blk quad id fun y => if y.waiters.contains key then y else { y with waiters := y.waiters ++ [key] }).waitReady
        i m

/-- Does a stream that stands in the stream queue, or is held, fill an operand queue of a strand (R314)? A trailing copy's streams are
those that the leading copy has issued (R366). -/
def State.streamLive (s : State) (core blk k q : Nat) : Bool :=
  let src := match (s.blocks[blk]?).map Block.copy with | some (.trailing p) => p | _ => blk
  let at_ := if src = blk then core else (s.coreOf src).getD core
  let fills := fun (b : Nat) (c : Cmd) => match c.op with
    | .stream oct st => (s.strandParts b k).contains (c.blk, st) && c.fin.isNone && (oct.getD 5 0).field 0 3 == q
    | _ => false
  let held := fun (b : Nat) => s.blocks.any fun x => x.held.any fun h => match h.op with
    | .cmd _ c => fills b c
    | _ => false
  (s.queue at_ qStream).all.any (fills src) || held blk || held src

/-- The elements of an operand queue. -/
def Strand.opQueue (k : Strand) (q : Nat) : OperandQueue := (k.opq[q]?).getD []

/-- An operand queue after a QLD of n threads that found `have_` elements before the end of their stream: these elements are taken with the mark of
the end, or n of them, and the mark too where they were the last (R315, log 68). -/
def popElements (n have_ : Nat) (l : OperandQueue) : OperandQueue :=
  if have_ < n then l.drop (have_ + 1)
  else match l.drop n with
    | [] :: r => r
    | r => r

/-- QLD over its members (R315): the thread of rank r receives element r, words beyond it 0; those left without one after
the stream's end receive 0; an empty queue that no stream will fill raises IllegalWait 0x04. The end of a stream
stands in the queue as an element without words, before what a later stream brings (log 68). -/
def State.performQld (s : State) (core blk : Nat) (i : Instr) (m : Members) (d : RegName) (q k : Nat) : State :=
  let st := ((m.head?).map (·.2.strand)).getD 0
  let all := ((s.strand? blk st).getD Strand.blank).opQueue q
  let els := all.takeWhile fun e => !e.isEmpty
  let cut := els.length < all.length
  let waited := match (m.head?).bind (·.2.park) with | some (.ready _) => true | _ => false
  if els.length < m.length && !cut && s.streamLive core blk st q then s.waitReady i m
  else if all.isEmpty && !waited then s.trapAll m 0x30 0x04
  else
    let s := s.modStrand blk st fun x => { x with opq := x.opq.modify q (popElements m.length els.length) }
    (m.zipIdx).foldl (fun s (x, r) => s.release x.1 fun th =>
      th.results d none 0 ((List.range k).map fun j => Reg.plain ((els.getD r []).getD j 0))) s

/-- A QFENCE performed once for its set: held in a doubled block; QueueQuota where the spill ring has no room (R311,
R156). -/
def State.performQfence (s : State) (core blk : Nat) (m : Members) (mask : BitVec 9) : State :=
  if s.isDoubled blk then (s.hold blk (m.map (·.1)) (.fence mask)).releaseAll m id
  else match s.enterFence core blk mask with
    | some s' => s'.releaseAll m id
    | none => s.trapAll m 0x40 0x01

/-- The release side of a QFILL, QDONE or barrier arrival (R98): every earlier write of the strand is performed before it
(log 12). -/
def State.releaseSide (s : State) (t : TRef) (th : Thread) : State := s.drainStrand t.blk th.strand

/-- The release side of a performed collective. -/
def State.releaseSet (s : State) (m : Members) : State :=
  match m with
  | [] => s
  | x :: _ => s.releaseSide x.1 x.2

/-- A spindle operation over its complete set (R307). -/
def State.performSpindle (s : State) (blk : Nat) (i : Instr) (m : Members) (q : Bool) (n : Nat) : State :=
  match i with
  | .qacq .. => s.waitSpindle blk i m q n fun x => if 0 < x.free then some (x.acquire, []) else none
  | .qtake .. => s.waitSpindle blk i m q n fun x => (x.take).map fun r => (r.2, [r.1])
  | .qfill d .. =>
    match (s.spindle? blk q n).bind fun x => x.fill (((m.head?).map fun x => x.2.val d).getD 0) with
    | some x' => ((s.releaseSet m).modSpindle blk q n fun _ => x').spun blk i m q n []
    | none => (s.echo blk m q n [] (some 0x03)).trapAll m 0x30 0x03
  | .qdone .. => ((s.releaseSet m).modSpindle blk q n Spindle.finish).spun blk i m q n []
  | .qtry .. =>
    match (s.spindle? blk q n).bind Spindle.take with
    | some (t, x') => (s.modSpindle blk q n fun _ => x').spun blk i m q n [t, 1]
    | none => s.spun blk i m q n [0, 0]
  | _ => s

/-- Is a block a trailing copy? -/
def State.trails (s : State) (blk : Nat) : Bool := ((s.blocks[blk]?).map Block.trailing).getD false

/-- Perform a collective over its complete set, or let the set wait for its spindle or queue. -/
def State.perform (s : State) (core blk : Nat) (i : Instr) (m : Members) : State :=
  match spindleOf i with
  | some (q, n) => if q && s.trails blk then s.followLead blk i m n else s.performSpindle blk i m q n
  | none => match i with
  | .qfence mask _ => s.performQfence core blk m mask
  | .qld d q w _ => s.performQld core blk i m d q.toNat w.k
  | _ => s.performValue blk i m

/-- Perform the collective at which a thread is parked, if its set is complete. A set with threads of several blocks (R142) acts for the
block of its lowest lane: on that block's spindle, and in its name (log 69). -/
def State.tryCollective (s : State) (core : Nat) (t : TRef) : State :=
  match (s.thread? t).bind Thread.atCollective with
  | some i => match s.complete t with
    | some m => s.perform core (((m.head?).map (·.1.blk)).getD t.blk) i m
    | none => s
  | none => s

/-- After the lanes of an issue have parked: a set that is complete is performed at once. -/
def State.settleIssue (s : State) : State := s.issue.lanes.foldl (fun s t => s.tryCollective s.issue.core t) s

/-- The lanes of a collective park at it (R139); a spindle operation that names a spindle the block has not claimed raises
IllegalWait 0x02 (R146, R308). -/
def parkCollective (i : Instr) : Body := fun s t _ =>
  match spindleOf i with
  | some (q, n) => if (s.spindle? t.blk q n).isNone then .trap s 0x30 0x02 0 else .go (s.parkAt t (.collective i))
  | none => .go (s.parkAt t (.collective i))

/-- Run a strand collective. -/
def State.collective (s : State) (i : Instr) (st : Stall) : Host.Outcome State Fault Refusal :=
  .next (s.runLanes i st (parkCollective i)).settleIssue

/-! ### The instructions -/

/-- VOTEANY (R260). -/
def execVoteany (d a : RegName) (st : Stall) (s : State) : Host.Outcome State Fault Refusal := s.collective (.voteany d a st) st

/-- VOTEALL (R260). -/
def execVoteall (d a : RegName) (st : Stall) (s : State) : Host.Outcome State Fault Refusal := s.collective (.voteall d a st) st

/-- BALLOT (R260). -/
def execBallot (d a : RegName) (st : Stall) (s : State) : Host.Outcome State Fault Refusal := s.collective (.ballot d a st) st

/-- ACTIVE (R260). -/
def execActive (d : RegName) (st : Stall) (s : State) : Host.Outcome State Fault Refusal := s.collective (.active d st) st

/-- MATCH (R260). -/
def execMatchLanes (d a : RegName) (st : Stall) (s : State) : Host.Outcome State Fault Refusal :=
  s.collective (.matchLanes d a st) st

/-- FIRST (R260). -/
def execFirst (d a : RegName) (st : Stall) (s : State) : Host.Outcome State Fault Refusal := s.collective (.first d a st) st

/-- SHFL.idx (R261). -/
def execShflIdx (d a b : RegName) (st : Stall) (s : State) : Host.Outcome State Fault Refusal :=
  s.collective (.shflIdx d a b st) st

/-- SHFL.up (R261). -/
def execShflUp (d a b : RegName) (st : Stall) (s : State) : Host.Outcome State Fault Refusal :=
  s.collective (.shflUp d a b st) st

/-- SHFL.down (R261). -/
def execShflDown (d a b : RegName) (st : Stall) (s : State) : Host.Outcome State Fault Refusal :=
  s.collective (.shflDown d a b st) st

/-- SHFL.xor (R261). -/
def execShflXor (d a b : RegName) (st : Stall) (s : State) : Host.Outcome State Fault Refusal :=
  s.collective (.shflXor d a b st) st

/-- REDMAX (R292). -/
def execRedmax (d a : RegName) (t : RedType) (st : Stall) (s : State) : Host.Outcome State Fault Refusal :=
  s.collective (.redmax d a t st) st

/-- REDMIN (R292). -/
def execRedmin (d a : RegName) (t : RedType) (st : Stall) (s : State) : Host.Outcome State Fault Refusal :=
  s.collective (.redmin d a t st) st

/-- REDSUM (R292). -/
def execRedsum (d a : RegName) (st : Stall) (s : State) : Host.Outcome State Fault Refusal := s.collective (.redsum d a st) st

/-- REDVAR (R293). -/
def execRedvar (d a : RegName) (st : Stall) (s : State) : Host.Outcome State Fault Refusal := s.collective (.redvar d a st) st

/-- REDIADD (R292). -/
def execRediadd (d a : RegName) (t : RedType) (st : Stall) (s : State) : Host.Outcome State Fault Refusal :=
  s.collective (.rediadd d a t st) st

/-- REDAND (R292). -/
def execRedand (d a : RegName) (t : RedType) (st : Stall) (s : State) : Host.Outcome State Fault Refusal :=
  s.collective (.redand d a t st) st

/-- REDOR (R292). -/
def execRedor (d a : RegName) (t : RedType) (st : Stall) (s : State) : Host.Outcome State Fault Refusal :=
  s.collective (.redor d a t st) st

/-- REDXOR (R292). -/
def execRedxor (d a : RegName) (t : RedType) (st : Stall) (s : State) : Host.Outcome State Fault Refusal :=
  s.collective (.redxor d a t st) st

/-- QACQ (R307). -/
def execQacq (quad : Bool) (imm : BitVec 9) (st : Stall) (s : State) : Host.Outcome State Fault Refusal :=
  s.collective (.qacq quad imm st) st

/-- QFILL (R307). -/
def execQfill (d : RegName) (quad : Bool) (imm : BitVec 9) (st : Stall) (s : State) : Host.Outcome State Fault Refusal :=
  s.collective (.qfill d quad imm st) st

/-- QTAKE (R307). -/
def execQtake (d : RegName) (quad : Bool) (imm : BitVec 9) (st : Stall) (s : State) : Host.Outcome State Fault Refusal :=
  s.collective (.qtake d quad imm st) st

/-- QDONE (R307). -/
def execQdone (quad : Bool) (imm : BitVec 9) (st : Stall) (s : State) : Host.Outcome State Fault Refusal :=
  s.collective (.qdone quad imm st) st

/-- QTRY (R307). -/
def execQtry (d : RegName) (quad : Bool) (imm : BitVec 9) (st : Stall) (s : State) : Host.Outcome State Fault Refusal :=
  s.collective (.qtry d quad imm st) st

/-- QFENCE (R311). -/
def execQfence (mask : BitVec 9) (st : Stall) (s : State) : Host.Outcome State Fault Refusal := s.collective (.qfence mask st) st

/-- QLD (R315). -/
def execQld (d : RegName) (q : BitVec 3) (w : Width) (st : Stall) (s : State) : Host.Outcome State Fault Refusal :=
  s.collective (.qld d q w st) st

end Sys2Proof.Machine
end

