-- ==== Sys2Proof/Machine/LoadStore.lean ====
section
/-! DEFINITION. Loads and stores, tangent frames, full/empty accesses, LDA and STL, FENCE, SPL and FIL (R297 to R302, R305,
R193 to R195, R59, R64, R69). -/

namespace Sys2Proof.Machine

/-! ### One access -/

/-- The effective address of an M-format access: a:2 + s(imm7) × bytes (R297). -/
def effAddr (th : Thread) (a : RegName) (imm : BitVec 7) (n : Nat) : Addr :=
  th.pair a + BitVec.ofInt 64 (imm.toInt * n)

/-- The checks of an access of n bytes, in the order of R298: the address, alignment, then the aperture or translation with
its leaf checks; then what is done at the home. -/
def State.access (s : State) (t : TRef) (k : Access) (ea : Addr) (n : Nat) (f : State → Loc → Lane) : Lane :=
  if 2 ^ 48 ≤ ea.toNat then .trap s 0x20 0x01 ea.toNat
  else if ea.toNat % n ≠ 0 then .trap s 0x20 0x02 ea.toNat
  else match s.translate t k ea with
    | .fault s c sub aux => .trap s c sub aux
    | .wait s => .stay (s.waitWalk t ea)
    | .exit s => .stay s
    | .ok s l => f s l

/-- The uncorrectable error that a thread's read finds (R69): the subcode and the page, which is poisoned after the issue. -/
def State.readError (s : State) (l : Loc) (n : Nat) : Option (Nat × Nat) :=
  if s.homeBad l n then
    match l with
    | .win _ _ => some (0x03, 0)
    | .phys pa => some (0x02, pa / 4096)
  else none

/-- Bytes as n words, zero-extended to whole words. -/
def loadWords (bytes : List Byte) : List Word := wordsOf (bytes ++ List.replicate ((4 - bytes.length % 4) % 4) 0)

/-- A load of n bytes: what the thread sees at the location, as registers with ZERO plies and variable latency (R297,
R189). -/
def loadBody (d a : RegName) (imm : BitVec 7) (n : Nat) (ext : List Byte → List Word) : Body := fun s t th =>
  s.access t .load (effAddr th a imm n) n fun s l =>
    match s.readError l n with
    | some (sub, page) => .trap s 0x24 sub page
    | none => .next ((s.correct l n).modThread t fun _ => th.results d none 0 ((ext (s.visible t th l n)).map Reg.plain))

/-- A byte or half-word, sign-extended. -/
def sextBytes (bytes : List Byte) : List Word :=
  [BitVec.ofInt 32 (let v : Int := leNat bytes
    if bytes.length = 1 then (if v < 128 then v else v - 256) else (if v < 32768 then v else v - 65536))]

/-- LDB (R297). -/
def execLdb (d a : RegName) (imm : BitVec 7) (st : Stall) (s : State) : Host.Outcome State Fault Refusal :=
  s.run (.ldb d a imm st) st (loadBody d a imm 1 loadWords)

/-- LDBS (R297). -/
def execLdbs (d a : RegName) (imm : BitVec 7) (st : Stall) (s : State) : Host.Outcome State Fault Refusal :=
  s.run (.ldbs d a imm st) st (loadBody d a imm 1 sextBytes)

/-- LDH (R297). -/
def execLdh (d a : RegName) (imm : BitVec 7) (st : Stall) (s : State) : Host.Outcome State Fault Refusal :=
  s.run (.ldh d a imm st) st (loadBody d a imm 2 loadWords)

/-- LDHS (R297). -/
def execLdhs (d a : RegName) (imm : BitVec 7) (st : Stall) (s : State) : Host.Outcome State Fault Refusal :=
  s.run (.ldhs d a imm st) st (loadBody d a imm 2 sextBytes)

/-- LDW (R297). -/
def execLdw (d a : RegName) (imm : BitVec 7) (w : Width) (st : Stall) (s : State) : Host.Outcome State Fault Refusal :=
  s.run (.ldw d a imm w st) st (loadBody d a imm (4 * w.k) loadWords)

/-! ### Stores -/

/-- The bytes of a write that fall in one aligned 8-byte piece, zero elsewhere, and the mask of them (R367). -/
def recordOf (ea : Nat) (bytes : List Byte) (piece : Nat) : List Byte × Nat :=
  let has := fun (i : Nat) => ea ≤ 8 * piece + i && 8 * piece + i < ea + bytes.length
  ((List.range 8).map fun i => if has i then bytes.getD (8 * piece + i - ea) 0 else 0,
    ((List.range 8).map fun i => if has i then 2 ^ i else 0).sum)

/-- The signature after a quarantined write, and the records folded in (R367). -/
def Thread.fold (th : Thread) (ea : Nat) (bytes : List Byte) : Thread :=
  let ps := wordsTouched ea bytes.length
  { th with sig := ps.foldl (fun c p => crcRecord c (8 * p) (recordOf ea bytes p).1 (recordOf ea bytes p).2) th.sig,
            recs := th.recs + ps.length }

/-- Enter a write into the store queue. In a doubled block a near write is folded into the signature; the one that gives
the thread 256 records is a seal, after it (R367, R368). -/
def State.storeAt (s : State) (t : TRef) (th : Thread) (ea : Addr) (l : Loc) (bytes : List Byte) (fill : Bool) : Lane :=
  let s := s.enqueueWrite t th ⟨t, l, bytes, fill⟩
  match l, s.isDoubled t.blk with
  | .phys _, true =>
    let th' := th.fold ea.toNat bytes
    let s := s.modThread t fun _ => th'
    if 256 ≤ th'.recs then
      .go ((s.modThread t fun th => { th.advance with park := some (.seal false) }).want (.seal t.blk t.tid))
    else .next s
  | _, _ => .next s

/-- A store of n bytes (R297). -/
def storeBody (a : RegName) (imm : BitVec 7) (n : Nat) (bytes : Thread → List Byte) : Body := fun s t th =>
  s.access t .store (effAddr th a imm n) n fun s l => s.storeAt t th (effAddr th a imm n) l (bytes th) false

/-- The bytes of a register group. -/
def groupBytes (d : RegName) (k : Nat) (th : Thread) : List Byte := (th.vals d k).flatMap wordBytes

/-- STB (R297). -/
def execStb (d a : RegName) (imm : BitVec 7) (st : Stall) (s : State) : Host.Outcome State Fault Refusal :=
  s.run (.stb d a imm st) st (storeBody a imm 1 fun th => leBytes 1 (th.val d).toNat)

/-- STH (R297). -/
def execSth (d a : RegName) (imm : BitVec 7) (st : Stall) (s : State) : Host.Outcome State Fault Refusal :=
  s.run (.sth d a imm st) st (storeBody a imm 2 fun th => leBytes 2 (th.val d).toNat)

/-- STW (R297). -/
def execStw (d a : RegName) (imm : BitVec 7) (w : Width) (st : Stall) (s : State) : Host.Outcome State Fault Refusal :=
  s.run (.stw d a imm w st) st (storeBody a imm (4 * w.k) (groupBytes d w.k))

/-! ### Tangent frames (R193 to R196, R299) -/

/-- The value format of LDT and STT (R299). -/
def frameFmt : FrameFmt → Fmt
  | .f32 => .f32 | .f16 => .f16 | .bf16 => .bf16 | .e4m3 => .e4m3

/-- The bytes of one element of a format. -/
def frameBytes : FrameFmt → Nat
  | .f32 => 4 | .f16 => 2 | .bf16 => 2 | .e4m3 => 1

/-- The partials' format and size (R182, R193). -/
def Kernel.partFmt (k : Kernel) : Fmt := if k.bf16 then .bf16 else .f32

/-- The size of a partial. -/
def Kernel.partBytes (k : Kernel) : Nat := if k.bf16 then 2 else 4

/-- The ply-lost NaN of the partials' format (R194). -/
def Kernel.lostNan (k : Kernel) : Nat := if k.bf16 then 0x7FC1 else 0x7FC00001

/-- Is STRIDE legal (R193)? -/
def strideOk (stride vb pb : Nat) : Bool := stride % pb == 0 && vb ≤ stride && pb ≤ stride

/-- The elements of a frame: address and size (R193). -/
def frameElems (base : Addr) (stride vb pb n : Nat) : List (Addr × Nat) :=
  (base, vb) :: (List.range n).map fun i => (base + Addr.ofNat ((i + 1) * stride), pb)

/-- How the checks of a frame's elements end early: the lowest one whose stage before poison fails, or whose walk waits, or at which the
partition exits, decides (R193). -/
inductive ElemStop where
  | fault (cause sub aux : Nat)
  | walk (ea : Addr)
  | exit
  deriving DecidableEq, Repr

/-- What the checks of a frame's elements gave so far: the homes, what ends them, and the first poison, which is the last stage (R193). -/
structure Elems where
  s : State
  locs : List Loc
  stop : Option ElemStop
  poison : Option (Nat × Nat)

/-- Translate one element, unless one before it has decided. -/
def Elems.step (t : TRef) (k : Access) (r : Elems) (e : Addr × Nat) : Elems :=
  if r.stop.isSome then r
  else match r.s.translate t k e.1 with
    | .ok s l => { r with s := s, locs := r.locs ++ [l] }
    | .fault s 0x24 sub aux => { r with s := s, poison := r.poison.orElse fun _ => some (sub, aux) }
    | .fault s c sub aux => { r with s := s, stop := some (.fault c sub aux) }
    | .wait s => { r with s := s, stop := some (.walk e.1) }
    | .exit s => { r with s := s, stop := some .exit }

/-- Translate every element. -/
def State.elems (s : State) (t : TRef) (k : Access) (es : List (Addr × Nat)) : Elems :=
  es.foldl (Elems.step t k) ⟨s, [], none, none⟩

/-- The checks of a frame, stage by stage (R193), then what is done with the homes. -/
def State.frame (s : State) (t : TRef) (k : Access) (stride vb pb : Nat) (es : List (Addr × Nat))
    (f : State → List Loc → Lane) : Lane :=
  if !strideOk stride vb pb then .trap s 0x20 0x03 0
  else if es.any fun e => 2 ^ 48 ≤ e.1.toNat then .trap s 0x20 0x01 0
  else if es.any fun e => e.1.toNat % e.2 ≠ 0 then .trap s 0x20 0x02 0
  else
    let r := s.elems t k es
    match r.stop, r.poison with
    | some (.fault c sub aux), _ => .trap r.s c sub aux
    | some (.walk ea), _ => .stay (r.s.waitWalk t ea)
    | some .exit, _ => .stay r.s
    | none, some (sub, aux) => .trap r.s 0x24 sub aux
    | none, none => f r.s r.locs

/-- The first element that holds an uncorrectable error. -/
def State.firstError (s : State) : List (Loc × Nat) → Option (Nat × Nat)
  | [] => none
  | (l, n) :: r => match s.readError l n with | some e => some e | none => s.firstError r

/-- The register that LDT forms from its elements (R195). -/
def ldtReg (f : Fmt) (k : Kernel) (v : Nat) (ps : List Nat) : Reg :=
  let val := Word.ofNat (Fmt.f32.rne (f.val v))
  if ps.any fun p => p == k.lostNan then ⟨val, .lost, false, []⟩
  else if ps.all fun p => (k.partFmt.val p).isZero then ⟨val, .zero, false, []⟩
  else ⟨val, .live, false, ps.map fun p => rne32 (k.partFmt.val p)⟩

/-- LDT (R299, R193, R195). -/
def execLdt (d a : RegName) (imm : BitVec 7) (f : FrameFmt) (st : Stall) (s : State) : Host.Outcome State Fault Refusal :=
  s.run (.ldt d a imm f st) st fun s t th =>
    let k := s.kernel t.blk
    let es := frameElems (effAddr th a imm (frameBytes f)) th.plystride.toNat (frameBytes f) k.partBytes k.d
    s.frame t .load th.plystride.toNat (frameBytes f) k.partBytes es fun s ls =>
      let at_ := ls.zip (es.map (·.2))
      match s.firstError at_ with
      | some (sub, page) => .trap s 0x24 sub page
      | none =>
        let vs := at_.map fun x => leNat (s.visible t th x.1 x.2)
        .next ((at_.foldl (fun s x => s.correct x.1 x.2) s).modThread t fun _ => th.result (archOf th.wb d) (ldtReg (frameFmt f) k (vs.headD 0) vs.tail) none)

/-- The patterns of the partials that STT writes (R194). -/
def sttParts (k : Kernel) (r : Reg) : List Nat :=
  (List.range k.d).map fun i =>
    match r.tag with
    | .lost => k.lostNan
    | .zero => 0
    | .live => if k.bf16 then Fmt.bf16.rne (r.partV i) else (r.part i).toNat

/-- Store the elements of a frame in order. Where one that is not the last gives a thread of a doubled block its 256th record, the
others wait for the seal (R368). -/
def State.storeElems (s : State) (t : TRef) (th : Thread) : List (Addr × Loc × List Byte) → Lane
  | [] => .next s
  | [(a, l, v)] => s.storeAt t th a l v false
  | (a, l, v) :: r =>
    match s.storeAt t th a l v false with
    | .next s => s.storeElems t ((s.thread? t).getD th) r
    | .go s => .go (s.modThread t fun x => { x with pc := th.pc, park := some (.sealRest r) })
    | x => x

/-- STT (R299, R193, R194): the value is converted with RNE, its exceptions raised and trapped as CVT's, before anything is
written. -/
def execStt (d a : RegName) (imm : BitVec 7) (f : FrameFmt) (st : Stall) (s : State) : Host.Outcome State Fault Refusal :=
  s.run (.stt d a imm f st) st fun s t th =>
    let k := s.kernel t.blk
    let stride := th.plystride.toNat
    let es := frameElems (effAddr th a imm (frameBytes f)) stride (frameBytes f) k.partBytes k.d
    s.frame t .plan stride (frameBytes f) k.partBytes es fun s _ =>
      let r := th.get d
      let c := cvtFloat (frameFmt f) .rne false r.v
      let th' := th.raise c.2.1
      match enabledCause th.fpctl c.2.1 with
      | some x => .trap (s.modThread t fun _ => th') x 0 0
      | none => s.frame t .store stride (frameBytes f) k.partBytes es fun s ls =>
          (s.modThread t fun _ => th').storeElems t th' ((es.zip (ls.zip (c.1 :: sttParts k r))).map fun x =>
            (x.1.1, x.2.1, leBytes x.1.2 x.2.2))

/-! ### Full/empty accesses (R59, R300) -/

/-- The own-window location of a full/empty access: the aperture check, then AccessFault 0x0D outside the own window. -/
def State.ownAccess (s : State) (t : TRef) (ea : Addr) (n : Nat) (f : Nat → Lane) : Lane :=
  if 2 ^ 48 ≤ ea.toNat then .trap s 0x20 0x01 ea.toNat
  else if ea.toNat % n ≠ 0 then .trap s 0x20 0x02 ea.toNat
  else if !inAperture ea.toNat then .trap s 0x21 0x0D ea.toNat
  else match s.aperture t.blk ea.toNat with
    | .error sub => .trap s 0x21 sub ea.toNat
    | .ok _ => if ea.toNat / 2 ^ 19 % 8 = 0 then f (ea.toNat % 2 ^ 19) else .trap s 0x21 0x0D ea.toNat

/-- LDFE and LDFEC: the strand's earlier writes are performed; then the load is performed, or its thread waits at the bank
(R300, R102, R104). -/
def feBody (d a : RegName) (imm : BitVec 7) (k : Nat) (empties : Bool) : Body := fun s t th =>
  s.ownAccess t (effAddr th a imm (4 * k)) (4 * k) fun off =>
    let s := s.drainStrand t.blk th.strand
    let w : FeWait := ⟨(List.range k).map fun i => archOf th.wb (member d i), off, k, empties, s.nextJoin⟩
    if ((s.blocks[t.blk]?).map fun b => b.spanFull off (4 * k)).getD false then
      match s.readError (.win t.blk off) (4 * k) with
      | some (sub, page) => .trap s 0x24 sub page
      | none => .next (s.feDone t w)
    else .go (State.parkAt { s with nextJoin := s.nextJoin + 1 } t (.granule w))

/-- LDFE (R300). -/
def execLdfe (d a : RegName) (imm : BitVec 7) (w : Width) (st : Stall) (s : State) : Host.Outcome State Fault Refusal :=
  s.run (.ldfe d a imm w st) st (feBody d a imm w.k false)

/-- LDFEC (R300). -/
def execLdfec (d a : RegName) (imm : BitVec 7) (w : Width) (st : Stall) (s : State) : Host.Outcome State Fault Refusal :=
  s.run (.ldfec d a imm w st) st (feBody d a imm w.k true)

/-- STFE (R300): a write that fills its granules when it is performed at the bank. -/
def execStfe (d a : RegName) (imm : BitVec 7) (w : Width) (st : Stall) (s : State) : Host.Outcome State Fault Refusal :=
  s.run (.stfe d a imm w st) st fun s t th =>
    let ea := effAddr th a imm (4 * w.k)
    s.ownAccess t ea (4 * w.k) fun off => s.storeAt t th ea (.win t.blk off) (groupBytes d w.k th) true

/-! ### LDA, STL and FENCE (R301, R302) -/

/-- The bytes of LDA and STL. -/
def pairBytes (pair : Bool) : Nat := if pair then 8 else 4

/-- LDA (R301): reads are performed at issue, so the acquire side needs nothing more (log 1). -/
def execLda (d a : RegName) (sc : Scope) (pair : Bool) (st : Stall) (s : State) : Host.Outcome State Fault Refusal :=
  s.run (.lda d a sc pair st) st (loadBody d a 0 (pairBytes pair) loadWords)

/-- Is a scope die or wider? -/
def Scope.dieUp : Scope → Bool
  | .core => false | .quad => false | _ => true

/-- A seal before an instruction of die scope or wider in a doubled block (R113, R368). -/
def State.sealIf (s : State) (c : Bool) (t : TRef) (th : Thread) (k : State → Lane) : Lane :=
  if c then s.sealGate t th k else k s

/-- STL (R301): the write follows the strand's earlier writes in its store queue. -/
def execStl (d a : RegName) (sc : Scope) (pair : Bool) (st : Stall) (s : State) : Host.Outcome State Fault Refusal :=
  s.run (.stl d a sc pair st) st fun s t th =>
    s.sealIf (Scope.dieUp sc) t th fun s =>
      storeBody a 0 (pairBytes pair) (groupBytes d (if pair then 2 else 1)) s t ((s.thread? t).getD th)

/-- Does a scope held on core c cover core c' (R96)? -/
def Scope.covers (sc : Scope) (c c' : Nat) : Bool :=
  match sc with
  | .core => c == c' | .quad => c / 4 == c' / 4 | .die => c / 36 == c' / 36 | _ => true

/-- A FENCE: a seal at die scope or wider, then every earlier write of the thread's strand is performed (R302, R113, log
12). -/
def fenceBody (sc : Scope) (f : State → State) : Body := fun s t th =>
  s.sealIf (Scope.dieUp sc) t th fun s => .next (f (s.drainStrand t.blk th.strand))

/-- FENCE acq (R302). -/
def execFenceAcq (sc : Scope) (st : Stall) (s : State) : Host.Outcome State Fault Refusal :=
  s.run (.fenceAcq sc st) st (fenceBody sc id)

/-- FENCE rel (R302). -/
def execFenceRel (sc : Scope) (st : Stall) (s : State) : Host.Outcome State Fault Refusal :=
  s.run (.fenceRel sc st) st (fenceBody sc id)

/-- FENCE acqrel (R302). -/
def execFenceAcqrel (sc : Scope) (st : Stall) (s : State) : Host.Outcome State Fault Refusal :=
  s.run (.fenceAcqrel sc st) st (fenceBody sc id)

/-- FENCE sc (R302). -/
def execFenceSc (sc : Scope) (st : Stall) (s : State) : Host.Outcome State Fault Refusal :=
  s.run (.fenceSc sc st) st (fenceBody sc id)

/-- FENCE ifetch (R302, R92): the instruction caches of every core in the scope are invalidated in full. -/
def execFenceIfetch (sc : Scope) (st : Stall) (s : State) : Host.Outcome State Fault Refusal :=
  s.run (.fenceIfetch sc st) st (fenceBody sc fun s =>
    { s with cores := s.cores.zipIdx.map fun x => if Scope.covers sc s.issue.core x.2 then { x.1 with icache := [] } else x.1 })

/-- FENCE table (R302, R114): the strand's earlier writes are performed, and the thread's lookups see what the thread is sure of, or newer
(log 65). -/
def execFenceTable (sc : Scope) (st : Stall) (s : State) : Host.Outcome State Fault Refusal :=
  s.run (.fenceTable sc st) st fun s t th =>
    fenceBody sc (fun s => s.modThread t fun th => { th with table := th.acq }) s t th

/-! ### Spill slots (R54, R305) -/

/-- The whole register in a spill slot; a slot never written gives 0 (R305). -/
def Thread.slot (th : Thread) (n : Nat) : Reg := ((th.spills.find? fun x => x.1 == n).map (·.2)).getD (Reg.plain 0)

/-- A slot written. -/
def Thread.setSlot (th : Thread) (n : Nat) (r : Reg) : Thread :=
  { th with spills := (n, r) :: th.spills.filter fun x => x.1 != n }

/-- SPL (R305). -/
def execSpl (a : RegName) (imm : BitVec 9) (st : Stall) (s : State) : Host.Outcome State Fault Refusal :=
  s.runLocal (.spl a imm st) st fun c th =>
    if c.kernel.spill ≤ imm.toNat then .trap th 0x05 0x04 else .next (th.setSlot imm.toNat (th.get a))

/-- FIL (R305). -/
def execFil (d : RegName) (imm : BitVec 9) (st : Stall) (s : State) : Host.Outcome State Fault Refusal :=
  s.runLocal (.fil d imm st) st fun c th =>
    if c.kernel.spill ≤ imm.toNat then .trap th 0x05 0x04 else .next (th.result (archOf th.wb d) (th.slot imm.toNat) none)

end Sys2Proof.Machine
end

