-- ==== Sys2Proof/Machine/Atomic.lean ====
section
/-! DEFINITION. Atomics (R67, R303, R304, R107, R113): the checks at issue, and ATOMIC_RMW_PERFORM. -/

namespace Sys2Proof.Machine

/-- The five opcodes (R67). -/
inductive AtomAgent where
  | c | q | d | p | x
  deriving DecidableEq, Repr

/-- Does the agent of an opcode reach a location (R67)? -/
def State.reaches (s : State) (g : AtomAgent) (blk : Nat) (l : Loc) : Bool :=
  match l with
  | .win b _ => match g with
    | .c => b == blk
    | .q => true
    | _ => false
  | .phys pa => match g with
    | .c => false
    | .x => true
    | _ => pa / 2 ^ 46 == s.pkg.toNat

/-- The scope of an opcode is die or wider. -/
def AtomAgent.dieUp : AtomAgent → Bool
  | .c => false | .q => false | _ => true

/-- The operand size in bytes (R64). -/
def AtomType.bytes : AtomType → Nat
  | .n64 => 8 | _ => 4

/-- The operand x and the compare value c of an atomic (R304). -/
def atomOperands (th : Thread) (d : RegName) (k : AtomKind) : Addr × Addr :=
  let at_ := fun (i : Nat) => if k.ty = .n64 then pairVal (th.valAt d (2 * i)) (th.valAt d (2 * i + 1)) else (th.valAt d i).zeroExtend 64
  if k.op = .cas then (at_ 1, at_ 0) else (at_ 0, 0)

/-- The new value of an atomic (R304). -/
def atomNew (op : AtomOp) (ty : AtomType) (old x c : Addr) : Addr :=
  let n := AtomType.bytes ty * 8
  let less := fun (a b : Addr) => if ty = .i32 then (a.truncate 32 : Word).slt (b.truncate 32) else decide (a.toNat < b.toNat)
  match op with
  | .add => Addr.ofNat ((old.toNat + x.toNat) % 2 ^ n)
  | .min => if less x old then x else old
  | .max => if less old x then x else old
  | .and => old &&& x
  | .or => old ||| x
  | .xor => old ^^^ x
  | .xchg => x
  | .cas => if old = c then x else old
  | .fadd => Addr.ofNat (Fmt.f32.addOp (old.toNat % 2 ^ 32) (x.toNat % 2 ^ 32)).1

/-- Park a lane until its atomic has been performed; its strand's earlier writes are performed first (R104, log 12). -/
def State.sendAtomic (s : State) (t : TRef) (th : Thread) (d : RegName) (k : AtomKind) (l : Loc) : Lane :=
  let s := s.drainStrand t.blk th.strand
  let xc := atomOperands th d k
  let r : Rmw := ⟨k.op, k.ty, l, xc.1, xc.2, archOf th.wb d, (s.issue.core, (s.core s.issue.core).cycles, s.issue.slot),
    s.issue.lanes.idxOf t⟩
  .go ((s.modThread t fun _ => { th.advance with park := some (.atomic r) }).want (.atomicRmwPerform t.blk t.tid))

/-- The checks of an atomic at issue: address, alignment, the aperture or translation, then R67 and the errors of R69. An
atomic that its scope does not reach is checked without setting DI. -/
def atomBody (g : AtomAgent) (d a : RegName) (k : AtomKind) : Body := fun s t th =>
  let n := AtomType.bytes k.ty
  let ea := th.pair a
  s.access t .probe ea n fun s l =>
    if !s.reaches g t.blk l then .trap s 0x21 0x0C ea.toNat
    else s.sealIf (k.acqrel && AtomAgent.dieUp g) t th fun s =>
      s.access t .rmw ea n fun s l =>
        match s.readError l n with
        | some (sub, page) => .trap s 0x24 sub page
        | none => s.sendAtomic t ((s.thread? t).getD th) d k l

/-- ATOMC (R304). -/
def execAtomc (d a : RegName) (k : AtomKind) (w : Width) (st : Stall) (s : State) : Host.Outcome State Fault Refusal :=
  s.run (.atomc d a k w st) st (atomBody .c d a k)

/-- ATOMQ (R304). -/
def execAtomq (d a : RegName) (k : AtomKind) (w : Width) (st : Stall) (s : State) : Host.Outcome State Fault Refusal :=
  s.run (.atomq d a k w st) st (atomBody .q d a k)

/-- ATOMD (R304). -/
def execAtomd (d a : RegName) (k : AtomKind) (w : Width) (st : Stall) (s : State) : Host.Outcome State Fault Refusal :=
  s.run (.atomd d a k w st) st (atomBody .d d a k)

/-- ATOMP (R304). -/
def execAtomp (d a : RegName) (k : AtomKind) (w : Width) (st : Stall) (s : State) : Host.Outcome State Fault Refusal :=
  s.run (.atomp d a k w st) st (atomBody .p d a k)

/-- ATOMX (R304): pod or sys scope. -/
def execAtomx (d a : RegName) (k : AtomKind) (sys : Bool) (st : Stall) (s : State) : Host.Outcome State Fault Refusal :=
  s.run (.atomx d a k sys st) st (atomBody .x d a k)

/-! ### Performing it at its agent (R67, R304) -/

/-- The old value in the result registers, with ZERO plies; the new half of a cas is unchanged (R304). -/
def Thread.atomResult (th : Thread) (r : Rmw) (old : Addr) : Thread :=
  if r.ty = .n64 then (th.result r.reg (Reg.plain (Addr.low old)) none).result (r.reg + 1) (Reg.plain (Addr.high old)) none
  else th.result r.reg (Reg.plain (Addr.low old)) none

/-- A thread whose atomic has been performed. -/
def State.atomDone (s : State) (t : TRef) (r : Rmw) (old : Addr) : State :=
  s.modThread t fun th => (th.atomResult r old).unpark

/-- One read-modify-write at the home (R304). -/
def State.performRmw (s : State) (r : Rmw) : State × Addr :=
  let n := AtomType.bytes r.ty
  let s := s.correct r.loc n
  let old := addrOf (s.homeRead r.loc n)
  (s.homeWrite r.loc (leBytes n (atomNew r.op r.ty old r.x r.c).toNat) false, old)

/-- The read-modify-write of an atomic of a block: in a copy of a doubled block it reads and overtakes what the copy has in quarantine there
(R103, R113). -/
def State.performFor (s : State) (blk : Nat) (r : Rmw) : State × Addr :=
  let n := AtomType.bytes r.ty
  let s := s.correct r.loc n
  let old := addrOf (s.inCopy blk r.loc (s.homeRead r.loc n))
  ((s.homeWrite r.loc (leBytes n (atomNew r.op r.ty old r.x r.c).toNat) false).modBlock blk fun b => b.overtaken r.loc n, old)

/-- The atomic that a thread waits for. -/
def Thread.rmw? (th : Thread) : Option Rmw := match th.park with | some (.atomic r) => some r | _ => none

/-- Does a lower lane of the same issue, of whatever strand or block, still wait for its atomic (R304)? A trailing copy performs none of
its own (R113). -/
def State.lowerLaneWaits (s : State) (r : Rmw) : Bool :=
  s.blocks.any fun b => !b.trailing && b.threads.any fun x => match x.rmw? with
    | some q => q.issue == r.issue && decide (q.rank < r.rank)
    | none => false

/-- The offset of an atomic on block memory. -/
def Rmw.offset (r : Rmw) : Option Nat := match r.loc with | .win _ off => some off | .phys _ => none

/-- The performed atomic's old value goes to the thread, and to the same thread of a trailing copy (R113, R366). -/
def State.atomReturn (s : State) (t : TRef) (r : Rmw) (old : Addr) : State :=
  let s := s.atomDone t r old
  match (s.blocks[t.blk]?).bind Block.partner with
  | some p => (s.modBlock p fun b => { b with olds := b.olds ++ [(t.tid, r.offset, [Addr.low old, Addr.high old])] }).want
      (.atomicRmwPerform p t.tid)
  | none => s

/-- The value of an atomic, at block memory, as a trailing copy forms it from the forwarded old value: each copy has its own window (log
28). At near memory the atomic overtakes what the copy has in quarantine there (R103, R113). -/
def State.copyRmw (s : State) (blk : Nat) (r : Rmw) (old : Addr) : State :=
  match r.loc with
  | .win .. => s.homeWrite r.loc (leBytes (AtomType.bytes r.ty) (atomNew r.op r.ty old r.x r.c).toNat) false
  | .phys _ => s.modBlock blk fun b => b.overtaken r.loc (AtomType.bytes r.ty)

/-- The trailing copy of a doubled block receives the forwarded old value (R113, R366), at one place of block memory in the order in which
the leading copy performed its atomics there (log 28). -/
def State.atomForwarded (s : State) (t : TRef) (r : Rmw) : State :=
  match (((s.blocks[t.blk]?).map (·.olds)).getD []).find? fun x => x.1 == t.tid || (x.2.1.isSome && x.2.1 == r.offset) with
  | some x =>
    if x.1 = t.tid then
      let old := pairVal (x.2.2.getD 0 0) (x.2.2.getD 1 0)
      (s.modBlock t.blk fun b => { b with olds := b.olds.erase x }).copyRmw t.blk r old |>.atomDone t r old
    else s
  | none => s

/-- The trailing copy's atomics that wait for their turn at a place of block memory are asked for again. -/
def State.wantForwarded (s : State) (blk : Nat) : State :=
  (((s.blocks[blk]?).map (·.olds)).getD []).foldl (fun s x => s.want (.atomicRmwPerform blk x.1)) s

/-- ATOMIC_RMW_PERFORM (R67, R304, R113): the atomic of a thread is performed at its agent, lanes of one issue lowest lane
first; of a doubled block once, by the leading copy. -/
def State.atomicPerform (s : State) (t : TRef) : State :=
  match s.thread? t with
  | none => s
  | some th => match th.rmw? with
    | none => s
    | some r =>
      if ((s.blocks[t.blk]?).map Block.trailing).getD false then (s.atomForwarded t r).wantForwarded t.blk
      else if s.lowerLaneWaits r then s
      else let x := s.performFor t.blk r; x.1.atomReturn t r x.2

/-- The atomics that a block's threads have sent are performed, lanes of one issue lowest first: those of other blocks in the same issue
before them (R304). -/
def State.finishAtomics (s : State) (blk : Nat) : State :=
  let mine := (((s.blocks[blk]?).map (·.threads)).getD []).filterMap Thread.rmw?
  let all := s.blocks.zipIdx.flatMap fun b => b.1.threads.zipIdx.filterMap fun x => match x.1.rmw? with
    | some r => if b.2 = blk || mine.any fun q => q.issue == r.issue && decide (r.rank < q.rank) then some (r.rank, TRef.mk b.2 x.2)
        else none
    | none => none
  ((all.insertionSort fun x y => x.1 ≤ y.1).map (·.2)).foldl State.atomicPerform s

/-- ATOMIC_RMW_PERFORM. -/
def execAtomicRmwPerform (blk tid : Nat) (s : State) : Host.Outcome State Fault Refusal := .next (s.atomicPerform ⟨blk, tid⟩)

end Sys2Proof.Machine
end

