-- ==== Sys2Proof/Machine/Kernel.lean ====
section
/-! DEFINITION. Code object images (R355 to R358), kernel records (R357), the kernel that an address exports (R154, R361),
and the limits of R151. -/

namespace Sys2Proof.Machine

/-- A little-endian field of n bytes at an offset of an image (R355). -/
def fieldAt (l : List Byte) (off n : Nat) : Nat := leNat ((l.drop off).take n)

/-- The bases, sizes and counts of a header (R355). -/
def Image.vbase (l : List Byte) : Nat := fieldAt l 8 8
def Image.codeSz (l : List Byte) : Nat := fieldAt l 16 4
def Image.dataSz (l : List Byte) : Nat := fieldAt l 20 4
def Image.lbase (l : List Byte) : Nat := fieldAt l 24 8
def Image.nexp (l : List Byte) : Nat := fieldAt l 32 2
def Image.nimp (l : List Byte) : Nat := fieldAt l 34 2
def Image.linkOff (l : List Byte) : Nat := fieldAt l 36 4
def Image.sigSz (l : List Byte) : Nat := fieldAt l 40 4

/-- Where the code section, the exports and the imports of an image begin (R355). -/
def Image.codeAt : Nat := 64
def Image.dataAt (l : List Byte) : Nat := 64 + Image.codeSz l
def Image.expAt (l : List Byte) : Nat := Image.dataAt l + Image.dataSz l
def Image.impAt (l : List Byte) : Nat := Image.expAt l + 16 * Image.nexp l
def Image.sigAt (l : List Byte) : Nat := Image.impAt l + 48 * Image.nimp l

/-- The 16 bytes of export entry i, and the 48 of import entry i. -/
def Image.exp (l : List Byte) (i : Nat) : List Byte := (l.drop (Image.expAt l + 16 * i)).take 16
def Image.imp (l : List Byte) (i : Nat) : List Byte := (l.drop (Image.impAt l + 48 * i)).take 48

/-- The progress class of a code (R357). -/
def classOf : Nat → ProgClass
  | 0 => .c
  | 1 => .p
  | _ => .w

/-- The kernel record at a code offset of an image (R357). -/
def Image.kernel (l : List Byte) (off : Nat) : Kernel :=
  let r := (l.drop (Image.codeAt + off)).take 64
  let f := fieldAt r
  let vb := Image.vbase l
  { entry := Addr.ofNat (vb + off + 64), code := Addr.ofNat vb, block := f 0 2, width := f 2 1, cls := classOf (f 3 1 % 4),
    bf16 := f 3 1 / 4 % 2 == 1, regs := f 4 2, d := f 6 1, plycat := Word.ofNat (f 8 4), blockmem := f 12 4, spill := f 16 2,
    trvBase := f 18 1, trvN := f 19 1, roles := (List.range 3).map fun i => (f (20 + 4 * i) 2, f (22 + 4 * i) 2),
    cspin := BitVec.ofNat 32 (f 32 4), qspin := BitVec.ofNat 16 (f 36 2), barriers := (List.range 5).map fun i => f (40 + i) 1,
    tvec := if f 48 4 = 0xFFFFFFFF then none else some (Addr.ofNat (vb + f 48 4)) }

/-- The kernel export of an image that stands at an address (R154, R356). -/
def Image.exportAt (l : List Byte) (va : Nat) : Option Kernel :=
  ((List.range (Image.nexp l)).find? fun i =>
    let e := Image.exp l i
    fieldAt e 12 1 == 1 && Image.vbase l + fieldAt e 8 4 == va).map fun _ => Image.kernel l (va - Image.vbase l)

/-- Is an address in an object's code? -/
def CodeObj.covers (o : CodeObj) (a : Nat) : Bool := Image.vbase o.image ≤ a && a < Image.vbase o.image + Image.codeSz o.image

/-- Does a partition hold a handle of an object (R361)? -/
def CodeObj.heldBy (o : CodeObj) (p : Nat) : Bool := o.handles.any fun h => h.1 == p

/-- The objects that a partition's handles reach through imports, by hash (R360, R361). -/
def reachHashes (objs : List CodeObj) : Nat → List (List Byte) → List (List Byte)
  | 0, hs => hs
  | n + 1, hs => reachHashes objs n
      (hs ++ ((objs.filter fun o => hs.contains o.hash).flatMap (·.imports)).filter fun h => !hs.contains h).dedup

/-- The objects that a partition has loaded (R361). -/
def State.loadedBy (s : State) (p : Nat) : List CodeObj :=
  let hs := reachHashes s.svc.objects s.svc.objects.length ((s.svc.objects.filter fun o => o.heldBy p).map (·.hash))
  s.svc.objects.filter fun o => hs.contains o.hash

/-- The kernel that an address names for a partition (R154, R277). -/
def State.kernelAt (s : State) (p : Nat) (va : Nat) : Option Kernel := (s.loadedBy p).findSome? fun o => Image.exportAt o.image va

/-- The object that a partition has mapped with its code at an address, by hash: no two of a partition's objects overlap (R360, R385). -/
def State.objectAt (s : State) (p va : Nat) : List (List Byte) :=
  ((s.svc.objects.find? fun o => o.mapped.contains p && o.covers va).map (·.hash)).toList

/-! ### What a block needs, and the limits (R131, R151, R53, R56) -/

/-- The roles of a block with their threads and registers, in the order of R131; a declared role's threads are whole
strands. -/
def Kernel.parts (k : Kernel) : List (Role × Nat × Nat) :=
  (Role.main, k.block, k.regs) ::
    ([Role.copy, Role.matrix, Role.epilogue].zip k.roles).filterMap fun x =>
      if x.2.1 = 0 then none else some (x.1, x.2.1 * k.width, x.2.2)

/-- The threads of a block. -/
def Kernel.threads (k : Kernel) : Nat := (k.parts.map fun x => x.2.1).sum

/-- The register cost of a block (R131). -/
def Kernel.cost (k : Kernel) : Nat := (k.parts.map fun x => x.2.1 * x.2.2 * (1 + k.d)).sum

/-- The block memory of a block, rounded up to 1 KiB (R56). -/
def Kernel.mem (k : Kernel) : Nat := (k.blockmem + 1023) / 1024 * 1024

/-- Beyond one core's limits (R151)? -/
def Kernel.tooLarge (k : Kernel) : Bool :=
  8192 < k.threads || 1048576 < k.cost || 524288 < k.mem || k.roles.any fun r => 256 < r.2

end Sys2Proof.Machine
end

