-- ==== Sys2Proof/Machine/Barrier.lean ====
section
/-! DEFINITION. Barriers (R309, R310, R158, R366): their claims, participants and phases. -/

namespace Sys2Proof.Machine

/-- The place of a level among the claims of a kernel record (R357). -/
def BarLevel.idx : BarLevel → Nat
  | .core => 0 | .quad => 1 | .die => 2 | .pkg => 3 | .pod => 4

/-- Has a block claimed a barrier (R308, R309)? -/
def State.claimed (s : State) (blk : Nat) (l : BarLevel) (id : Nat) : Bool :=
  id < ((s.kernel blk).barriers[BarLevel.idx l]?).getD 0

/-- The block whose participation stands for a block's: the leading copy at every level above core (R366). -/
def State.leadOf (s : State) (blk : Nat) (l : BarLevel) : Nat :=
  match l, (s.blocks[blk]?).map Block.copy with
  | .core, _ => blk
  | _, some (.trailing p) => p
  | _, _ => blk

/-- The leading blocks of some grids. -/
def State.blocksOf (s : State) (gs : List Nat) : List Nat :=
  (List.range s.blocks.length).filter fun k => match s.blocks[k]? with
    | some y => gs.contains y.grid && !y.trailing
    | none => false

/-- The blocks that take part in a barrier of a block, as its claim fixed them; a pod barrier's are those of the grids joined to it
(R158, R309). The pod's other packages are not part of the model (log 22). -/
def State.participants (s : State) (blk : Nat) (l : BarLevel) : List Nat :=
  let b := s.leadOf blk l
  match s.blocks[b]? with
  | none => if l = .core then [b] else []
  | some x => match l with
    | .core => [b]
    | .quad => x.claim.quad
    | .die => x.claim.die
    | .pkg => x.claim.pkg
    | .pod => s.blocksOf (((s.grids[x.grid]?).map (·.joined)).getD [])

/-- The grids joined to a block's pod barriers of which not every block has been dealt. -/
def State.undealt (s : State) (blk : Nat) (l : BarLevel) : List Grid :=
  if l = .pod then ((((s.grid? blk).map (·.joined)).getD []).filterMap fun g => s.grids[g]?).filter fun g => g.next < g.count else []

/-- The participant count (R309): threads that have exited, and those of joined grids that are still to be dealt, count. -/
def State.barCount (s : State) (blk : Nat) (l : BarLevel) : Nat :=
  ((s.participants blk l).map fun k => ((s.blocks[k]?).map (·.threads.length)).getD 0).sum +
    ((s.undealt blk l).map fun g => (g.count - g.next) * g.kernel.threads).sum

/-- A thread's phase number at a barrier (R310). -/
def Thread.phase (th : Thread) (l : BarLevel) (id : Nat) : Nat :=
  ((th.phases.find? fun x => x.1 == l && x.2.1 == id).map (·.2.2)).getD 0

/-- A thread that has arrived (R310). -/
def Thread.arrive (th : Thread) (l : BarLevel) (id : Nat) : Thread :=
  { th with phases := (l, id, th.phase l id + 1) :: th.phases.filter fun x => !(x.1 == l && x.2.1 == id) }

/-- Is phase p of a barrier complete: every participant has arrived in it or has exited (R310)? -/
def State.phaseDone (s : State) (blk : Nat) (l : BarLevel) (id p : Nat) : Bool :=
  (s.undealt blk l).isEmpty && (s.participants blk l).all fun k =>
    (((s.blocks[k]?).map (·.threads)).getD []).all fun th => !th.live || p < th.phase l id

/-- Does a wait on a barrier of this level break R146: another block of the grid is waited for outside class C? -/
def State.illegalBarWait (s : State) (blk : Nat) (l : BarLevel) : Bool :=
  let grouped := ((s.blocks[blk]?).map fun b => b.group != 0).getD false
  (s.kernel blk).cls != .c && match l with
    | .core => false
    | .quad => !grouped
    | _ => true

/-- A thread that leaves a barrier wait goes on at PC + 4. -/
def Thread.leaveBar (th : Thread) : Thread := { th.unpark.advance with barAt := none }

/-- The wait on phase p: at once, or parked (R310). It is a seal of a doubled block (R368). -/
def State.barWait (s : State) (t : TRef) (th : Thread) (l : BarLevel) (id p : Nat) : Lane :=
  s.sealGate t th fun s =>
    if s.phaseDone t.blk l id p then .go (s.modThread t Thread.leaveBar) else .go (s.parkAt t (.barrier l id p))

/-- BARARR (R310). -/
def execBararr (d : RegName) (l : BarLevel) (imm : BitVec 9) (st : Stall) (s : State) : Host.Outcome State Fault Refusal :=
  s.run (.bararr d l imm st) st fun s t th =>
    if !s.claimed t.blk l imm.toNat then .trap s 0x30 0x02 0
    else .next ((s.releaseSide t th).modThread t fun th =>
      (giveOne d (Word.ofNat (s.barCount t.blk l)) th).arrive l imm.toNat)

/-- BARWAIT (R310): waits for the phase before the thread's own; at once where it has not arrived yet. -/
def execBarwait (l : BarLevel) (imm : BitVec 9) (st : Stall) (s : State) : Host.Outcome State Fault Refusal :=
  s.run (.barwait l imm st) st fun s t th =>
    if !s.claimed t.blk l imm.toNat then .trap s 0x30 0x02 0
    else if s.illegalBarWait t.blk l then .trap s 0x30 0x01 0
    else match th.phase l imm.toNat with
      | 0 => s.sealGate t th fun s => .go (s.modThread t Thread.leaveBar)
      | p + 1 => s.barWait t th l imm.toNat p

/-- BAR (R310): an arrival, counted once, then the wait. -/
def execBar (d : RegName) (l : BarLevel) (imm : BitVec 9) (st : Stall) (s : State) : Host.Outcome State Fault Refusal :=
  s.run (.bar d l imm st) st fun s t th =>
    if !s.claimed t.blk l imm.toNat then .trap s 0x30 0x02 0
    else if s.illegalBarWait t.blk l then .trap s 0x30 0x01 0
    else if th.barAt == some th.pc then s.barWait t th l imm.toNat (th.phase l imm.toNat - 1)
    else
      let th' := { (giveOne d (Word.ofNat (s.barCount t.blk l)) th).arrive l imm.toNat with barAt := some th.pc }
      ((s.releaseSide t th).modThread t fun _ => th').barWait t th' l imm.toNat (th.phase l imm.toNat)

/-- Every thread of a core parked at a barrier whose phase has completed goes on. -/
def State.settleBarriers (s : State) (t : TRef) : State :=
  match (s.thread? t).bind (·.park) with
  | some (.barrier l id p) => if s.phaseDone t.blk l id p then s.modThread t Thread.leaveBar else s
  | _ => s

end Sys2Proof.Machine
end

