-- ==== Sys2Proof/Machine/Hash.lean ====
section
/-! DEFINITION. The two standard functions that R359 names: SHAKE256 (FIPS 202), and the verification of SLH-DSA-SHAKE-256s in its
pure form (FIPS 205: n = 32, h = 64, d = 8, a = 14, k = 22, w = 16). The spec names them and does not write them out (log 7). -/

namespace Sys2Proof.Machine

/-! ### SHAKE256 -/

/-- Bytes from a number, the most significant first, and back. -/
def beBytes (n v : Nat) : List Byte := (List.range n).map fun i => BitVec.ofNat 8 (v / 2 ^ (8 * (n - 1 - i)))
def beNat (l : List Byte) : Nat := l.foldl (fun a b => a * 256 + b.toNat) 0

/-- The 25 lanes of Keccak-f[1600]; lane x + 5y. -/
abbrev Lanes := List (BitVec 64)

/-- One lane. -/
def Lanes.at_ (l : Lanes) (i : Nat) : BitVec 64 := l.getD i 0

/-- The rotations of ρ, by lane. -/
def keccakRot : List Nat := [0, 1, 62, 28, 27, 36, 44, 6, 55, 20, 3, 10, 43, 25, 39, 41, 45, 15, 21, 8, 18, 2, 61, 56, 14]

/-- The round constants of ι. -/
def keccakRc : List (BitVec 64) :=
  [0x0000000000000001, 0x0000000000008082, 0x800000000000808A, 0x8000000080008000, 0x000000000000808B, 0x0000000080000001,
   0x8000000080008081, 0x8000000000008009, 0x000000000000008A, 0x0000000000000088, 0x0000000080008009, 0x000000008000000A] ++
  [0x000000008000808B, 0x800000000000008B, 0x8000000000008089, 0x8000000000008003, 0x8000000000008002, 0x8000000000000080,
   0x000000000000800A, 0x800000008000000A, 0x8000000080008081, 0x8000000000008080, 0x0000000080000001, 0x8000000080008008]

/-- θ: every lane takes the parities of two columns. -/
def keccakTheta (l : Lanes) : Lanes :=
  let c := (List.range 5).map fun x => (List.range 5).foldl (fun a y => a ^^^ l.at_ (x + 5 * y)) 0
  let d := (List.range 5).map fun x => Lanes.at_ c ((x + 4) % 5) ^^^ (Lanes.at_ c ((x + 1) % 5)).rotateLeft 1
  (List.range 25).map fun i => l.at_ i ^^^ Lanes.at_ d (i % 5)

/-- ρ and π: lane (x, y) rotated goes to (y, 2x + 3y). -/
def keccakRhoPi (l : Lanes) : Lanes := (List.range 25).map fun i =>
  let j := (i % 5 + 3 * (i / 5)) % 5 + 5 * (i % 5)
  (l.at_ j).rotateLeft (keccakRot.getD j 0)

/-- χ. -/
def keccakChi (l : Lanes) : Lanes := (List.range 25).map fun i =>
  l.at_ i ^^^ (~~~(l.at_ (5 * (i / 5) + (i + 1) % 5)) &&& l.at_ (5 * (i / 5) + (i % 5 + 2) % 5))

/-- The 24 rounds. -/
def keccakF (l : Lanes) : Lanes := keccakRc.foldl (fun l rc =>
  let m := keccakChi (keccakRhoPi (keccakTheta l))
  m.set 0 (m.at_ 0 ^^^ rc)) l

/-- The bytes of a block, as lanes. -/
def lanesOf (b : List Byte) : Lanes := (List.range 25).map fun i =>
  (List.range 8).foldl (fun a j => a ||| ((b.getD (8 * i + j) 0).zeroExtend 64) <<< (8 * j)) 0

/-- The first 136 bytes of a state. -/
def laneBytes (l : Lanes) : List Byte := (List.range 136).map fun i => (l.at_ (i / 8)).extractLsb' (8 * (i % 8)) 8

/-- Absorb n blocks of 136 bytes. -/
def keccakAbsorb : Nat → List Byte → Lanes → Lanes
  | 0, _, l => l
  | n + 1, b, l => keccakAbsorb n (b.drop 136) (keccakF ((l.zip (lanesOf (b.take 136))).map fun x => x.1 ^^^ x.2))

/-- The padded message of SHAKE256: 0x1F, zeros, and 0x80 in the last byte of a block. -/
def shakePad (b : List Byte) : List Byte :=
  let n := b.length % 136
  if n = 135 then b ++ [0x9F] else b ++ [0x1F] ++ List.replicate (134 - n) 0 ++ [0x80]

/-- SHAKE256 with an output of at most 136 bytes (R359). -/
def shake256 (n : Nat) (b : List Byte) : List Byte :=
  (laneBytes (keccakAbsorb (b.length / 136 + 1) (shakePad b) (List.replicate 25 0))).take n

/-! ### SLH-DSA-SHAKE-256s -/

/-- An address: layer, tree, type, key pair, chain or height, hash or index. -/
structure SlhAdrs where
  layer : Nat
  tree : Nat
  type : Nat
  pair : Nat
  height : Nat
  index : Nat
  deriving DecidableEq, Repr

/-- The 32 bytes of an address. -/
def SlhAdrs.bytes (a : SlhAdrs) : List Byte :=
  beBytes 4 a.layer ++ beBytes 12 a.tree ++ beBytes 4 a.type ++ beBytes 4 a.pair ++ beBytes 4 a.height ++ beBytes 4 a.index

/-- F, H and T of the SHAKE instance: the hash of the public seed, an address and a message. -/
def slhHash (seed : List Byte) (a : SlhAdrs) (m : List Byte) : List Byte := shake256 32 (seed ++ a.bytes ++ m)

/-- The first n digits of b bits of a byte string. -/
def slhDigits (x : List Byte) (b n : Nat) : List Nat :=
  (List.range n).map fun i => beNat x / 2 ^ (8 * x.length - b * (i + 1)) % 2 ^ b

/-- The node that an authentication path leads to: `index` is the address's index of the leaf. -/
def slhRoot (seed : List Byte) (a : SlhAdrs) (idx : Nat) : List (List Byte) → Nat → List Byte → List Byte
  | [], _, node => node
  | x :: r, j, node =>
    let a := { a with height := j + 1, index := a.index / 2 }
    slhRoot seed a idx r (j + 1) (slhHash seed a (if idx / 2 ^ j % 2 = 0 then node ++ x else x ++ node))

/-- A signature part, cut into strings of n = 32 bytes. -/
def slhCut (b : List Byte) (from_ n : Nat) : List (List Byte) := (List.range n).map fun i => (b.drop (32 * (from_ + i))).take 32

/-- The FORS public key of a signature of 22 trees of height 14. -/
def slhFors (seed : List Byte) (a : SlhAdrs) (sig md : List Byte) : List Byte :=
  let roots := (slhDigits md 14 22).zipIdx.map fun x =>
    let a := { a with height := 0, index := x.2 * 2 ^ 14 + x.1 }
    slhRoot seed a x.1 (slhCut sig (15 * x.2 + 1) 14) 0 (slhHash seed a ((sig.drop (32 * 15 * x.2)).take 32))
  slhHash seed { a with type := 4, height := 0, index := 0 } roots.flatten

/-- A WOTS+ chain from step i, s steps long. -/
def slhChain (seed : List Byte) (a : SlhAdrs) : Nat → Nat → List Byte → List Byte
  | 0, _, x => x
  | s + 1, i, x => slhChain seed a s (i + 1) (slhHash seed { a with index := i } x)

/-- The WOTS+ public key of a signature of 67 strings. -/
def slhWots (seed : List Byte) (a : SlhAdrs) (sig m : List Byte) : List Byte :=
  let msg := slhDigits m 4 64
  let sum := (msg.map fun x => 15 - x).sum
  let all := msg ++ slhDigits (beBytes 2 (sum * 16)) 4 3
  let ends := all.zipIdx.map fun x => slhChain seed { a with height := x.2 } (15 - x.1) x.1 ((sig.drop (32 * x.2)).take 32)
  slhHash seed { a with type := 1, height := 0, index := 0 } ends.flatten

/-- The root of an XMSS tree of height 8 from a signature of a message. -/
def slhXmss (seed : List Byte) (layer tree idx : Nat) (sig m : List Byte) : List Byte :=
  slhRoot seed ⟨layer, tree, 2, 0, 0, idx⟩ idx (slhCut sig 67 8) 0 (slhWots seed ⟨layer, tree, 0, idx, 0, 0⟩ sig m)

/-- The root of the hypertree of 8 layers from a signature, layer by layer. -/
def slhHyper (seed sig : List Byte) : Nat → Nat → Nat → Nat → List Byte → List Byte
  | 0, _, _, _, m => m
  | n + 1, layer, tree, idx, m =>
    slhHyper seed sig n (layer + 1) (tree / 256) (tree % 256) (slhXmss seed layer tree idx (sig.drop (2400 * layer)) m)

/-- The verification of a signature of a message, with the empty context (R359): the public key is the seed and the root. -/
def slhVerify (key message sig : List Byte) : Bool :=
  let seed := key.take 32
  let root := key.drop 32
  let digest := shake256 47 (sig.take 32 ++ seed ++ root ++ [0, 0] ++ message)
  let tree := beNat ((digest.drop 39).take 7)
  let leaf := beNat (digest.drop 46)
  let pk := slhFors seed ⟨0, tree, 3, leaf, 0, 0⟩ (sig.drop 32) (digest.take 39)
  key.length == 64 && sig.length == 29792 && slhHyper seed (sig.drop 10592) 8 0 tree leaf pk == root

end Sys2Proof.Machine
end

