-- ==== Sys2Proof/Machine/Raster.lean ====
section
/-! DEFINITION. The rasteriser as functions of a draw (R198, R199, R200, R345, R346): screen positions, coverage, the affine
attributes with their plies, and the pixels of a primitive in a screen tile. -/

namespace Sys2Proof.Machine

/-- Word i of a draw's octet. -/
def Draw.word (d : Draw) (i : Nat) : Word := d.oct.getD i 0

/-- Does an octet name a layer target (R345)? -/
def drawLayers (oct : List Word) : Bool := (oct.getD 3 0).bit 8

/-- Width and height in pixels, and log2 of the sample count (R345). -/
def Draw.width (d : Draw) : Nat := (d.word 4).field 0 16
def Draw.height (d : Draw) : Nat := (d.word 4).field 16 16
def Draw.log2Samples (d : Draw) : Nat := (d.word 3).field 0 2

/-- Address i of the draw record. -/
def Draw.addr (d : Draw) (i : Nat) : Nat := (d.record.getD i 0).toNat

/-- The sample positions of R200, in 1/16 pixel. -/
def samplePos : Nat → List (Nat × Nat)
  | 0 => [(8, 8)]
  | 1 => [(5, 10), (11, 6)]
  | 2 => [(3, 5), (11, 1), (7, 13), (15, 9)]
  | _ => [(1, 9), (3, 3), (5, 13), (7, 7), (9, 15), (11, 1), (13, 11), (15, 5)]

/-- A value rounded to nearest, as an integer; none for one that is not finite. -/
def Val.nearest : Val → Option Int
  | .fin n m e => let r := (roundAt .rne n m 1 e 0).1; some (if n then -(r : Int) else r)
  | _ => none

/-- A screen coordinate in 1/256 pixel (R346, R200): RNE(RNE(RNE(x / w) + 1) × 0.5 × size), snapped. -/
def screenCoord (x w : Word) (size : Nat) : Option Int :=
  let c := rne32 ((f32v (add32 (div32 x w) 0x3F800000)).mul (.fin false size (-1)))
  ((f32v c).mul (.fin false 1 8)).nearest

/-- A primitive set up: its vertices' snapped positions, turned so that the area is positive, their depths and attributes,
and twice its area in 1/65536 pixel. -/
structure Tri where
  x : List Int
  y : List Int
  z : List Word
  attrs : List (List Reg)
  area : Int
  deriving DecidableEq, Repr

/-- Coordinate i. -/
def atI (l : List Int) (i : Nat) : Int := l.getD i 0

/-- Twice the signed area of three points; positive for a clockwise triangle on a screen whose rows run down. -/
def area2 (x y : List Int) : Int :=
  (atI x 1 - atI x 0) * (atI y 2 - atI y 0) - (atI y 1 - atI y 0) * (atI x 2 - atI x 0)

/-- Exchange the last two of three. -/
def turn {α : Type} : List α → List α
  | [a, b, c] => [a, c, b]
  | l => l

/-- A primitive set up; none where it is dropped or has no area (R346). -/
def Draw.tri (d : Draw) (p : Prim) : Option Tri :=
  let v := fun (i : Nat) => p.verts.getD i []
  let word := fun (i k : Nat) => ((v i).getD k (Reg.plain 0)).val
  let pos := (List.range 3).filterMap fun i =>
    if Val.zero.lt (f32v (word i 3)) then
      match screenCoord (word i 0) (word i 3) d.width, screenCoord (word i 1) (word i 3) d.height with
      | some x, some y => if x.natAbs ≤ 2 ^ 23 && y.natAbs ≤ 2 ^ 23 then some (x, y) else none
      | _, _ => none
    else none
  if p.verts.length ≠ 3 || pos.length ≠ 3 then none
  else
    let x := pos.map (·.1)
    let y := pos.map (·.2)
    let a := area2 x y
    let front := if p.flags / 2 % 2 = 1 then 0 < a else a < 0
    let z := (List.range 3).map fun i => div32 (word i 2) (word i 3)
    let attrs := (List.range 3).map fun i => (v i).drop 4
    if a = 0 || (p.flags % 2 = 1 && !front) then none
    else if 0 < a then some ⟨x, y, z, attrs, a⟩
    else some ⟨turn x, turn y, turn z, turn attrs, -a⟩

/-- The edge function from vertex i to vertex j at a point in 1/256 pixel (R200). -/
def Tri.edge (t : Tri) (i j : Nat) (px py : Int) : Int :=
  (atI t.x j - atI t.x i) * (py - atI t.y i) - (atI t.y j - atI t.y i) * (px - atI t.x i)

/-- Is the edge from i to j a top or a left edge (R200)? -/
def Tri.topLeft (t : Tri) (i j : Nat) : Bool :=
  (atI t.y i == atI t.y j && atI t.x i < atI t.x j) || atI t.y j < atI t.y i

/-- Is a point inside an edge? -/
def Tri.inside (t : Tri) (px py : Int) (e : Nat × Nat) : Bool :=
  0 < t.edge e.1 e.2 px py || (t.edge e.1 e.2 px py == 0 && t.topLeft e.1 e.2)

/-- The weights of the vertices at a point, over the area. -/
def Tri.weights (t : Tri) (px py : Int) : List Int := [t.edge 1 2 px py, t.edge 2 0 px py, t.edge 0 1 px py]

/-- What the weights grow by in one pixel to the right, and in one pixel down. -/
def Tri.weightsX (t : Tri) : List Int :=
  [256 * (atI t.y 1 - atI t.y 2), 256 * (atI t.y 2 - atI t.y 0), 256 * (atI t.y 0 - atI t.y 1)]
def Tri.weightsY (t : Tri) : List Int :=
  [256 * (atI t.x 2 - atI t.x 1), 256 * (atI t.x 0 - atI t.x 2), 256 * (atI t.x 1 - atI t.x 0)]

/-- The exact sum of three values under weights. -/
def weighted (w : List Int) (v : List Word) : Val :=
  (w.zip v).foldl (fun s x => s.add ((Val.ofInt x.1 0).mul (f32v x.2))) Val.zero

/-- A weighted sum over the area, rounded once. -/
def Tri.affine (t : Tri) (w : List Int) (v : List Word) : Word :=
  Word.ofNat (Fmt.f32.div (weighted w v) (Val.ofInt t.area 0)).1

/-- Is a sample covered: inside every edge, with a depth in 0 … 1 (R200, R346)? -/
def Tri.covers (t : Tri) (px py : Int) : Bool :=
  [(0, 1), (1, 2), (2, 0)].all (t.inside px py) &&
    (let z := weighted (t.weights px py) t.z
     !z.isNan && !z.lt Val.zero && !(Val.ofInt t.area 0).lt z)

/-- The coverage mask of a pixel. -/
def Draw.cover (d : Draw) (t : Tri) (x y : Nat) : Nat :=
  ((samplePos d.log2Samples).zipIdx.map fun p =>
    if t.covers (256 * x + 16 * p.1.1) (256 * y + 16 * p.1.2) then 2 ^ p.2 else 0).sum

/-- The tiles of 32 × 32 pixels in a row of the screen (R199). -/
def Draw.tilesAcross (d : Draw) : Nat := (d.width + 31) / 32

/-- The covered pixels of a primitive in a tile, row-major: x, y and mask (R199). -/
def Draw.pixels (d : Draw) (t : Tri) (tile : Nat) : List (Nat × Nat × Nat) :=
  (List.range 1024).filterMap fun i =>
    let x := tile % d.tilesAcross * 32 + i % 32
    let y := tile / d.tilesAcross * 32 + i / 32
    if x < d.width && y < d.height && d.cover t x y != 0 then some (x, y, d.cover t x y) else none

/-- The tiles that a primitive's bounding box touches (R199): none where it lies wholly off the screen. -/
def Draw.boxTiles (d : Draw) (t : Tri) : List Nat :=
  let lo := fun (l : List Int) => (l.foldl min (atI l 0) / 8192).toNat
  let past := fun (l : List Int) (n : Nat) => min (l.foldl max (atI l 0) / 8192 + 1).toNat ((n - 1) / 32 + 1)
  (List.range (past t.y d.height - lo t.y)).flatMap fun j => (List.range (past t.x d.width - lo t.x)).map fun i =>
    (lo t.y + j) * d.tilesAcross + (lo t.x + i)

/-- The screen tiles with a primitive in their bin, ascending. -/
def Draw.tiles (d : Draw) : List Nat := (d.prims.flatMap fun p => ((d.tri p).map d.boxTiles).getD []).foldl (fun l t => insertUp t l) []

/-- An interpolated value with its plies (R198): the value at the pixel's centre, the coefficients of its plane, and the t
partial interpolated likewise; where neither sx nor sy is declared the register is ZERO, and holds no t partial (log 92). -/
def seeded (k : Kernel) (t : Tri) (x y : Nat) (v : List Reg) : Reg :=
  let code := fun (i : Nat) => k.plycat.field (4 * i) 4
  let w := t.weights (256 * x + 128) (256 * y + 128)
  let val := t.affine w (v.map (·.val))
  if (List.range k.d).any fun i => code i == 0 || code i == 1 then
    ⟨val, .live, false, partsOf k.d fun i => match code i with
      | 0 => t.affine t.weightsX (v.map (·.val))
      | 1 => t.affine t.weightsY (v.map (·.val))
      | 2 => t.affine w (v.map fun r => r.part 0)
      | _ => 0⟩
  else Reg.plain val

/-- The primitive of a number. -/
def Draw.prim (d : Draw) (n : Nat) : Option Prim := d.prims.find? fun p => p.num == some n

/-- The fragment's own screen position with its seeds: ∂sx/∂sx = ∂sy/∂sy = 1 (R198, log 62). -/
def positionReg (k : Kernel) (x y : Nat) : Reg :=
  let code := fun (i : Nat) => k.plycat.field (4 * i) 4
  let v := Word.ofNat (x + 65536 * y)
  if (List.range k.d).any fun i => code i == 0 || code i == 1 then
    ⟨v, .live, false, partsOf k.d fun i => if code i == 0 || code i == 1 then 0x3F800000 else 0⟩
  else Reg.plain v

/-- A fragment thread's registers at its first instruction (R345, R198). -/
def Thread.seed (th : Thread) (k : Kernel) (t : Tri) (prim x y cov : Nat) : Thread :=
  let th := (((th.setReg 4 (positionReg k x y)).setReg 5 (Reg.plain (Word.ofNat prim))).setReg 6
    (Reg.plain (Word.ofNat cov))).setReg 7 (seeded k t x y (t.z.map Reg.plain))
  (List.range 4).foldl (fun th i => th.setReg (8 + i) (seeded k t x y (t.attrs.map fun a => a.getD i (Reg.plain 0)))) th

/-- The fragment threads of block `num` of a fragment grid (R199): the covered pixels in lane order, the other lanes
absent. -/
def State.fragThreads (s : State) (g : Grid) (gi num : Nat) (ths : List Thread) : List Thread :=
  match g.draw with
  | some (di, true) =>
    match s.draws[di]? with
    | none => []
    | some d => match d.frags.find? fun f => f.1 == gi with
      | none => []
      | some (_, tile, prim) => match (d.prim prim).bind d.tri with
        | none => []
        | some t => (ths.zip ((d.pixels t tile).drop (g.kernel.width * num))).map fun x =>
            { x.1.seed g.kernel t prim x.2.1 x.2.2.1 x.2.2.2 with frag := some ⟨di, x.2.1, x.2.2.1, prim, x.2.2.2, []⟩ }
  | _ => ths

end Sys2Proof.Machine
end

