-- ==== Sys2Proof/Machine/Grid.lean ====
section
/-! DEFINITION. Grids: the dispatch queues (R155, R156), room and the deal rule (R157, R365), the placement of strands
(R132), and the start of a block (R56, R130, R131, R154, R47, R49). -/

namespace Sys2Proof.Machine

/-! ### Room on a core (R157) -/

/-- What blocks hold on a core: threads, registers, block memory, core spindles, whether core barriers are claimed, and for a restore the
stream contexts (R160). -/
structure Use where
  threads : Nat
  regs : Nat
  mem : Nat
  spins : BitVec 32
  bars : Bool
  ctx : Nat
  deriving DecidableEq, Repr

/-- Nothing held. -/
def Use.none : Use := ⟨0, 0, 0, 0, false, 0⟩

/-- The core spindles and barriers that a kernel claims. -/
def Kernel.bars (k : Kernel) : Bool := 0 < (k.barriers[0]?).getD 0

/-- One more block of a kernel, with the stream contexts that it brings back from its frame. -/
def Use.add (u : Use) (k : Kernel) (x : Nat) : Use :=
  ⟨u.threads + k.threads, u.regs + k.cost, u.mem + k.mem, u.spins ||| k.cspin, u.bars || Kernel.bars k, u.ctx + x⟩

/-- Does a block of a kernel fit, with some stream contexts (R157, R53, R306, R309, R160)? -/
def Use.fits (u : Use) (k : Kernel) (x : Nat) : Bool :=
  u.ctx + x ≤ max 64 u.ctx &&
  u.threads + k.threads ≤ 8192 && u.regs + k.cost ≤ 1048576 && u.mem + k.mem ≤ 524288 && (u.spins &&& k.cspin) == 0#32 &&
    !(u.bars && Kernel.bars k)

/-- The core whose room a block holds: the core it stands on, or while it is saved the core reserved for it (R157). -/
def Block.holds (b : Block) (core : Nat) : Bool :=
  match b.place with
  | .onCore c => c == core
  | .saved _ _ => b.homeCore == core
  | .ended => false

/-- What is held on a core. -/
def State.use (s : State) (core : Nat) : Use :=
  s.blocks.foldl (fun u b => if b.holds core then match s.grids[b.grid]? with
    | some g => u.add g.kernel 0
    | none => u else u) Use.none

/-- What is held on every core. -/
def State.uses (s : State) : List Use := (List.range 72).map s.use

/-- Is there room on a core for a block of a kernel with x stream contexts? -/
def roomAt (us : List Use) (k : Kernel) (x c : Nat) : Bool := ((us[c]?).map fun u => u.fits k x).getD false

/-! ### The deal rule (R157, R365) -/

/-- The first logical core with room, from one on, in ascending order modulo N. -/
def dealCore (cores : List Nat) (us : List Use) (k : Kernel) (start x : Nat) : Option Nat :=
  ((List.range cores.length).map fun i => (cores[(start + i) % cores.length]?).getD 72).find? (roomAt us k x)

/-- The lowest logical core with room in a quad other than one (R365). -/
def trailCore (cores : List Nat) (us : List Use) (k : Kernel) (quad x : Nat) : Option Nat :=
  cores.find? fun c => c / 4 != quad && roomAt us k x c

/-- The quad spindles that stand in a quad (R306). -/
def State.quadSpins (s : State) (quad : Nat) : List Nat :=
  (s.qspindles.filter fun q => s.blocks.any fun b =>
    b.grid == q.grid && b.group == q.group && !b.trailing && b.homeCore / 4 == quad && b.place != .ended).map (·.id)

/-- The quad spindles that a kernel claims. -/
def Kernel.quadIds (k : Kernel) : List Nat := (List.range 16).filter k.qspin.getLsbD

/-- The cores of a partition in a quad. -/
def quadCores (cores : List Nat) (quad : Nat) : List Nat := cores.filter fun c => c / 4 == quad

/-- The cores on which the blocks of a group of a grid with groups of size G stand in a quad, if it has room there; xs are the stream
contexts of the blocks. -/
def quadRoom (cores : List Nat) (us : List Use) (taken : Nat → List Nat) (k : Kernel) (g : Nat) (xs : List Nat) (quad : Nat) :
    Option (List Nat) :=
  let cs := (quadCores cores quad).take xs.length
  if g ≤ (quadCores cores quad).length && (cs.zip xs).all (fun y => roomAt us k y.2 y.1) && k.quadIds.all fun i => !(taken quad).contains i then some cs
  else none

/-- The quads of a partition that hold at least G of its cores, ascending. -/
def quadsOf (cores : List Nat) (g : Nat) : List Nat :=
  (List.range 18).filter fun q => g ≤ (quadCores cores q).length

/-- The cores for group j: the next quad in the deal with room; a trailing group goes to another quad than the leading one
(R157, R365, log 29). -/
def dealGroup (cores : List Nat) (us : List Use) (taken : Nat → List Nat) (k : Kernel) (g : Nat) (xs : List Nat) (j : Nat)
    (avoid : Option Nat) : Option (List Nat) :=
  let qs := quadsOf cores g
  ((List.range qs.length).map fun i => (qs[(j + i) % qs.length]?).getD 18).findSome? fun q =>
    if avoid = some q then none else quadRoom cores us taken k g xs q

/-- One more block of a kernel on a core. -/
def occupy (us : List Use) (k : Kernel) (x c : Nat) : List Use := us.modify c fun u => u.add k x

/-- Some more blocks on some cores. -/
def occupyAll (us : List Use) (k : Kernel) (cs xs : List Nat) : List Use := (cs.zip xs).foldl (fun u y => occupy u k y.2 y.1) us

/-- What the blocks with some numbers need: whether block n needs a place, with the stream contexts of its leading and its trailing copy. -/
abbrev Need := Nat → Option (Nat × Nat)

/-- The stream contexts of the leading, and of the trailing copies of some blocks. -/
def Need.lead (need : Need) (n : Nat) : Nat := ((need n).getD (0, 0)).1
def Need.trail (need : Need) (n : Nat) : Nat := ((need n).getD (0, 0)).2

/-- One placed unit: the block numbers with their cores, and the same for the trailing copies. -/
structure Placed where
  lead : List (Nat × Nat)
  trail : List (Nat × Nat)
  deriving DecidableEq, Repr

/-- The cores of a placed unit, in the order in which its blocks start. -/
def Placed.cores (p : Placed) : List Nat := (p.lead ++ p.trail).map (·.2)

/-- No quad has a quad spindle taken: a trailing group claims none, its operations follow the leading one's (R366). -/
def noneTaken (_ : Nat) : List Nat := []

/-- Place some blocks of one quad group, and the trailing copies in another quad. -/
def placeGroup (cores : List Nat) (us : List Use) (taken : Nat → List Nat) (k : Kernel) (quad : Nat) (bs : List Nat) (doubled : Bool)
    (need : Need) : Option Placed :=
  let j := bs.headD 0 / quad
  match dealGroup cores us taken k quad (bs.map need.lead) j none with
  | none => none
  | some cs =>
    if doubled then
      (dealGroup cores (occupyAll us k cs (bs.map need.lead)) noneTaken k quad (bs.map need.trail) j ((cs.head?).map (· / 4))).map fun ts =>
        ⟨bs.zip cs, bs.zip ts⟩
    else some ⟨bs.zip cs, []⟩

/-- The blocks of the unit that starts at block b: one block, or one quad group. -/
def unitSize (quad count b : Nat) : Nat := if quad = 0 then 1 else min quad (count - b)

/-- Place the unit of a grid that starts at block b: those of its blocks that need a place. -/
def placeUnit (cores : List Nat) (us : List Use) (taken : Nat → List Nat) (k : Kernel) (quad count b : Nat) (doubled : Bool)
    (need : Need) : Option Placed :=
  let bs := ((List.range (unitSize quad count b)).map (· + b)).filter fun n => (need n).isSome
  if bs.isEmpty then some ⟨[], []⟩
  else if quad = 0 then
    match dealCore cores us k (if cores.isEmpty then 0 else b % cores.length) (need.lead b) with
    | none => none
    | some c =>
      if doubled then (trailCore cores (occupy us k (need.lead b) c) k (c / 4) (need.trail b)).map fun t => ⟨[(b, c)], [(b, t)]⟩
      else some ⟨[(b, c)], []⟩
  else placeGroup cores us taken k quad bs doubled need

/-- Place every unit from block b on; none if one does not fit. `taken` grows by the quads that a group takes. -/
def placeAll (cores : List Nat) (k : Kernel) (quad count : Nat) (doubled : Bool) (need : Need) :
    Nat → List Use → (Nat → List Nat) → Nat → Option (List Placed)
  | 0, _, _, _ => some []
  | n + 1, us, taken, b =>
    if count ≤ b then some []
    else match placeUnit cores us taken k quad count b doubled need with
      | none => none
      | some p =>
        let us' := occupyAll us k p.cores (p.lead.map (fun y => need.lead y.1) ++ p.trail.map fun y => need.trail y.1)
        let taken' := fun q => if quad != 0 && p.lead.any fun c => c.2 / 4 == q then taken q ++ k.quadIds else taken q
        (placeAll cores k quad count doubled need n us' taken' (b + unitSize quad count b)).map (p :: ·)

/-- Every block of a grid needs a place, and brings no stream context. -/
def everyBlock : Need := fun _ => some (0, 0)

/-- A C grid that cannot be placed even on the partition's empty cores (R157). -/
def State.notCoResident (s : State) (p : Nat) (k : Kernel) (quad count : Nat) (doubled : Bool) : Bool :=
  k.cls == .c &&
    (placeAll (s.part p).cores k quad count doubled everyBlock count (List.replicate 72 Use.none) (fun _ => []) 0).isNone

/-! ### The start of a block -/

/-- The live threads of a core, as slot and lane position. -/
def State.positions (s : State) (core : Nat) : List (Nat × Nat) :=
  (s.blocks.filter fun b => b.place == .onCore core).flatMap fun b => b.threads.filterMap fun th =>
    if th.live && !th.filed then (b.strands[th.strand]?).map fun k => (k.slot, k.off + th.lane) else none

/-- The least index below n of the least value of f. -/
def argMin (f : Nat → Nat) (n : Nat) : Nat :=
  (List.range n).foldl (fun best i => if f i < f best then i else best) 0

/-- The slot that holds the fewest threads, and in it the lane offset that the fewest occupy (R132). -/
def pickSlot (pos : List (Nat × Nat)) (w : Nat) : Nat × Nat :=
  let slot := argMin (fun i => pos.countP fun p => p.1 == i) 16
  let o := argMin (fun i => pos.countP fun p => p.1 == slot && w * i ≤ p.2 && p.2 < w * i + w) (64 / w)
  (slot, w * o)

/-- The offset chosen within a given slot (R142). -/
def pickOffset (pos : List (Nat × Nat)) (slot w : Nat) : Nat :=
  w * argMin (fun i => pos.countP fun p => p.1 == slot && w * i ≤ p.2 && p.2 < w * i + w) (64 / w)

/-- Trap registers at a thread's first instruction: the handler of .trap (R214, R357). -/
def TrapRegs.start (k : Kernel) : TrapRegs :=
  ⟨false, 0, 0, 0, 0, 0, 0, ((k.tvec.map fun v => v.truncate 48).getD 0)⟩

/-- A thread at its kernel's entry, with every register 0 (R154). -/
def Thread.start (k : Kernel) (role : Role) (strand lane regs : Nat) : Thread :=
  { role := role, strand := strand, lane := lane, live := true, filed := false, pc := k.entry, wb := 0,
    regs := List.replicate regs (Reg.plain 0), pend := [], stall := 0, spills := [], trap := TrapRegs.start k, fpctl := 0,
    fpflags := 0, plystride := 4, chk := false, park := none, yield := 0, age := 0, starve := 0, hang := 0, overflow := [],
    trvCount := 0, trvRestart := false, phases := [], cv := none, frag := none, sig := 0, recs := 0, sealed := false,
    barAt := none, word := 0, walk := none, again := false, acq := [], table := [] }

/-- A thread that is sure of all that a memory holds (R114, log 65). -/
def Thread.sureOf (th : Thread) (m : List Host.Cell) : Thread := { th with acq := m }

/-- v2:2 holds the parameter block address at the first instruction (R154); beyond the allocation it is discarded (R231). -/
def Thread.withParam (th : Thread) (p : Addr) : Thread :=
  (th.setReg 2 (Reg.plain (Addr.low p))).setReg 3 (Reg.plain (Addr.high p))

/-- A strand as it starts. -/
def Strand.start (role : Role) (slot off : Nat) : Strand :=
  { Strand.blank with role := role, slot := slot, off := off, live := true, opq := List.replicate 8 [] }

/-- A strand that executes from some code objects (R385). -/
def Strand.holding (k : Strand) (hs : List (List Byte)) : Strand := { k with holds := hs }

/-- The strands that a block's threads form: role, first thread's offset in the role, thread count, registers. -/
def Kernel.strandPlan (k : Kernel) : List (Role × Nat × Nat) :=
  k.parts.flatMap fun x =>
    (List.range ((x.2.1 + k.width - 1) / k.width)).map fun i => (x.1, min k.width (x.2.1 - i * k.width), x.2.2)

/-- Place the strands of a block one at a time (R132). -/
def placeStrands (w : Nat) : List (Nat × Nat) → List (Role × Nat × Nat) → List (Nat × Nat)
  | _, [] => []
  | pos, x :: r =>
    let so := pickSlot pos w
    so :: placeStrands w (pos ++ (List.range x.2.1).map fun i => (so.1, so.2 + i)) r

/-! ### The pool of pinned near frames (R54, R62, R217) -/

/-- The number of a local frame among the pages of the pod (log 15). -/
def State.podPage (s : State) (frame : Nat) : Nat := s.pkg.toNat * 2 ^ 34 + frame

/-- May a free frame be handed out: it is not poisoned (R370)? -/
def State.clean (s : State) (frame : Nat) : Bool := !s.poison.contains (s.podPage frame)

/-- Take up to n clean frames of a partition's pool, of one die or of any; where the pool has not enough of them the service enlarges it
from the partition's free near frames (R217, log 14). -/
def State.takePool (s : State) (part : Nat) (die : Option Nat) (n : Nat) : State × List Nat :=
  let p := s.part part
  let fs := ((p.pool ++ p.freeNear).filter fun f => s.clean f && die.all fun d => nearDie (f * 4096) == d).take n
  (if fs.isEmpty then s else s.modPart part fun p =>
    { p with pool := p.pool.filter fun f => !fs.contains f, freeNear := p.freeNear.filter fun f => !fs.contains f }, fs)

/-- Frames return to a partition's pool; a poisoned one is cleared before it is handed out again (R370). -/
def State.givePool (s : State) (part : Nat) (fs : List Nat) : State :=
  if fs.isEmpty then s
  else (s.modPart part fun p => { p with pool := fs.foldl (fun l f => insertUp f l) p.pool }).wantAll
    ((fs.filter fun f => !s.clean f).map fun f => .poisonClear part (s.podPage f))

/-- The pages of the spill stacks of a block: depth × (2 + D) × 4 bytes for each thread (R54). -/
def Kernel.spillPages (k : Kernel) : Nat := (k.threads * (k.spill * (2 + k.d) * 4) + 4095) / 4096

/-- The spill stacks of a block in pinned near memory of the die of its core (R54, R62). -/
def State.reserveSpill (s : State) (part core : Nat) (k : Kernel) : State × List Nat := s.takePool part (some (core / 36)) k.spillPages

/-- A block of a grid as it starts on a core: memory cleared, every bit empty, spindles at F = 16 (R56, R130, R131, R306). -/
def State.freshBlock (s : State) (g : Grid) (gi num core group : Nat) (copy : CopyKind) : Block :=
  let k := g.kernel
  let plan := k.strandPlan
  let so := placeStrands k.width (s.positions core) plan
  { grid := gi, num := num, copy := copy, group := group, place := .onCore core, homeCore := core, saving := none,
    threads := plan.zipIdx.flatMap fun x => (List.range x.1.2.1).map fun i =>
      (Thread.start k x.1.1 x.2 i x.1.2.2).withParam g.param,
    strands := (plan.zip so).map fun x => (Strand.start x.1.1 x.2.1 x.2.2).holding (s.objectAt g.part k.entry.toNat),
    memSize := k.mem, mem := [], full := [], badMem := [], softMem := [], reformAge := 4096,
    spindles := ((List.range 32).filter k.cspin.getLsbD).map fun i => (i, Spindle.fresh),
    extents := [], mwaitStatus := 0, savedCmds := [], matrix := MatrixSave.none, quarantine := [], held := [], reissued := false,
    status := 0, filedSaved := [], olds := [], collCounts := [], echoes := [], claim := ⟨[], [], []⟩, ctx := [], image := [],
    spillAt := [] }

/-! ### Extents (R47, R49, R150) -/

/-- A declared range: base, length, RD, WR. -/
abbrev OpRange := Nat × Nat × Bool × Bool

/-- The pages that a range touches, first and last. -/
def rangePages (r : OpRange) : Nat × Nat := (r.1 / 4096, (r.1 + r.2.1 - 1) / 4096)

/-- Merge one more interval of pages into a list kept in the order of declaration: it joins every interval that shares a
page with it, at the place of the first (R47). -/
def mergePages : List (Nat × Nat) → Nat × Nat → List (Nat × Nat)
  | [], x => [x]
  | y :: r, x =>
    if x.1 ≤ y.2 && y.1 ≤ x.2 then
      let u := (min x.1 y.1, max x.2 y.2)
      let out := r.filter fun z => !(z.1 ≤ u.2 && u.1 ≤ z.2)
      let u' := (r.filter fun z => z.1 ≤ u.2 && u.1 ≤ z.2).foldl (fun u z => (min u.1 z.1, max u.2 z.2)) u
      u' :: out
    else y :: mergePages r x

/-- The flags that the ranges over a page give it (R150). -/
def pageFlags (rs : List OpRange) (p : Nat) : Bool × Bool :=
  rs.foldl (fun f r => if (rangePages r).1 ≤ p && p ≤ (rangePages r).2 then (f.1 || r.2.2.1, f.2 || r.2.2.2) else f) (false, false)

/-- What the scheduler finds for one page: an extent of one page, no place in an extent, or a table node that migrates, for which its walk
waits (R37, R38). -/
inductive PageR where
  | extent (s : State) (e : Extent)
  | out (s : State)
  | wait (s : State)

/-- The leaf of one page as an extent of one page, if it may stand in one: its walk finds a near leaf that is not migrating
and passes the checks. A writable page gets its DI set, with the append (R47, R49). -/
def State.extentPage (s : State) (core part : Nat) (rs : List OpRange) (page : Nat) (room : Extent → Bool) : PageR :=
  let va := 4096 * page
  match s.walk core part va with
  | .fault s _ _ => .out s
  | .wait s => .wait s
  | .leaf s pte level ent =>
    let s := if Pte.ac pte then s else s.writeEntry ent (pte ||| 0x20#64)
    let pte := pte ||| 0x20#64
    let fl := pageFlags rs page
    let rd := Pte.rd pte && fl.1
    let wr := Pte.wr pte && fl.2
    let bad := match s.leafFault part false (if Pte.rd pte then .load else .plan) pte level va with
      | some (0x24, _) => false
      | some _ => true
      | none => false
    if Pte.tier pte || Pte.mig pte || bad then .out s
    else
      let pa := leafPa pte level va
      let e : Extent := ⟨page, 1, pa / 4096, (Pte.pkg pte).toNat, rd, wr⟩
      if !room e then .out s
      else if wr && !Pte.di pte then
        match s.setDirty part ent level pte with
        | some s => .extent s e
        | none => .out s
      else .extent s e

/-- Does a page prolong the last extent of a table, of at most 2^24 pages (R47)? -/
def prolongs (fresh : Bool) (l : List Extent) (e : Extent) : Bool :=
  match l.getLast? with
  | some x => !fresh && x.pages < 2 ^ 24 && x.vbase + x.pages == e.vbase && x.frame + x.pages == e.frame && x.pkg == e.pkg && x.rd == e.rd && x.wr == e.wr
  | none => false

/-- Has a table room for a page: in its last extent, or as a further one of 16 (R47)? -/
def extentRoom (fresh : Bool) (l : List Extent) (e : Extent) : Bool := prolongs fresh l e || l.length < 16

/-- Add one page to the extents of a block. -/
def addPage (fresh : Bool) (l : List Extent) (e : Extent) : List Extent :=
  match l.getLast? with
  | some x => if prolongs fresh l e then l.dropLast ++ [{ x with pages := x.pages + 1 }] else l ++ [e]
  | none => [e]

/-- An extent table as it is built: the state, the table, and whether the next page begins an extent of its own. -/
abbrev Building := State × List Extent × Bool

/-- One more page; none once a walk waits, with the state that it leaves. -/
def addExtent (core part : Nat) (rs : List OpRange) (a : Except State Building) (page : Nat) : Except State Building :=
  match a with
  | .error s => .error s
  | .ok (s, l, fresh) => match s.extentPage core part rs page (extentRoom fresh l) with
    | .extent s e => .ok (s, addPage fresh l e, false)
    | .out s => .ok (s, l, true)
    | .wait s => .error s

/-- Build the extent table of a block (R47), from the partition's root whether or not its translation is enabled (log 82); a walk that meets a
migrating node waits (R38). -/
def State.buildExtents (s : State) (core part : Nat) (rs : List OpRange) : Except State (State × List Extent) :=
  match (rs.foldl (fun l r => mergePages l (rangePages r)) []).foldl (fun a iv =>
      (List.range (iv.2 - iv.1 + 1)).foldl (fun a i => addExtent core part rs a (iv.1 + i)) (match a with
        | .ok (s, l, _) => .ok (s, l, true)
        | .error s => .error s)) (Except.ok (s, [], true)) with
  | .ok (s, l, _) => .ok (s, l)
  | .error s => .error s

/-- The extent tables of several blocks of one grid, by their cores; or the state in which one of their walks waits. -/
def State.buildTables (part : Nat) (rs : List OpRange) : List Nat → State → Except State (State × List (List Extent))
  | [], s => .ok (s, [])
  | c :: r, s => match s.buildExtents c part rs with
    | .error s => .error s
    | .ok (s, l) => match State.buildTables part rs r s with
      | .error s => .error s
      | .ok (s, ls) => .ok (s, l :: ls)

/-- Start one block of a grid with its extent table; the block of a fragment grid is one strand of covered pixels (R199, log 32). -/
def State.spawn (s : State) (gi num core group : Nat) (copy : CopyKind) (ext : List Extent) : State :=
  match s.grids[gi]? with
  | none => s
  | some g =>
    let b := s.freshBlock g gi num core group copy
    let r := s.reserveSpill g.part core g.kernel
    { r.1 with blocks := r.1.blocks ++ [{ b with extents := ext, spillAt := r.2, threads := (s.fragThreads g gi num b.threads).map fun th => th.sureOf s.mem }] }

/-- Start one placed unit: its blocks with their trailing copies, and the quad spindles that a group claims (R306, R365). -/
def State.spawnUnit (s : State) (gi : Nat) (quad : Nat) (p : Placed) (ext : List (List Extent)) : State :=
  let n := s.blocks.length
  let group := if quad = 0 then 0 else 1 + ((p.lead.head?).map (·.1)).getD 0 / quad
  let k := p.lead.length
  let s := p.lead.zipIdx.foldl (fun s x =>
    s.spawn gi x.1.1 x.1.2 group (if p.trail.isEmpty then .single else .leading (n + k + x.2)) (ext.getD x.2 [])) s
  let s := p.trail.zipIdx.foldl (fun s x => s.spawn gi x.1.1 x.1.2 group (.trailing (n + x.2)) (ext.getD (k + x.2) [])) s
  match (if quad = 0 then none else s.grids[gi]?) with
  | none => s
  | some g => { s with qspindles := s.qspindles ++ g.kernel.quadIds.map fun i => ⟨gi, group, i, Spindle.fresh⟩ }

/-- Start several placed units. -/
def State.spawnUnits (gi quad : Nat) : List Placed → List (List Extent) → State → State
  | [], _, s => s
  | p :: r, ext, s =>
    State.spawnUnits gi quad r (ext.drop p.cores.length) (s.spawnUnit gi quad p (ext.take p.cores.length))

/-! ### The claims of barriers (R158, R309) -/

/-- The leading blocks of a grid that have started and not ended. -/
def State.standing (s : State) (gi : Nat) : List Nat :=
  (List.range s.blocks.length).filter fun k =>
    ((s.blocks[k]?).map fun b => b.grid == gi && !b.trailing && b.place != .ended).getD false

/-- The blocks that start together claim their barriers: the participants above core level are, from now on, the grid's leading blocks on
the quad, on the die and on the package; of a grid launched in quad groups, in a quad barrier those of the own group (R158, R309, R146,
log 22). -/
def State.claimBarriers (s : State) (gi first : Nat) : State :=
  let at_ := fun (k : Nat) => ((s.blocks[k]?).map (·.homeCore)).getD 72
  let group := fun (k : Nat) => ((s.blocks[k]?).map (·.group)).getD 0
  let all := s.standing gi
  let claim := fun (b : Block) => (⟨all.filter fun k => at_ k / 4 == b.homeCore / 4 && group k == b.group,
    all.filter fun k => at_ k / 36 == b.homeCore / 36, all⟩ : Claim)
  { s with blocks := s.blocks.zipIdx.map fun x => if first ≤ x.2 then { x.1 with claim := claim x.1 } else x.1 }

/-- Does a kernel claim a pod barrier (R309)? -/
def Kernel.podBars (k : Kernel) : Bool := 0 < (k.barriers[4]?).getD 0

/-- The grids of a partition on this package that the resident service joins to the pod barriers of a grid as it is dealt: those that
claim pod barriers, have no block yet and are joined to none, by a free choice (R309, log 22). Each of them has the same grids joined. -/
def State.joinPod (s : State) (gi : Nat) : State :=
  match s.grids[gi]? with
  | none => s
  | some g =>
    if !g.kernel.podBars || !g.joined.isEmpty then s
    else
      let js := (List.range s.grids.length).filter fun k => k == gi || match s.grids[k]? with
        | some x => x.part == g.part && x.kernel.podBars && x.joined.isEmpty && x.next == 0 && Config.podJoined gi k
        | none => false
      js.foldl (fun s k => s.modGrid k fun x => { x with joined := js }) s

/-! ### Dispatch queues (R134, R155, R156) -/

/-- How many grids a dispatch queue holds: at least one (R155, log 10). -/
def dispatchRoom : Nat := 1 + Config.dispatchCap

/-- Enter a new grid into the dispatch queue of its priority: it takes the next grid number; a full queue spills, and
beyond the quota the partition exits with reason 0x02 and nothing is entered. -/
def State.enterGrid (s : State) (g : Grid) : Option State :=
  let q := ((s.part g.part).dispatch[g.prio]?).getD ⟨[], []⟩
  let full := dispatchRoom ≤ q.q.length || !q.spill.isEmpty
  if full && !s.spillFits g.part 1 then none
  else
    let i := s.grids.length
    let s := { s with grids := s.grids ++ [{ g with num := (s.part g.part).gridNum + 1 }] }
    some ((s.modPart g.part fun p => { p with gridNum := p.gridNum + 1, dispatch := p.dispatch.modify g.prio fun d =>
      if full then { d with spill := d.spill ++ [i] } else { d with q := d.q ++ [i] } }).want (.deal g.part))

/-- A grid leaves its dispatch queue once every block of it has been dealt. -/
def State.leaveDispatch (s : State) (gi : Nat) (g : Grid) : State :=
  s.modPart g.part fun p => { p with dispatch := p.dispatch.modify g.prio fun d => ⟨d.q.erase gi, d.spill.erase gi⟩ }

/-- The number of a doubled grid's copies counts once: the blocks of a grid that have ended with their statuses. -/
def Grid.isDone (g : Grid) : Bool := g.count ≤ g.ended.length

/-- The status of a grid that is done: that of the lowest-numbered block that ended with a non-OK status (R154). -/
def Grid.status (g : Grid) : Nat :=
  ((g.ended.filter fun x => x.2 != 0).foldl (fun (b : Option (Nat × Nat)) x => match b with
    | none => some x
    | some y => if x.1 < y.1 then some x else some y) none).elim 0 (·.2)

/-- The octet's grid (R154): block count, quad-group size, doubling, parameter block, priority. -/
def gridOf (part : Nat) (k : Kernel) (oct : List Word) (prio : Nat) (done : GridDone) (ranges : List OpRange) : Grid :=
  let w := fun i => oct.getD i 0
  { part := part, num := 0, kernel := k, prio := prio, count := (w 2).toNat, next := 0, quad := (w 3).field 0 4,
    doubled := (w 3).bit 5, param := pairVal (w 4) (w 5), done := done, ranges := ranges, ended := [], draw := none, joined := [], core := 72 }

/-- The reserved bits and ranges of a LAUNCH octet (R154, R277). -/
def launchBad (oct : List Word) : Bool :=
  let w := fun i => oct.getD i 0
  let g := (w 3).field 0 4
  (w 2).toNat == 0 || 16777215 < (w 2).toNat || (w 3) &&& 0xFFFFF8D0#32 != 0#32 || g == 1 || 4 < g ||
    (w 6) &&& 0xFFE0#32 != 0#32 || (w 7) != 0#32

end Sys2Proof.Machine
end

