-- ==== Sys2Proof/Machine/Engine.lean ====
section
/-! DEFINITION. The engine instructions BCOPY, STREAM, COLL and LAUNCH, performed once per issue (R277, R312, R314, R316),
and the engines' own steps: command start, chunks, tokens, stream elements, collectives, launch queue, refill (R46, R59,
R110, R154, R155, R313 to R316, R179, R180). -/

namespace Sys2Proof.Machine

/-! ### One performance for an issue -/

/-- What an instruction that is performed once for its issue does: it is done, each lane changed by `g` and going on; or
every lane raises one cause; or it must be issued again. -/
inductive Once where
  | done (s : State) (g : TRef → Thread → Thread)
  | trap (s : State) (cause sub : Nat)
  | fault (s : State) (cause sub aux : Nat)
  | stay (s : State)

/-- The lane checks alone. -/
def checkLane (i : Instr) (acc : List TRef × List LaneTrap) (s : State) (t : TRef) : List TRef × List LaneTrap :=
  match s.lane i (fun s _ _ => .next s) t with
  | .next _ => (acc.1 ++ [t], acc.2)
  | .trap _ c sub aux => (acc.1, acc.2 ++ [⟨t, c, sub, aux⟩])
  | _ => acc

/-- The store queues of the strands of some lanes, performed. -/
def State.drainLanes (s : State) (l : List TRef) : State :=
  l.foldl (fun s t => match s.thread? t with | some th => s.drainStrand t.blk th.strand | none => s) s

/-- Perform an instruction once for the lanes of an issue that pass their checks, with the lowest lane as the one that
names the operands (R312); the earlier writes of the strands of these lanes are performed first (R110, R278, log 12). -/
def State.runOnce (s : State) (i : Instr) (st : Stall) (f : State → List TRef → TRef → Thread → Once) :
    Host.Outcome State Fault Refusal :=
  let lw := s.laneWords ((s.issue.lanes.head?).map (·.blk) |>.getD 0)
  match misalignedSub (Instr.groups lw i) with
  | some sub => .next (s.deliverIssued st (s.issuing.map fun t => ⟨t, 0x02, sub, 0⟩) (some i))
  | none =>
    let r := s.issue.lanes.foldl (fun acc t => checkLane i acc s t) ([], [])
    match (r.1.head?).bind fun t => (s.thread? t).map fun th => (t, th) with
    | none => .next (s.deliverIssued st r.2 (some i))
    | some (t, th) =>
      match f (s.drainLanes r.1) r.1 t th with
      | .done s g =>
        let s := r.1.foldl (fun s u => s.modThread u fun x => ((g u x).issued st s.issue.word).advance) s
        .next (s.deliverIssued st r.2 (some i))
      | .trap s c sub => .next (s.deliverIssued st (r.2 ++ r.1.map fun u => ⟨u, c, sub, 0⟩) (some i))
      | .fault s c sub aux => .next (s.deliverIssued st (r.2 ++ r.1.map fun u => ⟨u, c, sub, aux⟩) (some i))
      | .stay s => .next (s.deliverIssued st r.2 (some i))

/-- Has a block claimed the core spindle that word 6 of an octet names (R312)? -/
def State.octSpindle (s : State) (blk : Nat) (oct : List Word) : Bool :=
  (s.spindle? blk false ((oct.getD 6 0).field 0 5)).isSome

/-- Issue one engine command: IllegalWait 0x02 for an unclaimed spindle, QueueQuota 0x01 beyond the quota (R312, R156). -/
def State.issueOctet (s : State) (lanes : List TRef) (t : TRef) (oct : List Word) (q : Nat) (op : CmdOp) : Once :=
  if !s.octSpindle t.blk oct then .trap s 0x30 0x02
  else match s.issueCmd s.issue.core lanes t q op with
    | some s => .done s fun _ th => th
    | none => .trap s 0x40 0x01

/-- BCOPY (R312). -/
def execBcopy (a : RegName) (st : Stall) (s : State) : Host.Outcome State Fault Refusal :=
  s.runOnce (.bcopy a st) st fun s ls t th =>
    let oct := th.vals a 8
    s.issueOctet ls t oct ((oct.getD 6 0).field 8 2) (.copy oct)

/-- STREAM (R314). -/
def execStream (a : RegName) (st : Stall) (s : State) : Host.Outcome State Fault Refusal :=
  s.runOnce (.stream a st) st fun s ls t th => s.issueOctet ls t (th.vals a 8) qStream (.stream (th.vals a 8) th.strand)

/-- The count of earlier COLLs of a group that a block has issued (R316). -/
def Block.collCount (b : Block) (group : Nat) : Nat := ((b.collCounts.find? fun x => x.1 == group).map (·.2)).getD 0

/-- One more COLL of a group. -/
def Block.countColl (b : Block) (group : Nat) : Block :=
  { b with collCounts := (group, b.collCount group + 1) :: b.collCounts.filter fun x => x.1 != group }

/-- COLL (R316). -/
def execColl (a : RegName) (st : Stall) (s : State) : Host.Outcome State Fault Refusal :=
  s.runOnce (.coll a st) st fun s ls t th =>
    let oct := th.vals a 8
    let group := (oct.getD 5 0).field 16 8
    match s.issueOctet ls t oct qColl (.coll oct (((s.blocks[t.blk]?).map fun b => b.collCount group).getD 0)) with
    | .done s g => .done (s.modBlock t.blk fun b => b.countColl group) g
    | r => r

/-! ### LAUNCH (R154, R277, R278) -/

/-- The status of a LAUNCH octet at issue, with its kernel where the grid may be queued (R277). -/
def State.launchCheck (s : State) (blk : Nat) (oct : List Word) : Nat × Option Kernel :=
  let p := s.partOf blk
  let w := fun i => oct.getD i 0
  match s.kernelAt p (pairVal (w 0) (w 1)).toNat with
  | none => (0x0007, none)
  | some k =>
    if launchBad oct || !s.octSpindle blk oct then (0x0007, none)
    else if k.tooLarge then (0x0010, none)
    else if s.notCoResident p k ((w 3).field 0 4) (w 2).toNat ((w 3).bit 5) then (0x0011, none)
    else (0, some k)

/-- The status in d of every lane of the issue, with ZERO plies and variable latency. -/
def giveStatus (d : RegName) (v : Nat) (_ : TRef) (th : Thread) : Thread := th.result (archOf th.wb d) (Reg.plain (Word.ofNat v)) none

/-- A status that comes only with the next matching seal (R278): a held result. -/
def giveHeld (d : RegName) (_ : TRef) (th : Thread) : Thread :=
  let a := archOf th.wb d
  if a = 0 then th else { th.overtake a with pend := (th.overtake a).pend ++ [⟨a, Reg.plain 0, none, false, true⟩] }

/-- Hold a LAUNCH or DRAW until the seal, with the registers that receive its status. -/
def State.holdStatus (s : State) (lanes : List TRef) (t : TRef) (d : RegName) (isDraw : Bool) (oct : List Word) : Once :=
  let dsts := lanes.filterMap fun u => (s.thread? u).map fun x => (u, archOf x.wb d)
  .done (s.hold t.blk lanes (.status isDraw dsts oct)) (giveHeld d)

/-- LAUNCH (R277). -/
def execLaunch (d a : RegName) (st : Stall) (s : State) : Host.Outcome State Fault Refusal :=
  s.runOnce (.launch d a st) st fun s ls t th =>
    let oct := th.vals a 8
    if s.isDoubled t.blk then s.holdStatus ls t d false oct
    else match s.launchCheck t.blk oct with
      | (0, some k) => match s.enterQueue s.issue.core t.blk qLaunch (.launch k oct) with
        | some s => .done s (giveStatus d 0)
        | none => .trap s 0x40 0x01
      | (v, _) => .done s (giveStatus d v)

/-- LAUNCH_QUEUE_ADVANCE (R154): the head's grid enters its dispatch queue, with the core at whose launch queue its token is in order (R100);
beyond the quota the partition exits with reason 0x02 (R156). -/
def execLaunchQueueAdvance (core : Nat) (s : State) : Host.Outcome State Fault Refusal :=
  match s.head? core qLaunch with
  | some ⟨.launch k oct, blk, _, _, _, _, _, _⟩ =>
    let w := fun i => oct.getD i 0
    let p := s.partOf blk
    if (s.part p).exited then .next s
    else match s.enterGrid { gridOf p k oct ((w 3).field 8 3) (.token blk ((w 6).field 0 5) ((w 6).field 16 16)) [] with core := core } with
      | some s => .next (s.popQueue core qLaunch)
      | none => .next (s.exitPart p 2)
  | _ => .next (s.passJoins core)

/-- QUEUE_REFILL (R155): the oldest spilled entry returns to its queue when that has room. -/
def execQueueRefill (ofPart : Bool) (idx q : Nat) (s : State) : Host.Outcome State Fault Refusal :=
  if ofPart then .next (s.modPart idx fun p => { p with dispatch := p.dispatch.modify q fun d =>
    match d.spill with
    | g :: r => if d.q.length < dispatchRoom then ⟨d.q ++ [g], r⟩ else d
    | [] => d })
  else .next (s.modQueue idx q fun d =>
    match d.spill with
    | c :: r => if d.standing < queueCap then ⟨d.q ++ [c], r⟩ else d
    | [] => d)

/-! ### Copies and fills (R313) -/

/-- How an engine translates: of a block on a core, or of the replay engine in a partition. -/
abbrev Translate := State → Access → Addr → Xl

/-- Is a home in a near slice that is in retention? The command that addresses it is held (R71). -/
def State.retained (s : State) (l : Loc) : Bool :=
  match l with
  | .win _ _ => false
  | .phys pa => pa / 2 ^ 46 == s.pkg.toNat && match nearSlice (pa % 2 ^ 46) with
    | some k => s.svc.retention.contains k
    | none => false

/-- An engine's translation waits while the slice is in retention (R71). -/
def heldXl : Xl → Xl
  | .ok s l => if s.retained l then .wait s else .ok s l
  | x => x

/-- The translation of a block's command (R46). -/
def blockXl (core blk : Nat) : Translate := fun s k ea => heldXl (s.xlat core blk true k ea)

/-- The number of a core that is none: what the replay engine translates it keeps in no core's TLB (R394). -/
def noCore : Nat := 72

/-- The translation of a replay's command (R394): there is no block, so the aperture names nothing. -/
def replayXl (part : Nat) : Translate := fun s k ea =>
  if 2 ^ 48 ≤ ea.toNat then .fault s 0x20 0x01 ea.toNat
  else if inAperture ea.toNat then .fault s 0x21 0x0B ea.toNat
  else heldXl (s.xlatPage noCore part true k ea.toNat)

/-- Do two ranges of n bytes overlap? -/
def rangesMeet (a b n : Nat) : Bool := a < b + n && b < a + n

/-- Word i of an octet. -/
def octW (oct : List Word) (i : Nat) : Word := oct.getD i 0

/-- The addresses of an octet. -/
def octSrc (oct : List Word) : Nat := (pairVal (octW oct 0) (octW oct 1)).toNat
def octDst (oct : List Word) : Nat := (pairVal (octW oct 2) (octW oct 3)).toNat

/-- Is an address in the own window? -/
def ownWindow (ea : Nat) : Bool := inAperture ea && ea / 2 ^ 19 % 8 == 0

/-- Is a copy or fill octet malformed (R313)? The spindle and queue bits of word 6 are ignored in a graph node. -/
def copyBad (oct : List Word) : Bool :=
  let len := (octW oct 4).toNat
  let fill := (octW oct 5).field 0 4 == 1
  let empty := (octW oct 5).bit 4
  1 < (octW oct 5).field 0 4 || (octW oct 5) &&& 0xFFFFF0E0#32 != 0#32 || (octW oct 6) &&& 0xFCE0#32 != 0#32 ||
    octW oct 7 != 0#32 || len % 4 != 0 || octDst oct % 4 != 0 || (fill && octW oct 1 != 0#32) ||
    (!fill && (octSrc oct % 4 != 0 || empty || rangesMeet (octSrc oct) (octDst oct) len)) ||
    (fill && empty && !(ownWindow (octDst oct) && (len = 0 || ownWindow (octDst oct + len - 1))))

/-- The bytes of the chunk that begins `done` bytes into a command, aligned to the destination (R313). -/
def chunkLen (oct : List Word) (done : Nat) : Nat :=
  min ((octW oct 4).toNat - done) (4096 - (octDst oct + done) % 4096)

/-- Do n bytes at a home lie in the allocation whole (R57, R58)? -/
def State.within (s : State) (l : Loc) (n : Nat) : Bool :=
  match l with
  | .win b off => off + n ≤ ((s.blocks[b]?).map (·.memSize)).getD 0
  | .phys _ => true

/-- Where the windows of a write of n bytes lie: its own, those of the multicast mask, and in a doubled block the same windows of the
other copy (R58, R313, R366); none where a peer is missing, or an allocation ends before the bytes do. -/
def State.castLocs (s : State) (tr : Translate) (blk : Option Nat) (oct : List Word) (ea n : Nat) (l : Loc) : Option (List Loc) :=
  let mcast := (octW oct 5).field 8 4
  let peers := if inAperture ea then (List.range 4).filter fun p => mcast / 2 ^ p % 2 == 1 else []
  let at_ := fun (p : Nat) => match tr s .store (Addr.ofNat (0xFF00 * 2 ^ 32 + (4 + p) * 2 ^ 19 + ea % 2 ^ 19)) with
    | .ok _ l => some l
    | _ => none
  let ls := (l :: peers.filterMap at_).dedup
  if (peers.any fun p => (at_ p).isNone) || !ls.all (s.within · n) then none
  else
    let both := fun (l : Loc) => match l, blk with
      | .win b o, some _ => (match (s.blocks[b]?).bind Block.partner with | some p => [l, .win p o] | none => [l])
      | _, _ => [l]
    some (ls.flatMap both).dedup

/-- How a step of a copy ends: it waits, the command ends with a status, or it goes on. -/
inductive CopyR where
  | wait (s : State)
  | fail (s : State) (status : Nat)
  | ok (s : State)

/-- The status of a failed translation: PoisonedSource for poison on the source, else TranslationFault (R46). -/
def xlStatus (isSrc : Bool) (cause : Nat) : Nat := if isSrc && cause = 0x24 then 0x0001 else 0x0003

/-- A near page in which an engine finds an uncorrectable error is poisoned (R69). -/
def State.poisonHome (s : State) (l : Loc) : State :=
  match l with
  | .phys pa => s.poisonPage (pa / 4096)
  | .win .. => s

/-- Read the source bytes of one piece that lies in one page. -/
def State.readPiece (s : State) (tr : Translate) (ea n : Nat) : Except CopyR (State × List Byte) :=
  match tr s .load (Addr.ofNat ea) with
  | .fault s c _ _ => .error (.fail s (xlStatus true c))
  | .wait s => .error (.wait s)
  | .exit s => .error (.wait s)
  | .ok s l =>
    if !s.within l n then .error (.fail s 0x0003)
    else if s.homeBad l n then .error (.fail (s.poisonHome l) 0x0001)
    else .ok (s.correct l n, s.homeRead l n)

/-- Read n source bytes across pages (R46). -/
def State.readSpan (tr : Translate) : Nat → State → Nat → Nat → Except CopyR (State × List Byte)
  | 0, s, _, _ => .ok (s, [])
  | fuel + 1, s, ea, n =>
    if n = 0 then .ok (s, [])
    else
      let k := min n (4096 - ea % 4096)
      match s.readPiece tr ea k with
      | .error r => .error r
      | .ok (s, b) => match State.readSpan tr fuel s (ea + k) (n - k) with
        | .error r => .error r
        | .ok (s, r) => .ok (s, b ++ r)

/-- The first byte of the granule in which a home lies. -/
def Loc.granule : Loc → Loc
  | .win b o => .win b (o / 16 * 16)
  | .phys p => .phys (p / 16 * 16)

/-- A home some bytes on. -/
def Loc.plus (l : Loc) (n : Nat) : Loc :=
  match l with
  | .win b o => .win b (o + n)
  | .phys p => .phys (p + n)

/-- Must a write of n bytes read its granule first, and cannot (R69)? -/
def State.badTarget (s : State) (n : Nat) (l : Loc) : Bool := n < 16 && s.homeBad l.granule 16

/-- Write bytes that lie in one granule at every window of the write, filled; UncorrectableDestination where a partly covered granule
cannot be read (R59, R69, R110). -/
def State.writeAt (s : State) (ls : List Loc) (bytes : List Byte) : CopyR :=
  if ls.any (s.badTarget bytes.length) then
    .fail (ls.foldl (fun s l => if s.badTarget bytes.length l then s.poisonHome l else s) s) 0x0002
  else .ok (ls.foldl (fun s l => s.homeFill l bytes) s)

/-- The windows of a write of n bytes, translated for an access kind (R46). -/
def State.targets (s : State) (tr : Translate) (k : Access) (blk : Option Nat) (oct : List Word) (ea n : Nat) :
    Except CopyR (State × List Loc) :=
  match tr s k (Addr.ofNat ea) with
  | .fault s c _ _ => .error (.fail s (xlStatus false c))
  | .wait s => .error (.wait s)
  | .exit s => .error (.wait s)
  | .ok s l => match s.castLocs tr blk oct ea n l with
    | none => .error (.fail s 0x0003)
    | some ls => .ok (s, ls)

/-- Translate and write bytes that lie in one granule. -/
def State.writeGranule (s : State) (tr : Translate) (blk : Option Nat) (oct : List Word) (ea : Nat) (bytes : List Byte) : CopyR :=
  match s.targets tr .store blk oct ea bytes.length with
  | .error e => e
  | .ok (s, ls) => s.writeAt ls bytes

/-- Set the granules that a span covers empty (R59, R313), in every window of the write. -/
def State.emptyAt (s : State) (ls : List Loc) (n : Nat) : State :=
  ls.foldl (fun s l => match l with
    | .win b o => s.modBlock b fun k => { k with full := k.full.filter fun g => !(granulesOf o n).contains g }
    | .phys _ => s) s

/-- The part of the range [a, a + n) that lies in granule g: its start and length. -/
def granuleSpan (a n g : Nat) : Nat × Nat :=
  let lo := max a (16 * g)
  (lo, min (a + n) (16 * g + 16) - lo)

/-- The homes of n source bytes, page by page, none in error (R46). -/
def State.sourceHomes (tr : Translate) : Nat → State → Nat → Nat → Except CopyR (State × List (Nat × Loc × Nat))
  | 0, s, _, _ => .ok (s, [])
  | fuel + 1, s, ea, n =>
    if n = 0 then .ok (s, [])
    else
      let k := min n (4096 - ea % 4096)
      match tr s .load (Addr.ofNat ea) with
      | .fault s c _ _ => .error (.fail s (xlStatus true c))
      | .wait s => .error (.wait s)
      | .exit s => .error (.wait s)
      | .ok s l =>
        if !s.within l k then .error (.fail s 0x0003)
        else if s.homeBad l k then .error (.fail (s.poisonHome l) 0x0001)
        else match State.sourceHomes tr fuel s (ea + k) (n - k) with
          | .error r => .error r
          | .ok (s, r) => .ok (s, (ea, l, k) :: r)

/-- The bytes of a span of the source, at the homes that its chunk was translated to. -/
def State.readHomes (s : State) (srcs : List (Nat × Loc × Nat)) (ea n : Nat) : State × List Byte :=
  srcs.foldl (fun (a : State × List Byte) x =>
    let lo := max ea x.1
    let k := min (ea + n) (x.1 + x.2.2) - lo
    if k = 0 then a else
    let l := x.2.1.plus (lo - x.1)
    (a.1.correct l k, a.2 ++ a.1.homeRead l k)) (s, [])

/-- Move one granule of a copy or fill whose chunk is translated, `base` being the chunk's first destination address (R313). -/
def State.moveGranule (s : State) (w : ChunkWork) (oct : List Word) (base g : Nat) : CopyR :=
  let dst := octDst oct
  let (ea, n) := granuleSpan dst (octW oct 4).toNat g
  let ls := w.dsts.map fun l => l.plus (ea - base)
  if (octW oct 5).field 0 4 = 1 then
    if (octW oct 5).bit 4 then .ok (s.emptyAt ls n)
    else s.writeAt ls ((List.range n).map fun i => (wordBytes (octW oct 0)).getD ((ea - dst + i) % 4) 0)
  else
    let (s, b) := s.readHomes w.srcs (octSrc oct + (ea - dst)) n
    s.writeAt ls b

/-- Move some granules one after another. -/
def State.moveGranules (w : ChunkWork) (oct : List Word) (base : Nat) : List Nat → State → CopyR
  | [], s => .ok s
  | g :: r, s => match s.moveGranule w oct base g with
    | .ok s => State.moveGranules w oct base r s
    | x => x

/-- The granules of a span of addresses. -/
def spanGranules (a n : Nat) : List Nat := granulesOf a n

/-- The translation of a chunk before anything of it moves: every page of it, source and destination, every peer, and no source word in
error (R46, R313). Where source and destination both fail, the source's status ends the command (log 66). DI is set with it, since the
chunk is about to be written (R40). -/
def State.checkChunk (s : State) (tr : Translate) (blk : Option Nat) (oct : List Word) (done : Nat) : Except CopyR (State × ChunkWork) :=
  let n := chunkLen oct done
  match (if (octW oct 5).field 0 4 = 1 then .ok (s, []) else State.sourceHomes tr 2 s (octSrc oct + done) n) with
  | .error r => .error r
  | .ok (s, srcs) => match s.targets tr .store blk oct (octDst oct + done) n with
    | .error r => .error r
    | .ok (s, ls) => .ok (s, { ChunkWork.none with srcs := srcs, dsts := ls })

/-- Where a copy or fill stands: bytes done, granules of the present chunk left, and that chunk's homes. -/
structure ChunkAt where
  done : Nat
  left : List Nat
  work : ChunkWork
  deriving DecidableEq, Repr

/-- Where a queue entry stands. -/
def Cmd.pos (c : Cmd) : ChunkAt := ⟨c.done, c.left, c.work⟩

/-- One step of a chunk: the granules named, or all that are left where none is named; and where the command then stands. A chunk is
translated once, before it moves (R46). -/
def State.chunkStep (s : State) (tr : Translate) (blk : Option Nat) (oct : List Word) (p : ChunkAt) (sel : List Nat) :
    CopyR × ChunkAt :=
  let all := if p.left.isEmpty then spanGranules (octDst oct + p.done) (chunkLen oct p.done) else p.left
  let now := if sel.isEmpty then all else all.filter sel.contains
  let rest := all.filter fun g => !now.contains g
  match (if p.left.isEmpty then s.checkChunk tr blk oct p.done else .ok (s, p.work)) with
  | .ok (s, w) => (State.moveGranules w oct (octDst oct + p.done) now s,
      if rest.isEmpty then ⟨p.done + chunkLen oct p.done, [], ChunkWork.none⟩ else ⟨p.done, rest, w⟩)
  | .error r => (r, p)

/-! ### Reads with no atomicity beyond a granule (R111, R65) -/

/-- Bytes read at an address now, of which each granule is, by a free choice, as it was when the command began to read (R111, log 85). -/
def State.mixed (s : State) (early : List (Nat × List Byte)) (ea : Nat) (now : List Byte) : List Byte :=
  match early.find? fun x => x.1 == ea && x.2.length == now.length with
  | some x => now.zipIdx.map fun b => if Config.keepCached (s.free + ((ea + b.2) / 16 - ea / 16)) then x.2.getD b.2 b.1 else b.1
  | none => now

/-- The free choices of some such reads are used. -/
def State.mixedMuch (s : State) (n bytes : Nat) : State := { s with free := s.free + n * (bytes / 16 + 2) }

/-! ### Command start, chunks and tokens -/

/-- A STREAM octet malformed (R314): counts of 0, a reserved size, reserved bits. -/
def streamBad (oct : List Word) : Bool :=
  (octW oct 2).field 0 16 == 0 || (octW oct 2).field 16 16 == 0 || (octW oct 5).field 4 2 == 3 ||
    (octW oct 5) &&& 0xFFFFFFC8#32 != 0#32 || (octW oct 6) &&& 0xFFE0#32 != 0#32 || octW oct 7 != 0#32

/-- A COLL octet malformed in itself (R316): reserved bits, no participants. -/
def collBad (oct : List Word) : Bool :=
  (octW oct 5) &&& 0xFF00FF00#32 != 0#32 || (octW oct 6) &&& 0xFFE0#32 != 0#32 || (octW oct 7).field 16 16 == 0

/-- What a command's own checks give: a status that ends it, or none. -/
def CmdOp.check : CmdOp → Option Nat
  | .copy oct => if copyBad oct then some 0x0007 else if (octW oct 4).toNat = 0 then some 0 else none
  | .stream oct _ => if streamBad oct then some 0x0007 else none
  | .coll oct _ => if collBad oct then some 0x0007 else none
  | _ => none

/-- Does an earlier live stream feed the same operand queue of the same strand (R314)? -/
def State.streamBlocked (s : State) (q : List Cmd) (i : Nat) (c : Cmd) : Bool :=
  match c.op with
  | .stream oct st => (q.take i).any fun e => match e.op with
    | .stream o k => (s.strandParts c.blk st).contains (e.blk, k) && e.fin.isNone && (octW o 5).field 0 3 == (octW oct 5).field 0 3
    | .join _ => true
    | _ => false
  | _ => true

/-- How many live stream contexts some entries hold (R160). -/
def contexts (l : List Cmd) : Nat := l.countP fun c => c.inContext && c.fin.isNone

/-- The live stream contexts that a block has in its frame. -/
def Block.contexts (b : Block) : Nat := Machine.contexts (b.savedCmds.map (·.2))

/-- The stream contexts of a core that are taken: those of the entries of its queue, and those of saved blocks whose room is reserved on it
(R157, R160). -/
def State.contextsUsed (s : State) (core : Nat) : Nat :=
  contexts (s.queue core qStream).all +
    ((s.blocks.filter fun b => match b.place with | .saved .. => b.homeCore == core | _ => false).map Block.contexts).sum

/-- The index of the queue entry that may start now: the head, or for the stream queue the first one not started that
nothing ahead of it blocks, with at most 64 contexts (R160, R314). -/
def State.startable (s : State) (core q : Nat) : Option Nat :=
  let l := (s.queue core q).q
  if q = qStream then
    if 64 ≤ s.contextsUsed core then none
    else (l.zipIdx.find? fun x => !x.1.started && !s.streamBlocked l x.2 x.1).map (·.2)
  else match l with
    | c :: _ => if c.started then none else some 0
    | [] => none

/-- The head of a copy queue after a step. -/
def Cmd.stepped (c : Cmd) (total : Nat) (p : ChunkAt) : Cmd :=
  { c with done := p.done, left := p.left, work := p.work, fin := if total ≤ p.done then some 0 else c.fin }

/-- A command that ends with a status. -/
def Cmd.failed (c : Cmd) (st : Nat) : Cmd := { c with fin := some st, left := [], work := ChunkWork.none }

/-- A clear after the last write of a chunk, which may be its last chunk (R344). -/
def Cmd.cleared (c : Cmd) (last : Bool) : Cmd :=
  if last then c.failed 0 else { c with started := true, done := c.done + 1, left := [], work := ChunkWork.none }

/-- ENGINE_CHUNK (R313, R46): one chunk of the head of a copy queue, or some of its granules. -/
def execEngineChunk (core q : Nat) (granules : List Nat) (s : State) : Host.Outcome State Fault Refusal :=
  match s.head? core q with
  | some ⟨.copy oct, blk, true, done, left, none, _, w⟩ =>
    match s.chunkStep (blockXl core blk) (some blk) oct ⟨done, left, w⟩ granules with
    | (.wait s, _) => .next s
    | (.fail s st, _) => .next (s.modHead core q fun c => c.failed st)
    | (.ok s, p) => .next (s.modHead core q fun c => c.stepped (octW oct 4).toNat p)
  | _ => .next s

/-- The octet of a command that deposits its token by TOKEN_DEPOSIT. -/
def CmdOp.octet : CmdOp → Option (List Word)
  | .copy oct => some oct
  | .stream oct _ => some oct
  | .coll oct _ => some oct
  | .lclr _ w => some [0, 0, 0, 0, 0, 0, w]
  | .draw oct _ => some oct
  | _ => none

/-- The grid or draw whose completion token is deposited next of a core's queue: the earliest that came from there and whose token still
waits, once it is finished and no earlier one of its block, from another core, waits (R100, R221, log 30). -/
def firstDone (l : List (GridDone × Bool × Nat × Nat)) (core : Nat) : Option (Nat × Nat × Nat × Nat × Nat) :=
  (l.zipIdx.find? fun x => match x.1.1 with | .token _ _ _ => x.1.2.2.2 == core | _ => false).bind fun x => match x.1 with
    | (.token b sp tag, true, st, _) =>
      if (l.take x.2).any fun y => match y.1 with | .token b' _ _ => b' == b | _ => false then none else some (x.2, b, sp, tag, st)
    | _ => none

/-- What is deposited next of a core's queue: the block, its spindle, the tag and the status, with the grid or draw that it ends, or none
for the command at the head of the queue. A failed DRAW at the head comes after the draws ahead of it (R100). -/
def State.nextToken (s : State) (core q : Nat) : Option (Option Nat × Nat × Nat × Nat × Nat) :=
  if q = qLaunch then (firstDone (s.grids.map fun g => (g.done, g.isDone, g.status, g.core)) core).map fun x => (some x.1, x.2)
  else if q = qDraw && s.outstanding core q then
    (firstDone (s.draws.map fun d => (d.done, d.finished, d.status, d.core)) core).map fun x => (some x.1, x.2)
  else match s.head? core q with
    | some ⟨op, blk, _, _, _, some st, _, _⟩ => op.octet.map fun oct => (none, blk, (octW oct 6).field 0 5, (octW oct 6).field 16 16, st)
    | _ => none

/-- The queue, the grid or the draw whose token has been deposited (R100, R101). -/
def State.tokenGone (s : State) (core q : Nat) (i : Option Nat) : State :=
  match i with
  | none => s.popQueue core q
  | some i => (if q = qLaunch then s.modGrid i fun g => { g with done := .none } else s.modDraw i fun d => { d with done := .none }).passJoins core

/-- Has a core that holds the copy of a block issues of its present cycle still to make (R307)? -/
def State.midCopy (s : State) (blk : Nat) : Bool :=
  match (s.blocks[blk]?).bind Block.partner with
  | some p => ((s.coreOf blk).toList ++ (s.coreOf p).toList).any s.midCycle
  | none => ((s.coreOf blk).toList).any s.midCycle

/-- TOKEN_DEPOSIT (R110, R154, R307): the token of a finished command at the head of its queue, or of a finished grid or
draw, into its spindle, in both copies of a doubled block (R366); it waits while no slot is free, and for the next cycle of a core where some
issues of this one are still to come. The spindle of a saved block takes it too (log 30). -/
def execTokenDeposit (core q : Nat) (s : State) : Host.Outcome State Fault Refusal :=
  if s.midCycle core then .next (s.want (.tokenDeposit core q))
  else match s.nextToken core q with
    | none => .next s
    | some (i, blk, sp, tag, st) =>
      if s.midCopy blk then .next (s.want (.tokenDeposit core q))
      else match s.depositBoth blk sp true (tokenWord st tag) with
        | some s => .next (s.tokenGone core q i)
        | none => .next s

/-! ### Streams (R314) -/

/-- The address of element n: j0 in the inner loop (R314). -/
def streamAddr (oct : List Word) (n : Nat) : Addr :=
  let c0 := (octW oct 2).field 0 16
  pairVal (octW oct 0) (octW oct 1) +
    BitVec.ofInt 64 ((n % c0 : Nat) * (octW oct 3).toInt + (n / c0 : Nat) * (octW oct 4).toInt)

/-- The bytes of an element. -/
def streamSize (oct : List Word) : Nat := 4 * 2 ^ (octW oct 5).field 4 2

/-- The elements of a stream. -/
def streamCount (oct : List Word) : Nat := (octW oct 2).field 0 16 * (octW oct 2).field 16 16

/-- How many threads wait at a QLD on an operand queue of a strand: the engine may run 16 elements ahead of them. -/
def State.qldDemand (s : State) (blk k q : Nat) : Nat :=
  ((s.strandThreads blk k).filterMap s.thread?).countP fun th => match th.park with
    | some (.ready (.qld _ n _ _)) => n.toNat == q
    | some (.collective (.qld _ n _ _)) => n.toNat == q
    | _ => false

/-- The end of a stream of an operand queue is marked in the queue, behind the elements that it has left there, and where it left none, if a set
waits at a QLD for more elements than there are (R315, log 68). -/
def State.endStream (blk strand q : Nat) (s : State) : State :=
  let l := ((s.strand? blk strand).getD Strand.blank).opQueue q
  let waits := (s.strandThreads blk strand).any fun t => match (s.thread? t).bind (·.park) with
    | some (.ready (.qld _ n _ _)) => n.toNat == q && l.length < ((s.complete t).map List.length).getD 0
    | _ => false
  let left := match l.getLast? with | some e => !e.isEmpty | none => waits
  if left then s.modStrand blk strand fun k => { k with opq := k.opq.modify q fun l => l ++ [[]] } else s

/-- The end of a stream in the queues of a block and of its other copy (R366). -/
def State.endStreams (s : State) (blk strand q : Nat) : State :=
  match (s.blocks[blk]?).bind Block.partner with
  | some p => (s.endStream blk strand q).endStream p strand q
  | none => s.endStream blk strand q

/-- STREAM_ELEMENT (R314): the engine reads the next element of the live stream of one operand queue; a failing element ends
the stream with its status. -/
def execStreamElement (core blk strand q : Nat) (s : State) : Host.Outcome State Fault Refusal :=
  let mine := fun (c : Cmd) => match c.op with
    | .stream oct k => c.blk == blk && k == strand && (octW oct 5).field 0 3 == q && c.started && c.fin.isNone
    | _ => false
  match (s.queue core qStream).q.findIdx? mine with
  | none => .next s
  | some i => match (s.queue core qStream).q[i]? with
    | some ⟨.stream oct _, _, _, n, _, _, _, _⟩ =>
      let set := fun (s : State) (f : Cmd → Cmd) => s.modQueue core qStream fun x => { x with q := x.q.modify i f }
      let have_ := ((((s.strand? blk strand).getD Strand.blank).opQueue q).filter fun e => !e.isEmpty).length
      let room := have_ < 16 + s.qldDemand blk strand q
      if !room then .next s
      else if (streamAddr oct n).toNat % streamSize oct != 0 then
        .next ((set s fun c => { c with fin := some 0x0007 }).endStreams blk strand q)
      else match s.readPiece (blockXl core blk) (streamAddr oct n).toNat (streamSize oct) with
        | .error (.fail s st) => .next ((set s fun c => { c with fin := some st }).endStreams blk strand q)
        | .error (.wait s) => .next s
        | .error (.ok s) => .next s
        | .ok (s, b) =>
          let s := s.modStrand blk strand fun k => { k with opq := k.opq.modify q fun l => l ++ [wordsOf b] }
          let s := match (s.blocks[blk]?).bind Block.partner with
            | some p => s.modStrand p strand fun k => { k with opq := k.opq.modify q fun l => l ++ [wordsOf b] }
            | none => s
          let last := decide (streamCount oct ≤ n + 1)
          let s := set s fun c => { c with done := n + 1, fin := if last then some 0 else none }
          .next (if last then s.endStreams blk strand q else s)
    | _ => .next s

/-! ### All-reduce (R179, R180, R316) -/

/-- The formats of COLL. -/
def collFmt : Nat → Fmt
  | 0 => .f32 | 1 => .f16 | _ => .bf16

/-- The bytes of one element of a COLL (R316, R169). -/
def collSize : Nat → Nat
  | 0 => 4 | 1 => 2 | 2 => 2 | _ => 36

/-- Element i of a participant as an f32 leaf (R179). -/
def collLeaf (f : Nat) (data : List Byte) (i : Nat) : Nat :=
  Fmt.f32.rne ((collFmt f).val (fieldAt data (collSize f * i) (collSize f)))

/-- One element of the canonical result: the tree over the ranks, the root rounded once to the element format (R179). -/
def collElem (f : Nat) (shares : List (List Byte)) (i : Nat) : List Byte :=
  let root := (treeRoot (fun x y => ((Fmt.f32.addOp x y).1, Flags.none)) 16 (shares.map fun d => some (collLeaf f d i))).1
  leBytes (collSize f) ((collFmt f).rne (Fmt.f32.val (root.getD 0)))

/-- A BS8 block: its 32 values and its exponent (R169). -/
def bs8Of (data : List Byte) (i : Nat) : List Int × Nat :=
  let b := (data.drop (36 * i)).take 36
  ((b.take 32).map BitVec.toInt, (b.getD 32 0).toNat)

/-- The bytes of a BS8 block. -/
def bs8Bytes (m : List Int) (e : Nat) : List Byte := (m.map fun x => BitVec.ofInt 8 x) ++ [BitVec.ofNat 8 e, 0, 0, 0]

/-- RNE of m × 2^e to an integer. -/
def rneInt (m : Int) (e : Int) : Int :=
  let r := (roundAt .rne (m < 0) m.natAbs 1 e 0).1
  if m < 0 then -(r : Int) else r

/-- One position of the exact result, and its status (R180). -/
def bs8Sum (l : List (List Int × Nat)) : List Byte × Nat :=
  let nan := bs8Bytes (List.replicate 32 0) 0xFF
  let nz := (l.filter fun x => x.1.any fun m => m != 0).map (·.2)
  if l.any fun x => x.2 == 0xFF then (nan, 0x0007)
  else if nz.isEmpty then (bs8Bytes (List.replicate 32 0) 0, 0)
  else
    let emin := nz.foldl min 255
    let emax := nz.foldl max 0
    if 96 < emax - emin then (nan, 0x0004)
    else
      let sums := (List.range 32).map fun i =>
        (l.map fun x => if x.1.getD i 0 = 0 then 0 else x.1.getD i 0 * 2 ^ (x.2 - emin)).sum
      let out := fun (e : Nat) => sums.map fun s => rneInt s ((emin : Int) - e)
      match (List.range 255).find? fun e => (out e).all fun v => -127 ≤ v && v ≤ 127 with
      | some e => (bs8Bytes (out e) e, 0)
      | none => (nan, 0x0008)

/-- The status of a list of positions: FormatInvalid, else SpanExceeded, else RangeExceeded, else OK (R180). -/
def bs8Status (l : List Nat) : Nat :=
  if l.contains 7 then 7 else if l.contains 4 then 4 else if l.contains 8 then 8 else 0

/-- The combined data of the participants by rank, and the status (R179, R180). -/
def collResult (exact : Bool) (f count : Nat) (shares : List (List Byte)) : List Byte × Nat :=
  if exact then
    let ps := (List.range count).map fun i => bs8Sum (shares.map fun d => bs8Of d i)
    (ps.flatMap (·.1), bs8Status (ps.map (·.2)))
  else ((List.range count).flatMap (collElem f shares), 0)

/-- Record i of a graph object (R148), its kind and its octet (R149). -/
def nodeRecord (image : List Byte) (i : Nat) : List Byte := (image.drop (32 + 64 * i)).take 64
def nodeKind (image : List Byte) (i : Nat) : Nat := fieldAt (nodeRecord image i) 0 1
def nodeOct (image : List Byte) (i : Nat) : List Word := wordsOf (((nodeRecord image i).drop 16).take 32)

/-- A node of a replay as the replay engine takes it up. -/
def NodeState.start (n since : Nat) : NodeState := .running n [] ChunkWork.none since

/-- A node of a replay is in a state. -/
def State.setNode (s : State) (p r i : Nat) (st : NodeState) : State := s.modPart p fun q =>
  { q with replays := q.replays.modify r fun x => { x with nodes := x.nodes.set i st } }

/-- A participant of an all-reduce on this package (R316): a core with the block that issued it, or a replay's node (R394);
its partition, its octet, the count of the group's earlier COLLs, and what it has read of its source already. -/
structure Party where
  core : Nat
  blk : Option Nat
  node : Option (Nat × Nat)
  part : Nat
  oct : List Word
  nth : Nat
  early : List (Nat × List Byte)
  deriving DecidableEq, Repr

/-- The COLL at the head of a core's collective queue, started and not yet combined. -/
def State.collHead (s : State) (core : Nat) : Option Party :=
  match s.head? core qColl with
  | some ⟨.coll oct n, blk, true, _, _, none, _, ⟨_, _, false, _, _, _, e⟩⟩ => some ⟨core, some blk, none, s.partOf blk, oct, n, e⟩
  | _ => none

/-- The collective nodes of one replay that run and are not yet combined; a running one's progress is its count. -/
def Replay.collParties (r : Replay) (part rep : Nat) : List Party :=
  r.nodes.zipIdx.filterMap fun x => match x.1 with
    | .running n _ ⟨_, _, false, _, _, _, e⟩ _ =>
      if nodeKind r.image x.2 = 2 then some ⟨noCore, none, some (rep, x.2), part, nodeOct r.image x.2, n, e⟩ else none
    | _ => none

/-- Every participant of this package. -/
def State.parties (s : State) : List Party :=
  ((List.range s.cores.length).filterMap s.collHead) ++ s.parts.zipIdx.flatMap fun p =>
    p.1.replays.zipIdx.flatMap fun r => r.1.collParties p.2 r.2

/-- How a participant's data is translated. -/
def Party.xl (x : Party) : Translate := match x.blk with | some b => blockXl x.core b | none => replayXl x.part

/-- Do two COLLs match (R316): partition, group, n and number? -/
def Party.joins (x y : Party) : Bool :=
  x.part == y.part && (octW x.oct 5).field 16 8 == (octW y.oct 5).field 16 8 &&
    (octW x.oct 7).field 16 16 == (octW y.oct 7).field 16 16 && x.nth == y.nth

/-- The mode and format of a COLL disagree (R316). -/
def modeBad (oct : List Word) : Bool :=
  let m := (octW oct 5).field 0 4
  let f := (octW oct 5).field 4 4
  1 < m || 3 < f || (m == 1) != (f == 3)

/-- End the COLL of each participant with a status. -/
def State.collEnd (s : State) (l : List Party) (st : Nat) : State :=
  l.foldl (fun s x => match x.node with
    | some (r, i) => s.setNode x.part r i (.complete st)
    | none => s.modHead x.core qColl fun c => c.failed st) s

/-- A node of a replay with other work under way. -/
def NodeState.withWork (w : ChunkWork) : NodeState → NodeState
  | .running n l _ t => .running n l w t
  | x => x

/-- What a participant has under way. -/
def State.setWork (s : State) (x : Party) (w : ChunkWork) : State :=
  match x.node with
  | some (r, i) => s.modPart x.part fun q =>
      { q with replays := q.replays.modify r fun y => { y with nodes := y.nodes.modify i (NodeState.withWork w) } }
  | none => s.modHead x.core qColl fun c => { c with work := w }

/-- The participants have begun to read their sources (log 85). -/
def State.collBegun (s : State) (l : List (Party × List Byte)) : State :=
  l.foldl (fun s x => s.setWork x.1 { ChunkWork.none with early := [(octSrc x.1.oct, x.2)] }) s

/-- The result of a COLL stands ready at a participant: its granules are written one by one, in no order (R111), and then it ends. -/
def State.collReady (s : State) (x : Party) (outs : List (Loc × List Byte)) (st : Nat) : State :=
  if outs.isEmpty then s.collEnd [x] st
  else
    s.setWork x ⟨[], [], true, outs, st, [], []⟩

/-- One of the writes that are ready, by a free choice, is performed; and what is then left (R111, log 6). -/
def State.writeOne (s : State) (outs : List (Loc × List Byte)) : State × List (Loc × List Byte) :=
  let i := (Config.freeWord s.free).toNat % outs.length
  match outs[i]? with
  | some w => ({ s with free := s.free + 1 }.homeFill w.1 w.2, outs.eraseIdx i)
  | none => (s, [])

/-- All the writes that are ready are performed. -/
def State.writeOuts (s : State) (outs : List (Loc × List Byte)) : State := outs.foldl (fun s w => s.homeFill w.1 w.2) s

/-- The COLL at the head of a core's collective queue with a result that is being written. -/
def State.collBusy (s : State) (core : Nat) : Option ChunkWork :=
  match s.head? core qColl with
  | some ⟨.coll _ _, _, true, _, _, none, _, w⟩ => if w.busy then some w else none
  | _ => none

/-- Write bytes from an address on, granule by granule, for a block's command. -/
def State.writeSpan (s : State) (tr : Translate) (blk : Option Nat) (ea : Nat) (bytes : List Byte) : CopyR :=
  (granulesOf ea bytes.length).foldl (fun r g => match r with
    | .ok s =>
      let (lo, n) := granuleSpan ea bytes.length g
      s.writeGranule tr blk [] lo ((bytes.drop (lo - ea)).take n)
    | r => r) (.ok s)

/-- The homes of the granules of a destination of n bytes, each with where in the data it begins and how much of it the granule takes; a
granule that cannot be written whole and cannot be read ends the command (R46, R69). -/
def State.planSpan (s : State) (tr : Translate) (k : Access) (blk : Option Nat) (ea n : Nat) :
    Except CopyR (State × List (List Loc × Nat × Nat)) :=
  (granulesOf ea n).foldl (fun r g => match r with
    | .error e => .error e
    | .ok (s, ls) =>
      let (lo, m) := granuleSpan ea n g
      match s.targets tr k blk [] lo m with
      | .error e => .error e
      | .ok (s, l) =>
        if l.any (s.badTarget m) then
          .error (.fail (l.foldl (fun s x => if s.badTarget m x then s.poisonHome x else s) s) 0x0002)
        else .ok (s, ls ++ [(l, lo - ea, m)])) (.ok (s, []))

/-- The writes of some data at the homes of a plan. -/
def planned (data : List Byte) (l : List (List Loc × Nat × Nat)) : List (Loc × List Byte) :=
  l.flatMap fun x => x.1.map fun y => (y, (data.drop x.2.1).take x.2.2)

/-- The sources of the local participants, each with the checks of its destination, one after another; the first that fails decides. -/
def State.collSources (bytes : Nat) : List Party → State → Except CopyR (State × List (List Byte))
  | [], s => .ok (s, [])
  | x :: r, s =>
    match State.readSpan x.xl (bytes / 4096 + 2) s (octSrc x.oct) bytes with
    | .error e => .error e
    | .ok (s, d) => match s.planSpan x.xl .plan x.blk (octDst x.oct) bytes with
      | .error e => .error e
      | .ok (s, _) => match State.collSources bytes r s with
        | .error e => .error e
        | .ok (s, ds) => .ok (s, d :: ds)

/-- The homes of the destinations of the local participants, which are about to be written. -/
def State.collHomes (bytes : Nat) : List Party → State → Except CopyR (State × List (List (List Loc × Nat × Nat)))
  | [], s => .ok (s, [])
  | x :: r, s => match s.planSpan x.xl .store x.blk (octDst x.oct) bytes with
    | .error e => .error e
    | .ok (s, ls) => match State.collHomes bytes r s with
      | .error e => .error e
      | .ok (s, ds) => .ok (s, ls :: ds)

/-- The data of the local participants and the homes of their results (R316, R371). Every chunk of every local participant is translated and
checked before a granule of a result is written: R46 gives no such order for COLL (log 87). -/
def State.collData (s : State) (bytes : Nat) (l : List Party) :
    Except CopyR (State × List (List Byte) × List (List (List Loc × Nat × Nat))) :=
  match State.collSources bytes l s with
  | .error e => .error e
  | .ok (s, ds) => match State.collHomes bytes l s with
    | .error e => .error e
    | .ok (s, hs) => .ok (s, ds, hs)

/-- Is a COLL one that ends with FormatInvalid for every participant it is matched with (R316)? -/
def collWrong (oct : List Word) : Bool := modeBad oct || (octW oct 7).field 16 16 ≤ (octW oct 7).field 0 16

/-- Every participant's rank, count, mode and format agree (R316). -/
def collAgree (locals : List Party) (remote : List CollShare) (oct : List Word) : Bool :=
  let n := (octW oct 7).field 16 16
  let f := (octW oct 5).field 4 4
  let count := (octW oct 4).toNat
  let ranks := (locals.map fun x => (octW x.oct 7).field 0 16) ++ remote.map (·.rank)
  ranks.Nodup && (ranks.all fun r => r < n) &&
    (locals.all fun x => octW x.oct 4 == octW oct 4 && (octW x.oct 5).field 0 8 == (octW oct 5).field 0 8) &&
    (remote.all fun r => r.count == count && r.format == f && r.data.length == collSize f * count)

/-- Perform a matched COLL (R316): its participants begin to read, or have read and receive the result. -/
def State.collPerform (s : State) (locals : List Party) (remote : List CollShare) (oct : List Word) : State :=
  let n := (octW oct 7).field 16 16
  let f := (octW oct 5).field 4 4
  let count := (octW oct 4).toNat
  if !collAgree locals remote oct || modeBad oct then s.collEnd locals 0x0007
  else
    let bytes := collSize f * count
    match s.collData bytes locals with
    | .error (.wait s) => s
    | .error (.fail s st) => s.collEnd locals st
    | .error (.ok s) => s
    | .ok (s, ds, hs) =>
      if bytes ≠ 0 && locals.any fun x => x.early.isEmpty then s.collBegun (locals.zip ds)
      else
        let ds := (locals.zip ds).map fun x => s.mixed x.1.early (octSrc x.1.oct) x.2
        let s := s.mixedMuch locals.length bytes
        let all := (locals.map fun x => (octW x.oct 7).field 0 16).zip ds ++ remote.map fun r => (r.rank, r.data)
        let shares := (List.range n).map fun r => ((all.find? fun x => x.1 == r).map (·.2)).getD []
        let out := collResult ((octW oct 5).field 0 4 == 1) f count shares
        (locals.zip hs).foldl (fun s x => s.collReady x.1 (planned out.1 x.2) out.2) s

/-- Combine a participant's COLL with those that match it and the shares of other packages, once all n are there. -/
def State.collTry (s : State) (x : Party) (remote : List CollShare) : State :=
  let locals := s.parties.filter x.joins
  if locals.length + remote.length = (octW x.oct 7).field 16 16 then s.collPerform locals remote x.oct else s

/-- COLL_COMBINE (R316): the COLL at the head of a core's collective queue begins to read, is combined, or one granule of its result is
written. -/
def execCollCombine (core : Nat) (remote : List CollShare) (s : State) : Host.Outcome State Fault Refusal :=
  match s.collBusy core, s.collHead core with
  | some w, _ =>
    let x := s.writeOne w.outs
    .next (x.1.modHead core qColl fun c => if x.2.isEmpty then c.failed w.status else { c with work := { w with outs := x.2 } })
  | none, some x => .next (s.collTry x remote)
  | none, none => .next s

/-- The cycles that the collective nodes of a partition's replays are timed by: those of its first core (log 55). -/
def State.replayClock (s : State) (p : Nat) : Nat := (s.core (((s.part p).cores.head?).getD 0)).cycles

/-- Has a participant waited for 2^24 cycles (R316)? -/
def State.collLate (s : State) (x : Party) : Bool :=
  match x.node with
  | some (r, i) => match ((s.part x.part).replays[r]?).bind fun y => y.nodes[i]? with
    | some (.running _ _ _ since) => since + 2 ^ 24 ≤ s.replayClock x.part
    | _ => false
  | none => match s.head? x.core qColl with
    | some c => c.since + 2 ^ 24 ≤ (s.core x.core).cycles
    | none => false

/-- What COLL_PEER_TIMEOUT of a core ends: its own COLL, or a collective node of a partition whose first core it is. -/
def State.lateParty (s : State) (core : Nat) : Option Party :=
  (s.parties.filter fun x => if x.blk.isSome then x.core == core else (s.part x.part).cores.head? == some core).find? s.collLate

/-- COLL_PEER_TIMEOUT (R316): 2^24 cycles of the issuing core without a match end it with PeerUnreachable, for every
participant that has issued; or with FormatInvalid where one of these is wrong in itself or two of them disagree. -/
def execCollPeerTimeout (core : Nat) (s : State) : Host.Outcome State Fault Refusal :=
  match s.lateParty core with
  | some x =>
    let l := s.parties.filter x.joins
    .next (s.collEnd l (if collAgree l [] x.oct && l.all fun y => !collWrong y.oct then 0x0005 else 0x0007))
  | none => .next s

end Sys2Proof.Machine
end

