-- ==== Sys2Proof/Machine/Residency.lean ====
section
/-! DEFINITION. Residency: the tables as the resident service reads and writes them, migration (R73 to R77), what follows a
save for a fault (R80, R81), shootdowns (R87 to R89), the dirty-log drain (R86), the patrol scrub and retention (R70, R71),
and the clearing of poison (R370). -/

namespace Sys2Proof.Machine

/-! ### The tables as the service reads them -/

/-- A leaf as the service finds it: its level, its entry's address, the entry. -/
structure LeafAt where
  level : Nat
  ent : Nat
  pte : Addr
  deriving DecidableEq, Repr

/-- The leaf of a virtual address from a level down, without any effect. -/
def State.leafFrom (s : State) (va : Nat) : Nat → Nat → Option LeafAt
  | level, node =>
    let ent := node + 8 * (va / 2 ^ (12 + levelShift level) % 512)
    let e := s.readEntry ent
    if !Pte.v e then none
    else if Pte.leaf e then some ⟨level, ent, e⟩
    else match level with
      | 0 => none
      | n + 1 => s.leafFrom va n (Pte.frame e * 4096)

/-- The leaf of a virtual address of a partition. -/
def State.leafOf (s : State) (part va : Nat) : Option LeafAt :=
  let root := (s.part part).root.toNat * 4096
  if (s.part part).owns root then s.leafFrom va 3 root else none

/-- Every valid leaf under a node, with its first virtual page number. -/
def State.leavesUnder (s : State) : Nat → Nat → Nat → List (Nat × LeafAt)
  | level, node, vpn => (List.range 512).flatMap fun i =>
    let e := s.readEntry (node + 8 * i)
    let v := vpn + i * 2 ^ levelShift level
    if !Pte.v e then []
    else if Pte.leaf e then [(v, ⟨level, node + 8 * i, e⟩)]
    else match level with
      | 0 => []
      | n + 1 => s.leavesUnder n (Pte.frame e * 4096) v

/-- The free frames of a tier that may be handed out. -/
def State.freeFrames (s : State) (part : Nat) (near : Bool) : List Nat :=
  (if near then (s.part part).freeNear else (s.part part).freeFar).filter s.clean

/-- Take frames from the free lists. -/
def State.takeFrames (s : State) (part : Nat) (fs : List Nat) : State := s.modPart part fun p =>
  { p with freeNear := p.freeNear.filter fun f => !fs.contains f, freeFar := p.freeFar.filter fun f => !fs.contains f }

/-- Return a frame to its free list; a poisoned one is cleared by the poison duty (R370). -/
def State.returnFrame (part : Nat) (s : State) (f : Nat) : State :=
  let s := s.modPart part fun p => if (nearSlice (f * 4096)).isSome then { p with freeNear := insertUp f p.freeNear }
    else { p with freeFar := insertUp f p.freeFar }
  if s.clean f then s else s.want (.poisonClear part (s.podPage f))

/-- The pages of n bytes. -/
def pageCount (n : Nat) : Nat := (n + 4095) / 4096

/-- Write bytes into frames, page by page, the rest of each page zero. -/
def State.fillFrames (s : State) (fs : List Nat) (bytes : List Byte) : State :=
  fs.zipIdx.foldl (fun s x =>
    let a := s.podPage x.1 * 4096
    { s with mem := Mem.putN (Mem.erase s.mem a 4096) a ((bytes.drop (4096 * x.2)).take 4096),
             badNear := stillBad s.badNear a 4096, softNear := stillSoft s.softNear a 4096 }) s

/-! ### Ready blocks (R81) -/

/-- Is a block saved and ready? -/
def Block.ready (b : Block) : Bool := match b.place with | .saved r _ => r | _ => false

/-- The blocks that are restored together with a saved block: of a C grid with its reserved room the block alone, or with its other copy;
of one without its reservation all such blocks of the grid; else the quad group and the other copy (R81, R157, R365). -/
def State.restoreGroup (s : State) (blk : Nat) : List Nat :=
  let alive := fun (k : Nat) => ((s.blocks[k]?).map fun b => b.place != .ended).getD false
  match s.blocks[blk]? with
  | none => []
  | some b =>
    if (s.kernel blk).cls = .c then
      if b.homeCore < 72 then (blk :: b.partner.toList).filter alive
      else (List.range s.blocks.length).filter fun k => alive k && match s.blocks[k]? with
        | some x => x.grid == b.grid && 72 ≤ x.homeCore
        | none => false
    else (s.members blk).filter alive

/-- A block that is ready with all that are restored with it stands in the dispatch queue of its priority, once (R81, log 80); one of a
C grid goes into its reserved room without it (R157). -/
def State.enqueueReady (s : State) (blk : Nat) : State :=
  match s.blocks[blk]?, s.grid? blk with
  | some b, some g =>
    let l := s.restoreGroup blk
    if !l.all fun k => ((s.blocks[k]?).map Block.ready).getD false then s
    else if g.kernel.cls = .c && b.homeCore < 72 then s.want (.blockRestore blk)
    else if (s.part g.part).repaired.any fun r => l.contains r.2 then s
    else (s.modPart g.part fun p => { p with repaired := p.repaired ++ (l.take 1).map fun k => (g.prio, k) }).wantAll
      ((l.take 1).map Event.blockRestore)
  | _, _ => s

/-- A saved block becomes ready (R81). -/
def State.makeReady (s : State) (blk : Nat) : State :=
  match (s.blocks[blk]?).map Block.place with
  | some (.saved false why) => (s.modBlock blk fun b => { b with place := .saved true why }).enqueueReady blk
  | _ => s

/-- The saved blocks of a partition that wait for a repair, with the reason. -/
def State.waitingBlocks (s : State) (part : Nat) : List (Nat × SaveWhy) :=
  s.blocks.zipIdx.filterMap fun x => match x.1.place with
    | .saved false why => if s.partOf x.2 = part then some (x.2, why) else none
    | _ => none

/-- Post the event of a saved block for the hypervisor, once (R80, R395). -/
def State.noticeRepair (s : State) (part blk : Nat) (why : SaveWhy) : State :=
  if s.svc.mailbox.any fun n => n.waiting == some (.repair blk) then s
  else s.notify part 0 (why.cause :: why.sub :: why.units) (some (.repair blk))

/-! ### Migration (R74 to R77) -/

/-- The first virtual page of the 64 KiB unit of an address (R74). -/
def unitPage (va : Nat) : Nat := va / 65536 * 16

/-- Does a leaf map a page that is exported to another package? It counts as pinned (R73). -/
def State.exportsLeaf (s : State) (l : LeafAt) : Bool :=
  s.parts.any fun p => p.exports.any fun e =>
    Pte.frame l.pte < e.2.2.1 + e.2.2.2 && e.2.2.1 < Pte.frame l.pte + 2 ^ levelShift l.level

/-- May a leaf of a group be moved (R74)? -/
def State.movable (s : State) (toNear : Bool) (l : LeafAt) : Bool :=
  Pte.pkg l.pte == s.pkg && !Pte.mig l.pte && Pte.tier l.pte == toNear && (toNear || !(Pte.pin l.pte || s.exportsLeaf l))

/-- The pages of a unit that a migration moves, as (virtual page, pages): the eligible 4 KiB leaves of the group, or one
2 MiB leaf whole (R74). -/
def State.moveSet (s : State) (part va : Nat) (toNear : Bool) : List (Nat × Nat) :=
  match s.leafOf part va with
  | none => []
  | some l =>
    if l.level = 1 then (if s.movable toNear l then [(va / 2 ^ 21 * 512, 512)] else [])
    else if l.level = 0 then
      (List.range 16).filterMap fun i => match s.leafOf part (4096 * (unitPage va + i)) with
        | some l => if l.level = 0 && s.movable toNear l then some (unitPage va + i, 1) else none
        | none => none
    else []

/-- Destination frames for a move set: a 64 KiB-aligned base at which each page keeps its offset, or a 2 MiB-aligned range
(R74). -/
def placeMoves (free : List Nat) (l : List (Nat × Nat)) : Option (List (Nat × Nat × Nat)) :=
  let align := if l.any fun x => x.2 == 512 then 512 else 16
  let at_ := fun (base : Nat) => l.map fun x => (x.1, x.2, base + x.1 % align)
  let fits := fun (base : Nat) => (at_ base).all fun x => (List.range x.2.1).all fun j => free.contains (x.2.2 + j)
  (((free.map fun f => f / align * align).dedup).find? fits).map at_

/-- The frames of destinations. -/
def moveFrames (l : List (Nat × Nat × Nat)) : List Nat := l.flatMap fun x => (List.range x.2.1).map (x.2.2 + ·)

/-- The migration in progress that moves a virtual page of a partition. -/
def State.moveOf (s : State) (part vpn : Nat) : Option Migration :=
  s.svc.moves.find? fun m => m.part == part && m.leaves.any fun x => x.1 ≤ vpn && vpn < x.1 + x.2.1

/-- Change a leaf's entry. -/
def State.modLeaf (s : State) (part vpn : Nat) (f : Addr → Addr) : State :=
  match s.leafOf part (4096 * vpn) with
  | some l => s.writeEntry l.ent (f l.pte)
  | none => s

/-- Send a shootdown to every core of a partition (R88). -/
def State.sendShootdown (s : State) (part vpn pages : Nat) (exec : Bool) : State :=
  s.wantAll ((s.part part).cores.map fun c => .shootdown c part (Addr.ofNat (4096 * vpn)) (4096 * pages) exec)

/-- The acknowledgements of the shootdowns that are sent now for some ranges of pages, by every core of a partition (R75, R88). -/
def State.awaitAcks (s : State) (part : Nat) (exec : Bool) (ranges : List (Nat × Nat)) : AckWait :=
  ⟨s.svc.shootNum, exec, (s.part part).cores.flatMap fun c => ranges.map fun r => (c, r.1, r.2)⟩

/-- Steps 1 and 2 of R75: MIG is set in each leaf, and the shootdown of the moved range is sent. -/
def State.startMove (s : State) (part : Nat) (l : List (Nat × Nat × Nat)) (toNear : Bool) : State :=
  let s := (s.takeFrames part (moveFrames l))
  let s := l.foldl (fun s x => s.modLeaf part x.1 fun e => e ||| 0x800#64) s
  let m : Migration := ⟨part, l, toNear, s.awaitAcks part false (l.map fun x => (x.1, x.2.1))⟩
  let s := { s with svc := { s.svc with moves := s.svc.moves ++ [m] } }
  let s := l.foldl (fun s x => s.sendShootdown part x.1 x.2.1 false) s
  if m.acks.left.isEmpty then s.want (.migration part (Addr.ofNat (4096 * ((l.head?).map (·.1)).getD 0)) toNear) else s

/-- The blocks of a partition that wait for a virtual page's unit. -/
def State.waitersOf (s : State) (part va : Nat) : List (Nat × SaveWhy) :=
  (s.waitingBlocks part).filter fun x => x.2.cause == 0x22 && x.2.units.any fun u => unitPage u == unitPage va

/-- A fault that hardware mode cannot serve is passed to the host-assisted path (R74, R80). -/
def State.passToHost (s : State) (part va : Nat) : State :=
  (s.waitersOf part va).foldl (fun s x => s.noticeRepair part x.1 x.2) s

/-- The units of a partition that may be migrated out to make room (R80), each by its first page and its pages: groups of 4 KiB leaves and
2 MiB leaves of the near tier that are not pinned; none of a faulting unit or of one in migration. -/
def State.victims (s : State) (part : Nat) : List (Nat × Nat) :=
  let root := (s.part part).root.toNat * 4096
  let ls := (s.leavesUnder 3 root 0).filter fun x => x.2.level ≤ 1 && s.movable false x.2
  let faulting := (s.waitingBlocks part).flatMap fun x => x.2.units.map (· / 4096)
  ((ls.map fun x => if x.2.level = 0 then (x.1 / 16 * 16, 16) else (x.1, 512)).dedup).filter fun u =>
    !(faulting.any fun p => u.1 ≤ p && p < u.1 + u.2) &&
    (List.range 16).all fun i => (s.moveOf part (u.1 + i)).isNone && match s.leafOf part (4096 * (u.1 + i)) with
      | some l => !Pte.mig l.pte
      | none => true

/-- Was no page of a unit accessed (AC = 0, R80)? -/
def State.idleUnit (s : State) (part : Nat) (u : Nat × Nat) : Bool :=
  (List.range 16).all fun i => match s.leafOf part (4096 * (u.1 + i)) with
    | some l => !Pte.ac l.pte
    | none => true

/-- The victim: a unit with AC = 0 if one exists, else the one least recently migrated in; a unit that never migrated in
counts as the oldest (R80, log 37). -/
def State.victim (s : State) (part : Nat) : Option Nat :=
  let vs := s.victims part
  match vs.find? (s.idleUnit part) with
  | some u => some u.1
  | none =>
    let order := (s.part part).migratedIn
    match vs.find? fun u => !order.contains u.1 with
    | some u => some u.1
    | none => order.find? (vs.map (·.1)).contains

/-- Is an address near-resident and not migrating, or without a leaf, so that its lanes may issue again (R80)? -/
def State.nearNow (s : State) (part va : Nat) : Bool :=
  match s.leafOf part va with
  | some l => Pte.pkg l.pte != s.pkg || (!Pte.tier l.pte && !Pte.mig l.pte)
  | none => true

/-- Start a migration of the unit of an address; without free frames a near unit is first migrated out. A far leaf in which the host or
software has set MIG is passed to the host-assisted path (R80). -/
def State.beginMove (s : State) (part va : Nat) (toNear : Bool) : State :=
  match s.moveSet part va toNear with
  | [] => if toNear && !s.nearNow part va then s.passToHost part va else s
  | l => match placeMoves (s.freeFrames part toNear) l with
    | some l => s.startMove part l toNear
    | none =>
      if !toNear then s
      else if s.svc.moves.any fun m => m.part == part && !m.toNear then s
      else if l.any fun x => x.2 == 512 then s.passToHost part va
      else match s.victim part with
        | none => s.passToHost part va
        | some u => match s.moveSet part (4096 * u) false with
          | [] => s.passToHost part va
          | m => match placeMoves (s.freeFrames part false) m with
            | some m => s.startMove part m false
            | none => s.passToHost part va

/-- Copy one page of a migration: a source page in error is poisoned, and poison stays with the data (R69, R76). -/
def State.movePage (s : State) (src dst : Nat) : State :=
  let a := s.podPage src * 4096
  let b := s.podPage dst * 4096
  let s := s.correct (.phys a) 4096
  let s := if s.homeBad (.phys a) 4096 then s.poisonPage (s.podPage src) else s
  let s' := { s with mem := Mem.move s.mem a b 4096, badNear := stillBad s.badNear b 4096, softNear := stillSoft s.softNear b 4096 }
  if s.poison.contains (s.podPage src) then s'.poisonPage (s.podPage dst) else s'

/-- A home goes with its page (R75). -/
def Loc.follow (src dst : Nat) (l : Loc) : Loc :=
  match l with
  | .phys pa => if pa / 4096 = src then .phys (dst * 4096 + pa % 4096) else l
  | .win _ _ => l

/-- A quarantined write goes with its page: its home is where the page now lies (R75, R113). -/
def QWrite.follow (src dst : Nat) (w : QWrite) : QWrite := { w with loc := w.loc.follow src dst }

/-- A wait that keeps homes goes with their page (R76). -/
def Park.follow (src dst : Nat) : Park → Park
  | .sealRest l => .sealRest (l.map fun x => (x.1, x.2.1.follow src dst, x.2.2))
  | .atomic r => .atomic { r with loc := r.loc.follow src dst }
  | p => p

/-- What a thread keeps of homes and of memory goes with a page (R76, R114). -/
def Thread.follow (src dst : Nat) (th : Thread) : Thread :=
  { th with park := th.park.map (Park.follow src dst),
            acq := Mem.move th.acq (src * 4096) (dst * 4096) 4096, table := Mem.move th.table (src * 4096) (dst * 4096) 4096 }

/-- The quarantined writes of every block, and what its threads keep, go with a page (R76, R113, R114). -/
def State.followPage (s : State) (src dst : Nat) : State :=
  let f := fun (b : Block) =>
    { b with quarantine := b.quarantine.map (QWrite.follow src dst), threads := b.threads.map (Thread.follow src dst) }
  { s with blocks := s.blocks.map f }

/-- Steps 4 to 6 of R75 for one leaf. -/
def State.moveLeaf (part : Nat) (toNear : Bool) (s : State) (x : Nat × Nat × Nat) : State :=
  match s.leafOf part (4096 * x.1) with
  | none => s
  | some l =>
    let old := Pte.frame l.pte
    let s := (List.range x.2.1).foldl (fun s j => (s.movePage (old + j) (x.2.2 + j)).followPage (s.podPage (old + j))
      (s.podPage (x.2.2 + j))) s
    let keep := l.pte &&& ~~~(0x3FFFFFFFF000#64 ||| 0xA00#64)
    let s := s.writeEntry l.ent (keep ||| Addr.ofNat (x.2.2 * 4096) ||| (if toNear then 0#64 else 0x200#64))
    ((List.range x.2.1).map (old + ·)).foldl (State.returnFrame part) s

/-- Does the leaf of an address migrate? -/
def State.migrating (s : State) (part va : Nat) : Bool := ((s.leafOf part va).map fun l => Pte.mig l.pte).getD false

/-- After a migration: a block that MIG has stopped becomes ready once its units have MIG clear, one that the hardware serves once they are
near; the migrations that others wait for are asked for again, unless the hypervisor has them (R80). -/
def State.settleWaiting (s : State) (part : Nat) : State :=
  (s.waitingBlocks part).foldl (fun s x =>
    if x.2.cause ≠ 0x22 || s.svc.mailbox.any fun n => n.waiting == some (.repair x.1) then s
    else if x.2.sub = 0x03 then (if x.2.units.any (s.migrating part) then s else s.makeReady x.1)
    else if x.2.units.all (s.nearNow part) then s.makeReady x.1
    else s.wantAll ((x.2.units.filter fun u => !s.nearNow part u).map fun u => .migration part (Addr.ofNat u) true)) s

/-- The end of a migration: the data moves, the leaves are written, the old frames are freed. -/
def State.endMove (s : State) (m : Migration) : State :=
  let s := { s with svc := { s.svc with moves := s.svc.moves.erase m } }
  let s := m.leaves.foldl (State.moveLeaf m.part m.toNear) s
  let us := (m.leaves.map fun x => x.1 / 16 * 16).dedup
  (s.modPart m.part fun p => { p with migratedIn := (p.migratedIn.filter fun u => !us.contains u) ++ if m.toNear then us else [] }).settleWaiting
    m.part

/-- Does a migration touch a slice that is in retention (R71)? -/
def State.moveHeld (s : State) (m : Migration) : Bool :=
  m.leaves.any fun x => s.retained (.phys (s.podPage x.2.2 * 4096)) || match s.leafOf m.part (4096 * x.1) with
    | some l => s.retained (.phys (s.podPage (Pte.frame l.pte) * 4096))
    | none => false

/-! ### Changes of the tables that wait for acknowledgements (R88, R89), and page-table nodes that move (R38) -/

/-- What the service does once every core has acknowledged (R89, R38). -/
def State.afterAck (s : State) (c : TableChange) : State :=
  match c.act with
  | .setFlags vpn flags => s.modLeaf c.part vpn fun e => e ||| Addr.ofNat flags
  | .freeNode f => State.returnFrame c.part s f

/-- The changes of tables whose acknowledgements have all come are made. -/
def State.settleChanges (s : State) : State :=
  let now := s.svc.changes.filter fun c => c.acks.left.isEmpty
  now.foldl State.afterAck { s with svc := { s.svc with changes := s.svc.changes.filter fun c => !c.acks.left.isEmpty } }

/-- The table entry of a level on the walk of an address, with its address, if the walk comes to it. -/
def State.entryAt (s : State) (va want : Nat) : Nat → Nat → Option (Nat × Addr)
  | level, node =>
    let ent := node + 8 * (va / 2 ^ (12 + levelShift level) % 512)
    let e := s.readEntry ent
    if level = want then some (ent, e)
    else if !Pte.v e || Pte.leaf e then none
    else match level with
      | 0 => none
      | n + 1 => s.entryAt va want n (Pte.frame e * 4096)

/-- The service begins to move the node that a table entry names, into a free frame of its tier: MIG is set in the entry, and a walk waits
there (R38). At most one node of a partition moves at a time. -/
def State.startNode (s : State) (part va level : Nat) : State :=
  let root := (s.part part).root.toNat * 4096
  if level = 0 || 3 < level || !(s.part part).owns root || s.svc.nodes.any fun n => n.part == part then s
  else match s.entryAt va level 3 root with
    | none => s
    | some (ent, e) =>
      if !Pte.v e || Pte.leaf e || Pte.mig e then s
      else match s.freeFrames part (!Pte.tier e) with
        | [] => s
        | f :: _ =>
          let s := (s.takeFrames part [f]).writeEntry ent (e ||| 0x800#64)
          ({ s with svc := { s.svc with nodes := s.svc.nodes ++ [⟨part, va, level, ent, f⟩] } } : State).want
            (.migration part (Addr.ofNat va) true)

/-- The node is copied as one 4 KiB command on the table channel, its entry names the new frame with MIG clear, and a shootdown of what it
maps is sent; the old frame is free once every core has acknowledged (R38, R88, log 15). -/
def State.endNode (s : State) (n : NodeMove) : State :=
  let e := s.readEntry n.ent
  let old := Pte.frame e
  let s := (s.movePage old n.frame).followPage (s.podPage old) (s.podPage n.frame)
  let s := s.writeEntry n.ent ((e &&& ~~~(0x3FFFFFFFF000#64 ||| 0x800#64)) ||| Addr.ofNat (n.frame * 4096))
  let pages := 2 ^ levelShift n.level
  let vpn := n.va / 4096 / pages * pages
  let c : TableChange := ⟨n.part, .freeNode old, s.awaitAcks n.part false [(vpn, pages)]⟩
  (State.sendShootdown { s with svc := { s.svc with nodes := s.svc.nodes.erase n, changes := s.svc.changes ++ [c] } } n.part vpn pages
    false).settleChanges

/-- MIGRATION (R75): the first step sets MIG and sends the shootdown; once every core has acknowledged, the second moves the
unit. A page-table node of the partition that is to move is moved first (R38). -/
def execMigration (part : Nat) (va : Addr) (toNear : Bool) (s : State) : Host.Outcome State Fault Refusal :=
  match s.svc.nodes.find? fun n => n.part == part with
  | some n => .next ((s.endNode n).want (.migration part va toNear))
  | none => match s.moveOf part (va.toNat / 4096) with
    | some m => if m.acks.left.isEmpty && !s.moveHeld m then .next (s.endMove m) else .next s
    | none => .next (s.beginMove part va.toNat toNear)

/-! ### After the save of a faulting block (R80) -/

/-- The service of a saved block by its cause, its subcode and the duty map (R80, R156). -/
def State.serveSaved (s : State) (part blk : Nat) (why : SaveWhy) : State :=
  if why.cause = 0 then s.makeReady blk
  else if why.cause = 0x40 then s.want (.queueQuotaRestore blk)
  else if why.cause = 0x22 && why.sub = 0x01 && !why.host then
    if why.units.all (s.nearNow part) then s.makeReady blk
    else why.units.foldl (fun s u => match s.leafOf part u with
      | some l => if l.level = 2 then s.passToHost part u else s.want (.migration part (Addr.ofNat u) true)
      | none => s) s
  else if why.cause = 0x22 && why.sub = 0x03 && !(why.units.any (s.migrating part)) then s.makeReady blk
  else if why.cause = 0x22 && why.sub = 0x03 && (why.units.filter (s.migrating part)).all fun u => (s.moveOf part (u / 4096)).isSome then s
  else s.noticeRepair part blk why

/-! ### Shootdowns (R88) -/

/-- Do two ranges of pages overlap? -/
def pagesMeet (a n b m : Nat) : Bool := a < b + m && b < a + n

/-- A core without the translations of a range (R88 step 1). -/
def Core.dropRange (c : Core) (part vpn pages : Nat) : Core :=
  { c with
    tlb := c.tlb.filter fun e => !(e.part == part && pagesMeet e.vpn e.pages vpn pages),
    walkCache := c.walkCache.filter fun e => !(e.part == part &&
      pagesMeet (e.prefix_ * 2 ^ levelShift e.level) (2 ^ levelShift e.level) vpn pages) }

/-- A strand without the words of a range that it holds for execution (R88 step 3). -/
def Strand.dropRange (k : Strand) (lo n : Nat) : Strand :=
  let has := fun (l : List (Nat × Word)) => l.any fun w => lo < w.1 + 4 && w.1 < lo + n
  if has k.prefetched || (k.loopBuf.map fun b => has b.words).getD false then k.discard else k

/-- A block without the extents, and where execute is revoked without the held words, of a range (R49, R88). -/
def Block.dropRange (b : Block) (vpn pages lo n : Nat) (exec : Bool) : Block :=
  { b with
    extents := b.extents.filter fun e => !pagesMeet e.vbase e.pages vpn pages,
    strands := if exec then b.strands.map fun k => k.dropRange lo n else b.strands }

/-- The pages of a range of addresses. -/
def pagesOf (lo n : Nat) : Nat × Nat := if n = 0 then (lo / 4096, 0) else (lo / 4096, (lo + n - 1) / 4096 - lo / 4096 + 1)

/-- SHOOTDOWN (R88): a core receives a shootdown; between two steps every strand of it is at an instruction boundary. -/
def execShootdown (core part : Nat) (va : Addr) (len : Nat) (exec : Bool) (s : State) : Host.Outcome State Fault Refusal :=
  let (vpn, pages) := pagesOf va.toNat len
  let n := s.svc.shootNum
  let s := s.modCore core fun c => { c.dropRange part vpn pages with shoots := c.shoots ++ [⟨part, va.toNat, len, exec, n⟩] }
  let s := { s with svc := { s.svc with shootNum := n + 1 } }
  let drop := fun (x : Block × Nat) =>
    if x.1.place == .onCore core && s.partOf x.2 == part then x.1.dropRange vpn pages va.toNat len exec else x.1
  let s := { s with blocks := s.blocks.zipIdx.map drop }
  .next (s.want (.shootdownAck core))

/-- The acknowledgements still to come once a core has acknowledged what it has received. -/
def AckWait.acked (a : AckWait) (part core : Nat) (l : List Shootdown) : AckWait :=
  { a with left := a.left.filter fun x => !(x.1 == core && l.any fun d =>
      d.part == part && a.since ≤ d.num && (d.exec || !a.exec) && d.va ≤ 4096 * x.2.1 && 4096 * (x.2.1 + x.2.2) ≤ d.va + d.len) }

/-- What the head of a queue of a core has translated and is writing is written to the end of its chunk (R76). -/
def State.settleHead (core : Nat) (parts : List Nat) (s : State) (q : Nat) : State :=
  match s.head? core q with
  | none => s
  | some c =>
    if !parts.contains (s.partOf c.blk) || c.fin.isSome then s
    else if c.work.busy then
      (s.writeOuts c.work.outs).modHead core q fun c => if q = qDraw then c.cleared (!c.left.isEmpty) else c.failed c.work.status
    else match c.op, c.left with
      | .copy oct, _ :: _ => match s.chunkStep (blockXl core c.blk) (some c.blk) oct c.pos [] with
        | (.ok s, p) => s.modHead core q fun c => c.stepped (octW oct 4).toNat p
        | (.fail s st, _) => s.modHead core q fun c => c.failed st
        | (.wait s, _) => s
      | _, _ => s

/-- The same for one node of a replay (R76, R394). -/
def State.settleNode (part rep : Nat) (image : List Byte) (s : State) (x : NodeState × Nat) : State :=
  match x.1 with
  | .running n left w since =>
    if w.busy then (s.writeOuts w.outs).setNode part rep x.2 (.complete w.status)
    else match left with
      | [] => s
      | _ :: _ =>
        let oct := nodeOct image x.2
        match s.chunkStep (replayXl part) none oct ⟨n, left, w⟩ [] with
        | (.ok s, p) => s.setNode part rep x.2 (if (octW oct 4).toNat ≤ p.done then .complete 0 else .running p.done p.left p.work since)
        | (.fail s st, _) => s.setNode part rep x.2 (.complete st)
        | (.wait s, _) => s
  | _ => s

/-- The same for the replays of a partition. -/
def State.settleReplays (s : State) (part : Nat) : State :=
  (s.part part).replays.zipIdx.foldl (fun s r => r.1.nodes.zipIdx.foldl (State.settleNode part r.2 r.1.image) s) s

/-- Every write that the blocks of some partitions on a core have translated and not yet performed is performed, and what an engine has
translated of a chunk is moved; the replay engine acknowledges with the partition's first core (R76, log 12, log 55). -/
def State.settleWrites (s : State) (core : Nat) (parts : List Nat) : State :=
  let s := ((List.range s.blocks.length).filter fun k => s.coreOf k == some core && parts.contains (s.partOf k)).foldl
    (fun s k => (s.drainBlock k).finishAtomics k) s
  let s := [0, 1, 2, 3, qColl, qDraw].foldl (State.settleHead core parts) s
  (parts.filter fun p => (s.part p).cores.head? == some core).foldl State.settleReplays s

/-- A page goes from executable to writable, or the reverse (R89): the flag that goes is cleared, the shootdown is sent, and the other flag
is set after every acknowledgement. Of a leaf that has not the flag that is to go, nothing changes. -/
def State.changeAccess (s : State) (part va : Nat) (toWrite : Bool) : State :=
  match s.leafOf part va with
  | none => s
  | some l =>
    if !(if toWrite then Pte.ex l.pte else Pte.wr l.pte) then s
    else
      let pages := 2 ^ levelShift l.level
      let vpn := va / 4096 / pages * pages
      let s := s.writeEntry l.ent (l.pte &&& ~~~(if toWrite then 0x10#64 else 0x08#64))
      let c : TableChange := ⟨part, .setFlags vpn (if toWrite then 0x08 else 0x10), s.awaitAcks part toWrite [(vpn, pages)]⟩
      (State.sendShootdown { s with svc := { s.svc with changes := s.svc.changes ++ [c] } } part vpn pages toWrite).settleChanges

/-- SHOOTDOWN_ACK (R88): a core acknowledges what it has received, its writes made with the old translations performed
(R76); a migration or change of a table that every core has acknowledged goes on. -/
def execShootdownAck (core : Nat) (s : State) : Host.Outcome State Fault Refusal :=
  let l := (s.core core).shoots
  let s := (s.settleWrites core (l.map (·.part)).dedup).modCore core fun c => { c with shoots := [] }
  let moved := fun (m : Migration) => { m with acks := m.acks.acked m.part core l }
  let changed := fun (c : TableChange) => { c with acks := c.acks.acked c.part core l }
  let s := ({ s with svc := { s.svc with moves := s.svc.moves.map moved, changes := s.svc.changes.map changed } } : State).settleChanges
  .next (s.wantAll ((s.svc.moves.filter fun m => m.acks.left.isEmpty).map fun m =>
    .migration m.part (Addr.ofNat (4096 * ((m.leaves.head?).map (·.1)).getD 0)) m.toNear))

/-! ### The dirty-log drain (R86) -/

/-- DIRTY_LOG_DRAIN (R86): with 2,048 entries or more, in hardware mode or where the drain was raised in it (R163), the service copies the
entries for which the host buffer has room and advances TAIL. -/
def execDirtyLogDrain (part : Nat) (s : State) : Host.Outcome State Fault Refusal :=
  let p := s.part part
  if (s.hostDuty part 1 && !p.drainOn) || !p.ringOk || (p.dlHead - p.dlTail).toNat < 2048 then .next s else .next (s.drainLog part)

/-! ### The patrol scrub and retention (R70, R71) -/

/-- The pod physical address of a row of a near slice. -/
def State.rowPa (s : State) (slice row : Nat) : Nat := s.podPa (slice * 0x02000000 + row * 16)

/-- PATROL_SCRUB (R70, R69): a row of an active slice with an uncorrectable error poisons its page; single-bit errors are corrected and
counted (R68). -/
def execPatrolScrub (slice row : Nat) (s : State) : Host.Outcome State Fault Refusal :=
  let pa := s.rowPa slice row
  if 128 ≤ slice || 2 ^ 21 ≤ row || s.svc.retention.contains slice then .next s
  else
    let s := s.correct (.phys pa) 16
    if s.homeBad (.phys pa) 16 then .next (s.poisonPage (pa / 4096)) else .next s

/-- May a slice enter retention: no partition owns it, or the owner's scheduling is paused (R71)? A partition is paused that has exited and
has no block on a core (log 70). -/
def State.mayRetain (s : State) (slice : Nat) : Bool :=
  s.parts.zipIdx.all fun x => !x.1.slices.contains slice || (x.1.exited && (s.residentOf x.2).isEmpty)

/-- RETENTION_ENTRY (R71). -/
def execRetentionEntry (slice : Nat) (s : State) : Host.Outcome State Fault Refusal :=
  if slice < 128 && s.mayRetain slice then .next { s with svc := { s.svc with retention := insertUp slice s.svc.retention } }
  else .next s

/-- Has a partition a slice in retention? Its scheduling resumes once there is none (R71). -/
def State.slicesHeld (s : State) (part : Nat) : Bool := (s.part part).slices.any s.svc.retention.contains

/-- An exited partition resumes: its blocks may be dealt and restored again. With a slice in retention it waits for the slice's exit; with
the ring still full it exits again at once (R71, R85). -/
def State.resume (s : State) (part : Nat) : State :=
  if !(s.part part).exited then s
  else if s.slicesHeld part then s.modPart part fun p => { p with resumeOn := true }
  else
    let s := (s.modPart part fun p => { p with exited := false, resumeOn := false }).roomForAppend part
    if (s.part part).dlEn && (s.part part).ringFull then s.exitPart part 1
    else s.wantAll (.deal part :: (s.part part).repaired.map fun r => .blockRestore r.2)

/-- The partitions whose resumption waited for their slices resume (R71). -/
def State.resumeWaiting (s : State) : State :=
  (List.range s.parts.length).foldl (fun s p => if (s.part p).resumeOn && !s.slicesHeld p then s.resume p else s) s

/-- RETENTION_EXIT (R71): the rows with a triple error poison their pages; any other error has been corrected. -/
def execRetentionExit (slice : Nat) (triple : List Nat) (s : State) : Host.Outcome State Fault Refusal :=
  if s.svc.retention.contains slice then
    let s := { s with svc := { s.svc with retention := s.svc.retention.erase slice } }
    .next ((triple.filter fun r => r < 2 ^ 21).foldl (fun s r => s.poisonPage (s.rowPa slice r / 4096)) s).resumeWaiting
  else .next s

/-! ### Clearing poison (R370) -/

/-- Is a local frame free: on a list of a partition or in its pool, or in the service's hands and in no object's code (R370)? -/
def State.isFree (s : State) (part f : Nat) : Bool :=
  let p := s.part part
  (p.freeNear ++ p.freeFar ++ p.pool).contains f ||
  (match nearSlice (f * 4096) with
    | some k => !(s.parts.any fun q => q.slices.contains k) && !s.svc.codeFrames.contains f
    | none => false) ||
  (farChannel (f * 4096) == some 0 && !s.masters.contains f)

/-- POISON_CLEAR (R370): a poisoned page that is back on a free list is written with zeros, and its bit is cleared. -/
def execPoisonClear (part page : Nat) (s : State) : Host.Outcome State Fault Refusal :=
  if page / 2 ^ 34 = s.pkg.toNat && s.isFree part (page % 2 ^ 34) then
    .next { s with mem := Mem.erase s.mem (page * 4096) 4096, poison := s.poison.filter (· != page),
                   badNear := stillBad s.badNear (page * 4096) 4096, softNear := stillSoft s.softNear (page * 4096) 4096 }
  else .next s

end Sys2Proof.Machine
end

