-- ==== Sys2Proof/Machine/CodeObject.lean ====
section
/-! DEFINITION. Loading, sharing and unloading code objects (R355 to R361, R393), and the registration of keys (R359). -/

namespace Sys2Proof.Machine

/-! ### The checks of an image (R393) -/

/-- Are the bytes [off, off + n) of an image zero? -/
def zeroAt (l : List Byte) (off n : Nat) : Bool := ((l.drop off).take n).all (· == 0)

/-- The header (R355). -/
def Image.headerBad (l : List Byte) : Bool :=
  let vb := Image.vbase l
  let lb := Image.lbase l
  let sg := Image.sigSz l
  l.length < 64 || fieldAt l 0 4 != 0x4F435A56 || fieldAt l 4 2 != 1 || !(fieldAt l 6 1 == 1 || fieldAt l 6 1 == 2) ||
    !zeroAt l 7 1 || vb % 65536 != 0 || vb < 0x1000000000 || 0x1FFFFFFFFF < vb || Image.codeSz l % 4 != 0 ||
    Image.dataSz l % 8 != 0 || lb % 65536 != 0 || lb < 0x2000000000 || 0x2FFFFFFFFF < lb || !(sg == 0 || sg == 29792) ||
    !zeroAt l 44 20 || l.length != Image.sigAt l + sg

/-- One export entry (R356). -/
def Image.expBad (l : List Byte) (i : Nat) : Bool :=
  let e := Image.exp l i
  let off := fieldAt e 8 4
  !zeroAt e 13 3 || match fieldAt e 12 1 with
    | 0 => off % 4 != 0 || Image.codeSz l ≤ off
    | 1 => off % 4 != 0 || Image.codeSz l ≤ off + 64
    | 2 => Image.dataSz l ≤ off
    | _ => true

/-- One import entry (R358). -/
def Image.impBad (l : List Byte) (i : Nat) : Bool :=
  let e := Image.imp l i
  fieldAt e 40 4 % 4 != 0 || Image.codeSz l ≤ fieldAt e 40 4 || !zeroAt e 44 4

/-- The linkage table (R393). -/
def Image.linkBad (l : List Byte) : Bool :=
  Image.linkOff l % 8 != 0 || Image.dataSz l < Image.linkOff l + 16 * Image.nimp l

/-- The general fields of a kernel record (R357, R393). -/
def recordBad (codeSz : Nat) (r : List Byte) : Bool :=
  let f := fieldAt r
  f 0 2 == 0 || 8192 < f 0 2 || !([8, 16, 32, 64].contains (f 2 1)) || f 3 1 % 4 == 3 || 8 ≤ f 3 1 || f 4 2 == 0 || 256 < f 4 2 ||
    (f 48 4 != 0xFFFFFFFF && (f 48 4 % 4 != 0 || codeSz ≤ f 48 4)) || !zeroAt r 7 1 || !zeroAt r 38 2 || !zeroAt r 45 3 ||
    !zeroAt r 52 12

/-- The ply and stack fields. -/
def recordPlyBad (r : List Byte) : Bool :=
  let f := fieldAt r
  let nib := fun (k : Nat) => f 8 4 / 16 ^ k % 16
  8 < f 6 1 || ((List.range 8).any fun k => f 6 1 ≤ k && nib k != 0) || !((List.range (f 6 1)).map nib).Nodup || 256 < f 16 2 ||
    32 < f 19 1 || 127 < f 18 1 || (f 19 1 == 0 && f 18 1 != 0)

/-- The roles and barriers. -/
def recordRolesBad (r : List Byte) : Bool :=
  let f := fieldAt r
  ((List.range 3).any fun i => (f (20 + 4 * i) 2 == 0) != (f (22 + 4 * i) 2 == 0)) || 16 < f 40 1 || 8 < f 41 1 || 8 < f 42 1 ||
    4 < f 43 1 || 4 < f 44 1

/-- The VZA-2 fields of a kernel record in an object of ISA 1 (R393). -/
def recordOldBad (r : List Byte) : Bool := fieldAt r 6 1 != 0 || fieldAt r 8 4 != 0 || fieldAt r 3 1 / 4 % 2 != 0

/-- A kernel record at a code offset of an image. -/
def Image.kernelBad (l : List Byte) (off : Nat) : Bool :=
  let r := (l.drop (Image.codeAt + off)).take 64
  recordBad (Image.codeSz l) r || recordPlyBad r || recordRolesBad r || (fieldAt l 6 1 == 1 && recordOldBad r)

/-- Is an image refused with FormatInvalid (R393)? -/
def Image.bad (l : List Byte) : Bool :=
  Image.headerBad l || ((List.range (Image.nexp l)).any (Image.expBad l)) || ((List.range (Image.nimp l)).any (Image.impBad l)) ||
    Image.linkBad l || (List.range (Image.nexp l)).any fun i =>
      fieldAt (Image.exp l i) 12 1 == 1 && Image.kernelBad l (fieldAt (Image.exp l i) 8 4)

/-- The content hash (R359). -/
def Image.hash (l : List Byte) : List Byte := shake256 32 (l.take (l.length - Image.sigSz l))

/-- The hashes that an image imports (R358). -/
def Image.deps (l : List Byte) : List (List Byte) := (List.range (Image.nimp l)).map fun i => (Image.imp l i).take 32

/-- Is the signature refused for a partition (R360, R359)? -/
def Part.sigBad (p : Part) (l : List Byte) : Bool :=
  if Image.sigSz l = 0 then p.sigRequired
  else !p.keys.any fun k => slhVerify k (Image.hash l) (l.drop (Image.sigAt l))

/-! ### Which objects a load needs, dependencies first (R360) -/

/-- The image of a hash: of a loaded object, or a delivered one. -/
def State.imageOf (s : State) (delivered : List (List Byte)) (h : List Byte) : Option (List Byte) :=
  match s.svc.objects.find? fun o => o.hash == h with
  | some o => some o.image
  | none => delivered.find? fun l => Image.hash l == h

/-- The lists of several outcomes joined, or the first refusal. -/
def joinOk {α : Type} : List (Except Nat (List α)) → Except Nat (List α)
  | [] => .ok []
  | .error e :: _ => .error e
  | .ok x :: r => match joinOk r with
    | .ok y => .ok (x ++ y)
    | .error e => .error e

/-- The objects that a load of a hash needs, dependencies first, or the status of the first that is refused. -/
def State.needs (s : State) (p : Part) (delivered : List (List Byte)) : Nat → List Byte → Except Nat (List (List Byte × List Byte))
  | 0, _ => .error 0x0007
  | n + 1, h =>
    match s.imageOf delivered h with
    | none => .error 0x0015
    | some l =>
      if Image.bad l then .error 0x0007
      else if p.sigBad l then .error 0x0012
      else
        match joinOk ((Image.deps l).map (s.needs p delivered n)) with
        | .ok acc => .ok (acc ++ [(h, l)])
        | .error e => .error e

/-! ### Mapping pages (R34, R360) -/

/-- An entry of the tables for a local frame. -/
def State.entry (s : State) (frame flags : Nat) : Addr := (s.pkg.zeroExtend 64 <<< 58) ||| Addr.ofNat (frame * 4096 + flags)

/-- Does an entry stand for nothing: neither valid, nor for content that is held outside device memory (R34)? -/
def Pte.blank (e : Addr) : Bool := !Pte.v e && !e.getLsbD 1

/-- The lowest node on the way to an address that exists, from a level down: its level and physical address; none where a
leaf, or content held outside device memory, stands in the way. -/
def State.nodeFrom (s : State) (va : Nat) : Nat → Nat → Option (Nat × Nat)
  | level, node =>
    let e := s.readEntry (node + 8 * (va / 2 ^ (12 + levelShift level) % 512))
    match level with
    | 0 => if Pte.blank e then some (0, node) else none
    | n + 1 => if Pte.blank e then some (n + 1, node)
      else if !Pte.v e || Pte.leaf e then none else s.nodeFrom va n (Pte.frame e * 4096)

/-- Map one page from a node down: each missing node takes a free near frame, cleared (R36, R37). -/
def mapFrom (part va frame flags : Nat) : Nat → Nat → State → Option State
  | 0, node, s => some (s.writeEntry (node + 8 * (va / 4096 % 512)) (s.entry frame flags))
  | n + 1, node, s =>
    match s.freeFrames part true with
    | [] => none
    | f :: _ =>
      let s := s.takeFrames part [f]
      let s := { s with mem := Mem.erase s.mem (s.podPage f * 4096) 4096 }
      mapFrom part va frame flags n (f * 4096)
        (s.writeEntry (node + 8 * (va / 2 ^ (12 + levelShift (n + 1)) % 512)) (s.entry f 0x401))

/-- Map one page of a partition; none where the address is taken or a node cannot be made. -/
def State.mapPage (s : State) (part va frame flags : Nat) : Option State :=
  let root := (s.part part).root.toNat * 4096
  if (s.part part).owns root then
    match s.nodeFrom va 3 root with
    | some (level, node) => mapFrom part va frame flags level node s
    | none => none
  else none

/-- Map several pages, each from its own frame. -/
def State.mapPages (part flags : Nat) : List (Nat × Nat) → State → Option State
  | [], s => some s
  | (va, f) :: r, s => match s.mapPage part va f flags with
    | some s => State.mapPages part flags r s
    | none => none

/-! ### The near copy (R30, R360) -/

/-- The free pages of the slices that the service holds, then of slices that no partition owns (log 38). -/
def State.codePages (s : State) : List Nat :=
  let free := (List.range 128).filter fun k => !s.svc.nearSlices.contains k && !s.svc.retention.contains k &&
    !s.parts.any fun p => p.slices.contains k
  (s.svc.nearSlices ++ free).flatMap fun k => ((List.range 8192).map (8192 * k + ·)).filter fun f =>
    !s.svc.codeFrames.contains f && s.clean f

/-- Free pages of far channel 0 for n pages of masters: beyond the poison bitmap (log 15, log 39). -/
def State.masterPages (s : State) (n : Nat) : List Nat :=
  let base := (bitmapBase + bitmapBits / 8) / 4096
  ((((List.range (n + s.masters.length + s.poison.length)).map (base + ·)).filter fun f =>
    f < farBase / 4096 + 2 ^ 22 && !s.masters.contains f && s.clean f)).take n

/-- The master and the near copy of an object: made with the first load, with its code in them (R30); none where there is no room. -/
def State.nearCopy (s : State) (h l : List Byte) : Option (State × CodeObj) :=
  match s.svc.objects.find? fun o => o.hash == h with
  | some o => some (s, o)
  | none =>
    let n := pageCount (Image.codeSz l)
    let fs := (s.codePages).take n
    let ms := s.masterPages n
    if fs.length < n || ms.length < n then none
    else
      let o : CodeObj := ⟨h, l, [], [], Image.deps l, (List.range n).zip fs, ms, []⟩
      let code := (l.drop Image.codeAt).take (Image.codeSz l)
      let slices := (fs.map (· / 8192)).foldl (fun acc k => insertUp k acc) s.svc.nearSlices
      let s := { s with svc := { s.svc with
        objects := s.svc.objects ++ [o], codeFrames := s.svc.codeFrames ++ fs, nearSlices := slices } }
      some ((s.fillFrames ms code).fillFrames fs code, o)

/-! ### Loading one object into a partition -/

/-- Do two objects overlap in their code or data ranges (R360)? -/
def imagesMeet (l m : List Byte) : Bool :=
  let meet := fun (a n b k : Nat) => 0 < n && 0 < k && a < b + k && b < a + n
  meet (Image.vbase l) (Image.codeSz l) (Image.vbase m) (Image.codeSz m) ||
    meet (Image.lbase l) (Image.dataSz l) (Image.lbase m) (Image.dataSz m)

/-- The address that an import resolves to: the export of that name in the object imported. An import whose name the object
does not export resolves to a free value (log 39). -/
def State.resolve (s : State) (delivered : List (List Byte)) (e : List Byte) : Addr :=
  match s.imageOf delivered (e.take 32) with
  | none => pairVal (Config.freeWord s.free) (Config.freeWord (s.free + 1))
  | some m =>
    match (List.range (Image.nexp m)).find? fun i => (Image.exp m i).take 8 == (e.drop 32).take 8 with
    | none => pairVal (Config.freeWord s.free) (Config.freeWord (s.free + 1))
    | some i =>
      let x := Image.exp m i
      Addr.ofNat ((if fieldAt x 12 1 = 2 then Image.lbase m else Image.vbase m) + fieldAt x 8 4)

/-- The data section as a load leaves it: linkage entry i is VBASE + STUB i, resolution word i the resolved address (R358,
R360). -/
def State.dataOf (s : State) (delivered : List (List Byte)) (l : List Byte) : List Byte :=
  let d := (l.drop (Image.dataAt l)).take (Image.dataSz l)
  let n := Image.nimp l
  let at_ := Image.linkOff l
  let d := (List.range n).foldl (fun d i =>
    overlay d 0 (leBytes 8 (Image.vbase l + fieldAt (Image.imp l i) 40 4)) (at_ + 8 * i)) d
  (List.range n).foldl (fun d i => overlay d 0 (leBytes 8 (s.resolve delivered (Image.imp l i)).toNat) (at_ + 8 * n + 8 * i)) d

/-- A partition without a page: its leaf is cleared, its data frame returned, and no translation of it stands (R361). -/
def State.unmapPage (s : State) (p va : Nat) (own : Bool) : State :=
  match s.leafOf p va with
  | none => s
  | some l =>
    let s := s.writeEntry l.ent 0
    let s := (s.part p).cores.foldl (fun s c => s.modCore c fun k => k.dropRange p (va / 4096) 1) s
    if own then State.returnFrame p s (Pte.frame l.pte) else s

/-- The service's record of which partitions have an object mapped changes. -/
def State.modMapped (s : State) (h : List Byte) (f : List Nat → List Nat) : State :=
  { s with svc := { s.svc with objects := s.svc.objects.map fun o => if o.hash == h then { o with mapped := f o.mapped } else o } }

/-- A partition without an object: its code is unmapped, and the frames of its data are returned (R361). -/
def State.unmapObject (o : CodeObj) (s : State) (p : Nat) : State :=
  let l := o.image
  let s := o.near.foldl (fun s x => s.unmapPage p (Image.vbase l + 4096 * x.1) false) s
  ((List.range (pageCount (Image.dataSz l))).foldl (fun s i => s.unmapPage p (Image.lbase l + 4096 * i) true) s).modMapped o.hash
    fun ps => ps.filter (· != p)

/-- Map an object's code and a fresh copy of its data in a partition, in place of an earlier one (R360). -/
def State.mapObject (s : State) (p : Nat) (delivered : List (List Byte)) (o : CodeObj) : Option State :=
  let l := o.image
  let s := (if o.mapped.contains p then State.unmapObject o s p else s).modMapped o.hash (insertUp p)
  let n := pageCount (Image.dataSz l)
  let fs := (s.freeFrames p true).take n
  if fs.length < n then none
  else
    let s' := { (s.takeFrames p fs).fillFrames fs (s.dataOf delivered l) with free := s.free + 2 }
    match State.mapPages p 0x495 (o.near.map fun x => (Image.vbase l + 4096 * x.1, x.2)) s' with
    | some s => State.mapPages p 0x8D (fs.zipIdx.map fun x => (Image.lbase l + 4096 * x.2, x.1)) s
    | none => none

/-- The objects that a partition has loaded, or still drains, with all that these import (R361). -/
def State.keptBy (s : State) (p : Nat) : List CodeObj :=
  let hs := reachHashes s.svc.objects s.svc.objects.length
    ((s.svc.objects.filter fun o => o.heldBy p || o.draining.contains p).map (·.hash))
  s.svc.objects.filter fun o => hs.contains o.hash

/-- Load one object of a list that is needed; TranslationFault where its ranges overlap or cannot be mapped (R360). One that the partition
has, or still drains, stays as it is (R361). -/
def State.loadObject (p : Nat) (delivered : List (List Byte)) (s : State) (x : List Byte × List Byte) : Except Nat State :=
  if (s.keptBy p).any fun o => o.hash == x.1 then .ok s
  else if (s.keptBy p).any fun o => imagesMeet o.image x.2 then .error 0x0003
  else match s.nearCopy x.1 x.2 with
    | none => .error 0x0003
    | some (s, o) => match s.mapObject p delivered o with
      | some s => .ok s
      | none => .error 0x0003

/-- Load several objects, dependencies first. -/
def State.loadObjects (p : Nat) (delivered : List (List Byte)) : List (List Byte × List Byte) → State → Except Nat State
  | [], s => .ok s
  | x :: r, s => match State.loadObject p delivered s x with
    | .ok s => State.loadObjects p delivered r s
    | .error e => .error e

/-- Load what the imports of an image need, import by import; the status and the index of the first that fails (R360). -/
def State.loadImports (p : Nat) (delivered : List (List Byte)) (n : Nat) : List (List Byte × Nat) → State → Except (Nat × Nat) State
  | [], s => .ok s
  | (h, i) :: r, s => match s.needs (s.part p) delivered n h with
    | .error st => .error (st, i)
    | .ok l => match State.loadObjects p delivered l s with
      | .error st => .error (st, i)
      | .ok s => State.loadImports p delivered n r s

/-- A result record of 16 bytes (R151, R360). -/
def resultRecord (status index handle : Nat) : List Byte := leBytes 2 status ++ leBytes 2 index ++ leBytes 2 handle ++ leBytes 10 0

/-- Report a result: in the request mailbox of a partition, or, for another package, of none (log 17). -/
def State.report (s : State) (part : Option Nat) (r : List Byte) : State :=
  { s with svc := { s.svc with results := s.svc.results ++ [(part, r)] } }

/-- The lowest handle that a list does not hold, of 1 to 65,535. -/
def freeHandle (held : List Nat) : Option Nat := ((List.range 65535).map (· + 1)).find? fun h => !held.contains h

/-- The load handles that a partition holds. -/
def State.loadHandles (s : State) (p : Nat) : List Nat :=
  s.svc.objects.flatMap fun o => (o.handles.filter fun h => h.1 == p).map (·.2)

/-- Give a partition a load handle of an object; a drain of its code that was under way ends (R361). -/
def CodeObj.take (o : CodeObj) (p handle : Nat) : CodeObj :=
  { o with handles := o.handles ++ [(p, handle)], draining := o.draining.filter (· != p) }

/-- The FENCE of the ifetch kind at sys scope that follows a load (R92, R360). -/
def State.fenceIfetchAll (s : State) : State := { s with cores := s.cores.map fun c => { c with icache := [] } }

/-- CODE_OBJECT_LOAD (R360): an image delivered with the request counts as delivered to the service. Nothing is changed by a
load that is refused, nor by a request before the functions are enabled (R375, log 56). -/
def execCodeObjectLoad (p : Nat) (hash : List Byte) (delivered : List (List Byte)) (s : State) : Host.Outcome State Fault Refusal :=
  if !s.svc.enabled then .next s else
  let n := s.svc.objects.length + delivered.length + 1
  let refuse := fun (st i : Nat) => Host.Outcome.next (s.report (some p) (resultRecord st i 0))
  match s.imageOf delivered hash with
  | none => refuse 0x0015 0xFFFF
  | some l =>
    if Image.bad l then refuse 0x0007 0xFFFF
    else if (s.part p).sigBad l then refuse 0x0012 0xFFFF
    else match State.loadImports p delivered n (Image.deps l).zipIdx s with
      | .error (st, i) => refuse st i
      | .ok s' => match freeHandle (s.loadHandles p) with
        | none => refuse 0x0014 0xFFFF
        | some h => match State.loadObject p delivered s' (hash, l) with
          | .error st => refuse st 0xFFFF
          | .ok s =>
            let take := fun (o : CodeObj) => if o.hash == hash then o.take p h else o
            let s := { s with svc := { s.svc with objects := s.svc.objects.map take } }
            .next (s.fenceIfetchAll.report (some p) (resultRecord 0 0xFFFF h))

/-! ### Unloading (R361) -/

/-- Has a partition still a strand that executes from an object and has not exited? Saved and filed threads count (R361, R385). -/
def State.executes (s : State) (p : Nat) (o : CodeObj) : Bool :=
  s.blocks.zipIdx.any fun x => s.partOf x.2 == p && x.1.threads.any fun th => th.live &&
    ((x.1.strands[th.strand]?).map fun k => k.holds.contains o.hash).getD false

/-- A partition whose last strand executing from an object has exited no longer counts (R361). -/
def State.endDrains (s : State) : State :=
  let f := fun (o : CodeObj) => { o with draining := o.draining.filter fun p => s.executes p o }
  { s with svc := { s.svc with objects := s.svc.objects.map f } }

/-- The reference count of an object (R361). -/
def State.refs (s : State) (o : CodeObj) : Nat :=
  o.handles.length + o.draining.length + s.svc.objects.countP fun q => q.imports.contains o.hash

/-- Free an object whose count has reached 0 (R361); a poisoned page of its code is cleared by the poison duty (R370). -/
def State.freeObject (s : State) (o : CodeObj) : State :=
  let fs := o.near.map (·.2)
  let s := o.mapped.foldl (State.unmapObject o) s
  let frames := s.svc.codeFrames.filter fun f => !fs.contains f
  let svc := { s.svc with
    objects := s.svc.objects.filter fun q => q.hash != o.hash, codeFrames := frames,
    nearSlices := s.svc.nearSlices.filter fun k => frames.any fun f => f / 8192 == k }
  ({ s with svc := svc } : State).wantAll (((fs ++ o.master).filter fun f => !s.clean f).map fun f => .poisonClear 0 (s.podPage f))

/-- Free the objects that nothing refers to, and those that this frees in turn (R361). -/
def State.freeObjects : Nat → State → State
  | 0, s => s
  | n + 1, s => match s.svc.objects.find? fun o => s.refs o == 0 with
    | none => s
    | some o => State.freeObjects n (s.freeObject o)

/-- Drains that have ended are counted, and what is no longer referred to is freed (R361). -/
def State.sweepCode (s : State) : State :=
  if s.svc.objects.any fun o => !o.draining.isEmpty || s.refs o == 0 then State.freeObjects s.svc.objects.length s.endDrains else s

/-- CODE_OBJECT_UNLOAD (R361): the handle is withdrawn at once; an unknown handle changes nothing. -/
def execCodeObjectUnload (p handle : Nat) (s : State) : Host.Outcome State Fault Refusal :=
  let f := fun (o : CodeObj) => if o.handles.contains (p, handle) then
    { o with handles := o.handles.erase (p, handle), draining := insertUp p o.draining } else o
  if !s.svc.enabled then .next s else .next (State.sweepCode { s with svc := { s.svc with objects := s.svc.objects.map f } })

/-- KEY_REGISTER (R359): the host registers a key of a partition, and says whether the partition requires signatures; the
mailbox takes it once the functions are enabled (R375, log 56). -/
def execKeyRegister (p : Nat) (key : List Byte) (required : Bool) (s : State) : Host.Outcome State Fault Refusal :=
  if !s.svc.enabled then .next s else .next (s.modPart p fun q => { q with keys := q.keys ++ [key], sigRequired := required })

end Sys2Proof.Machine
end

