-- ==== Sys2Proof/Machine/Real.lean ====
section
/-! DEFINITION. Correctly rounded real functions (R288, R186): every value is enclosed between two fixed-point numbers
of 640 fraction bits, and rounded where both ends round alike (log 8). Exact cases are computed exactly. -/

namespace Sys2Proof.Machine

/-- The fraction bits of the fixed-point enclosures. -/
def fixP : Nat := 640

/-- The number 1 in fixed point. -/
def fixOne : Int := 2 ^ fixP

/-- An enclosure: a real between lo / 2^640 and hi / 2^640. -/
structure Iv where
  lo : Int
  hi : Int
  deriving DecidableEq, Repr

namespace Iv

/-- A number known exactly in fixed point. -/
def exact (x : Int) : Iv := ⟨x, x⟩

/-- A whole number. -/
def ofInt (n : Int) : Iv := exact (n * fixOne)

/-- The sum. -/
def add (a b : Iv) : Iv := ⟨a.lo + b.lo, a.hi + b.hi⟩

/-- The opposite. -/
def neg (a : Iv) : Iv := ⟨-a.hi, -a.lo⟩

/-- The difference. -/
def sub (a b : Iv) : Iv := a.add b.neg

/-- Widened by two units at each end. -/
def widen (a : Iv) : Iv := ⟨a.lo - 2, a.hi + 2⟩

/-- The product, rounded outward. -/
def mul (a b : Iv) : Iv :=
  let p := a.lo * b.lo
  let q := a.lo * b.hi
  let r := a.hi * b.lo
  let t := a.hi * b.hi
  ⟨(min (min p q) (min r t)) >>> fixP, -((-(max (max p q) (max r t))) >>> fixP)⟩

/-- Divided by a positive whole number, rounded outward. -/
def divN (a : Iv) (n : Nat) : Iv := ⟨Int.fdiv a.lo n, -Int.fdiv (-a.hi) n⟩

/-- Multiplied by a power of two, rounded outward. -/
def shift (a : Iv) (k : Int) : Iv :=
  if 0 ≤ k then ⟨a.lo * 2 ^ k.toNat, a.hi * 2 ^ k.toNat⟩ else ⟨a.lo >>> (-k).toNat, -((-a.hi) >>> (-k).toNat)⟩

/-- The quotient by a positive number, rounded outward. -/
def div (a b : Iv) : Iv :=
  let f := fun (x y : Int) => Int.fdiv (x * fixOne) y
  ⟨min (f a.lo b.lo) (f a.lo b.hi), max (-(f (-a.hi) b.lo)) (-(f (-a.hi) b.hi))⟩

/-- The square root of a number not below zero, rounded outward. -/
def sqrt (a : Iv) : Iv :=
  ⟨Nat.sqrt (a.lo.toNat * 2 ^ fixP), (Nat.sqrt (a.hi.toNat * 2 ^ fixP) : Int) + 1⟩

end Iv

/-- The exponential series of a number below 1 in magnitude, from term n on, `fuel` terms. -/
def expSeries (r : Iv) : Nat → Nat → Iv
  | 0, _ => Iv.ofInt 1
  | f + 1, n => (Iv.ofInt 1).add ((r.mul (expSeries r f (n + 1))).divN n)

/-- The series Σ (±w)^i / (2i + 1) from term i on. -/
def oddSeries (alt : Bool) (w : Iv) : Nat → Nat → Iv
  | 0, _ => Iv.ofInt 0
  | f + 1, i =>
    let t := w.mul (oddSeries alt w f (i + 1))
    ((Iv.ofInt 1).divN (2 * i + 1)).add (if alt then t.neg else t)

/-- atanh of 1 / n, or of an enclosed number at most 1/3. -/
def atanhIv (z : Iv) : Iv := (z.mul (oddSeries false (z.mul z) 220 0)).widen

/-- atan (1 / n) for n at least 5. -/
def atanInv (n : Nat) : Iv :=
  let z := (Iv.ofInt 1).divN n
  (z.mul (oddSeries true (z.mul z) 150 0)).widen

/-- ln 2. -/
def ln2Iv : Iv := (atanhIv ((Iv.ofInt 1).divN 3)).shift 1

/-- π, by Machin's formula. -/
def piIv : Iv := ((atanInv 5).shift 4).sub ((atanInv 239).shift 2)

/-- ln y for y exact in [1, 2). -/
def lnIv (y : Int) : Iv :=
  (atanhIv ((Iv.exact (y - fixOne)).div (Iv.exact (y + fixOne)))).shift 1

/-- e^x for an enclosed x of moderate size: a number in [1, 2) or so, and a power of two. -/
def expIv (x : Iv) : Iv × Int :=
  let k := Int.fdiv x.lo ln2Iv.lo
  let r := x.sub (ln2Iv.mul (Iv.ofInt k))
  ((expSeries r 150 1).widen, k)

/-- e^x as a fixed-point number. -/
def expFix (x : Iv) : Iv := (expIv x).1.shift (expIv x).2

/-- The sine series of an enclosed angle in [0, π/2]. -/
def sinSeries (w : Iv) : Nat → Nat → Iv
  | 0, _ => Iv.ofInt 1
  | f + 1, n => (Iv.ofInt 1).sub ((w.mul (sinSeries w f (n + 2))).divN ((n + 1) * (n + 2)))

/-- sin (π r) for r exact in [0, 1/2]. -/
def sinPiIv (r : Int) : Iv :=
  let t := piIv.mul (Iv.exact r)
  t.mul (sinSeries (t.mul t) 100 1).widen

/-- The series of erf: Σ 2^n x^(2n+1) / (2n + 1)!!, from term n on; w is 2x². -/
def erfSeries (w : Iv) : Nat → Nat → Iv
  | 0, _ => Iv.ofInt 1
  | f + 1, n => (Iv.ofInt 1).add ((w.mul (erfSeries w f (n + 1))).divN (2 * n + 3))

/-- 2 / √π. -/
def twoOverSqrtPi : Iv := (Iv.ofInt 2).div piIv.sqrt

/-- erf x for an enclosed x in [0, 11]: (2/√π) e^(−x²) Σ 2^n x^(2n+1) / (2n+1)!!. -/
def erfIv (x : Iv) : Iv :=
  let w := x.mul x
  let s := x.mul (erfSeries (w.shift 1) 1200 0).widen
  (twoOverSqrtPi.mul (expFix w.neg)).mul s

/-! ### Rounding an enclosure -/

/-- Round a non-zero real, enclosed and scaled by 2^k: the pattern and the flags, if both ends agree. -/
def roundIv (f : Fmt) (x : Iv) (k : Int) : Option (Nat × Flags) :=
  let one := fun (v : Int) => f.roundRat .rne false (v < 0) v.natAbs 1 (k - fixP)
  if x.lo = 0 || x.hi = 0 || decide (x.lo < 0) != decide (x.hi < 0) then none
  else if one x.lo = one x.hi then some (one x.lo) else none

/-- Round an enclosed irrational: where the ends disagree, the value is left open (log 8). `tag` names the function. -/
def settleIv (f : Fmt) (tag bits : Nat) (x : Iv) (k : Int) : Nat × Flags :=
  (roundIv f x k).getD ((Config.undecided tag bits).toNat % 2 ^ (f.eb + f.mb + 1), Flags.nx)

/-- An exact value of moderate exponent in fixed point. -/
def Val.fix : Val → Int
  | .fin n m e => (if n then -1 else 1) * ((m : Int) * 2 ^ (e + fixP).toNat)
  | _ => 0

/-- A value so near a bound that only its side matters: ±m × 2^e. -/
def standIn (f : Fmt) (neg : Bool) (m : Nat) (e : Int) : Nat × Flags := f.roundRat .rne false neg m 1 e

/-- A non-zero value below every positive number of every format. -/
def tinyOf (f : Fmt) (neg : Bool) : Nat × Flags := standIn f neg 1 (-400)

/-- A value just below 1. -/
def belowOne (f : Fmt) (neg : Bool) : Nat × Flags := standIn f neg (2 ^ 200 - 1) (-200)

/-- Round ±√(n / d × 2^e) for a positive rational (R288). -/
def sqrtRat (f : Fmt) (neg : Bool) (n d : Nat) (e : Int) : Nat × Flags :=
  let s : Nat := if e % 2 = 0 then 800 else 801
  let r := Nat.sqrt (n * 2 ^ s / d)
  f.roundRat .rne false neg (2 * r + if r * r * d = n * 2 ^ s then 0 else 1) 2 ((e - s) / 2)

end Sys2Proof.Machine
end

