-- ==== Sys2Proof/Machine/Fun.lean ====
section
/-! DEFINITION. The FUN group (R286 to R290) and the derivatives of its functions (R186). -/

namespace Sys2Proof.Machine

/-- The special functions of the FUN group (R237, R288). -/
inductive FunOp where
  | sqrt | rcp | rsq | exp2 | log2 | exp | log | sinpi | cospi | tanh | sigm | gelu | erf
  deriving DecidableEq, Repr

/-- A number that names a function, for the value left open (log 8). -/
def FunOp.tag : FunOp → Nat
  | .sqrt => 0 | .rcp => 1 | .rsq => 2 | .exp2 => 3 | .log2 => 4 | .exp => 5 | .log => 6 | .sinpi => 7 | .cospi => 8
  | .tanh => 9 | .sigm => 10 | .gelu => 11 | .erf => 12

/-- The format of a FUN instruction; the v1 form works on f32 (R286). -/
def funFormat : FunFmt → Fmt
  | .f32 => .f32
  | .f16 => .f16
  | .bf16 => .bf16
  | .v1 => .f32

/-! ### Parts of an argument -/

/-- The mantissa of a finite non-zero value scaled into [1, 2), in fixed point, and its exponent. -/
def Val.norm : Val → Int × Int
  | .fin _ m e => ((m : Int) * 2 ^ (fixP - Nat.log2 m), e + Nat.log2 m)
  | _ => (fixOne, 0)

/-- Is the magnitude of a value at least a whole number? -/
def Val.atLeast (v : Val) (n : Nat) : Bool := !v.abs.lt (.fin false n 0)

/-- A half. -/
def fixHalf : Int := 2 ^ (fixP - 1)

/-- sin (π|x|) with its sign, for |x| in fixed point: the sign, and the reduced argument in [0, 1/2]. -/
def sinReduce (x : Int) : Bool × Int :=
  let y := x % (2 * fixOne)
  let z := if y > fixOne then y - fixOne else y
  (y > fixOne, if z > fixHalf then fixOne - z else z)

/-- cos (π|x|) as a sine: the sign, and the reduced argument of the sine in [0, 1/2]. -/
def cosReduce (x : Int) : Bool × Int :=
  let y := x % (2 * fixOne)
  let z := if y > fixOne then 2 * fixOne - y else y
  if z ≤ fixHalf then (false, fixHalf - z) else (true, z - fixHalf)

/-- Is a finite value a whole number and a half? -/
def Val.isHalf (v : Val) : Bool := !v.isIntegral && (v.mul (.fin false 2 0)).isIntegral

/-- Is an integral value odd? -/
def Val.isOdd : Val → Bool
  | .fin _ m e => if e ≤ 0 then m / 2 ^ (-e).toNat % 2 == 1 else false
  | _ => false

/-- An enclosure with a sign. -/
def Iv.signed (neg : Bool) (x : Iv) : Iv := if neg then x.neg else x

/-- tanh of an exact positive number. -/
def tanhIv (x : Int) : Iv :=
  let g := expFix (Iv.exact (-2 * x))
  ((Iv.ofInt 1).sub g).div ((Iv.ofInt 1).add g)

/-- Φ(x), the normal distribution function, for an exact x below 15 in magnitude. -/
def phiIv (x : Int) : Iv :=
  let e := erfIv ((Iv.exact x.natAbs).div (Iv.ofInt 2).sqrt)
  ((Iv.ofInt 1).add (Iv.signed (x < 0) e)).shift (-1)

/-! ### The correctly rounded functions (R288) -/

/-- The fixed results of R288, and NaN inputs; none for every other argument. -/
def funSpecial (op : FunOp) (f : Fmt) (v : Val) : Option (Nat × Flags) :=
  let bad := some (f.nan, Flags.nv)
  let ok := fun (b : Nat) => some (b, Flags.none)
  let one := f.rne Val.one
  let mone := f.rne Val.one.neg
  match v with
  | .nan sig => some (f.nan, if sig then Flags.nv else Flags.none)
  | .inf neg =>
    match op with
    | .sqrt => if neg then bad else ok (f.inf false)
    | .rcp => ok (f.zero neg)
    | .rsq => if neg then bad else ok (f.zero false)
    | .exp2 => ok (if neg then f.zero false else f.inf false)
    | .exp => ok (if neg then f.zero false else f.inf false)
    | .log2 => if neg then bad else ok (f.inf false)
    | .log => if neg then bad else ok (f.inf false)
    | .sinpi => bad
    | .cospi => bad
    | .tanh => ok (if neg then mone else one)
    | .sigm => ok (if neg then f.zero false else one)
    | .gelu => ok (if neg then f.zero true else f.inf false)
    | .erf => ok (if neg then mone else one)
  | .fin neg m e =>
    if m = 0 then
      match op with
      | .sqrt => ok (f.zero neg)
      | .rcp => some (f.inf neg, Flags.dz)
      | .rsq => some (f.inf neg, Flags.dz)
      | .exp2 => ok one
      | .exp => ok one
      | .log2 => some (f.inf true, Flags.dz)
      | .log => some (f.inf true, Flags.dz)
      | .sinpi => ok (f.zero neg)
      | .cospi => ok one
      | .tanh => ok (f.zero neg)
      | .sigm => ok (f.rne (.fin false 1 (-1)))
      | .gelu => ok (f.zero neg)
      | .erf => ok (f.zero neg)
    else
      match op with
      | .sqrt => if neg then bad else none
      | .rsq => if neg then bad else none
      | .log2 => if neg then bad else if v.eqv Val.one then ok (f.zero false) else none
      | .log => if neg then bad else if v.eqv Val.one then ok (f.zero false) else none
      | .sinpi => if (Val.fin neg m e).isIntegral then ok (f.zero neg) else none
      | .cospi => if (Val.fin neg m e).isHalf then ok (f.zero false) else none
      | _ => none

/-- 2^x or e^x beyond the range of every format. -/
def expFar (f : Fmt) (neg : Bool) : Nat × Flags := if neg then tinyOf f false else standIn f false 1 400

/-- The correctly rounded value for an argument that R288's table does not fix. -/
def funGeneral (op : FunOp) (f : Fmt) (v : Val) : Nat × Flags :=
  match v with
  | .fin neg m e =>
    let x := v.fix
    let ax := v.abs.fix
    let bits := f.rne v
    let out := settleIv f op.tag bits
    match op with
    | .sqrt => sqrtRat f false m 1 e
    | .rcp => f.roundRat .rne false neg 1 m (-e)
    | .rsq => sqrtRat f false 1 m (-e)
    | .exp2 =>
      if v.atLeast 1024 then expFar f neg
      else if v.isIntegral then f.roundRat .rne false false 1 1 v.floorInt
      else out (expSeries (ln2Iv.mul (Iv.exact (x % fixOne))) 150 1).widen v.floorInt
    | .exp =>
      if v.atLeast 1024 then expFar f neg
      else let r := expIv (Iv.exact x); out r.1 r.2
    | .log2 =>
      let (y, k) := v.norm
      if y = fixOne then f.round .rne false (Val.ofInt k 0)
      else out ((Iv.ofInt k).add ((lnIv y).div ln2Iv)) 0
    | .log =>
      let (y, k) := v.norm
      out ((ln2Iv.mul (Iv.ofInt k)).add (if y = fixOne then Iv.ofInt 0 else lnIv y)) 0
    | .sinpi =>
      let (flip, r) := sinReduce ax
      if r = fixHalf then f.round .rne false (.fin (neg != flip) 1 0)
      else out (Iv.signed (neg != flip) (sinPiIv r)) 0
    | .cospi =>
      if v.isIntegral then f.round .rne false (.fin v.isOdd 1 0)
      else let (flip, r) := cosReduce ax; out (Iv.signed flip (sinPiIv r)) 0
    | .tanh => if v.atLeast 60 then belowOne f neg else out (Iv.signed neg (tanhIv ax)) 0
    | .sigm =>
      if v.atLeast 200 then (if neg then tinyOf f false else belowOne f false)
      else
        let g := expFix (Iv.exact (-ax))
        out (((if neg then g else Iv.ofInt 1)).div ((Iv.ofInt 1).add g)) 0
    | .gelu =>
      if v.atLeast 15 then (if neg then tinyOf f true else standIn f false (m * (2 ^ 200 - 1)) (e - 200))
      else out ((Iv.exact x).mul (phiIv x)) 0
    | .erf => if v.atLeast 6 then belowOne f neg else out (Iv.signed neg (erfIv (Iv.exact ax))) 0
  | _ => (f.nan, Flags.none)

/-- A special function into a format, correctly rounded, with its flags (R288). -/
def funVal (op : FunOp) (f : Fmt) (v : Val) : Nat × Flags := (funSpecial op f v).getD (funGeneral op f v)

/-! ### The derivatives (R186), correctly rounded to f32 -/

/-- The limits of f′ at an infinity. -/
def derivInf (op : FunOp) (neg : Bool) : Word :=
  match op with
  | .sqrt => 0
  | .rcp => 0x80000000
  | .rsq => 0x80000000
  | .exp2 => if neg then 0 else 0x7F800000
  | .exp => if neg then 0 else 0x7F800000
  | .log2 => 0
  | .log => 0
  | .sinpi => 0x7FC00000
  | .cospi => 0x7FC00000
  | .tanh => 0
  | .sigm => 0
  | .gelu => if neg then 0x80000000 else 0x3F800000
  | .erf => 0

/-- A rounded enclosure as an f32 word. -/
def settle32 (tag bits : Nat) (x : Iv) (k : Int) : Word := Word.ofNat (settleIv .f32 tag bits x k).1

/-- A rounded rational ±n / d × 2^e as an f32 word. -/
def ratio32 (neg : Bool) (n d : Nat) (e : Int) : Word := Word.ofNat (Fmt.f32.roundRat .rne false neg n d e).1

/-- A rounded square root of a rational as an f32 word. -/
def sqrt32 (neg : Bool) (n d : Nat) (e : Int) : Word := Word.ofNat (sqrtRat .f32 neg n d e).1

/-- An f32 infinity. -/
def inf32 (neg : Bool) : Word := Word.ofNat (Fmt.f32.inf neg)

/-- An f32 zero (log 20 for the sign of π·cos and −π·sin at their zeros). -/
def zero32 (neg : Bool) : Word := Word.ofNat (Fmt.f32.zero neg)

/-- f′(a) at ±0. Of an infinite one the rule states ±∞ (R186): its sign at −0 is that of 1/a for the logarithms, and + for FRSQ and FSQRT
(log 91). -/
def derivZero (op : FunOp) (neg : Bool) : Word :=
  match op with
  | .sqrt => inf32 false
  | .rcp => inf32 true
  | .rsq => inf32 (!neg)
  | .exp2 => settle32 43 0 ln2Iv 0
  | .exp => ratio32 false 1 1 0
  | .log2 => inf32 neg
  | .log => inf32 neg
  | .sinpi => settle32 47 0 piIv 0
  | .cospi => zero32 false
  | .tanh => ratio32 false 1 1 0
  | .sigm => ratio32 false 1 4 0
  | .gelu => ratio32 false 1 2 0
  | .erf => settle32 52 0 twoOverSqrtPi 0

/-- f′(a) at a finite a that is not zero. -/
def derivFin (op : FunOp) (v : Val) (neg : Bool) (m : Nat) (e : Int) : Word :=
  let x := v.fix
  let ax := v.abs.fix
  let out := settle32 (40 + op.tag) (Fmt.f32.rne v)
  let tiny := fun (n : Bool) => Word.ofNat (tinyOf .f32 n).1
  let far := Word.ofNat (expFar .f32 neg).1
  match op with
  | .sqrt => if neg then 0x7FC00000 else sqrt32 false 1 m (-e - 2)
  | .rcp => ratio32 true 1 (m * m) (-2 * e)
  | .rsq => if neg then 0x7FC00000 else sqrt32 true 1 (m * m * m) (-3 * e - 2)
  | .exp2 =>
    if v.atLeast 1024 then far
    else out (ln2Iv.mul (expSeries (ln2Iv.mul (Iv.exact (x % fixOne))) 150 1).widen) v.floorInt
  | .log2 =>
    let (y, k) := v.abs.norm
    out (Iv.signed neg ((Iv.ofInt 1).div ((Iv.exact y).mul ln2Iv))) (-k)
  | .exp => if v.atLeast 1024 then far else let r := expIv (Iv.exact x); out r.1 r.2
  | .log => ratio32 neg 1 m (-e)
  | .sinpi =>
    if v.isHalf then zero32 false
    else if v.isIntegral then out (Iv.signed v.isOdd piIv) 0
    else let (flip, r) := cosReduce ax; out (piIv.mul (Iv.signed flip (sinPiIv r))) 0
  | .cospi =>
    if v.isIntegral then zero32 false
    else
      let (flip, r) := sinReduce ax
      out (piIv.mul (Iv.signed (neg == flip) (if r = fixHalf then Iv.ofInt 1 else sinPiIv r))) 0
  | .tanh =>
    if v.atLeast 200 then tiny false
    else
      let g := expFix (Iv.exact (-2 * ax))
      let q := (Iv.ofInt 1).add g
      out ((g.shift 2).div (q.mul q)) 0
  | .sigm =>
    if v.atLeast 200 then tiny false
    else
      let g := expFix (Iv.exact (-ax))
      let q := (Iv.ofInt 1).add g
      out (g.div (q.mul q)) 0
  | .gelu =>
    if v.atLeast 15 then (if neg then tiny true else 0x3F800000)
    else
      let w := ((Iv.exact ax).mul (Iv.exact ax)).shift (-1)
      let d := (expFix w.neg).div ((piIv.shift 1).sqrt)
      out ((phiIv x).add ((Iv.exact x).mul d)) 0
  | .erf =>
    if v.atLeast 15 then tiny false
    else out (twoOverSqrtPi.mul (expFix ((Iv.exact ax).mul (Iv.exact ax)).neg)) 0

/-- f′(a), correctly rounded to f32; a NaN where no limit exists (R186). -/
def deriv (op : FunOp) (v : Val) : Word :=
  match v with
  | .nan _ => 0x7FC00000
  | .inf neg => derivInf op neg
  | .fin neg m e => if m = 0 then derivZero op neg else derivFin op v neg m e

/-! ### The v1 forms (R290) -/

/-- One coefficient g, g′ or g″ / 2 at an exact point m, rounded to f32. -/
def v1Coef (op : FunOp) (i : Nat) (p : Val) : Word :=
  let x := p.fix
  let xi := Iv.exact x
  let out := settle32 (80 + 3 * op.tag + i) (Fmt.f32.rne p)
  match p with
  | .fin _ m e =>
    match op with
    | .rcp => if i = 0 then ratio32 false 1 m (-e) else if i = 1 then ratio32 true 1 (m * m) (-2 * e)
              else ratio32 false 1 (m * m * m) (-3 * e)
    | .sqrt => if i = 0 then sqrt32 false m 1 e else if i = 1 then sqrt32 false 1 m (-e - 2)
               else sqrt32 true 1 (m * m * m) (-3 * e - 6)
    | .rsq => if i = 0 then sqrt32 false 1 m (-e) else if i = 1 then sqrt32 true 1 (m * m * m) (-3 * e - 2)
              else sqrt32 false 9 (m * m * m * m * m) (-5 * e - 6)
    | .log2 => if i = 0 then out ((lnIv x).div ln2Iv) 0
               else if i = 1 then out ((Iv.ofInt 1).div (xi.mul ln2Iv)) 0
               else out ((Iv.ofInt 1).div ((xi.mul xi).mul ln2Iv)).neg (-1)
    | .exp2 =>
      let y := (expSeries (ln2Iv.mul xi) 150 1).widen
      if i = 0 then out y 0 else if i = 1 then out (y.mul ln2Iv) 0 else out ((y.mul ln2Iv).mul ln2Iv) (-1)
    | .sinpi => if i = 0 then out (sinPiIv x) 0 else if i = 1 then out (piIv.mul (sinPiIv (fixHalf - x))) 0
                else out ((piIv.mul piIv).mul (sinPiIv x)).neg (-1)
    | .cospi => if i = 0 then out (sinPiIv (fixHalf - x)) 0 else if i = 1 then out (piIv.mul (sinPiIv x)).neg 0
                else out ((piIv.mul piIv).mul (sinPiIv (fixHalf - x))).neg (-1)
    | .tanh =>
      let t := tanhIv x
      let u := (Iv.ofInt 1).sub (t.mul t)
      if i = 0 then out t 0 else if i = 1 then out u 0 else out (t.mul u).neg 0
    | .erf =>
      let c := twoOverSqrtPi.mul (expFix (xi.mul xi).neg)
      if i = 0 then out (erfIv xi) 0 else if i = 1 then out c 0 else out (xi.mul c).neg 0
    | _ => 0
  | _ => 0

/-- The quadratic of R290 for an argument r in the interval from `lo` of width 2^wexp: the segment, its midpoint, h, the
three coefficients and p. -/
def v1Poly (op : FunOp) (r lo : Val) (wexp : Int) : Val :=
  let j := min 63 (((r.sub lo).mul (.fin false 64 (-wexp))).floorInt.toNat)
  let m := lo.add (.fin false (2 * j + 1) (wexp - 7))
  let h := f32v (rne32 (r.sub m))
  let c := fun i => f32v (v1Coef op i m)
  let s := f32v (rne32 ((c 1).add (f32v (rne32 ((c 2).mul h)))))
  f32v (rne32 ((c 0).add (f32v (rne32 (s.mul h)))))

/-- RNE(p × 2^k), k clamped where it is beyond every format. -/
def scale32 (p : Val) (k : Int) : Word := rne32 (p.mul (.fin false 1 (max (-1000) (min 1000 k))))

/-- A value with a sign. -/
def Val.signed (neg : Bool) (v : Val) : Val := if neg then v.neg else v

/-- a − 2·(a/2 rounded to an integer, ties to even) (R290). -/
def v1Turn (v : Val) : Val :=
  v.sub (((v.mul (.fin false 1 (-1))).toIntegral .rne).mul (.fin false 2 0))

/-- The v1 value of a basic operation for an argument that R288 does not fix (R290). -/
def v1General (op : FunOp) (v : Val) : Word :=
  match v with
  | .fin neg m e =>
    let k : Int := e + Nat.log2 m
    let r := Val.fin false m (e - k)
    let halfT := Val.fin false 1 (-1)
    match op with
    | .rcp => scale32 (Val.signed neg (v1Poly .rcp r .one 0)) (-k)
    | .sqrt =>
      let q := Int.fdiv k 2
      let r2 := Val.fin false m (e - 2 * q)
      scale32 (if k % 2 = 0 then v1Poly .sqrt r2 .one 0 else v1Poly .sqrt r2 (.fin false 2 0) 1) q
    | .rsq =>
      let q := Int.fdiv k 2
      let r2 := Val.fin false m (e - 2 * q)
      scale32 (if k % 2 = 0 then v1Poly .rsq r2 .one 0 else v1Poly .rsq r2 (.fin false 2 0) 1) (-q)
    | .log2 => rne32 ((Val.ofInt k 0).add (v1Poly .log2 r .one 0))
    | .exp2 =>
      if v.atLeast 1024 then (if neg then 0 else inf32 false)
      else scale32 (v1Poly .exp2 (v.sub (Val.ofInt v.floorInt 0)) .zero 0) v.floorInt
    | .sinpi =>
      let x := v1Turn v
      let r1 := x.abs
      let r2 := if halfT.lt r1 then Val.one.sub r1 else r1
      rne32 (Val.signed x.sign (v1Poly .sinpi r2 .zero (-1)).abs)
    | .cospi =>
      let r1 := (v1Turn v).abs
      let r2 := if halfT.lt r1 then Val.one.sub r1 else r1
      rne32 (Val.signed (halfT.lt r1) (v1Poly .cospi r2 .zero (-1)))
    | .tanh =>
      if k < -12 then rne32 v
      else if v.atLeast 9 then ratio32 neg 1 1 0
      else rne32 (Val.signed neg (v1Poly .tanh v.abs (.fin false 1 k) k).abs)
    | .erf =>
      if k < -12 then rne32 (v.mul (f32v 0x3F906EBB))
      else if v.atLeast 4 then ratio32 neg 1 1 0
      else rne32 (Val.signed neg (v1Poly .erf v.abs (.fin false 1 k) k).abs)
    | _ => 0
  | _ => 0x7FC00000

/-- The v1 value of a basic operation: R288's fixed results first. -/
def v1Basic (op : FunOp) (v : Val) : Val :=
  match funSpecial op .f32 v with
  | some r => Fmt.f32.val r.1
  | none => f32v (v1General op v)

/-- The v1 value of every operation, past R288's fixed results (R290). -/
def v1Value (op : FunOp) (v : Val) : Word :=
  let half := Val.fin false 1 (-1)
  match op with
  | .log => rne32 ((v1Basic .log2 v).mul (f32v 0x3F317218))
  | .exp => rne32 (v1Basic .exp2 (f32v (rne32 (v.mul (f32v 0x3FB8AA3B)))))
  | .sigm =>
    let t := v1Basic .tanh (f32v (rne32 (half.mul v)))
    rne32 (half.add (f32v (rne32 (half.mul t))))
  | .gelu =>
    let t := v1Basic .erf (f32v (rne32 (v.mul (f32v 0x3F3504F3))))
    rne32 ((f32v (rne32 (half.mul v))).mul (f32v (rne32 (Val.one.add t))))
  | _ => v1General op v

/-- Is an f32 word subnormal or zero? -/
def isSmall32 (w : Word) : Bool := w.field 23 8 == 0

/-- A v1 form with its flags (R290): fixed results have the table's flags; every other result raises NX, OF where a finite
argument gives an infinity, UF where the result is subnormal or zero. -/
def v1Fun (op : FunOp) (v : Val) : Nat × Flags :=
  match funSpecial op .f32 v with
  | some r => r
  | none =>
    let w := v1Value op v
    (w.toNat, Flags.nx ||| (if (f32v w).isInf then Flags.of else Flags.none) |||
      (if isSmall32 w then Flags.uf else Flags.none))

/-! ### The instructions -/

/-- A special function of one register, with its plies: partial i is RNE(f′ × da) (R186, R288, R290). -/
def funReg (op : FunOp) (ff : FunFmt) (n : Nat) (x : Reg) : Reg × Flags :=
  let f := funFormat ff
  let v := f.val x.val.toNat
  let r := if ff = .v1 then v1Fun op v else funVal op f v
  let nan := (f.val r.1).isNan
  let atZero := op = .sqrt && v.isZero
  (fpReg [x] (Word.ofNat r.1) nan atZero (partsOf n fun i =>
    if atZero then inf32 ((x.part i).msb) else rne32 ((f32v (deriv op v)).mul (x.partV i))), r.2)

/-- An exact function of one register (R287). -/
def exactReg (ff : FunFmt) (x : Reg) (g : Fmt → Val → Nat × Flags) (mk : Word → Bool → Val → Reg) : Reg × Flags :=
  let f := funFormat ff
  let v := f.val x.val.toNat
  let r := g f v
  (mk (Word.ofNat r.1) (f.val r.1).isNan v, r.2)

/-- The opposite of a partial, exactly; a NaN becomes the canonical NaN (R185). -/
def negPart (w : Word) : Word := rne32 (f32v w).neg

/-- FABS (R287, R186): at ±0 the partials keep or flip their sign with the sign of the zero, and KINK is set. -/
def fabsReg (ff : FunFmt) (n : Nat) (x : Reg) : Reg × Flags :=
  exactReg ff x (fun f v => (f.rne v.abs, Flags.none)) fun w nan v =>
    fpReg [x] w nan v.isZero (partsOf n fun i => if v.sign then negPart (x.part i) else canonPart (x.part i))

/-- FNEG (R287, R186). -/
def fnegReg (ff : FunFmt) (n : Nat) (x : Reg) : Reg × Flags :=
  exactReg ff x (fun f v => (f.rne v.neg, Flags.none)) fun w nan _ =>
    fpReg [x] w nan false (partsOf n fun i => negPart (x.part i))

/-- NV for a signalling NaN. -/
def sigFlag (v : Val) : Flags := if v.isSig then Flags.nv else Flags.none

/-- FFLOOR, FCEIL, FROUND, FTRUNC (R287, R186): STATE ZERO, KINK where the argument is an integer. -/
def integralReg (mode : Rnd) (ff : FunFmt) (x : Reg) : Reg × Flags :=
  exactReg ff x (fun f v => (f.rne (v.toIntegral mode), sigFlag v)) fun w nan v => fpZeroReg [x] w nan v.isIntegral

/-- FFRAC (R287, R186): RNE(a − floor a). -/
def ffracReg (ff : FunFmt) (n : Nat) (x : Reg) : Reg × Flags :=
  exactReg ff x (fun f v => match v with
      | .inf _ => (f.nan, Flags.nv)
      | .nan sig => (f.nan, if sig then Flags.nv else Flags.none)
      | .fin _ _ _ => f.round .rne false (v.sub (v.toIntegral .rdn))) fun w nan v =>
    fpReg [x] w nan v.isIntegral (partsOf n fun i => canonPart (x.part i))

/-- FABS (R287). -/
def execFabs (d a : RegName) (f : FunFmt) (st : Stall) (s : State) : Host.Outcome State Fault Refusal :=
  s.runLocal (.fabs d a f st) st (fp1 d a TCtx.dueB (fabsReg f))

/-- FNEG (R287). -/
def execFneg (d a : RegName) (f : FunFmt) (st : Stall) (s : State) : Host.Outcome State Fault Refusal :=
  s.runLocal (.fneg d a f st) st (fp1 d a TCtx.dueB (fnegReg f))

/-- FFLOOR (R287). -/
def execFfloor (d a : RegName) (f : FunFmt) (st : Stall) (s : State) : Host.Outcome State Fault Refusal :=
  s.runLocal (.ffloor d a f st) st (fp1 d a TCtx.dueB fun _ x => integralReg .rdn f x)

/-- FCEIL (R287). -/
def execFceil (d a : RegName) (f : FunFmt) (st : Stall) (s : State) : Host.Outcome State Fault Refusal :=
  s.runLocal (.fceil d a f st) st (fp1 d a TCtx.dueB fun _ x => integralReg .rup f x)

/-- FROUND (R287). -/
def execFround (d a : RegName) (f : FunFmt) (st : Stall) (s : State) : Host.Outcome State Fault Refusal :=
  s.runLocal (.fround d a f st) st (fp1 d a TCtx.dueB fun _ x => integralReg .rne f x)

/-- FTRUNC (R287). -/
def execFtrunc (d a : RegName) (f : FunFmt) (st : Stall) (s : State) : Host.Outcome State Fault Refusal :=
  s.runLocal (.ftrunc d a f st) st (fp1 d a TCtx.dueB fun _ x => integralReg .rz f x)

/-- FFRAC (R287). -/
def execFfrac (d a : RegName) (f : FunFmt) (st : Stall) (s : State) : Host.Outcome State Fault Refusal :=
  s.runLocal (.ffrac d a f st) st (fp1 d a TCtx.dueB (ffracReg f))

/-- FSQRT (R288, R290). -/
def execFsqrt (d a : RegName) (f : FunFmt) (st : Stall) (s : State) : Host.Outcome State Fault Refusal :=
  s.runLocal (.fsqrt d a f st) st (fp1 d a dueV (funReg .sqrt f))

/-- FRCP (R288, R290). -/
def execFrcp (d a : RegName) (f : FunFmt) (st : Stall) (s : State) : Host.Outcome State Fault Refusal :=
  s.runLocal (.frcp d a f st) st (fp1 d a dueV (funReg .rcp f))

/-- FRSQ (R288, R290). -/
def execFrsq (d a : RegName) (f : FunFmt) (st : Stall) (s : State) : Host.Outcome State Fault Refusal :=
  s.runLocal (.frsq d a f st) st (fp1 d a dueV (funReg .rsq f))

/-- FEXP2 (R288, R290). -/
def execFexp2 (d a : RegName) (f : FunFmt) (st : Stall) (s : State) : Host.Outcome State Fault Refusal :=
  s.runLocal (.fexp2 d a f st) st (fp1 d a dueV (funReg .exp2 f))

/-- FLOG2 (R288, R290). -/
def execFlog2 (d a : RegName) (f : FunFmt) (st : Stall) (s : State) : Host.Outcome State Fault Refusal :=
  s.runLocal (.flog2 d a f st) st (fp1 d a dueV (funReg .log2 f))

/-- FEXP (R288, R290). -/
def execFexp (d a : RegName) (f : FunFmt) (st : Stall) (s : State) : Host.Outcome State Fault Refusal :=
  s.runLocal (.fexp d a f st) st (fp1 d a dueV (funReg .exp f))

/-- FLOG (R288, R290). -/
def execFlog (d a : RegName) (f : FunFmt) (st : Stall) (s : State) : Host.Outcome State Fault Refusal :=
  s.runLocal (.flog d a f st) st (fp1 d a dueV (funReg .log f))

/-- FSINPI (R288, R290). -/
def execFsinpi (d a : RegName) (f : FunFmt) (st : Stall) (s : State) : Host.Outcome State Fault Refusal :=
  s.runLocal (.fsinpi d a f st) st (fp1 d a dueV (funReg .sinpi f))

/-- FCOSPI (R288, R290). -/
def execFcospi (d a : RegName) (f : FunFmt) (st : Stall) (s : State) : Host.Outcome State Fault Refusal :=
  s.runLocal (.fcospi d a f st) st (fp1 d a dueV (funReg .cospi f))

/-- FTANH (R288, R290). -/
def execFtanh (d a : RegName) (f : FunFmt) (st : Stall) (s : State) : Host.Outcome State Fault Refusal :=
  s.runLocal (.ftanh d a f st) st (fp1 d a dueV (funReg .tanh f))

/-- FSIGM (R288, R290). -/
def execFsigm (d a : RegName) (f : FunFmt) (st : Stall) (s : State) : Host.Outcome State Fault Refusal :=
  s.runLocal (.fsigm d a f st) st (fp1 d a dueV (funReg .sigm f))

/-- FGELU (R288, R290). -/
def execFgelu (d a : RegName) (f : FunFmt) (st : Stall) (s : State) : Host.Outcome State Fault Refusal :=
  s.runLocal (.fgelu d a f st) st (fp1 d a dueV (funReg .gelu f))

/-- FERF (R288, R290). -/
def execFerf (d a : RegName) (f : FunFmt) (st : Stall) (s : State) : Host.Outcome State Fault Refusal :=
  s.runLocal (.ferf d a f st) st (fp1 d a dueV (funReg .erf f))

end Sys2Proof.Machine
end

