-- ==== Sys2Proof/Machine/Matrix.lean ====
section
/-! DEFINITION. The matrix instructions (R317 to R334): binding and signing, the checks of a signature, the operations of the
matrix array, the bypass latch, the histogram, MWAIT. -/

namespace Sys2Proof.Machine

/-! ### Binding (R318, R319) -/

/-- Is a binding word refused (R319)? -/
def bindBad (w : Word) : Bool :=
  w.field 18 14 != 0 || w.field 14 2 != 0 || w.field 0 14 == 0 || 8192 < w.field 0 14

/-- The number of the round that takes the first signature of a thread that binds now: the lowest that has not entered the
queue (R320). -/
def CvReg.firstRound (c : CvReg) : Nat := ((c.rounds.head?).map (·.num)).getD c.nextRound

/-- Is an accumulator held by another block (R317)? -/
def State.accTaken (s : State) (core acc blk : Nat) : Bool :=
  match ((s.core core).accs[acc]?).bind (·.holder) with
  | some b => b != blk
  | none => false

/-- One bind, row by row of R319. -/
def State.bind (s : State) (t : TRef) (th : Thread) (cv : Nat) (w : Word) : Lane :=
  let c := s.cvReg s.issue.core cv
  let n := w.field 0 14
  let acc := w.field 16 2
  let take := fun (s : State) (c : CvReg) =>
    (s.modCore s.issue.core fun k => { k with cvs := k.cvs.set cv c }).modThread t fun th =>
      { th with cv := some (cv, c.firstRound) }
  if bindBad w then .trap s 0x38 0x02 0
  else if th.cv.isSome then .trap s 0x39 0x02 0
  else match c.holder with
    | some b =>
      if b ≠ t.blk || n ≠ c.n || acc ≠ c.acc || c.bound = c.n then .trap s 0x39 0x02 0
      else if s.accTaken s.issue.core acc t.blk then .trap s 0x39 0x02 0
      else .next (take s { c with bound := c.bound + 1 })
    | none =>
      if s.accTaken s.issue.core acc t.blk then .trap s 0x39 0x02 0
      else
        let s := s.modCore s.issue.core fun k => { k with accs := k.accs.modify acc fun a => { a with holder := some t.blk } }
        .next (take s ⟨n, acc, some t.blk, 1, 0, []⟩)

/-- MSIGN, the bind (R319). -/
def execMsignBind (d a : RegName) (st : Stall) (s : State) : Host.Outcome State Fault Refusal :=
  s.run (.msignBind d a st) st fun s t th => s.bind t th d.toNat (th.val a)

/-- MSIGN, the release (R319): it waits until no open round holds a signature of the thread. -/
def execMsignRelease (d : RegName) (st : Stall) (s : State) : Host.Outcome State Fault Refusal :=
  s.run (.msignRelease d st) st fun s t th =>
    match th.cv with
    | none => .trap s 0x39 0x03 0
    | some (i, _) =>
      if i ≠ d.toNat then .trap s 0x39 0x02 0
      else if (s.cvReg s.issue.core i).signedBy t then
        .go ((s.parkAt t (.unbind i)).want (.msignReleaseComplete t.blk t.tid))
      else .next (s.unbind s.issue.core t th)

/-- MSIGN_RELEASE_COMPLETE (R319): the waiting release ends once no open round holds a signature of the thread. -/
def execMsignReleaseComplete (blk tid : Nat) (s : State) : Host.Outcome State Fault Refusal :=
  match s.thread? ⟨blk, tid⟩, s.coreOf blk with
  | some th, some c => match th.park with
    | some (.unbind i) =>
      if (s.cvReg c i).signedBy ⟨blk, tid⟩ then .next s
      else .next ((s.unbind c ⟨blk, tid⟩ th).modThread ⟨blk, tid⟩ fun th => th.unpark.advance)
    | _ => .next s
  | _, _ => .next s

/-! ### Formats, options and extents (R321, R322, R323, R327, R328) -/

/-- The A format code. -/
def mmaAF (f : Word) : Nat := f.field 0 4
/-- The B format code. -/
def mmaBF (f : Word) : Nat := f.field 4 4
/-- ACCUM of the format word. -/
def mmaAccum (f : Word) : Bool := f.bit 8
/-- BYP of the format word. -/
def mmaByp (f : Word) : Bool := f.bit 9
/-- MC of the format word. -/
def mmaMc (f : Word) : Bool := f.bit 10
/-- TA of the format word. -/
def mmaTA (f : Word) : Bool := f.bit 11
/-- TB of the format word. -/
def mmaTB (f : Word) : Bool := f.bit 12
/-- SOFF of the format word. -/
def mmaSoff (f : Word) : Nat := f.field 16 8
/-- Is B a weight format? -/
def mmaWeights (f : Word) : Bool := 8 ≤ mmaBF f
/-- Is A a 16-bit format? -/
def mmaWideA (f : Word) : Bool := mmaAF f < 2
/-- K of an MMA (R323). -/
def mmaK (f : Word) : Nat := if mmaWideA f && !mmaWeights f then 128 else 256

/-- Is a format word refused (R323)? -/
def mmaBad (f : Word) : Bool :=
  f.field 24 8 != 0 || f.field 13 3 != 0 || 3 < mmaAF f ||
  !(mmaBF f < 4 || mmaBF f == 8 || mmaBF f == 9) ||
  (!mmaWeights f && mmaWideA f != decide (mmaBF f < 2)) ||
  (mmaWeights f && (!(mmaAF f == 0 || mmaAF f == 2) || !mmaTB f)) ||
  (mmaSoff f != 0 && !mmaWeights f) || (mmaByp f && !mmaWideA f)

/-- The bytes of the A tile, dense: of bf16 against weights, with K = 256, twice as many (R321, R323). -/
def mmaBytesA (f : Word) : Nat := 128 * mmaK f * (if mmaWideA f then 2 else 1)

/-- The bytes of the B tile. -/
def mmaBytesB (f : Word) : Nat := if mmaBF f = 8 then 16384 else if mmaBF f = 9 then 13312 else 32768

/-- The address of the scale tile. -/
def mmaScales (f : Word) (b : Addr) : Addr := b + Addr.ofNat (256 * mmaSoff f)

/-- The options of MDRAIN. -/
def drainFmt (o : Word) : Nat := o.field 0 3
/-- HIST of the options. -/
def drainHist (o : Word) : Bool := o.bit 3
/-- PASS of the options. -/
def drainPass (o : Word) : Nat := o.field 4 2
/-- KEEP of the options. -/
def drainKeep (o : Word) : Bool := o.bit 6
/-- BYPA of the options. -/
def drainByp (o : Word) : Bool := o.bit 7
/-- CSC of the options. -/
def drainCsc (o : Word) : Bool := o.bit 8
/-- SAT of the options. -/
def drainSat (o : Word) : Bool := o.bit 9
/-- HSLOT of the options. -/
def drainSlot (o : Word) : Nat := o.field 12 4
/-- Does the pass write a vector? -/
def drainVector (o : Word) : Bool := drainPass o == 1 || drainPass o == 2
/-- Does the pass read the row vector? -/
def drainRow (o : Word) : Bool := 2 ≤ drainPass o

/-- Are the options refused (R328)? -/
def drainBad (o : Word) : Bool :=
  o.field 16 16 != 0 || o.field 10 2 != 0 || 4 < drainFmt o ||
  (drainByp o && !(drainFmt o == 1 || drainFmt o == 2)) ||
  (drainVector o && (drainFmt o != 0 || drainSat o || drainHist o || drainByp o)) ||
  (drainPass o == 2 && !drainKeep o)

/-- The bytes of one drained element. -/
def drainSize (o : Word) : Nat := if drainFmt o = 0 then 4 else if drainFmt o ≤ 2 then 2 else 1

/-- The format of drained elements. -/
def drainTo (o : Word) : Fmt :=
  match drainFmt o with
  | 0 => .f32 | 1 => .f16 | 2 => .bf16 | 3 => .e4m3 | _ => .e5m2

/-- The fault of one matrix extent (R321), after the check of R28. -/
def State.extentFault (s : State) (blk : Nat) (e : Addr × Nat) : Option (Nat × Nat) :=
  let va := e.1.toNat
  if 2 ^ 48 ≤ va then some (0x20, 0x01)
  else if !inAperture va then some (0x21, 0x0E)
  else if va % 128 ≠ 0 then some (0x20, 0x04)
  else match s.aperture blk va with
    | .error sub => some (0x21, sub)
    | .ok (.win k off) => if off + e.2 ≤ ((s.blocks[k]?).map (·.memSize)).getD 0 then none else some (0x21, 0x0A)
    | .ok (.phys _) => none

/-- The extents that an operation names (R321). -/
def CmdOp.extents : CmdOp → List (Addr × Nat)
  | .mma f a b _ =>
    (if mmaByp f then [] else [(a, mmaBytesA f)]) ++ [(b, mmaBytesB f)] ++ (if mmaWeights f then [(mmaScales f b, 2048)] else [])
  | .mdrain o d r c _ =>
    [(d, if drainVector o then 512 else 16384 * drainSize o)] ++ (if drainRow o then [(r, 512)] else []) ++
      (if drainCsc o then [(c, 512)] else [])
  | .mloadc a _ => [(a, 65536)]
  | .mhist _ d => [(d, 128)]
  | _ => []

/-- The extents that an operation reads. -/
def CmdOp.sources : CmdOp → List (Addr × Nat)
  | .mdrain o d r c acc => (CmdOp.extents (.mdrain o d r c acc)).drop 1
  | .mhist .. => []
  | op => op.extents

/-- Is the format or options word of an operation refused? -/
def CmdOp.formatBad : CmdOp → Bool
  | .mma f _ _ _ => mmaBad f
  | .mdrain o _ _ _ _ => drainBad o
  | _ => false

/-- The operation's own checks, made on the first signature of a round (R320, R321, R323, R328): the cause and subcode. -/
def State.opFault (s : State) (blk : Nat) (op : CmdOp) : Option (Nat × Nat) :=
  if op.formatBad then some (0x38, 0x02) else (CmdOp.extents op).findSome? (s.extentFault blk)

/-- What a later signature that differs from its round raises (R320). -/
def signDivergence : CmdOp → CmdOp → Option (Nat × Nat)
  | .mma f a b _, .mma f' a' b' _ =>
    if f ≠ f' then some (0x38, 0x01) else if a ≠ a' || b ≠ b' then some (0x39, 0x01) else none
  | .mdrain o d r c _, .mdrain o' d' r' c' _ =>
    if o ≠ o' then some (0x38, 0x01) else if d ≠ d' || r ≠ r' || c ≠ c' then some (0x39, 0x01) else none
  | .mzero _, .mzero _ => none
  | .mloadc a _, .mloadc a' _ => if a ≠ a' then some (0x39, 0x01) else none
  | _, _ => some (0x38, 0x01)

/-! ### Signing (R320) -/

/-- A signature counted: the round with it, or, completed, its command in the matrix queue with the recorded operands; the
spill ring may have no room for that (R156). -/
def State.countSignature (s : State) (t : TRef) (cv : Nat) (c : CvReg) (rd : Round) : Lane :=
  let core := s.issue.core
  let rest := c.rounds.filter fun x => x.num != rd.num
  let next := if rd.num = c.nextRound then c.nextRound + 1 else c.nextRound
  let put := fun (s : State) (rs : List Round) =>
    (s.modCore core fun k => { k with cvs := k.cvs.set cv { c with rounds := rs, nextRound := next } }).modThread t fun th =>
      { th with cv := some (cv, rd.num + 1) }
  let signed := rd.signed ++ [t]
  if c.n ≤ signed.length then
    match s.enterQueue core t.blk qMatrix rd.op with
    | some s => .next (put s rest)
    | none => .trap s 0x40 0x01 0
  else if rd.num = c.nextRound then .next (put s (rest ++ [{ rd with signed := signed }]))
  else .next (put s (c.rounds.map fun x => if x.num = rd.num then { rd with signed := signed } else x))

/-- One signature of a thread (R320): its strand's earlier writes are performed first (R332, log 12). `mk` is the operation
on the accumulator of the thread's convergence register. -/
def State.sign (s : State) (t : TRef) (th : Thread) (mk : Nat → CmdOp) : Lane :=
  match th.cv with
  | none => .trap s 0x39 0x03 0
  | some (i, r) =>
    let s := s.drainStrand t.blk th.strand
    let c := s.cvReg s.issue.core i
    let op := mk c.acc
    match c.rounds.find? fun x => x.num == r with
    | some rd => match signDivergence rd.op op with
      | some (cause, sub) => .trap s cause sub 0
      | none => s.countSignature t i c rd
    | none =>
      if 4 ≤ c.rounds.length then .go (s.parkAt t .round)
      else match s.opFault t.blk op with
        | some (cause, sub) => .trap s cause sub 0
        | none => s.countSignature t i c ⟨c.nextRound, op, []⟩

/-- MMA (R322, R320). -/
def execMma (d a b : RegName) (st : Stall) (s : State) : Host.Outcome State Fault Refusal :=
  s.run (.mma d a b st) st fun s t th => s.sign t th (.mma (th.val d) (th.pair a) (th.pair b))

/-- The architectural registers of the vector quad that the options use (R327). -/
def drainArchs (th : Thread) (o : Word) (b : RegName) : List Nat :=
  ((if drainRow o then [0, 1] else []) ++ (if drainCsc o then [2, 3] else [])).map fun i => archOf th.wb (member b i)

/-- MDRAIN (R327, R320): only the pairs of the vector quad that the options use are read, so only these are checked and
waited for. -/
def execMdrain (d a b : RegName) (st : Stall) (s : State) : Host.Outcome State Fault Refusal :=
  s.run (.mdrain d a b st) st fun s t th =>
    let o := th.val d
    let used := drainArchs th o b
    let now := (s.core s.issue.core).cycles
    if used.any fun x => decide (max 1 th.regs.length ≤ x) then .trap s 0x05 0x01 0
    else if th.chk && th.early now used then .trap s 0x06 0 0
    else if th.awaits now used then .stay s
    else s.sign t th (.mdrain o (th.pair a) (if drainRow o then th.pair b else 0)
      (if drainCsc o then th.pair (member b 2) else 0))

/-- MZERO (R329, R320). -/
def execMzero (st : Stall) (s : State) : Host.Outcome State Fault Refusal :=
  s.run (.mzero st) st fun s t th => s.sign t th .mzero

/-- MLOADC (R329, R320). -/
def execMloadc (a : RegName) (st : Stall) (s : State) : Host.Outcome State Fault Refusal :=
  s.run (.mloadc a st) st fun s t th => s.sign t th (.mloadc (th.pair a))

/-! ### MHIST, MHCLR and MWAIT (R329, R330): once per issue -/

/-- Enter one matrix command for an issue: in a doubled block too, each copy has its own (R333). -/
def State.issueMatrix (s : State) (t : TRef) (op : CmdOp) : Once :=
  match s.opFault t.blk op with
  | some (c, sub) => .trap s c sub
  | none => match s.enterQueue s.issue.core t.blk qMatrix op with
    | some s => .done s fun _ th => th
    | none => .trap s 0x40 0x01

/-- Does a slot register name no slot (R329)? -/
def slotBad (w : Word) : Bool := w.field 4 28 != 0

/-- MHIST (R329). -/
def execMhist (d a : RegName) (st : Stall) (s : State) : Host.Outcome State Fault Refusal :=
  s.runOnce (.mhist d a st) st fun s _ t th =>
    if slotBad (th.val d) then .trap s 0x38 0x02 else s.issueMatrix t (.mhist ((th.val d).field 0 4) (th.pair a))

/-- MHCLR (R329). -/
def execMhclr (d : RegName) (st : Stall) (s : State) : Host.Outcome State Fault Refusal :=
  s.runOnce (.mhclr d st) st fun s _ t th =>
    if slotBad (th.val d) then .trap s 0x38 0x02 else s.issueMatrix t (.mhclr ((th.val d).field 0 4))

/-- MWAIT (R330). -/
def execMwait (d : RegName) (st : Stall) (s : State) : Host.Outcome State Fault Refusal :=
  s.runOnce (.mwait d st) st fun s _ t th =>
    let w := th.val d
    if w.field 5 11 != 0 then .trap s 0x38 0x02
    else if (s.spindle? t.blk false (w.field 0 5)).isNone then .trap s 0x30 0x02
    else s.issueMatrix t (.mwait w)

/-! ### Command start (R313) -/

/-- What a matrix command reads of block memory when it begins: each of its operands that lies in a window (R111, log 85). -/
def State.readEarly (s : State) (blk : Nat) (op : CmdOp) : List (Nat × List Byte) :=
  op.sources.filterMap fun e => match s.aperture blk e.1.toNat with
    | .ok l => some (e.1.toNat, s.homeRead l e.2)
    | .error _ => none

/-- A command that its engine takes up and checks; one of the matrix queue begins to read what it names, and is timed, from now on (R313,
R325, log 85). -/
def State.takeUp (s : State) (core q : Nat) (c : Cmd) : Cmd :=
  if q = qMatrix then
    { c with started := true, fin := c.op.check, since := (s.core core).cycles, work := { c.work with early := s.readEarly c.blk c.op } }
  else { c with started := true, fin := c.op.check }

/-- ENGINE_COMMAND_START (R313): a queued command reaches its engine and is checked; a STREAM that is malformed ends (R314, R315). -/
def execEngineCommandStart (core q : Nat) (s : State) : Host.Outcome State Fault Refusal :=
  let s := s.passJoins core
  match s.startable core q with
  | none => .next s
  | some i => match (s.queue core q).q[i]? with
    | none => .next s
    | some c => match c.op with
      | .join _ => .next s
      | op =>
        let s := s.modQueue core q fun x => { x with q := x.q.modify i (s.takeUp core q) }
        .next (match op with
          | .stream oct k => if streamBad oct then s.endStreams c.blk k ((octW oct 5).field 0 3) else s
          | _ => s)

/-! ### Reading and writing block memory for the array -/

/-- How an operand read ends: with its bytes, or with the status that ends the command: PoisonedSource for an uncorrectable
error (R330), TranslationFault where the window is no longer there. The granules are read one by one since the command began (R111, log 85). -/
def State.readTile (s : State) (core blk : Nat) (ea : Addr) (n : Nat) : Except Nat (List Byte) :=
  match s.aperture blk ea.toNat with
  | .error _ => .error 0x0003
  | .ok l =>
    if s.homeBad l n then .error 0x0001
    else .ok (s.mixed (((s.head? core qMatrix).map (·.work.early)).getD []) ea.toNat (s.homeRead l n))

/-- The free choices of the reads of the head of the matrix queue are used. -/
def State.mixedHead (s : State) (core : Nat) : State :=
  match (s.head? core qMatrix).map (·.work.early) with
  | some (_ :: _) => s.mixedMuch 1 65536
  | _ => s

/-- The single-bit errors in what an operation reads are corrected (R68). -/
def State.correctTiles (s : State) (blk : Nat) (op : CmdOp) : State :=
  op.sources.foldl (fun s e => match s.aperture blk e.1.toNat with
    | .error _ => s
    | .ok l => s.correct l e.2) s

/-- The writes of a tile or vector at its destination, one for each granule; every granule is set full (R328, R59, R111). -/
def State.tileWrites (s : State) (blk : Nat) (ea : Addr) (bytes : List Byte) : Option (List (Loc × List Byte)) :=
  match s.aperture blk ea.toNat with
  | .error _ => none
  | .ok l => some ((List.range (bytes.length / 16)).map fun i => (l.plus (16 * i), (bytes.drop (16 * i)).take 16))

/-- An accumulator of a core, as 16,384 words (R317). -/
def State.accVals (s : State) (core i : Nat) : Array Word :=
  let v := (((s.core core).accs[i]?).map (·.vals)).getD []
  if v.isEmpty then Array.replicate 16384 0 else v.toArray

/-- Replace an accumulator's words. -/
def State.setAcc (s : State) (core i : Nat) (v : List Word) : State :=
  s.modCore core fun c => { c with accs := c.accs.modify i fun a => { a with vals := v } }

/-- The head of the matrix queue has ended with a status: the first non-OK status is kept for the block's next MWAIT
(R330). -/
def State.matrixDone (s : State) (core blk st : Nat) : State :=
  (s.modBlock blk fun b => { b with mwaitStatus := if b.mwaitStatus = 0 then st else b.mwaitStatus }).popQueue core qMatrix

/-! ### MMA in the array (R323, R175, R168, R326) -/

/-- The floating format of a code of AF or BF. -/
def mmaFmt : Nat → Fmt
  | 0 => .bf16 | 1 => .f16 | 2 => .e4m3 | _ => .e5m2

/-- Little-endian element n of a size in bytes. -/
def elemAt (d : Array Byte) (size n : Nat) : Nat :=
  leNat ((List.range size).map fun i => d.getD (size * n + i) 0)

/-- A two's-complement field as an integer. -/
def sintOf (bits v : Nat) : Int := if v < 2 ^ (bits - 1) then v else (v : Int) - 2 ^ bits

/-- Weight k of column j (R168, R321). -/
def weightAt (d : Array Byte) (four : Bool) (j k : Nat) : Int :=
  if four then sintOf 4 (elemAt d 4 (32 * j + k / 8) / 2 ^ (4 * (k % 8)) % 16)
  else sintOf 3 (elemAt d 4 (26 * j + k / 10) / 2 ^ (3 * (k % 10)) % 8)

/-- The operands of one MMA as values: element (i, k) of A at i × K + k, element (k, j) of B at k × 128 + j, the scale of
group g of column j at 8 × j + g. -/
structure MmaIn where
  a : Array Val
  b : Array Val
  scale : Array Val

/-- A table of n values. -/
def tableOf (n : Nat) (g : Nat → Val) : Array Val := ((List.range n).map g).toArray

/-- Element (i, k) of A in a tile in memory (R321); against w4 or w3 a row has 256 elements (log 79). -/
def tileA (f : Word) (d : Array Byte) (i k : Nat) : Val :=
  (mmaFmt (mmaAF f)).val
    (elemAt d (if mmaWideA f then 2 else 1) (if mmaTA f then k * 128 + i else i * mmaK f + k))

/-- Element (k, j) of B (R321). -/
def tileB (f : Word) (d : Array Byte) (k j : Nat) : Val :=
  if mmaWeights f then Val.ofInt (weightAt d (mmaBF f == 8) j k) 0
  else (mmaFmt (mmaBF f)).val
    (elemAt d (if mmaBF f < 2 then 2 else 1) (if mmaTB f then j * mmaK f + k else k * 128 + j))

/-- Element (i, k) of A from the bypass latch, a 128 × 128 tile; the spec states no element of it for k of 128 or more (a
weight format has K = 256): a free value. -/
def latchA (f : Word) (w : Array Word) (free : Nat) (i k : Nat) : Val :=
  (mmaFmt (mmaAF f)).val (if k < 128 then w.getD (if mmaTA f then k * 128 + i else i * 128 + k) 0
    else Config.freeWord (free + 128 * i + (k - 128))).toNat

/-- The terms of one chunk: 64 for 8-bit formats without weights, else 32 (R175). -/
def chunkOf (f : Word) : Nat := if mmaWeights f || mmaWideA f then 32 else 64

/-- An exact sum of terms, from the first on (R175). -/
def sumVals : List Val → Val
  | [] => Val.zero
  | x :: r => r.foldl Val.add x

/-- The rounded sum of chunk c of element (i, j); an exact zero is +0 unless every term is −0 (R175). With
weights the terms are those before the scaling (log 81). -/
def MmaIn.chunk (m : MmaIn) (f : Word) (i j c : Nat) : Word :=
  let n := chunkOf f
  let terms := (List.range n).map fun t =>
    (m.a.getD (i * mmaK f + (c * n + t)) .zero).mul (m.b.getD ((c * n + t) * 128 + j) .zero)
  let s := sumVals terms
  let s := if mmaWeights f then s.mul (m.scale.getD (8 * j + c) .zero) else s
  if s.isZero then (if terms.all fun x => x.isZero && x.sign then 0x80000000 else 0) else rne32 s

/-- One element of the accumulator after the MMA (R175, R323). -/
def MmaIn.elem (m : MmaIn) (f : Word) (old : Word) (i j : Nat) : Word :=
  (List.range (mmaK f / chunkOf f)).foldl (fun acc c =>
    if c = 0 && !mmaAccum f then m.chunk f i j c else rne32 ((f32v acc).add (f32v (m.chunk f i j c)))) old

/-- The code by which MDRAIN names the format of A (R326). -/
def latchCode (f : Word) : Nat := if mmaAF f = 1 then 1 else 2

/-- The tile in a core's bypass latch, where it is full and of an MMA's format (R326). -/
def Core.latched (c : Core) (f : Word) : Option (List Word) :=
  match c.latch with
  | some (_, code, w) => if code = latchCode f then some w else none
  | none => none

/-- The tile that an MMA with BYP = 1 reads as A: the one it was frozen with (R220), or that of the latch (R326). -/
def State.bypTile (s : State) (core : Nat) (f : Word) : Option (List Word) :=
  match (s.head? core qMatrix).map (·.work.tile) with
  | some (w :: r) => some (w :: r)
  | _ => (s.core core).latched f

/-- The A operand: from the latch, which must be full and of the format, or from memory. -/
def State.mmaA (s : State) (core blk : Nat) (f : Word) (a : Addr) : Except Nat (Array Val) :=
  let n := mmaK f
  if mmaByp f then
    match s.bypTile core f with
    | some w =>
      let d := w.toArray
      .ok (tableOf (128 * n) fun x => latchA f d s.free (x / n) (x % n))
    | none => .error 0x0007
  else match s.readTile core blk a (mmaBytesA f) with
    | .ok l =>
      let d := l.toArray
      .ok (tableOf (128 * n) fun x => tileA f d (x / n) (x % n))
    | .error e => .error e

/-- The B operand with its scales. -/
def State.mmaB (s : State) (core blk : Nat) (f : Word) (b : Addr) : Except Nat (Array Val × Array Val) :=
  match s.readTile core blk b (mmaBytesB f), (if mmaWeights f then s.readTile core blk (mmaScales f b) 2048 else .ok []) with
  | .ok l, .ok sl =>
    let d := l.toArray
    let sc := sl.toArray
    .ok (tableOf (128 * mmaK f) fun x => tileB f d (x / 128) (x % 128), tableOf 1024 fun x => Fmt.bf16.val (elemAt sc 2 x))
  | .error e, _ => .error e
  | _, .error e => .error e

/-- Perform the MMA at the head of a core's matrix queue. -/
def State.mmaPerform (s : State) (core : Nat) : State :=
  match s.head? core qMatrix with
  | some ⟨.mma f a b acc, blk, _, _, _, _, _, _⟩ =>
    let s := s.correctTiles blk (.mma f a b acc)
    match s.mmaA core blk f a, s.mmaB core blk f b with
    | .ok fa, .ok (fb, sc) =>
      let m : MmaIn := ⟨fa, fb, sc⟩
      let old := s.accVals core acc
      let s := if mmaByp f && mmaWeights f then { s with free := s.free + 16384 } else s
      let s := s.mixedHead core
      (s.setAcc core acc ((List.range 16384).map fun n => m.elem f (old.getD n 0) (n / 128) (n % 128))).matrixDone core blk 0
    | .error e, _ => s.matrixDone core blk e
    | _, .error e => s.matrixDone core blk e
  | _ => s

/-- Do the heads of two matrix queues of a quad group join (R325)? -/
def State.mcJoins (s : State) (x y : Cmd) : Bool :=
  match x.op, y.op with
  | .mma f _ b _, .mma f' _ b' _ =>
    y.started && mmaMc f && mmaMc f' && mmaBF f == mmaBF f' && mmaTB f == mmaTB f' &&
      (match s.aperture x.blk b.toNat, s.aperture y.blk b'.toNat with
        | .ok l, .ok l' => l == l'
        | _, _ => false)
  | _, _ => false

/-- The cores of a block's quad group, without its own (R325). -/
def State.groupCores (s : State) (core blk : Nat) : List Nat :=
  match s.blocks[blk]? with
  | none => []
  | some b => if b.group = 0 then [] else
    (List.range s.cores.length).filter fun c => c != core && (List.range s.blocks.length).any fun k =>
      match s.blocks[k]? with
      | some x => x.grid == b.grid && x.group == b.group && x.trailing == b.trailing && x.place == .onCore c
      | none => false

/-- The cores whose head joins the head of a core (R325). -/
def State.mcPartners (s : State) (core : Nat) (x : Cmd) : List Nat :=
  (s.groupCores core x.blk).filter fun c => match s.head? c qMatrix with
    | some y => s.mcJoins x y
    | none => false

/-- Does the MMA at a head still wait for partners (R325)? -/
def State.mcWaits (s : State) (core : Nat) (x : Cmd) : Bool :=
  match x.op with
  | .mma f _ _ _ => mmaMc f && x.left.isEmpty && decide ((s.mcPartners core x).length < (s.groupCores core x.blk).length)
  | _ => false

/-- MMA_ARRAY (R323, R325): the head of the matrix queue, with those that join it, unless it still waits for them. -/
def execMmaArray (core : Nat) (s : State) : Host.Outcome State Fault Refusal :=
  match s.head? core qMatrix with
  | some x => match x.op with
    | .mma f _ _ _ =>
      if !x.started || s.mcWaits core x then .next s
      else .next ((if mmaMc f then s.mcPartners core x else []).foldl State.mmaPerform (s.mmaPerform core))
    | _ => .next s
  | none => .next s

/-- MC_JOIN_TIMEOUT (R325): after 128 cycles at the head the MMA waits no longer. -/
def execMcJoinTimeout (core : Nat) (s : State) : Host.Outcome State Fault Refusal :=
  match s.head? core qMatrix with
  | some x =>
    if x.started && s.mcWaits core x && decide (x.since + 128 ≤ (s.core core).cycles) then
      .next (s.modHead core qMatrix fun c => { c with left := [0] })
    else .next s
  | none => .next s

/-! ### MDRAIN in the array (R328, R176, R178) -/

/-- The histogram bin of an f32 value (R178). -/
def histBin (w : Word) : Nat :=
  let e := w.field 23 8
  if e = 0 then 0 else if 143 ≤ e then 31 else if e ≤ 113 then 1 else e - 112

/-- Count one value in a slot: counters stop at all ones (R178). -/
def countBin (l : List Word) (w : Word) : List Word :=
  l.modify (histBin w) fun c => if c = 0xFFFFFFFF#32 then c else c + 1

/-- The counters of a slot. -/
def Hist.vals (h : Hist) : List Word := if h.counts.isEmpty then List.replicate 32 0 else h.counts

/-- A slot that a block may use, held by it from now on; none where another block holds it (R331). -/
def State.holdSlot (s : State) (core slot blk : Nat) : Option (State × List Word) :=
  match (s.core core).hist[slot]? with
  | none => none
  | some h => match h.holder with
    | some b => if b = blk then some (s, h.vals) else none
    | none => some (s.modCore core fun c => { c with hist := c.hist.modify slot fun h => { h with holder := some blk } }, h.vals)

/-- Replace the counters of a slot. -/
def State.setSlot (s : State) (core slot : Nat) (v : List Word) : State :=
  s.modCore core fun c => { c with hist := c.hist.modify slot fun h => { h with counts := v } }

/-- The tree of R176 over a row of 128 values. -/
def rowTree (op : Nat → Nat → Nat × Flags) (row : List Word) : Word :=
  Word.ofNat ((treeRoot (fun (x y : Nat) => ((op x y).1, Flags.none)) 7 (row.map fun w => some w.toNat)).1.getD 0)

/-- What a drain gives: the accumulator as the pass leaves it, the output's element patterns, and the words it counts. -/
structure DrainOut where
  acc : List Word
  out : List Nat
  deriving DecidableEq, Repr

/-- The drain of an accumulator (R328), by its options, row vector and column vector. -/
def drainOut (o : Word) (acc : Array Word) (r c : Array Word) : DrainOut :=
  let x := ((List.range 16384).map fun n =>
    if drainCsc o then mul32 (acc.getD n 0) (c.getD (n % 128) 0) else acc.getD n 0).toArray
  let row := fun (v : Array Word) (i : Nat) => (List.range 128).map fun j => v.getD (128 * i + j) 0
  let cvt := fun (w : Word) => (cvtFloat (drainTo o) .rne (drainSat o) (f32v w)).1
  match drainPass o with
  | 1 => ⟨acc.toList, (List.range 128).map fun i => (rowTree (Fmt.f32.minmaxOp true) (row x i)).toNat⟩
  | 2 =>
    let e := ((List.range 16384).map fun n =>
      Word.ofNat (funVal .exp .f32 (f32v (rne32 ((f32v (x.getD n 0)).sub (f32v (r.getD (n / 128) 0)))))).1).toArray
    ⟨e.toList, (List.range 128).map fun i => (rowTree Fmt.f32.addOp (row e i)).toNat⟩
  | 3 => ⟨acc.toList, (List.range 16384).map fun n =>
      cvt (Word.ofNat (Fmt.f32.divOp (x.getD n 0).toNat (r.getD (n / 128) 0).toNat).1)⟩
  | _ => ⟨acc.toList, (List.range 16384).map fun n => cvt (x.getD n 0)⟩

/-- A vector operand of a drain, if the options use it. -/
def State.drainVec (s : State) (core blk : Nat) (used : Bool) (ea : Addr) : Except Nat (Array Word) :=
  if used then (s.readTile core blk ea 512).map fun d => (wordsOf d).toArray else .ok #[]

/-- Perform the MDRAIN of a block (R328): the state after it and the writes of its output, or the status that ends it with nothing
changed. -/
def State.drain (s : State) (core blk : Nat) (o : Word) (d r c : Addr) (acc : Nat) : Except Nat (State × List (Loc × List Byte)) :=
  let old := s.accVals core acc
  match s.drainVec core blk (drainRow o) r, s.drainVec core blk (drainCsc o) c,
      (if drainHist o then s.holdSlot core (drainSlot o) blk else some (s, [])) with
  | .error e, _, _ => .error e
  | _, .error e, _ => .error e
  | _, _, none => .error 0x0007
  | .ok rv, .ok cv, some (s, h) =>
    let x := drainOut o old rv cv
    match s.tileWrites blk d (x.out.flatMap (leBytes (if drainVector o then 4 else drainSize o))) with
    | none => .error 0x0003
    | some ws =>
      let s := s.mixedHead core
      let s := if drainHist o then s.setSlot core (drainSlot o) (old.foldl countBin h) else s
      let s := if drainByp o then
          s.modCore core fun k => { k with latch := some (blk, drainFmt o, x.out.map Word.ofNat) } else s
      .ok ((s.setAcc core acc (if drainKeep o then x.acc else [])).correctTiles blk (.mdrain o d r c acc), ws)

/-- The output of the head of the matrix queue stands ready: its granules are written one by one, in no order (R111). -/
def State.matrixReady (s : State) (core : Nat) (ws : List (Loc × List Byte)) : State :=
  s.modHead core qMatrix fun c => { c with work := ⟨[], [], true, ws, 0, [], []⟩ }

/-- One granule of the output of the head of the matrix queue; with the last it is complete. -/
def State.matrixWrite (s : State) (core blk : Nat) (w : ChunkWork) : State :=
  let x := s.writeOne w.outs
  if x.2.isEmpty then x.1.matrixDone core blk w.status
  else x.1.modHead core qMatrix fun c => { c with work := { w with outs := x.2 } }

/-- MDRAIN_ARRAY (R328): the drain, then the writes of its output. -/
def execMdrainArray (core : Nat) (s : State) : Host.Outcome State Fault Refusal :=
  match s.head? core qMatrix with
  | some ⟨.mdrain o d r c acc, blk, true, _, _, _, _, w⟩ =>
    if w.busy then .next (s.matrixWrite core blk w)
    else match s.drain core blk o d r c acc with
      | .ok (s, ws) => .next (s.matrixReady core ws)
      | .error e => .next (s.matrixDone core blk e)
  | _ => .next s

/-! ### The MCTL group in the array (R329 to R331) -/

/-- MZERO_EXEC (R329). -/
def execMzeroExec (core : Nat) (s : State) : Host.Outcome State Fault Refusal :=
  match s.head? core qMatrix with
  | some ⟨.mzero acc, blk, true, _, _, _, _, _⟩ => .next ((s.setAcc core acc []).matrixDone core blk 0)
  | _ => .next s

/-- MLOADC_EXEC (R329): bits as stored. -/
def execMloadcExec (core : Nat) (s : State) : Host.Outcome State Fault Refusal :=
  match s.head? core qMatrix with
  | some ⟨.mloadc a acc, blk, true, _, _, _, _, _⟩ =>
    match s.readTile core blk a 65536 with
    | .ok d => .next ((((s.mixedHead core).correctTiles blk (.mloadc a acc)).setAcc core acc (wordsOf d)).matrixDone core blk 0)
    | .error e => .next (s.matrixDone core blk e)
  | _ => .next s

/-- MHIST_EXEC (R329, R331). -/
def execMhistExec (core : Nat) (s : State) : Host.Outcome State Fault Refusal :=
  match s.head? core qMatrix with
  | some ⟨.mhist slot d, blk, true, _, _, _, _, w⟩ =>
    if w.busy then .next (s.matrixWrite core blk w)
    else match s.holdSlot core slot blk with
      | none => .next (s.matrixDone core blk 0x0007)
      | some (s', h) => match s'.tileWrites blk d (h.flatMap wordBytes) with
        | some ws => .next (s'.matrixReady core ws)
        | none => .next (s.matrixDone core blk 0x0003)
  | _ => .next s

/-- MHCLR_EXEC (R329, R331). -/
def execMhclrExec (core : Nat) (s : State) : Host.Outcome State Fault Refusal :=
  match s.head? core qMatrix with
  | some ⟨.mhclr slot, blk, true, _, _, _, _, _⟩ =>
    match s.holdSlot core slot blk with
    | none => .next (s.matrixDone core blk 0x0007)
    | some (s, _) => .next ((s.setSlot core slot []).matrixDone core blk 0)
  | _ => .next s

/-- MWAIT_DEPOSIT (R330): every command ahead has completed; the token waits for a free slot, and for the core's next cycle where some
issues of this one are still to come (R307). -/
def execMwaitDeposit (core : Nat) (s : State) : Host.Outcome State Fault Refusal :=
  if s.midCycle core then .next (s.want (.mwaitDeposit core))
  else match s.head? core qMatrix with
  | some ⟨.mwait w, blk, true, _, _, _, _, _⟩ =>
    let st := ((s.blocks[blk]?).map (·.mwaitStatus)).getD 0
    match s.deposit blk (w.field 0 5) (tokenWord st (w.field 16 16)) with
    | some s => .next ((s.modBlock blk fun b => { b with mwaitStatus := 0 }).popQueue core qMatrix)
    | none => .next s
  | _ => .next s

end Sys2Proof.Machine
end

