-- ==== Sys2Proof/Machine/Gfx.lean ====
section
/-! DEFINITION. What the graphics and traversal instructions share (R335): reads and writes of a thread outside LDW and
STW, lookups of binding-table entries (R114, R210), and the ply of a parameter (R181, R338). -/

namespace Sys2Proof.Machine

/-- Read bytes that lie in one page, as a thread's load does (R298). -/
def State.greadPage (s : State) (t : TRef) (th : Thread) (ea n : Nat) : Except Lane (State × List Byte) :=
  match s.translate t .load (Addr.ofNat ea) with
  | .fault s c sub aux => .error (.trap s c sub aux)
  | .wait s => .error (.stay (s.waitWalk t (Addr.ofNat ea)))
  | .exit s => .error (.stay s)
  | .ok s l => match s.readError l n with
    | some (sub, page) => .error (.trap s 0x24 sub page)
    | none => .ok (s.correct l n, s.visible t th l n)

/-- Read n bytes page by page, over at most `fuel` pages. -/
def State.greadFrom (t : TRef) (th : Thread) : Nat → State → Nat → Nat → Except Lane (State × List Byte)
  | 0, s, _, _ => .ok (s, [])
  | fuel + 1, s, ea, n =>
    if n = 0 then .ok (s, [])
    else
      let k := min n (4096 - ea % 4096)
      match s.greadPage t th ea k with
      | .error r => .error r
      | .ok (s, b) => match State.greadFrom t th fuel s (ea + k) (n - k) with
        | .error r => .error r
        | .ok (s, r) => .ok (s, b ++ r)

/-- Read n bytes at an address, modulo 2^64, that must be a multiple of `al` (R28, R298, R335). -/
def State.gread (s : State) (t : TRef) (th : Thread) (addr n al : Nat) : Except Lane (State × List Byte) :=
  let ea := addr % 2 ^ 64
  if 2 ^ 48 ≤ ea then .error (.trap s 0x20 0x01 ea)
  else if ea % al ≠ 0 then .error (.trap s 0x20 0x02 ea)
  else State.greadFrom t th 3 s ea n

/-- The 16 bytes of a table entry that a thread's lookup reads: those that its copy reads at their home, or, where they differ, by a free
choice those that its last FENCE table left it (R114, R116, log 65). -/
def State.tableEntry (s : State) (t : TRef) (l : Loc) : State × List Byte :=
  let now := s.inCopy t.blk l (s.homeRead l 16)
  match l with
  | .win .. => (s, now)
  | .phys pa =>
    let old := Mem.getN (((s.thread? t).map (·.table)).getD []) pa 16
    if old = now then (s, now) else let (keep, s') := s.choose; (s', if keep then old else now)

/-- A lookup of a 16-byte binding-table entry at its home (R114, R210): the code and the parameter address. -/
def State.lookup (s : State) (t : TRef) (ea : Nat) : Except Lane (State × Nat × Nat) :=
  if 2 ^ 48 ≤ ea then .error (.trap s 0x20 0x01 ea)
  else if ea % 16 ≠ 0 then .error (.trap s 0x20 0x02 ea)
  else match s.translate t .load (Addr.ofNat ea) with
    | .fault s c sub aux => .error (.trap s c sub aux)
    | .wait s => .error (.stay (s.waitWalk t (Addr.ofNat ea)))
    | .exit s => .error (.stay s)
    | .ok s l => match s.readError l 16 with
      | some (sub, page) => .error (.trap s 0x24 sub page)
      | none =>
        let (s, e) := (s.correct l 16).tableEntry t l
        .ok (s, fieldAt e 0 8, fieldAt e 8 8)

/-- Translate writes for an access kind, all of them before any is made. -/
def State.gplan (t : TRef) (k : Access) : List (Nat × List Byte) → State → Except Lane (State × List Loc)
  | [], s => .ok (s, [])
  | (addr, b) :: r, s =>
    let ea := addr % 2 ^ 64
    if 2 ^ 48 ≤ ea then .error (.trap s 0x20 0x01 ea)
    else if ea % b.length ≠ 0 then .error (.trap s 0x20 0x02 ea)
    else match s.translate t k (Addr.ofNat ea) with
      | .fault s c sub aux => .error (.trap s c sub aux)
      | .wait s => .error (.stay (s.waitWalk t (Addr.ofNat ea)))
      | .exit s => .error (.stay s)
      | .ok s l => match State.gplan t k r s with
        | .error e => .error e
        | .ok (s, ls) => .ok (s, l :: ls)

/-- One write of a thread performed at its home; in a doubled block a near write is quarantined and folded into the
signature (R113, R367). -/
def State.gput (t : TRef) (s : State) (w : Loc × Nat × List Byte) : State :=
  match w.1, s.isDoubled t.blk with
  | .phys _, true =>
    (s.modThread t fun th => th.fold w.2.1 w.2.2).modBlock t.blk fun b =>
      { b with quarantine := b.quarantine ++ [⟨t, w.1, w.2.2, false⟩] }
  | l, _ => s.homeWrite l w.2.2 false

/-- Perform several writes of a thread in one step (R342, R347): a fault leaves nothing written. Each is a power of two of
bytes at a multiple of its size. -/
def State.gwrite (s : State) (t : TRef) (ws : List (Nat × List Byte)) : Except Lane State :=
  match State.gplan t .plan ws s with
  | .error e => .error e
  | .ok (s, _) => match State.gplan t .store ws s with
    | .error e => .error e
    | .ok (s, ls) => .ok ((ls.zip ws).foldl (State.gput t) s)

/-- A lane that fails with what a read or write gave, or goes on. -/
def orLane : Except Lane Lane → Lane
  | .ok l => l
  | .error l => l

/-- The ply index of a parameter code, if the kernel declares it (R181, R182). -/
def Kernel.plyIndex (k : Kernel) (code : Nat) : Option Nat := (List.range k.d).find? fun i => k.plycat.field (4 * i) 4 == code

/-- The partial of a register for a parameter: +0 where it is not declared (R338). -/
def Kernel.partOf (k : Kernel) (code : Nat) (r : Reg) : Word := ((k.plyIndex code).map r.part).getD 0

/-- Results of a graphics instruction in one lane: variable latency (R335). -/
def State.gdone (s : State) (t : TRef) (d : RegName) (rs : List Reg) : Lane :=
  .next (s.modThread t fun th => th.results d none 0 rs)

/-- A value scaled by a power of two, rounded to f32. -/
def scale2 (w : Word) (n : Int) : Word := rne32 ((f32v w).mul (.fin false 1 n))

/-- An integer as an f32 word. -/
def int32f (i : Int) : Word := rne32 (Val.ofInt i 0)

end Sys2Proof.Machine
end

