-- ==== Sys2Proof/Machine/Texture.lean ====
section
/-! DEFINITION. TEX and TEXF (R336 to R340): descriptors, level of detail, wrapping, filtering, plies. -/

namespace Sys2Proof.Machine

/-! ### Descriptors (R337) -/

/-- A texture descriptor. -/
structure TexDesc where
  base : Nat
  lw : Nat
  lh : Nat
  levels : Nat
  fmt : Nat
  filt : Nat
  wrapU : Nat
  wrapV : Nat
  bias : Word
  deriving DecidableEq, Repr

/-- The descriptor in 32 bytes; none where it is invalid. -/
def texDesc (b : List Byte) : Option TexDesc :=
  let f := fieldAt b
  let wrap := f 13 1
  if f 0 8 % 256 != 0 || 14 < f 8 1 || 14 < f 9 1 || f 10 1 == 0 || max (f 8 1) (f 9 1) + 1 < f 10 1 || 2 < f 11 1 || 2 < f 12 1 ||
      wrap % 4 == 3 || wrap / 4 % 4 == 3 || 15 < wrap || (b.drop 16).any (· != 0) then none
  else some ⟨f 0 8, f 8 1, f 9 1, f 10 1, f 11 1, f 12 1, wrap % 4, wrap / 4 % 4, rne32 (Fmt.f16.val (f 14 2))⟩

/-- Width and height of a level. -/
def TexDesc.w (d : TexDesc) (l : Nat) : Nat := max 1 (2 ^ d.lw / 2 ^ l)
def TexDesc.h (d : TexDesc) (l : Nat) : Nat := max 1 (2 ^ d.lh / 2 ^ l)

/-- The bytes of a texel. -/
def TexDesc.size (d : TexDesc) : Nat := 4 * 2 ^ d.fmt

/-- Where a level begins. -/
def TexDesc.levelBase (d : TexDesc) : Nat → Nat
  | 0 => d.base
  | l + 1 => (d.levelBase l + d.w l * d.h l * d.size + 255) / 256 * 256

/-- The descriptor that the entry at an address names; none where it is invalid. -/
def State.texDescAt (s : State) (t : TRef) (th : Thread) (entry : Addr) : Except Lane (State × Option TexDesc) :=
  match s.lookup t entry.toNat with
  | .error e => .error e
  | .ok (s, _, ea) =>
    if ea % 32 ≠ 0 then .ok (s, none)
    else match s.gread t th ea 32 32 with
      | .error e => .error e
      | .ok (s, b) => .ok (s, texDesc b)

/-- The four channels of a texel's bytes as f32 (R337). -/
def texelWords (fmt : Nat) (b : List Byte) : List Word :=
  (List.range 4).map fun c => match fmt with
    | 0 => let v := fieldAt b c 1; if v = 0 then 0 else Word.ofNat (Fmt.f32.roundRat .rne false false v 255 0).1
    | 1 => rne32 (Fmt.f16.val (fieldAt b (2 * c) 2))
    | _ => Word.ofNat (fieldAt b (4 * c) 4)

/-- Read one texel. -/
def State.texel (s : State) (t : TRef) (th : Thread) (d : TexDesc) (l i j : Nat) : Except Lane (State × List Word) :=
  match s.gread t th (d.levelBase l + (j * d.w l + i) * d.size) d.size d.size with
  | .error e => .error e
  | .ok (s, b) => .ok (s, texelWords d.fmt b)

/-! ### Level of detail (R338) -/

/-- Clamp to 0 … n, a NaN as 0. -/
def clampLod (x : Word) (n : Nat) : Val :=
  let v := f32v x
  if v.isNan || v.lt Val.zero then Val.zero else if (Val.fin false n 0).lt v then .fin false n 0 else v

/-- λ′ (R338). -/
def texLod (k : Kernel) (d : TexDesc) (u v : Reg) : Val :=
  let ux := scale2 (k.partOf 0 u) d.lw
  let vx := scale2 (k.partOf 0 v) d.lh
  let uy := scale2 (k.partOf 1 u) d.lw
  let vy := scale2 (k.partOf 1 v) d.lh
  let a := add32 (mul32 ux ux) (mul32 vx vx)
  let b := add32 (mul32 uy uy) (mul32 vy vy)
  let m := Word.ofNat (Fmt.f32.minmaxOp true a.toNat b.toNat).1
  let lam := if (f32v m).isZero then 0xFF800000#32 else mul32 0x3F000000 (Word.ofNat (funVal .log2 .f32 (f32v m)).1)
  let bad := u.tag == .lost || v.tag == .lost || [ux, vx, uy, vy, a, b, lam, add32 lam d.bias].any isNan32
  clampLod (add32 (if bad then 0 else lam) d.bias) (d.levels - 1)

/-! ### Coordinates (R338) -/

/-- A wrapped index: 0 repeat, 1 clamp, 2 mirror. -/
def wrapIdx (mode n : Nat) (i : Int) : Nat :=
  match mode with
  | 0 => (i % (n : Int)).toNat
  | 1 => (max 0 (min i ((n : Int) - 1))).toNat
  | _ => let k := (i % (2 * n : Int)).toNat; if k < n then k else 2 * n - 1 - k

/-- A coordinate: its floor and its fraction in 1/256, rounded down. -/
structure Coord where
  i : Int
  frac : Nat
  deriving DecidableEq, Repr

/-- Split a rounded coordinate. The spec states no floor of one that has overflowed: a free value stands for it. -/
def splitCoord (x : Word) (free : Nat) : Coord :=
  match f32v x with
  | .fin n m e =>
    let fl := (Val.fin n m e).floorInt
    ⟨fl, (((Val.fin n m e).sub (Val.ofInt fl 0)).mul (.fin false 256 0)).floorInt.toNat⟩
  | _ => ⟨(Config.freeWord free).toInt, (Config.freeWord (free + 1)).field 0 8⟩

/-- An operand of sampling: one that is not finite counts as 0. -/
def finiteOr0 (w : Word) : Word := match f32v w with | .fin .. => w | _ => 0

/-- x × size, for the nearest filter. -/
def nearCoord (x : Word) (n : Nat) : Word := mul32 (finiteOr0 x) (int32f n)

/-- x × size − 0.5, for the bilinear filter. -/
def linCoord (x : Word) (n : Nat) : Word := sub32 (nearCoord x n) 0x3F000000

/-- A fraction in 1/256 as f32. -/
def fracWord (n : Nat) : Word := rne32 (.fin false n (-8))

/-- lerp (R338). -/
def lerp32 (p q f : Word) : Word := add32 p (mul32 f (sub32 q p))

/-! ### Sampling -/

/-- The four texels and the fractions of one bilinear sample. -/
structure Sample where
  c00 : List Word
  c10 : List Word
  c01 : List Word
  c11 : List Word
  fx : Nat
  fy : Nat
  deriving DecidableEq, Repr

/-- Channel c of a sample. -/
def Sample.chan (x : Sample) (c : Nat) : Word :=
  lerp32 (lerp32 (x.c00.getD c 0) (x.c10.getD c 0) (fracWord x.fx)) (lerp32 (x.c01.getD c 0) (x.c11.getD c 0) (fracWord x.fx))
    (fracWord x.fy)

/-- Take the texels of a bilinear sample at a level. -/
def State.sample (s : State) (t : TRef) (th : Thread) (d : TexDesc) (u v : Word) (l : Nat) : Except Lane (State × Sample) :=
  let x := splitCoord (linCoord u (d.w l)) s.free
  let y := splitCoord (linCoord v (d.h l)) (s.free + 2)
  let at_ := fun (s : State) (a b : Int) =>
    s.texel t th d l (wrapIdx d.wrapU (d.w l) (x.i + a)) (wrapIdx d.wrapV (d.h l) (y.i + b))
  match at_ s 0 0 with
  | .error e => .error e
  | .ok (s, c00) => match at_ s 1 0 with
    | .error e => .error e
    | .ok (s, c10) => match at_ s 0 1 with
      | .error e => .error e
      | .ok (s, c01) => match at_ s 1 1 with
        | .error e => .error e
        | .ok (s, c11) => .ok (s, ⟨c00, c10, c01, c11, x.frac, y.frac⟩)

/-- FROUND of λ′, as a level. -/
def nearestLevel (lod : Val) : Nat := (lod.toIntegral .rne).floorInt.toNat

/-! ### Plies (R339) -/

/-- The register of channel c of a filtered sample with plies, of value `v`. -/
def plyChannel (k : Kernel) (d : TexDesc) (l : Nat) (x : Sample) (u v : Reg) (c : Nat) (val : Word) : Reg :=
  let g := fun (t : List Word) => t.getD c 0
  let dx := lerp32 (sub32 (g x.c10) (g x.c00)) (sub32 (g x.c11) (g x.c01)) (fracWord x.fy)
  let dy := lerp32 (sub32 (g x.c01) (g x.c00)) (sub32 (g x.c11) (g x.c10)) (fracWord x.fx)
  let gu := mul32 (int32f (d.w l)) dx
  let gv := mul32 (int32f (d.h l)) dy
  fpReg [u, v] val (isNan32 val) (x.fx == 0 || x.fy == 0)
    (partsOf k.d fun i => rne32 (((f32v gu).mul (u.partV i)).add (f32v (mul32 gv (v.part i)))))

/-- The value 0x7FC0_0000 of an invalid descriptor in every channel (R337). -/
def invalidChannel : Word := 0x7FC00000

/-- The f16 form of two channels in one register (R336, R339). A register has one STATE and one set of partials: the STATE
that the two give; the spec states no partials for the pair, so they are free values. With plies the KINK of a clamp stays (R187). -/
def halfPair (ply : Bool) (n free : Nat) (x y : Reg) : Reg :=
  let a := (cvtReg .f32 .f16 true .rne x).1
  let b := (cvtReg .f32 .f16 true .rne y).1
  ⟨a.val ||| (b.val <<< 16), joinTag [a, b], ply && (a.kink || b.kink),
    if joinTag [a, b] = .live then partsOf n fun i => Config.freeWord (free + i) else []⟩

/-- The results of four channels in the format of the instruction. -/
def texOut (ply half : Bool) (n free : Nat) (ch : List Reg) : List Reg :=
  let g := fun i => ch.getD i (Reg.plain 0)
  if half then [halfPair ply n free (g 0) (g 1), halfPair ply n (free + n) (g 2) (g 3)] else ch

/-- Free values that a TEX may have used are not used again. -/
def State.texFree (s : State) (n : Nat) : State := { s with free := s.free + 4 + 2 * n }

/-- The channels of a valid texture (R338, R339). -/
def State.texChannels (s : State) (t : TRef) (th : Thread) (k : Kernel) (d : TexDesc) (ply : Bool) (u v : Reg) :
    Except Lane (State × List Reg) :=
  let lod := texLod k d u v
  match d.filt with
  | 0 =>
    let l := nearestLevel lod
    let i := (splitCoord (nearCoord u.val (d.w l)) s.free).i
    let j := (splitCoord (nearCoord v.val (d.h l)) (s.free + 2)).i
    match s.texel t th d l (wrapIdx d.wrapU (d.w l) i) (wrapIdx d.wrapV (d.h l) j) with
    | .error e => .error e
    | .ok (s, c) => .ok (s, c.map fun w => if ply then fpZeroReg [u, v] w (isNan32 w) true else Reg.plain w)
  | 1 =>
    let l := nearestLevel lod
    match s.sample t th d u.val v.val l with
    | .error e => .error e
    | .ok (s, x) => .ok (s, (List.range 4).map fun c =>
        if ply then plyChannel k d l x u v c (x.chan c) else Reg.plain (x.chan c))
  | _ =>
    let l0 := lod.floorInt.toNat
    let l1 := min (l0 + 1) (d.levels - 1)
    let f := fracWord (((lod.sub (.fin false l0 0)).mul (.fin false 256 0)).floorInt.toNat)
    match s.sample t th d u.val v.val l0 with
    | .error e => .error e
    | .ok (s, x) => match s.sample t th d u.val v.val l1 with
      | .error e => .error e
      | .ok (s, y) => .ok (s, (List.range 4).map fun c =>
          let w := lerp32 (x.chan c) (y.chan c) f
          if ply then plyChannel k d l0 x u v c w else Reg.plain w)

/-- TEX (R336 to R339). -/
def execTex (d a : RegName) (ply half : Bool) (st : Stall) (s : State) : Host.Outcome State Fault Refusal :=
  s.run (.tex d a ply half st) st fun s t th =>
    let k := s.kernel t.blk
    let u := th.get a
    let v := th.get (member a 1)
    orLane do
      let (s, desc) ← s.texDescAt t th (th.pair (member a 2))
      match desc with
      | none =>
        let r := if ply then fpZeroReg [u, v] invalidChannel true false else Reg.plain invalidChannel
        .ok (s.gdone t d (texOut ply half k.d s.free (List.replicate 4 r)))
      | some td =>
        let (s, ch) ← s.texChannels t th k td ply u v
        .ok ((s.texFree k.d).gdone t d (texOut ply half k.d (s.free + 4) ch))

/-- TEXF (R340). -/
def execTexf (d a : RegName) (half : Bool) (st : Stall) (s : State) : Host.Outcome State Fault Refusal :=
  s.run (.texf d a half st) st fun s t th =>
    let x := (th.val a).field 0 16
    let y := (th.val a).field 16 16
    let l := (th.valAt a 1).toNat
    let out := fun (s : State) (c : List Word) => s.gdone t d (texOut false half 0 0 (c.map Reg.plain))
    orLane do
      let (s, desc) ← s.texDescAt t th (th.pair (member a 2))
      match desc with
      | none => .ok (out s (List.replicate 4 invalidChannel))
      | some td =>
        if td.levels ≤ l || td.w l ≤ x || td.h l ≤ y then .ok (out s (List.replicate 4 0))
        else
          let (s, c) ← s.texel t th td l x y
          .ok (out s c)

end Sys2Proof.Machine
end

