-- ==== Sys2Proof/Machine/Layer.lean ====
section
/-! DEFINITION. Multi-layer targets: the layer unit with LINS, LRES, LCNT, LCOMP and LCLR (R202 to R206, R341 to R344), the
growth of a pool, and the creation of a target. -/

namespace Sys2Proof.Machine

/-! ### Targets and nodes in memory (R202, R203) -/

/-- No node. -/
def noNode : Nat := 0xFFFFFFFF

/-- A target descriptor. -/
structure Target where
  va : Nat
  heads : Nat
  pages : Nat
  width : Nat
  height : Nat
  layers : Nat
  rule : Nat
  status : Nat
  npages : Nat
  free : Nat
  deriving DecidableEq, Repr

/-- The descriptor in 32 bytes; none where L or RULE is out of range. -/
def targetOf (va : Nat) (b : List Byte) : Option Target :=
  let f := fieldAt b
  if f 20 1 < 2 || 8 < f 20 1 || 3 < f 21 1 then none
  else some ⟨va, f 0 8, f 8 8, f 16 2, f 18 2, f 20 1, f 21 1, f 22 1, f 24 4, f 28 4⟩

/-- MOI and DROP of the status. -/
def Target.moi (d : Target) : Bool := d.status % 2 == 1
def Target.drop (d : Target) : Bool := d.status / 2 % 2 == 1

/-- The bytes of a node. -/
def LayerNode.bytes (n : LayerNode) : List Byte :=
  wordBytes n.depth ++ (n.rgba.flatMap (leBytes 2)) ++ leBytes 2 n.cov ++ leBytes 1 n.tag ++ leBytes 1 n.merges ++ leBytes 4 n.next ++
    leBytes 2 n.dzx ++ leBytes 2 n.dzy ++ wordBytes n.prim ++ leBytes 4 0

/-- A node from its bytes. -/
def layerNode (b : List Byte) : LayerNode :=
  let f := fieldAt b
  ⟨Word.ofNat (f 0 4), (List.range 4).map fun i => f (4 + 2 * i) 2, f 12 2, f 14 1, f 15 1, f 16 4, f 20 2, f 22 2,
    Word.ofNat (f 24 4)⟩

/-- The descriptor of a pixel's target for a thread: none where it is invalid or the pixel lies outside (R341). -/
def State.targetAt (s : State) (t : TRef) (th : Thread) (va pixel : Nat) : Except Lane (State × Option Target) :=
  if va % 32 ≠ 0 then .ok (s, none)
  else match s.gread t th va 32 32 with
    | .error e => .error e
    | .ok (s, b) => .ok (s, (targetOf va b).filter fun d => pixel < d.width * d.height)

/-- The address of a node; none outside the pool (R204). -/
def State.nodeAddr (s : State) (t : TRef) (th : Thread) (d : Target) (n : Nat) : Except Lane (State × Option Nat) :=
  if n = noNode || d.npages ≤ n / 2048 then .ok (s, none)
  else match s.gread t th (d.pages + 8 * (n / 2048)) 8 8 with
    | .error e => .error e
    | .ok (s, b) => .ok (s, some (fieldAt b 0 8 + 32 * (n % 2048)))

/-- A node with its index and address. -/
structure NodeAt where
  idx : Nat
  ea : Nat
  node : LayerNode
  deriving DecidableEq, Repr

/-- The nodes from one on, front to back; at most `fuel` of them. -/
def State.nodesFrom (t : TRef) (th : Thread) (d : Target) : Nat → State → Nat → Except Lane (State × List NodeAt)
  | 0, s, _ => .ok (s, [])
  | fuel + 1, s, n =>
    match s.nodeAddr t th d n with
    | .error e => .error e
    | .ok (s, none) => .ok (s, [])
    | .ok (s, some ea) => match s.gread t th ea 32 32 with
      | .error e => .error e
      | .ok (s, b) => match State.nodesFrom t th d fuel s (layerNode b).next with
        | .error e => .error e
        | .ok (s, r) => .ok (s, ⟨n, ea, layerNode b⟩ :: r)

/-- The list of a pixel. -/
def State.pixelList (s : State) (t : TRef) (th : Thread) (d : Target) (pixel : Nat) : Except Lane (State × List NodeAt) :=
  match s.gread t th (d.heads + 8 * pixel) 8 8 with
  | .error e => .error e
  | .ok (s, b) => State.nodesFrom t th d 15 s (fieldAt b 0 4)

/-! ### Merging (R205) -/

/-- f16 channel k of a node, widened. -/
def LayerNode.chan (n : LayerNode) (k : Nat) : Word := rne32 (Fmt.f16.val (n.rgba.getD k 0))

/-- An f32 word to f16 by RNE with saturation. -/
def toHalf (w : Word) : Nat := (cvtFloat .f16 .rne true (f32v w)).1

/-- One colour component of a merged node. -/
def mergeChan (rule : Nat) (f b : LayerNode) (k : Nat) : Word :=
  let F := f.chan
  let B := b.chan
  match rule with
  | 0 => add32 (F k) (mul32 (sub32 0x3F800000 (F 3)) (B k))
  | 1 => add32 (F k) (B k)
  | 2 => F k
  | _ =>
    let s := add32 (F 3) (B 3)
    if k = 3 then sub32 s (mul32 (F 3) (B 3))
    else if Val.zero.lt (f32v s) then div32 (add32 (mul32 (F 3) (F k)) (mul32 (B 3) (B k))) s
    else mul32 (add32 (F k) (B k)) 0x3F000000

/-- The merged node of F in front of B; its NEXT is set where it is written. -/
def mergeNodes (rule : Nat) (f b : LayerNode) : LayerNode :=
  { f with rgba := (List.range 4).map fun k => toHalf (mergeChan rule f b k), cov := f.cov ||| b.cov,
           merges := min 255 (f.merges + b.merges + 1) }

/-- A candidate: its node index and address, none for the fragment that has no node, and its contents. -/
structure Cand where
  slot : Option (Nat × Nat)
  node : LayerNode
  deriving DecidableEq, Repr

/-- The pair to merge: the smallest gap, nearest the viewer on a tie; a gap that is a NaN loses (R205). -/
def mergeIdx (c : List Cand) : Nat :=
  let gaps := (c.zip (c.drop 1)).map fun x => f32v (sub32 x.2.node.depth x.1.node.depth)
  ((gaps.zipIdx.foldl (fun (b : Option (Val × Nat)) x => match b with
    | none => some x
    | some y => if x.1.lt y.1 || (y.1.isNan && !x.1.isNan) then some x else some y) none).map (·.2)).getD 0

/-- The candidates after one merge: the merged node stands in F's node, or in B's where the fragment is F; a fragment
elsewhere takes the node that B frees (R206). -/
def mergeCands (rule : Nat) (cs : List Cand) : List Cand :=
  let i := mergeIdx cs
  match cs[i]?, cs[i + 1]? with
  | some f, some b =>
    let m : Cand := ⟨f.slot.or b.slot, mergeNodes rule f.node b.node⟩
    let spare := if f.slot.isSome then b.slot else none
    ((cs.take i ++ [m] ++ cs.drop (i + 2)).map fun x => if x.slot.isNone then { x with slot := spare } else x)
  | _, _ => cs

/-- The place of a new node: behind every node whose depth is at or before its own (R204). -/
def insertPos (l : List NodeAt) (depth : Word) : Nat :=
  l.zipIdx.foldl (fun p x => if (f32v depth).lt (f32v x.1.node.depth) then p else x.2 + 1) 0

/-! ### Insertion (R204 to R206, R341, R342) -/

/-- A slope for DZX or DZY (R341). -/
def depthSlope (k : Kernel) (code : Nat) (depth : Reg) : Nat :=
  match depth.tag, k.plyIndex code with
  | .lost, _ => 0x7E00
  | .live, some i => toHalf (depth.part i)
  | _, _ => 0

/-- The coverage bits that count: inside a draw, in its vertex and its fragment grids, those of its samples (R341). -/
def State.covMask (s : State) (t : TRef) : Nat :=
  match ((s.grid? t.blk).bind (·.draw)).bind fun f => s.draws[f.1]? with
  | some d => 2 ^ 2 ^ d.log2Samples
  | none => 65536

/-- The fragment of a LINS. -/
def State.fragNode (s : State) (t : TRef) (th : Thread) (a : RegName) : LayerNode :=
  let k := s.kernel t.blk
  let w := fun i => th.valAt a i
  ⟨w 3, [(w 4).field 0 16, (w 4).field 16 16, (w 5).field 0 16, (w 5).field 16 16], (w 6).field 0 16 % s.covMask t,
    (w 6).field 16 8, 0, noNode, depthSlope k 0 (th.get (member a 3)), depthSlope k 1 (th.get (member a 3)), w 7⟩

/-- The writes of a list: every node with its NEXT, then the head word. -/
def listWrites (d : Target) (pixel : Nat) (c : List Cand) : List (Nat × List Byte) :=
  let idx := fun (x : Cand) => (x.slot.map (·.1)).getD noNode
  let nexts := (c.drop 1).map idx ++ [noNode]
  ((c.zip nexts).flatMap fun x => match x.1.slot with
    | some (_, ea) =>
      let b := LayerNode.bytes { x.1.node with next := x.2 }
      (List.range 4).map fun i => (ea + 8 * i, (b.drop (8 * i)).take 8)
    | none => []) ++
  [(d.heads + 8 * pixel, leBytes 8 (((c.head?).map idx).getD noNode + c.length * 2 ^ 32))]

/-- Set DROP (R204, R206). -/
def dropWrite (d : Target) : List (Nat × List Byte) := [(d.va + 22, leBytes 1 (d.status ||| 2))]

/-- The two words of a pair as an address. -/
def linsTarget (th : Thread) (a : RegName) : Addr := th.pair a

/-- A fragment has performed an operation of a kind: LINS 0, ZTEST 1, OMERGE 2 (R204). -/
def State.noteDid (s : State) (t : TRef) (kind : Nat) : State :=
  s.modThread t fun th => { th with frag := th.frag.map fun f => { f with did := kind :: f.did } }

/-- Note the pixel's list before an insertion of a draw (R204), and that the fragment has inserted. -/
def State.noteInsert (s : State) (t : TRef) (th : Thread) (va pixel : Nat) (l : List NodeAt) : State :=
  match th.frag with
  | none => s
  | some f =>
    (s.modDraw f.draw fun d => { d with snaps := d.snaps ++ [⟨Addr.ofNat va, pixel, f.prim, l.map (·.node)⟩] }).noteDid t 0

/-- The insertion of one thread (R342): the state after it and the value of d, or what its accesses raise; cause 0x41 where
it needs a node and none is free (R206). A fragment without coverage is not looked at further, so a NaN depth of it sets no DROP (log 94). -/
def State.insertOne (s : State) (t : TRef) (th : Thread) (a : RegName) : Except Lane (State × Nat) := do
  let va := (linsTarget th a).toNat
  let pixel := (th.valAt a 2).toNat
  let (s, desc) ← s.targetAt t th va pixel
  match desc with
  | none => .ok (s.noteDid t 0, 0x0007)
  | some d =>
    let frag := s.fragNode t th a
    if frag.cov = 0 then .ok (s.noteDid t 0, 0x0002)
    else
      let (s, l) ← s.pixelList t th d pixel
      if (f32v frag.depth).isNan || (d.moi && l.isEmpty) then
        let s ← s.gwrite t (dropWrite d)
        .ok (s.noteInsert t th va pixel l, 0x0001)
      else
        let old := l.map fun x => (⟨some (x.idx, x.ea), x.node⟩ : Cand)
        let pos := insertPos l frag.depth
        let place := fun (c : Cand) => old.take pos ++ [c] ++ old.drop pos
        if d.moi || d.layers ≤ l.length then
          let s ← s.gwrite t (listWrites d pixel (mergeCands d.rule (place ⟨none, frag⟩)))
          .ok (s.noteInsert t th va pixel l, 0)
        else
          let (s, slot) ← s.nodeAddr t th d d.free
          match slot with
          | none => .error (.trap s 0x41 0 va)
          | some ea =>
            let (s, b) ← s.gread t th ea 32 32
            let s ← s.gwrite t (listWrites d pixel (place ⟨some (d.free, ea), frag⟩) ++
              [(d.va + 28, leBytes 4 (layerNode b).next)])
            .ok (s.noteInsert t th va pixel l, 0)

/-- The tile of a pixel in a draw: tiles of 32 × 32 in rows (R199). -/
def Draw.tileOf (d : Draw) (x y : Nat) : Nat := y / 32 * d.tilesAcross + x / 32

/-- Has a fragment grid still a thread that has neither performed an operation of a kind nor exited (R204)? -/
def State.gridPending (s : State) (gi kind : Nat) : Bool :=
  (match s.grids[gi]? with | some g => decide (g.next < g.count) | none => false) ||
  s.blocks.any fun b => b.grid == gi && b.place != .ended && b.threads.any fun th =>
    th.live && !((th.frag.map fun f => f.did.contains kind).getD false)

/-- Must a fragment's operation of a kind wait for earlier primitives in its screen tile (R204, R347)? -/
def State.earlierPending (s : State) (th : Thread) (kind : Nat) : Bool :=
  match th.frag with
  | none => false
  | some f => match s.draws[f.draw]? with
    | none => false
    | some d => d.frags.any fun x => x.2.1 == d.tileOf f.x f.y && x.2.2 < f.prim && s.gridPending x.1 kind

/-- Has a tile of a draw still an earlier primitive whose fragments have not gone by: launched, or standing in its bin? -/
def State.tilePending (s : State) (d : Draw) (tile prim : Nat) : Bool :=
  (d.frags.any fun x => x.2.1 == tile && x.2.2 < prim && s.gridPending x.1 0) ||
  (!d.tilesDone.contains tile && d.prims.any fun p => match p.num, d.tri p with
    | some n, some t => n < prim && (d.boxTiles t).contains tile && !(d.frags.any fun x => x.2.1 == tile && x.2.2 == n) &&
        !(d.pixels t tile).isEmpty
    | _, _ => false)

/-- Must an operation of a fragment on a pixel's list wait: for earlier primitives in its own screen tile or in the pixel's (log 77), or for
an earlier draw of the partition, whose fragments may insert too (R204)? -/
def State.layerWaits (s : State) (th : Thread) (pixel : Nat) : Bool :=
  match th.frag with
  | none => false
  | some f => match s.draws[f.draw]? with
    | none => false
    | some d =>
      let tile := d.tileOf (pixel % d.width) (pixel / d.width)
      s.earlierPending th 0 || (tile != d.tileOf f.x f.y && s.tilePending d tile f.prim) ||
        (s.draws.take f.draw).any fun e => e.part == d.part && !e.finished

/-- The pixel that an instruction of the layer unit names. -/
def layerPixel (th : Thread) : Instr → Nat
  | .lins _ a _ => (th.valAt a 2).toNat
  | .lres _ a _ => (th.valAt a 2).toNat
  | .lcnt _ a _ => (th.valAt a 2).toNat
  | .lcomp _ a _ => (th.valAt a 2).toNat
  | _ => 0

/-- The target and pixel of a parked insertion, with its ticket. -/
def Thread.parkedInsert (th : Thread) : Option (Addr × Word × Nat) :=
  match th.park with
  | some (.layer (.lins _ a _) n) => some (linsTarget th a, th.valAt a 2, n)
  | some (.pool (.lins _ a _)) => some (linsTarget th a, th.valAt a 2, 0)
  | _ => none

/-- Is a target being cleared, or its clear saved with its block (R344, R353)? -/
def State.clearing (s : State) (p : Nat) (va : Addr) : Bool :=
  let clears := fun (e : Cmd) => match e.op with
    | .lclr tgt _ => tgt == va && e.fin.isNone && s.partOf e.blk == p
    | _ => false
  (s.cores.any fun c => ((c.queues[qDraw]?).getD ⟨[], []⟩).all.any clears) || s.blocks.any fun b => b.savedCmds.any fun c => clears c.2

/-- Must an insertion wait: for earlier primitives, behind an LCLR, behind lanes parked on an exhausted pool, or behind an
earlier arrival at its pixel outside a draw (R204, R206, R342, R344)? `n` is its ticket, none for a new arrival. -/
def State.insertWaits (s : State) (t : TRef) (th : Thread) (a : RegName) (n : Option Nat) : Bool :=
  let va := linsTarget th a
  let p := s.partOf t.blk
  s.layerWaits th (th.valAt a 2).toNat || s.clearing p va ||
  (List.range s.blocks.length).any fun b => match s.blocks[b]? with
    | none => false
    | some k => (s.coreOf b).isSome && s.partOf b == p && k.threads.zipIdx.any fun x =>
        (b != t.blk || x.2 != t.tid) && match x.1.parkedInsert with
          | some (va', pix, m) => va' == va &&
              ((match x.1.park with | some (.pool _) => true | _ => false) ||
                (x.1.frag.isNone && th.frag.isNone && pix == th.valAt a 2 &&
                  (match n with | some n => decide (m < n) | none => true)))
          | none => false

/-- A LINS performed in one lane: d is written, variable latency; the record that gives a thread of a doubled block its
256th is a seal after it (R341, R368). -/
def State.linsDone (s : State) (t : TRef) (d : RegName) (v : Nat) : Lane :=
  let s := s.modThread t fun th => th.results d none 0 [Reg.plain (Word.ofNat v)]
  if s.isDoubled t.blk && 256 ≤ ((s.thread? t).map (·.recs)).getD 0 then
    .go ((s.modThread t fun th => { th.advance with park := some (.seal false) }).want (.seal t.blk t.tid))
  else .next s

/-- LINS (R341): performed at once, or parked at the layer unit until its turn. The strand's earlier writes are performed
first (R342, log 12). -/
def execLins (d a : RegName) (st : Stall) (s : State) : Host.Outcome State Fault Refusal :=
  s.run (.lins d a st) st fun s t th =>
    let s := s.drainStrand t.blk th.strand
    if s.insertWaits t th a none then
      .go ((State.parkAt { s with nextJoin := s.nextJoin + 1 } t (.layer (.lins d a st) (s.nextJoin + 1))).want
        (.layerInsert t.blk t.tid))
    else orLane ((s.insertOne t th a).map fun r => r.1.linsDone t d r.2)

/-- LAYER_INSERT (R204): the layer unit applies a parked insertion when its turn has come. -/
def execLayerInsert (blk tid : Nat) (s : State) : Host.Outcome State Fault Refusal :=
  let t : TRef := ⟨blk, tid⟩
  match s.thread? t, s.coreOf blk with
  | some th, some core =>
    match th.park with
    | some (.layer (.lins d a st) n) =>
      if s.insertWaits t th a (some n) then .next s
      else
        let s := { s with issue := ⟨core, 0, [t], th.pc, th.word⟩ }
        match orLane ((s.insertOne t th a).map fun r => r.1.linsDone t d r.2) with
        | .next s => .next (s.modThread t fun th => th.unpark.advance)
        | .go s => .next s
        | .stay s => .next s
        | .trap s c sub aux => .next (((s.modThread t Thread.unpark).markErrors [⟨t, c, sub, aux⟩]).deliver [⟨t, c, sub, aux⟩] (some (.lins d a st)))
    | _ => .next s
  | _, _ => .next s

/-! ### Reading a pixel (R343) -/

/-- The list that a read of a pixel sees: inside a draw, no insertion of a higher-numbered primitive (R204). -/
def State.seenList (s : State) (t : TRef) (th : Thread) (d : Target) (pixel : Nat) : Except Lane (State × List LayerNode) :=
  match th.frag.bind fun f => ((s.draws[f.draw]?).bind fun dr => dr.snaps.find? fun x =>
      x.target.toNat == d.va && x.pixel == pixel && f.prim < x.prim) with
  | some x => .ok (s, x.nodes)
  | none => match s.pixelList t th d pixel with
    | .error e => .error e
    | .ok (s, l) => .ok (s, l.map (·.node))

/-- A read of one pixel: it waits as an insertion would for the earlier primitives of its draw; an invalid descriptor gives
0 (R343). -/
def pixelBody (i : Instr) (d a : RegName) (n : Nat) (f : Kernel → Thread → Target → List LayerNode → List Reg) : Body := fun s t th =>
  let s := s.drainStrand t.blk th.strand
  if s.layerWaits th (layerPixel th i) then .go (s.parkAt t (.layer i 0))
  else orLane do
    let pixel := (th.valAt a 2).toNat
    let (s, desc) ← s.targetAt t th (linsTarget th a).toNat pixel
    match desc with
    | none => .ok (s.gdone t d (List.replicate n (Reg.plain 0)))
    | some tg =>
      let (s, l) ← s.seenList t th tg pixel
      .ok (s.gdone t d (f (s.kernel t.blk) th tg l))

/-- The depth that LRES returns, with its slopes as partials (R343, R189). -/
def depthReg (k : Kernel) (n : LayerNode) : Reg :=
  if (k.plyIndex 0).isNone && (k.plyIndex 1).isNone then Reg.plain n.depth
  else ⟨n.depth, .live, false, partsOf k.d fun i =>
    if some i = k.plyIndex 0 then rne32 (Fmt.f16.val n.dzx) else if some i = k.plyIndex 1 then rne32 (Fmt.f16.val n.dzy) else 0⟩

/-- The four results of LRES for layer k. -/
def lresOut (k : Kernel) (layer : Nat) (l : List LayerNode) : List Reg :=
  match l[layer]? with
  | none => [Reg.plain 0x7F800000, Reg.plain 0, Reg.plain 0, Reg.plain 0]
  | some n =>
    let c := fun i => n.rgba.getD i 0
    [depthReg k n, Reg.plain (Word.ofNat (c 0 + 65536 * c 1)), Reg.plain (Word.ofNat (c 2 + 65536 * c 3)),
      Reg.plain (Word.ofNat (n.cov + 65536 * n.tag + 16777216 * n.merges))]

/-- The composite of a list (R343). -/
def compositeOut (l : List LayerNode) : List Reg :=
  let acc := l.foldl (fun (acc : List Word) n =>
    let t := sub32 0x3F800000 (acc.getD 3 0)
    (List.range 4).map fun k => add32 (acc.getD k 0) (mul32 t (n.chan k))) [0, 0, 0, 0]
  let h := fun k => toHalf (acc.getD k 0)
  [Reg.plain (Word.ofNat (h 0 + 65536 * h 1)), Reg.plain (Word.ofNat (h 2 + 65536 * h 3))]

/-- LRES (R343). -/
def execLres (d a : RegName) (st : Stall) (s : State) : Host.Outcome State Fault Refusal :=
  s.run (.lres d a st) st (pixelBody (.lres d a st) d a 4 fun k th _ l => lresOut k (th.valAt a 3).toNat l)

/-- LCNT (R343). -/
def execLcnt (d a : RegName) (st : Stall) (s : State) : Host.Outcome State Fault Refusal :=
  s.run (.lcnt d a st) st (pixelBody (.lcnt d a st) d a 1 fun _ _ tg l =>
    [Reg.plain (Word.ofNat (l.length % 16 + (if tg.moi then 256 else 0) + (if tg.drop then 512 else 0)))])

/-- LCOMP (R343). -/
def execLcomp (d a : RegName) (st : Stall) (s : State) : Host.Outcome State Fault Refusal :=
  s.run (.lcomp d a st) st (pixelBody (.lcomp d a st) d a 2 fun _ _ _ l => compositeOut l)

/-! ### LCLR (R344) -/

/-- LCLR (R344): one command for the issue set. -/
def execLclr (a : RegName) (st : Stall) (s : State) : Host.Outcome State Fault Refusal :=
  s.runOnce (.lclr a st) st fun s ls t th =>
    let w := th.valAt a 2
    if w.field 5 11 != 0 then .trap s 0x38 0x02
    else if (s.spindle? t.blk false (w.field 0 5)).isNone then .trap s 0x30 0x02
    else match s.issueCmd s.issue.core ls t qDraw (.lclr (th.pair a) w) with
      | some s => .done s fun _ th => th
      | none => .trap s 0x40 0x01

/-- Bytes that an engine reads across pages. -/
def State.engineRead (s : State) (tr : Translate) (ea n : Nat) : Except CopyR (State × List Byte) := State.readSpan tr 3 s ea n

/-- The NEXT words of `count` nodes of one 4 KiB chunk of a pool page, from node `first` at address `ea` on: each the
following node, the last of the pool `after`. -/
def chainWrites (ea first count total after : Nat) : List (Nat × List Byte) :=
  (List.range count).map fun i => (ea + 32 * i + 16, leBytes 4 (if first + i + 1 = total then after else first + i + 1))

/-- Several engine writes, one after another. -/
def State.writeSpans (tr : Translate) (blk : Option Nat) (ws : List (Nat × List Byte)) (s : State) : CopyR :=
  ws.foldl (fun r w => match r with | .ok s => s.writeSpan tr blk w.1 w.2 | r => r) (.ok s)

/-- How many chunks of a clear come before the last. -/
def Target.chunks (d : Target) : Nat := (d.width * d.height + 511) / 512 + 16 * d.npages

/-- The writes of one chunk of a clear: of the head array, then of the pool's nodes, then FREE and STATUS. The chunk's number counts from
0. -/
def State.clearWrites (s : State) (tr : Translate) (d : Target) (i : Nat) : Except CopyR (State × List (Nat × List Byte)) :=
  let pixels := d.width * d.height
  let hs := (pixels + 511) / 512
  if i < hs then
    let n := min 512 (pixels - 512 * i)
    .ok (s, [(d.heads + 4096 * i, (List.range n).flatMap fun _ => leBytes 8 noNode)])
  else if i < d.chunks then
    let c := i - hs
    match s.engineRead tr (d.pages + 8 * (c / 16)) 8 with
    | .error r => .error r
    | .ok (s, b) => .ok (s, chainWrites (fieldAt b 0 8 + 4096 * (c % 16)) (128 * c) 128 (2048 * d.npages) noNode)
  else .ok (s, [(d.va + 28, leBytes 4 0), (d.va + 22, leBytes 1 0)])

/-- One chunk of a clear, written whole. -/
def State.clearChunk (s : State) (tr : Translate) (d : Target) (i : Nat) : CopyR :=
  match s.clearWrites tr d i with
  | .error r => r
  | .ok (s, ws) => State.writeSpans tr none ws s

/-- The homes of several engine writes, granule by granule (R46, R111). -/
def State.planWrites (tr : Translate) (blk : Option Nat) : List (Nat × List Byte) → State → Except CopyR (State × List (Loc × List Byte))
  | [], s => .ok (s, [])
  | w :: r, s => match s.planSpan tr .store blk w.1 w.2.length with
    | .error e => .error e
    | .ok (s, l) => match State.planWrites tr blk r s with
      | .error e => .error e
      | .ok (s, ls) => .ok (s, planned w.2 l ++ ls)

/-- What one chunk of a clear writes, translated; and whether it is the last. -/
def State.clearPlan (s : State) (tr : Translate) (blk : Nat) (tgt i : Nat) : Except CopyR (State × List (Loc × List Byte) × Bool) :=
  if tgt % 32 ≠ 0 then .error (.fail s 0x0007)
  else match s.engineRead tr tgt 32 with
    | .error e => .error e
    | .ok (s, b) => match targetOf tgt b with
      | none => .error (.fail s 0x0007)
      | some d => match s.clearWrites tr d i with
        | .error e => .error e
        | .ok (s, ws) => match State.planWrites tr (some blk) ws s with
          | .error e => .error e
          | .ok (s, l) => .ok (s, l, d.chunks ≤ i)

/-- LCLR_EXEC (R344): one granule of the present chunk of the clear at the head of a core's draw queue, or the translation of the next
chunk; after every draw that stood ahead of it has deposited its token (R100). The last chunk is marked in `left`. -/
def execLclrExec (core : Nat) (s : State) : Host.Outcome State Fault Refusal :=
  match s.head? core qDraw with
  | some ⟨.lclr tgt _, blk, _, i, left, none, _, w⟩ =>
    if s.outstanding core qDraw then .next s
    else if w.busy then
      let x := s.writeOne w.outs
      .next (x.1.modHead core qDraw fun c => if x.2.isEmpty then c.cleared (!left.isEmpty) else { c with work := { w with outs := x.2 } })
    else match s.clearPlan (blockXl core blk) blk tgt.toNat i with
      | .error (.fail s v) => .next (s.modHead core qDraw fun c => c.failed v)
      | .error (.wait s) => .next s
      | .error (.ok s) => .next s
      | .ok (s, l, last) => .next (s.modHead core qDraw fun c =>
          { c with started := true, left := if last then [0] else [], work := ⟨[], [], true, l, 0, [], []⟩ })
  | _ => .next s

/-! ### Growth of a pool (R206, R395) -/

/-- How the resident service reaches a partition's memory: as the replay engine does, but it waits for no migration of its own (log 31). -/
def serviceXl (part : Nat) : Translate := fun s k ea =>
  match replayXl part s k ea with
  | .wait s => match s.leafOf part ea.toNat with
    | some l => .ok s (leafLoc l.pte l.level ea.toNat)
    | none => .wait s
  | r => r

/-- The lanes parked on an exhausted pool retry, ahead of those behind them. -/
def State.retryPool (s : State) (p : Nat) (va : Addr) : State :=
  (List.range s.blocks.length).foldl (fun s b => if s.partOf b = p then
    (List.range (((s.blocks[b]?).map (·.threads.length)).getD 0)).foldl (fun s i => match s.thread? ⟨b, i⟩ with
      | some th => match th.park, th.parkedInsert with
        | some (.pool j), some (va', _, _) =>
          if va' = va then (s.parkAt ⟨b, i⟩ (.layer j 0)).want (.layerInsert b i) else s
        | _, _ => s
      | none => s) s else s) s

/-- Set MOI in a target (R206); none where the service must wait for a page. -/
def State.setMoi (s : State) (tr : Translate) (d : Target) : Option State :=
  match s.writeSpan tr none (d.va + 22) (leBytes 1 (d.status ||| 1)) with
  | .ok s => some s
  | .fail s _ => some s
  | .wait _ => none

/-- What came of a page that was to be added to a pool: added, none left or not writable, or to be tried again. -/
inductive Added where
  | page (s : State) (d : Target)
  | none
  | wait

/-- Add one reserve page to a pool: its nodes are chained into FREE, NPAGES is updated; none where the reserve or the page
table is used up, or the page cannot be written. -/
def State.addPage (s : State) (p : Nat) (tr : Translate) (d : Target) : Added :=
  match (s.part p).reserve with
  | [] => .none
  | page :: rest =>
    if 4096 ≤ d.npages then .none
    else
      let first := 2048 * d.npages
      match State.writeSpans tr none ((d.pages + 8 * d.npages, leBytes 8 page.toNat) ::
          chainWrites page.toNat first 2048 (first + 2048) d.free ++
          [(d.va + 24, leBytes 4 (d.npages + 1)), (d.va + 28, leBytes 4 first)]) s with
      | .ok s => .page (s.modPart p fun q => { q with reserve := rest }) { d with npages := d.npages + 1, free := first }
      | .fail _ _ => .none
      | .wait _ => .wait

/-- Add up to n pages; how many were added; none where the service must wait for a page. -/
def State.addPages (p : Nat) (tr : Translate) : Nat → State → Target → Option (State × Nat)
  | 0, s, _ => some (s, 0)
  | n + 1, s, d => match s.addPage p tr d with
    | .none => some (s, 0)
    | .wait => none
    | .page s d => (State.addPages p tr n s d).map fun r => (r.1, r.2 + 1)

/-- The growth duty on a target: up to n pages from the reserve, or MOI where none is added; then the parked lanes retry
(R206, R395). None where the service must wait for a page; a descriptor that cannot be read makes the lanes find that themselves. -/
def State.growPool (s : State) (p n : Nat) (va : Addr) : Option State :=
  let tr := serviceXl p
  match s.engineRead tr va.toNat 32 with
  | .ok (s, b) => match targetOf va.toNat b with
    | some d => (State.addPages p tr n s d).bind fun r => (if r.2 = 0 then r.1.setMoi tr d else some r.1).map fun s => s.retryPool p va
    | none => some (s.retryPool p va)
  | .error (.wait _) => none
  | .error _ => some (s.retryPool p va)

/-- LAYER_POOL_GROW (R206), in hardware mode: one page at a time (log 31). -/
def execLayerPoolGrow (p : Nat) (va : Addr) (s : State) : Host.Outcome State Fault Refusal :=
  .next ((s.growPool p 1 va).getD (s.want (.layerPoolGrow p va)))

/-- TARGET_CREATE (R202): the resident service writes the descriptor with an empty status and chains every node of the pool
into the free list; an address that is not 32-byte aligned creates nothing, nor does a request before the functions are enabled (R375, log 56). -/
def execTargetCreate (p : Nat) (va : Addr) (desc : List Byte) (s : State) : Host.Outcome State Fault Refusal :=
  let tr := serviceXl p
  if !s.svc.enabled || va.toNat % 32 ≠ 0 || desc.length ≠ 32 then .next s
  else match targetOf va.toNat desc with
    | none => .next s
    | some d =>
      let hs := (d.width * d.height + 511) / 512
      match (List.range (16 * d.npages + 1)).foldl (fun (r : CopyR) i => match r with
          | .ok s => s.clearChunk tr d (hs + i)
          | r => r) (s.writeSpan tr none va.toNat (desc.take 22 ++ [0, 0] ++ (desc.drop 24).take 4 ++ leBytes 4 0)) with
      | .ok s => .next (s.modPart p fun q => { q with targets := insertUpAddr va q.targets })
      | .fail s _ => .next s
      | .wait s => .next s
where
  /-- A target named once. -/
  insertUpAddr (va : Addr) (l : List Addr) : List Addr := if l.contains va then l else l ++ [va]

end Sys2Proof.Machine
end

