-- ==== Sys2Proof/Machine/Draw.lean ====
section
/-! DEFINITION. Draws (R199, R201, R345 to R347): DRAW and the draw queue, VEMIT and PEMIT, the rasteriser's launch of
fragment strands, ZTEST and OMERGE, and the end of a draw. -/

namespace Sys2Proof.Machine

/-! ### DRAW (R345) -/

/-- Is a draw octet or its record malformed (R345)? -/
def drawBad (oct : List Word) (record : List Addr) : Bool :=
  let w := fun i => octW oct i
  (w 2).toNat == 0 || 65535 < (w 2).toNat || (w 3) &&& 0xFFFFFE00#32 != 0#32 || 5 < (w 3).field 2 3 || 2 < (w 3).field 6 2 ||
    (w 4).field 0 16 == 0 || 16384 < (w 4).field 0 16 || (w 4).field 16 16 == 0 || 16384 < (w 4).field 16 16 ||
    w 5 != 0#32 || (w 6) &&& 0xFFE0#32 != 0#32 || w 7 != 0#32 || record.getD 7 0 != 0#64

/-- The eight addresses of a draw record. -/
def drawRecord (b : List Byte) : List Addr := (List.range 8).map fun i => Addr.ofNat (fieldAt b (8 * i) 8)

/-- The address of the record. -/
def drawRecordAt (oct : List Word) : Nat := (pairVal (octW oct 0) (octW oct 1)).toNat

/-- The status of a draw at issue, with its two kernels where it may be queued (R345, R277). -/
def State.drawCheck (s : State) (p : Nat) (oct : List Word) (record : List Addr) : Nat × Option (Kernel × Kernel) :=
  match s.kernelAt p (record.getD 0 0).toNat, s.kernelAt p (record.getD 1 0).toNat with
  | some v, some f =>
    if drawBad oct record then (0x0007, none)
    else if v.tooLarge || f.tooLarge then (0x0010, none)
    else if s.notCoResident p v 0 (octW oct 2).toNat false then (0x0011, none)
    else (0, some (v, f))
  | _, _ => (0x0007, none)

/-- The check of a thread's DRAW: also its spindle must be claimed. -/
def State.drawIssue (s : State) (blk : Nat) (oct : List Word) (record : List Addr) : Nat × Option (Kernel × Kernel) :=
  if s.octSpindle blk oct then s.drawCheck (s.partOf blk) oct record else (0x0007, none)

/-- DRAW (R345): the record is read as the thread's load would read it; a record that is not 64-byte aligned is
FormatInvalid. -/
def execDraw (d a : RegName) (st : Stall) (s : State) : Host.Outcome State Fault Refusal :=
  s.runOnce (.draw d a st) st fun s ls t th =>
    let oct := th.vals a 8
    if s.isDoubled t.blk then s.holdStatus ls t d true oct
    else if drawRecordAt oct % 64 ≠ 0 then .done s (giveStatus d 0x0007)
    else match s.gread t th (drawRecordAt oct) 64 64 with
      | .error (.trap s c sub aux) => .fault s c sub aux
      | .error (.stay s) => .stay s
      | .error (.next s) => .stay s
      | .error (.go s) => .stay s
      | .ok (s, b) =>
        match s.drawIssue t.blk oct (drawRecord b) with
        | (0, some _) => match s.enterQueue s.issue.core t.blk qDraw (.draw oct (drawRecord b)) with
          | some s => .done s (giveStatus d 0)
          | none => .trap s 0x40 0x01
        | (v, _) => .done s (giveStatus d v)

/-! ### The draw queue -/

/-- Is a draw's target descriptor invalid (R202)? An unreadable one counts as invalid. -/
def State.drawTargetBad (s : State) (p : Nat) (record : List Addr) : Bool :=
  let va := (record.getD 5 0).toNat
  va % 32 ≠ 0 || match s.engineRead (serviceXl p) va 32 with
    | .ok (_, b) => (targetOf va b).isNone
    | _ => true

/-- Start a draw: its vertex grid enters the dispatch queue of a priority (the draw octet names none: log 33); a draw whose
target is invalid completes with FormatInvalid. None where the grid cannot be queued (R156). -/
def State.startDraw (s : State) (p core prio : Nat) (v f : Kernel) (oct : List Word) (record : List Addr) (done : GridDone) :
    Option State :=
  let di := s.draws.length
  let bad := drawLayers oct && s.drawTargetBad p record
  let d : Draw :=
    { part := p, core := core, oct := oct, record := record, vgrid := s.grids.length, fkernel := f, prio := prio, verts := [],
      prims := [], numbered := false, tilesDone := [], frags := [], from_ := [], spills := [], snaps := [], done := done, finished := bad,
      status := if bad then 0x0007 else 0 }
  let s := { s with draws := s.draws ++ [d] }
  if bad then some s
  else s.enterGrid
    { part := p, num := 0, kernel := v, prio := prio, count := (octW oct 2).toNat, next := 0, quad := 0,
      doubled := false, param := record.getD 6 0, done := .draw di, ranges := [], ended := [], draw := some (di, false), joined := [], core := 72 }

/-- DRAW_QUEUE_ADVANCE (R345, R154): the draw at the head of a core's draw queue moves on; beyond the quota the partition
exits with reason 0x02. -/
def execDrawQueueAdvance (core : Nat) (s : State) : Host.Outcome State Fault Refusal :=
  match s.head? core qDraw with
  | some ⟨.draw oct record, blk, _, _, _, none, _, _⟩ =>
    let p := s.partOf blk
    if (s.part p).exited then .next s
    else
      let done : GridDone := .token blk ((octW oct 6).field 0 5) ((octW oct 6).field 16 16)
      match s.drawCheck p oct record with
      | (0, some (v, f)) => match s.startDraw p core (((s.grid? blk).map (·.prio)).getD 0) v f oct record done with
        | some s => .next (s.popQueue core qDraw)
        | none => .next (s.exitPart p 2)
      | (v, _) => .next (s.modHead core qDraw fun c => { c with fin := some v })
  | _ => .next (s.passJoins core)

/-! ### VEMIT and PEMIT (R346) -/

/-- The draw of a vertex-grid thread, or of a fragment thread. -/
def State.drawOf (s : State) (blk : Nat) (frag : Bool) : Option (Nat × Draw) :=
  match (s.grid? blk).bind (·.draw) with
  | some (di, k) => if k = frag then (s.draws[di]?).map fun d => (di, d) else none
  | none => none

/-- An emitted vertex takes the place of an earlier one of its index. -/
def Draw.putVertex (d : Draw) (v : Vertex) : Draw :=
  { d with verts := v :: d.verts.filter fun x => !(x.blk == v.blk && x.index == v.index) }

/-- The values of a vertex that its block has emitted. -/
def Draw.vertex (d : Draw) (blk index : Nat) : Option (List Reg) :=
  (d.verts.find? fun x => x.blk == blk && x.index == index).map (·.vals)

/-- What VEMIT stores of a register: its value, and of its plies the t partial alone, as partial 0 (R198, R346); of a LOST register it is +0
(log 93). -/
def emitted (k : Kernel) (r : Reg) : Reg := { r with parts := [k.partOf 2 r] }

/-! ### The binner (R199, R201, R346) -/

/-- Number the primitives that the binner lets go: those of the vertex blocks up to a number, in ascending block number, and within a
block in the order of issue (R346). -/
def Draw.number (upTo : Nat) (d : Draw) : Draw :=
  let held := d.prims.filter fun p => p.num.isNone
  let now := (held.filter fun p => p.blk ≤ upTo).insertionSort fun x y => x.blk ≤ y.blk
  let old := d.prims.filter fun p => p.num.isSome
  { d with prims := old ++ (now.zipIdx.map fun x => { x.1 with num := some (old.length + x.2) }) ++ held.filter fun p => upTo < p.blk }

/-- The binner holds a block's primitives until every lower-numbered vertex block has ended (R346). -/
def State.releasePrims (s : State) (di : Nat) : State :=
  match s.draws[di]? with
  | none => s
  | some d => match s.grids[d.vgrid]? with
    | none => s
    | some g => s.modDraw di (Draw.number (((List.range g.count).find? fun b => !g.ended.any fun e => e.1 == b).getD g.count))

/-- From which primitive number on the bin of a tile is. -/
def Draw.binFrom (d : Draw) (tile : Nat) : Nat := ((d.from_.find? fun x => x.1 == tile).map (·.2)).getD 0

/-- The bin of a tile: the primitives filed into it and not yet rasterised, in order (R199). -/
def Draw.bin (d : Draw) (tile : Nat) : List Prim :=
  d.prims.filter fun p => match p.num, d.tri p with
    | some n, some t => d.binFrom tile ≤ n && (d.boxTiles t).contains tile
    | _, _ => false

/-- The tile whose bin is largest, with the lowest number on a tie (R201). -/
def Draw.largestBin (d : Draw) : Option Nat :=
  d.tiles.foldl (fun b t => match b with
    | none => some t
    | some u => if (d.bin u).length < (d.bin t).length then some t else some u) none

/-- Are the bins of a draw beyond their space (R201)? -/
def Draw.binsFull (d : Draw) : Bool := 1 + Config.binSpace < (d.tiles.map fun t => (d.bin t).length).sum

/-! ### The rasteriser (R199, R201, R346) -/

/-- Must a draw's tiles wait for an earlier draw of its partition: any fragment may insert into any target (R204, log 33)? -/
def State.drawWaits (s : State) (di : Nat) : Bool :=
  match s.draws[di]? with
  | none => false
  | some d => (s.draws.take di).any fun e => !e.finished && d.part == e.part

/-- The tiles of a draw that are still to be rasterised. -/
def Draw.tilesLeft (d : Draw) : List Nat := if d.numbered then d.tiles.filter fun t => !d.tilesDone.contains t else []

/-- Is the spill frame of a flushed tile still to be written (R201)? -/
def Draw.spilling (d : Draw) (tile : Nat) : Bool := d.spills.any fun x => x.1 == tile && !x.2.1

/-- Ask for the tiles of every draw that may go on, or whose bins are beyond their space. -/
def State.wantTiles (s : State) : State :=
  s.wantAll ((List.range s.draws.length).flatMap fun di => match s.draws[di]? with
    | some d => if d.finished || s.drawWaits di then []
      else d.tilesLeft.map (Event.rasteriseTile di) ++ (if d.binsFull then (d.largestBin).toList.map (Event.rasteriseTile di) else [])
    | none => [])

/-- The fragment grid of a primitive in a tile: one block for each strand (R199, log 32). -/
def State.fragGrid (d : Draw) (di strands : Nat) : Grid :=
  { part := d.part, num := 0, kernel := { d.fkernel with block := d.fkernel.width, roles := [] }, prio := d.prio,
    count := strands, next := 0, quad := 0, doubled := false, param := d.record.getD 6 0, done := .draw di, ranges := [],
    ended := [], draw := some (di, true), joined := [], core := 72 }

/-- The bin of a tile begins at a primitive number. -/
def Draw.startBin (d : Draw) (tile n : Nat) : Draw := { d with from_ := (tile, n) :: d.from_.filter fun x => x.1 != tile }

/-- Launch the fragment strands of primitives in a tile, in primitive order, until a grid cannot be queued: it then waits for room in its
dispatch queue (R155). Whether all are launched. -/
def State.launchFrags (di tile : Nat) : List Prim → State → State × Bool
  | [], s => (s, true)
  | p :: r, s =>
    match s.draws[di]?, p.num with
    | some d, some n =>
      let px := match d.tri p with | some t => d.pixels t tile | none => []
      let w := max 1 d.fkernel.width
      let gi := s.grids.length
      match (if px.isEmpty then some s else
          ((s.modDraw di fun d => { d with frags := d.frags ++ [(gi, tile, n)] }).enterGrid
            (State.fragGrid d di ((px.length + w - 1) / w)))) with
      | some s => State.launchFrags di tile r (s.modDraw di fun d => d.startBin tile (n + 1))
      | none => (s, false)
    | _, _ => State.launchFrags di tile r s

/-- A spill frame is reloaded before a later primitive of its tile is tested; its pages return to the pool (R201). -/
def State.reloadTile (s : State) (di tile : Nat) : State :=
  match s.draws[di]? with
  | none => s
  | some d =>
    let fs := (d.spills.filter fun x => x.1 == tile).flatMap (·.2.2)
    (s.givePool d.part fs).modDraw di fun d => { d with spills := d.spills.filter fun x => x.1 != tile }

/-- EARLY_TILE_FLUSH (R201): while the bins are beyond their space, the tile with the largest one is flushed: its primitives are
rasterised, and its spill frame is then to be written. It waits while an earlier draw, or the dispatch queue, holds the rasteriser up
(log 33). -/
def State.relieve (s : State) (di : Nat) : State :=
  match s.draws[di]? with
  | none => s
  | some d => match d.largestBin with
    | none => s
    | some tile =>
      if !d.binsFull || d.finished || s.drawWaits di || d.spilling tile || (s.part d.part).exited then s
      else match State.launchFrags di tile (d.bin tile) (s.reloadTile di tile) with
        | (s, true) => s.modDraw di fun d => { d with spills := (tile, false, []) :: d.spills }
        | (s, false) => s

/-- The bytes of a span for a spill frame; none where it is not mapped. -/
def State.spillSpan (s : State) (part va n : Nat) : List Byte :=
  match State.readSpan (serviceXl part) (n / 4096 + 2) s (Addr.ofNat va).toNat n with
  | .ok (_, b) => b
  | .error _ => []

/-- The head words of a tile's pixels in the draw's layer target, by the rows of the target (R202). -/
def State.tileHeads (s : State) (d : Draw) (x y : Nat) : List Byte :=
  match targetOf (d.addr 5) (s.spillSpan d.part (d.addr 5) 32) with
  | none => []
  | some t => (List.range (min 32 (t.height - y))).flatMap fun k =>
      s.spillSpan d.part (t.heads + 8 * ((y + k) * t.width + x)) (8 * min 32 (t.width - x))

/-- What a spill frame holds of a tile, row by row: the depth and colour of its samples, and its layer head words (R201). -/
def State.tileBytes (s : State) (d : Draw) (tile : Nat) : List Byte :=
  let x := tile % d.tilesAcross * 32
  let y := tile / d.tilesAcross * 32
  let w := min 32 (d.width - x)
  let row := fun (base size k : Nat) => s.spillSpan d.part (base + size * ((y + k) * d.width + x)) (size * w)
  let rows := List.range (min 32 (d.height - y))
  rows.flatMap (row (d.addr 4) (4 * 2 ^ d.log2Samples)) ++ rows.flatMap (row (d.addr 3) (8 * 2 ^ d.log2Samples)) ++
    if drawLayers d.oct then s.tileHeads d x y else []

/-- The spill frames of a draw whose tiles' fragment strands have all ended are written, in pages of the pool (R201); one for which there are
not pages enough waits for them. -/
def State.writeSpills (s : State) (di : Nat) : State :=
  match s.draws[di]? with
  | none => s
  | some d => d.spills.foldl (fun s x =>
      if x.2.1 || d.frags.any fun f => f.2.1 == x.1 && !((s.grids[f.1]?).map Grid.isDone).getD true then s
      else
        let b := s.tileBytes d x.1
        let r := s.takePool d.part none ((b.length + 4095) / 4096)
        if r.2.length < (b.length + 4095) / 4096 then s
        else (r.1.fillFrames r.2 b).modDraw di fun d =>
          { d with spills := d.spills.map fun y => if y.1 = x.1 then (y.1, true, r.2) else y }) s

/-- The status of a draw: of its vertex grid, else of its first fragment grid that has one (R345, R154). -/
def State.drawStatus (s : State) (d : Draw) : Nat :=
  (((d.vgrid :: d.frags.map (·.1)).filterMap fun g => (s.grids[g]?).map Grid.status).find? (· != 0)).getD 0

/-- Have the grids of a draw all ended? -/
def State.drawGridsDone (s : State) (d : Draw) : Bool :=
  (d.vgrid :: d.frags.map (·.1)).all fun g => ((s.grids[g]?).map Grid.isDone).getD true

/-- Every vertex block of a draw has ended: its vertices are no longer needed. -/
def State.closeVertices (s : State) (di : Nat) : State :=
  match s.draws[di]? with
  | some d => if !d.numbered && ((s.grids[d.vgrid]?).map Grid.isDone).getD true then
      s.modDraw di fun d => { d with numbered := true, verts := [] } else s
  | none => s

/-- A draw whose every tile is rasterised and every fragment strand has ended is finished (R345); spill frames are let go. -/
def State.finishDraw (s : State) (di : Nat) : State :=
  match s.draws[di]? with
  | none => s
  | some d =>
    if d.numbered && !d.finished && d.tilesLeft.isEmpty && s.drawGridsDone d then
      ((s.givePool d.part (d.spills.flatMap (·.2.2))).modDraw di fun d =>
        { d with finished := true, status := s.drawStatus d, spills := [] }).want (.tokenDeposit d.core qDraw)
    else s

/-- A draw goes on after one of its blocks has ended: primitives are numbered, bins relieved and spill frames written; it is finished once
every tile is rasterised and every fragment strand has ended (R345, R346, R201). -/
def State.drawProgress (s : State) (di : Nat) : State :=
  (((((s.releasePrims di).closeVertices di).relieve di).writeSpills di).finishDraw di).wantTiles

/-- RASTERISE_TILE (R199): the rasteriser takes a tile's bin in primitive order; it waits while the dispatch queue has no room (R155), and
for the spill frame of a flush. Bins that have run out of space are relieved first, and spill frames written (R201). -/
def execRasteriseTile (di tile : Nat) (s : State) : Host.Outcome State Fault Refusal :=
  let s := (s.relieve di).writeSpills di
  match s.draws[di]? with
  | none => .next s
  | some d =>
    if d.finished || s.drawWaits di || !d.tilesLeft.contains tile || d.spilling tile || (s.part d.part).exited then .next s
    else match State.launchFrags di tile (d.bin tile) (s.reloadTile di tile) with
      | (s, true) => .next ((s.modDraw di fun d => { d with tilesDone := tile :: d.tilesDone }).drawProgress di)
      | (s, false) => .next s

/-! ### The emitting instructions (R346) -/

/-- VEMIT (R346): an index above 65,535 names no vertex (log 33). -/
def execVemit (d a : RegName) (st : Stall) (s : State) : Host.Outcome State Fault Refusal :=
  s.run (.vemit d a st) st fun s t th =>
    match s.drawOf t.blk false with
    | none => .trap s 0x01 0x02 0
    | some (di, _) =>
      let num := ((s.blocks[t.blk]?).map (·.num)).getD 0
      if 65535 < (th.val d).toNat then .next s
      else .next (s.modDraw di fun dr => dr.putVertex ⟨num, (th.val d).toNat, (th.group a 8).map (emitted (s.kernel t.blk))⟩)

/-- PEMIT (R346): the primitive keeps the vertices as they stand; without one of them it is dropped. -/
def execPemit (a : RegName) (st : Stall) (s : State) : Host.Outcome State Fault Refusal :=
  s.run (.pemit a st) st fun s t th =>
    match s.drawOf t.blk false with
    | none => .trap s 0x01 0x02 0
    | some (di, dr) =>
      let num := ((s.blocks[t.blk]?).map (·.num)).getD 0
      let vs := (List.range 3).filterMap fun i => dr.vertex num (th.valAt a i).toNat
      let s := s.modDraw di fun dr =>
        { dr with prims := dr.prims ++ [⟨num, if vs.length = 3 then vs else [], (th.valAt a 3).toNat, none⟩] }
      .next ((s.releasePrims di).relieve di)

/-! ### ZTEST and OMERGE (R347) -/

/-- The sample i of a fragment's pixel in a buffer of `size` bytes a sample (R345). -/
def Draw.sampleAt (d : Draw) (base size x y i : Nat) : Nat := base + size * ((y * d.width + x) * 2 ^ d.log2Samples + i)

/-- The samples of a mask, below the draw's count. -/
def Draw.samplesOf (d : Draw) (mask : Nat) : List Nat := (List.range (2 ^ d.log2Samples)).filter fun i => mask / 2 ^ i % 2 == 1

/-- The depth test (R345, R347): 0 less, 1 lequal, 2 greater, 3 gequal, 4 always, 5 never; a NaN depth passes none. -/
def depthPass (code : Nat) (depth stored : Word) : Bool :=
  let a := f32v depth
  let b := f32v stored
  !a.isNan && match code with
    | 0 => cmpVal .lt a b
    | 1 => cmpVal .le a b
    | 2 => cmpVal .lt b a
    | 3 => cmpVal .le b a
    | 4 => true
    | _ => false

/-- Read the samples of a buffer. -/
def State.readSamples (t : TRef) (th : Thread) (size : Nat) : List (Nat × Nat) → State → Except Lane (State × List (Nat × Nat × List Byte))
  | [], s => .ok (s, [])
  | (i, ea) :: r, s => match s.gread t th ea size size with
    | .error e => .error e
    | .ok (s, b) => match State.readSamples t th size r s with
      | .error e => .error e
      | .ok (s, l) => .ok (s, (i, ea, b) :: l)

/-- An instruction of a fragment thread: IllegalInstruction 0x02 elsewhere; it parks until the earlier primitives of its
screen tile have performed theirs (R347, R204). -/
def fragBody (i : Instr) (kind : Nat) (f : State → TRef → Thread → Nat → Draw → Frag → Except Lane Lane) : Body := fun s t th =>
  match s.drawOf t.blk true, th.frag with
  | some (di, d), some fr =>
    let s := s.drainStrand t.blk th.strand
    if s.earlierPending th kind then .go (s.parkAt t (.layer i 0)) else orLane (f s t th di d fr)
  | _, _ => .trap s 0x01 0x02 0

/-- ZTEST (R347). -/
def execZtest (d a : RegName) (st : Stall) (s : State) : Host.Outcome State Fault Refusal :=
  s.run (.ztest d a st) st (fragBody (.ztest d a st) 1 fun s t th _ dr fr => do
    let depth := th.val a
    let base := dr.addr 4
    let at_ := (dr.samplesOf ((th.valAt a 1).toNat &&& fr.cov)).map fun i => (i, dr.sampleAt base 4 fr.x fr.y i)
    let (s, old) ← State.readSamples t th 4 at_ s
    let pass := old.filter fun x => depthPass ((octW dr.oct 3).field 2 3) depth (wordOf x.2.2)
    let s ← if (octW dr.oct 3).bit 5 then s.gwrite t (pass.map fun x => (x.2.1, wordBytes depth)) else .ok s
    .ok ((s.noteDid t 1).gdone t d [Reg.plain (Word.ofNat ((pass.map fun x => 2 ^ x.1).sum))]))

/-- The colour of one sample after OMERGE: replace, or over in f32 and back to f16 as in R205 (R347). -/
def mergeColour (mode : Nat) (f : List Nat) (old : List Byte) : List Byte :=
  let wide := fun (h : Nat) => rne32 (Fmt.f16.val h)
  let F := fun (k : Nat) => wide (f.getD k 0)
  let B := fun (k : Nat) => wide (fieldAt old (2 * k) 2)
  if mode = 1 then f.flatMap (leBytes 2)
  else (List.range 4).flatMap fun k => leBytes 2 (toHalf (add32 (F k) (mul32 (sub32 0x3F800000 (F 3)) (B k))))

/-- OMERGE (R347). -/
def execOmerge (a : RegName) (st : Stall) (s : State) : Host.Outcome State Fault Refusal :=
  s.run (.omerge a st) st (fragBody (.omerge a st) 2 fun s t th _ dr fr => do
    let w := fun i => th.valAt a i
    let f := [(w 0).field 0 16, (w 0).field 16 16, (w 1).field 0 16, (w 1).field 16 16]
    let mode := (octW dr.oct 3).field 6 2
    if mode = 0 then .ok (.next (s.noteDid t 2))
    else
      let at_ := (dr.samplesOf (w 2).toNat).map fun i => (i, dr.sampleAt (dr.addr 3) 8 fr.x fr.y i)
      let (s, old) ← if mode = 2 then State.readSamples t th 8 at_ s else .ok (s, at_.map fun x => (x.1, x.2, []))
      let s ← s.gwrite t (old.map fun x => (x.2.1, mergeColour mode f x.2.2))
      .ok (.next (s.noteDid t 2)))

end Sys2Proof.Machine
end

