-- ==== Sys2Proof/Machine/Frame.lean ====
section
/-! DEFINITION. Context frames and matrix save images as memory holds them (R217, R218, R220): their bytes, their check values, and
their loss. Only the resident service reads a frame: its sections are in the order of R217, and their layout is the model's (log 14). -/

namespace Sys2Proof.Machine

/-! ### CRC-32C -/

/-- One bit of CRC-32C, least significant bit first. -/
def crc32cStep (c : Word) : Word := if c.getLsbD 0 then (c >>> 1) ^^^ 0x82F63B78#32 else c >>> 1

/-- One byte of it. -/
def crc32cByte (c : Word) (b : Byte) : Word :=
  crc32cStep (crc32cStep (crc32cStep (crc32cStep (crc32cStep (crc32cStep (crc32cStep (crc32cStep (c ^^^ b.zeroExtend 32))))))))

/-- CRC-32C of some bytes. -/
def crc32c (l : List Byte) : Word := ~~~(l.foldl crc32cByte 0xFFFFFFFF#32)

/-! ### The sections of a frame -/

/-- Numbers of 4 and of 8 bytes. -/
def n4 (n : Nat) : List Byte := leBytes 4 n
def n8 (n : Nat) : List Byte := leBytes 8 n

/-- A list with its length before it. -/
def counted {α : Type} (f : α → List Byte) (l : List α) : List Byte := n4 l.length ++ l.flatMap f

/-- A register with its partials and its tag. -/
def Reg.frame (r : Reg) : List Byte :=
  wordBytes r.val ++ leBytes 1 (match r.tag with | .zero => 0 | .live => 1 | .lost => 2) ++ leBytes 1 r.kink.toNat ++
    counted wordBytes r.parts

/-- The trap registers, with the %tvec pair. -/
def TrapRegs.frame (t : TrapRegs) : List Byte :=
  leBytes 1 t.inHandler.toNat ++ leBytes 1 t.cause.toNat ++ n8 t.epc.toNat ++ n8 t.mask.toNat ++ leBytes 1 t.first.toNat ++
    leBytes 1 t.sub.toNat ++ wordBytes t.inst ++ n8 t.vec.toNat

/-- A thread. -/
def Thread.frame (th : Thread) : List Byte :=
  n8 th.pc.toNat ++ counted Reg.frame th.regs ++ th.trap.frame ++ leBytes 1 th.fpflags.toNat ++ leBytes 1 th.fpctl.toNat ++
    n4 th.plystride.toNat ++ n4 th.hang ++ n4 th.starve ++ n4 th.trvCount ++ leBytes 1 th.trvRestart.toNat

/-- A thread's name. -/
def TRef.frame (t : TRef) : List Byte := n4 t.blk ++ n4 t.tid

/-- A strand: its rejoin file and serial mode. -/
def Strand.frame (k : Strand) : List Byte :=
  counted (fun e => n8 e.pc.toNat ++ n8 e.at_.toNat ++ counted TRef.frame e.mask ++ counted TRef.frame e.arrived) k.rejoin ++
    leBytes 1 k.serial.toNat

/-- The overflow stack of a thread, and whether it waits at a strand collective. -/
def Thread.stackFrame (th : Thread) : List Byte :=
  counted (fun x => n8 x.1.toNat ++ n8 x.2.toNat) th.overflow ++
    leBytes 1 (match th.park with | some (.collective _) => 1 | some (.ready _) => 2 | _ => 0)

/-- A spindle with its tokens and slots. -/
def Spindle.frame (x : Spindle) : List Byte := n4 x.free ++ n4 x.acq ++ counted wordBytes x.fifo ++ n4 x.taken

/-- The words of a queued command. -/
def CmdOp.words : CmdOp → List Word
  | .copy o => o
  | .stream o k => o ++ [Word.ofNat k]
  | .coll o n => o ++ [Word.ofNat n]
  | .launch _ o => o
  | .mma f a b n => [f, Addr.low a, Addr.high a, Addr.low b, Addr.high b, Word.ofNat n]
  | .mdrain o d r c n => [o, Addr.low d, Addr.high d, Addr.low r, Addr.high r, Addr.low c, Addr.high c, Word.ofNat n]
  | .mzero n => [Word.ofNat n]
  | .mloadc a n => [Addr.low a, Addr.high a, Word.ofNat n]
  | .mhist k a => [Word.ofNat k, Addr.low a, Addr.high a]
  | .mhclr k => [Word.ofNat k]
  | .mwait w => [w]
  | .draw o r => o ++ r.flatMap fun a => [Addr.low a, Addr.high a]
  | .lclr t w => [Addr.low t, Addr.high t, w]
  | .join n => [Word.ofNat n]

/-- A queued command: its queue, its octet, the count of 4 KiB chunks done, and how far it has come, for a stream context its position. -/
def Cmd.frame (x : Nat × Cmd) : List Byte :=
  leBytes 1 x.1 ++ counted wordBytes x.2.op.words ++ n4 (x.2.done / 4096) ++ n8 x.2.done ++ leBytes 1 x.2.started.toNat

/-- A quad spindle that the block's group claims. -/
def QuadSpindle.frame (x : QuadSpindle) : List Byte := leBytes 1 x.id ++ Spindle.frame x.sp

/-- An open round: its number, the operation with its operands, the threads that have signed. -/
def Round.frame (r : Round) : List Byte := n4 r.num ++ counted wordBytes r.op.words ++ counted TRef.frame r.signed

/-- A convergence register with its rounds (R317). -/
def CvReg.frame (x : Nat × CvReg) : List Byte :=
  leBytes 1 x.1 ++ n4 x.2.n ++ leBytes 1 x.2.acc ++ n4 x.2.bound ++ n4 x.2.nextRound ++ counted Round.frame x.2.rounds

/-- A held accumulator, and a held histogram slot (R317, R331). -/
def Acc.frame (x : Nat × Acc) : List Byte := leBytes 1 x.1 ++ counted wordBytes x.2.vals
def Hist.frame (x : Nat × Hist) : List Byte := leBytes 1 x.1 ++ counted wordBytes x.2.counts

/-- What a thread keeps of its convergence register and of its doubling: its binding and round, its signature and count of records, and
whether a seal of its instruction has matched (R319, R365, R367). -/
def Thread.syncFrame (th : Thread) : List Byte :=
  (match th.cv with | some (i, r) => leBytes 1 1 ++ n4 i ++ n4 r | none => leBytes 1 0) ++ n8 th.sig.toNat ++ n4 th.recs ++
    leBytes 1 th.sealed.toNat

/-- A home. -/
def Loc.frame : Loc → List Byte
  | .win b o => leBytes 1 0 ++ n4 b ++ n8 o
  | .phys a => leBytes 1 1 ++ n8 a

/-- A quarantined write (R365). -/
def QWrite.frame (w : QWrite) : List Byte := TRef.frame w.t ++ Loc.frame w.loc ++ counted (fun b => [b]) w.bytes ++ leBytes 1 w.fill.toNat

/-- A held operation (R113, R365). -/
def Held.frame (h : Held) : List Byte :=
  n4 h.num ++ counted TRef.frame h.lanes ++ counted TRef.frame h.left ++ match h.op with
    | .cmd q c => leBytes 1 0 ++ Cmd.frame (q, c)
    | .fence m => leBytes 1 1 ++ leBytes 2 m.toNat
    | .status d l o => leBytes 1 2 ++ leBytes 1 d.toNat ++ counted (fun x => TRef.frame x.1 ++ leBytes 1 x.2) l ++ counted wordBytes o

/-- The sections of a saved block's frame, in the order of R217, without the header; `quads` are the quad spindles of its group. The
quarantine, the signatures and what is held stand with the synchronisation (R365), the histogram slots with the matrix (R331). -/
def Block.sections (b : Block) (quads : List QuadSpindle) : List Byte :=
  counted Thread.frame b.threads ++ (counted Strand.frame b.strands ++ counted Thread.stackFrame b.threads) ++
  counted (fun x => n4 x.1 ++ n4 x.2) b.filedSaved ++
  (counted (fun x => leBytes 1 x.1 ++ Spindle.frame x.2) b.spindles ++
    counted (fun th => counted (fun x => leBytes 1 (BarLevel.idx x.1) ++ leBytes 1 x.2.1 ++ n4 x.2.2) th.phases) b.threads ++
    n4 b.reformAge ++ counted QuadSpindle.frame quads ++ counted CvReg.frame b.matrix.cvs ++ counted Acc.frame b.matrix.accs ++
    counted Thread.syncFrame b.threads ++ counted QWrite.frame b.quarantine ++ counted Held.frame b.held) ++
  (Mem.getN b.mem 0 b.memSize ++ counted n4 b.full) ++
  (counted Cmd.frame b.savedCmds ++ counted (fun k => counted (counted (counted wordBytes)) k.opq) b.strands) ++
  (counted Hist.frame b.matrix.hist ++ b.image)

/-- The 64 bytes of a frame's header: version 0x0001, grid, block number, quad group, size, and CRC-32C of the rest (R217). -/
def Block.frameHeader (b : Block) (rest : List Byte) : List Byte :=
  leBytes 2 1 ++ leBytes 2 0 ++ n4 b.grid ++ n4 b.num ++ n4 b.group ++ n4 (64 + rest.length) ++ wordBytes (crc32c rest) ++
    List.replicate 40 0

/-- A frame whole. -/
def Block.frame (b : Block) (quads : List QuadSpindle) : List Byte := b.frameHeader (b.sections quads) ++ b.sections quads

/-- The quad spindles that a block's group claims; a trailing copy has none of its own (R306, R366). -/
def State.quadsOf (s : State) (b : Block) : List QuadSpindle :=
  if b.group = 0 || b.trailing then [] else s.qspindles.filter fun q => q.grid == b.grid && q.group == b.group

/-! ### The matrix save image (R220) -/

/-- Does a saved entry stand for an MMA or MDRAIN that has been frozen in the array? -/
def Cmd.frozen (x : Nat × Cmd) : Bool := match x.2.op with
  | .mma .. => x.2.started
  | .mdrain .. => x.2.started
  | _ => false

/-- The bytes of a saved block's matrix save image, if one of its operations was frozen: the header, no partial sums, the accumulators
that the block holds, the operand latches with the tile that an MMA has taken of the bypass latch. -/
def Block.matrixImage (b : Block) : List Byte :=
  if b.savedCmds.any Cmd.frozen then
    let acc := fun (i : Nat) => match b.matrix.accs.find? fun x => x.1 == i with
      | some x => (x.2.vals ++ List.replicate (16384 - x.2.vals.length) (0 : Word)).flatMap wordBytes
      | none => List.replicate 65536 (0 : Byte)
    let accs := (List.range 4).flatMap acc
    let latch := ((b.savedCmds.flatMap (·.2.work.tile)).flatMap fun w => leBytes 2 w.toNat).take 32752
    let rest : List Byte := List.replicate 65536 0 ++ accs ++ latch ++ List.replicate (32752 - latch.length) 0
    n4 0x4D495A56 ++ leBytes 2 2 ++ leBytes 2 0 ++ n4 360448 ++ wordBytes (crc32c rest) ++ rest
  else []

/-- A little-endian field of some bytes. -/
def frameField (l : List Byte) (at_ n : Nat) : Nat := leNat ((l.drop at_).take n)

/-- Is a matrix save image refused (R220)? -/
def imageBad (l : List Byte) : Bool :=
  frameField l 0 4 != 0x4D495A56 || frameField l 4 2 != 2 || frameField l 8 4 != 360448 || l.length != 360448 ||
    frameField l 12 4 != (crc32c (l.drop 16)).toNat

/-! ### Frames in memory (R217, R218) -/

/-- The bytes of some frames. -/
def State.pageBytes (s : State) (fs : List Nat) : List Byte := fs.flatMap fun f => Mem.getN s.mem (s.podPage f * 4096) 4096

/-- Has a page of a frame an uncorrectable error? -/
def State.pageBad (s : State) (f : Nat) : Bool := s.homeBad (.phys (s.podPage f * 4096)) 4096

/-- The single-bit errors in a saved block's frame are corrected as it is read (R68). -/
def State.correctFrame (s : State) (blk : Nat) : State :=
  (((s.blocks[blk]?).map (·.ctx)).getD []).foldl (fun s f => s.correct (.phys (s.podPage f * 4096)) 4096) s

/-- A block gives its context frame back to the pool. -/
def State.dropFrame (s : State) (blk : Nat) : State :=
  let fs := ((s.blocks[blk]?).map (·.ctx)).getD []
  let p := s.partOf blk
  if fs.isEmpty then s else (s.modBlock blk fun b => { b with ctx := [], image := [] }).givePool p fs

/-- A block whose frame is lost ends with ContextLost, with its other copy; the saved commands of both are abandoned (R218). -/
def State.contextLost (s : State) (blk : Nat) : State :=
  let both := blk :: ((s.blocks[blk]?).bind Block.partner).toList
  ((both.foldl (fun s k => s.modBlock k fun b => { b with savedCmds := [] }) s).dropFrame blk).stopBlock blk 0x0048

/-- The pages of a frame with an error are poisoned, and the block is lost (R218). -/
def State.loseFrame (s : State) (blk : Nat) (fs : List Nat) : State :=
  ((fs.filter s.pageBad).foldl (fun s f => s.poisonPage (s.podPage f)) s).contextLost blk

/-- A saved block's context is written to a frame of its partition's pool (R79, R217); an uncorrectable error found loses it (R218). The
service takes the frame from the partition's pool, which it enlarges as needed (log 14). -/
def State.writeFrame (s : State) (blk : Nat) : State :=
  let s := s.modBlock blk fun b => { b with image := b.matrixImage }
  match s.blocks[blk]? with
  | none => s
  | some b =>
    if ((s.part (s.partOf blk)).pool ++ (s.part (s.partOf blk)).freeNear).isEmpty then s
    else
      let bytes := b.frame (s.quadsOf b)
      let r := s.takePool (s.partOf blk) none (pageCount bytes.length)
      if r.2.length < pageCount bytes.length then s
      else
        let s := r.1.modBlock blk fun b => { b with ctx := r.2 }
        if r.2.any s.pageBad then s.loseFrame blk r.2 else s.fillFrames r.2 bytes

/-- Is a saved block's frame lost: a page with an uncorrectable error or poisoned, a frame whose check value does not agree, or a matrix
save image that is refused (R218, R220)? -/
def State.frameLost (s : State) (blk : Nat) : Bool :=
  match s.blocks[blk]? with
  | none => false
  | some b =>
    let l := s.pageBytes b.ctx
    let l := l.take (frameField l 16 4)
    (!b.ctx.isEmpty && ((b.ctx.any fun f => s.pageBad f || !s.clean f) ||
      frameField l 20 4 != (crc32c (l.drop 64)).toNat)) ||
    (!b.image.isEmpty && imageBad (if b.ctx.isEmpty then b.image else l.drop (l.length - b.image.length)))

end Sys2Proof.Machine
end

