-- ==== Sys2Proof/Machine/Blocks.lean ====
section
/-! DEFINITION. The life of a block: the deal (R157), its end (R268, R154), its save and restore (R79, R81, R115, R217,
R221, R333), pre-emption (R161), and the seals of a doubled block (R367 to R369). -/

namespace Sys2Proof.Machine

/-! ### The deal (R157) -/

/-- The highest priority at which something waits to be placed (R155): a repaired block or a grid, in the queue or spilled. -/
def Part.topPrio (p : Part) : Option Nat :=
  ((List.range 8).reverse).find? fun i => (p.repaired.any fun r => r.1 == i) ||
    !((p.dispatch[i]?).map fun d => d.q.isEmpty && d.spill.isEmpty).getD true

/-- The repaired blocks of the highest waiting priority, oldest first. -/
def Part.repairedNow (p : Part) : List Nat :=
  match p.topPrio with
  | some i => (p.repaired.filter fun r => r.1 == i).map (·.2)
  | none => []

/-- The grid that is dealt next: the head of the highest non-empty queue, behind the repaired blocks of that priority (R81,
R155). -/
def Part.dealGrid (p : Part) : Option Nat :=
  match p.topPrio with
  | some i => if p.repaired.any fun r => r.1 == i then none else (p.dispatch[i]?).bind fun d => d.q.head?
  | none => none

/-- The units that a deal places now: for a C grid all of them or none, else the next one. -/
def State.dealUnits (s : State) (g : Grid) : List Placed :=
  let cores := (s.part g.part).cores
  if g.kernel.cls = .c then (placeAll cores g.kernel g.quad g.count g.doubled everyBlock g.count s.uses s.quadSpins 0).getD []
  else match placeUnit cores s.uses s.quadSpins g.kernel g.quad g.count g.next g.doubled everyBlock with
    | some p => [p]
    | none => []

/-- DEAL (R157, R365): the head grid's next unit, or all of a C grid, starts on cores with room, once the extent tables of its blocks are
built (R47). -/
def execDeal (part : Nat) (s : State) : Host.Outcome State Fault Refusal :=
  if (s.part part).exited then .next s
  else match (s.part part).dealGrid with
    | none => .next s
    | some gi => match s.grids[gi]? with
      | none => .next s
      | some g =>
        match s.dealUnits g with
        | [] => .next s
        | us => match State.buildTables g.part g.ranges (us.flatMap Placed.cores) s with
          | .error s => .next s
          | .ok (s, ext) =>
            let n := (us.map fun p => p.lead.length).sum
            let first := s.blocks.length
            let s := (State.spawnUnits gi g.quad us ext (s.joinPod gi)).claimBarriers gi first
            let s := s.modGrid gi fun g => { g with next := g.next + n }
            .next ((if g.count ≤ g.next + n then s.leaveDispatch gi g else s).want (.deal part))

/-! ### What a copy of a doubled block holds (R113, R278) -/

/-- The first held status on its way to a register arrives: it is a result on its way from now on (R278). -/
def fillFirst (arch v : Nat) : List Pending → List Pending
  | [] => []
  | p :: r => if p.held && p.reg == arch then { p with held := false, res := Reg.plain (Word.ofNat v) } :: r else p :: fillFirst arch v r

/-- A held status arrives in a thread. -/
def Thread.fillHeld (arch v : Nat) (th : Thread) : Thread := { th with pend := fillFirst arch v th.pend }

/-- The registers of the lanes of one issue that a held status fills, in both copies (R278). -/
def State.fillStatus (v : Nat) (s : State) (l : List (TRef × Nat)) : State :=
  l.foldl (fun s x =>
    let both := x.1 :: (((s.blocks[x.1.blk]?).bind Block.partner).map fun p => (⟨p, x.1.tid⟩ : TRef)).toList
    both.foldl (fun s t => s.modThread t (Thread.fillHeld x.2 v)) s) s

/-- The status of a DRAW that a seal issues: the record is read now, as a load of the thread (R278, R345). -/
def State.sealDraw (s : State) (t : TRef) (th : Thread) (core : Nat) (oct : List Word) : Option (State × Nat) :=
  if drawRecordAt oct % 64 ≠ 0 then some (s, 0x0007)
  else match s.gread t th (drawRecordAt oct) 64 64 with
    | .error (.trap s _ _ _) => some (s, 0x0007)
    | .error _ => none
    | .ok (s, b) => match s.drawIssue t.blk oct (drawRecord b) with
      | (0, some _) => (s.enterQueue core t.blk qDraw (.draw oct (drawRecord b))).map fun s => (s, 0)
      | (v, _) => some (s, v)

/-- The status of a LAUNCH that a seal issues (R278). -/
def State.sealLaunch (s : State) (t : TRef) (core : Nat) (oct : List Word) : Option (State × Nat) :=
  match s.launchCheck t.blk oct with
  | (0, some k) => (s.enterQueue core t.blk qLaunch (.launch k oct)).map fun s => (s, 0)
  | (v, _) => some (s, v)

/-- Issue one held operation of a leading copy. None where it must wait: for room in the spill ring, or for a page (log 40). -/
def State.issueHeld (s : State) (h : Held) : Option State :=
  match h.lanes.head?, (h.lanes.head?).bind s.thread?, (h.lanes.head?).bind fun t => s.coreOf t.blk with
  | some t, some th, some core =>
    let s := { s with issue := ⟨core, 0, [t], th.pc, th.word⟩ }
    match h.op with
    | .cmd q c => s.enterQueue core t.blk q c.op
    | .fence m => s.enterFence core t.blk m
    | .status isDraw d oct => (if isDraw then s.sealDraw t th core oct else s.sealLaunch t core oct).map fun r => State.fillStatus r.2 r.1 d
  | _, _, _ => none

/-- What the leading copies hold, in the order of issue. -/
def State.heldItems (s : State) : List Held :=
  (s.blocks.flatMap fun b => if b.trailing then [] else b.held).insertionSort fun a b => a.num ≤ b.num

/-- Issue a held operation if every lane of its issue has reached its seal, no earlier one of its lanes still waits, and its block stands on a
core; the lanes of those that wait are gathered. -/
def State.issueStep (acc : Option (State × List TRef)) (h : Held) : Option (State × List TRef) :=
  acc.bind fun a =>
    if h.left.isEmpty && !h.lanes.any a.2.contains && ((h.lanes.head?).bind fun t => a.1.coreOf t.blk).isSome then
      (a.1.issueHeld h).map fun s =>
        ({ s with blocks := s.blocks.map fun b => { b with held := b.held.filter fun x => x.num != h.num }, issue := a.1.issue }, a.2)
    else some (a.1, a.2 ++ h.lanes)

/-- Issue all that the seals so far let issue (R113, log 86). -/
def State.issueReady (s : State) : Option State := (s.heldItems.foldl State.issueStep (some (s, []))).map (·.1)

/-! ### The end of a block (R268) -/

/-- Does a queue entry count towards the end of its block: every command but LAUNCH and DRAW (R268)? -/
def CmdOp.counts : CmdOp → Bool
  | .launch .. => false
  | .draw .. => false
  | _ => true

/-- Has a block still an engine command that has not completed? -/
def State.busyBlock (s : State) (core blk : Nat) : Bool :=
  (s.core core).queues.any fun q => q.all.any fun c => c.blk == blk && c.op.counts

/-- A core whose room for a saved block stays reserved: its convergence registers, accumulators and histogram slots stay the block's, the
latch is free (R157, R317, R331). -/
def Core.parkMatrix (c : Core) (blk : Nat) : Core :=
  { c with
    cvs := c.cvs.map fun x => if x.holder == some blk then { CvReg.free with holder := some blk } else x,
    latch := match c.latch with | some (b, f, w) => if b = blk then none else some (b, f, w) | none => none }

/-- A core without what a block holds of its matrix unit (R317, R326, R331). -/
def Core.freeMatrix (c : Core) (blk : Nat) : Core :=
  { c with
    cvs := c.cvs.map fun x => if x.holder == some blk then CvReg.free else x,
    accs := c.accs.map fun x => if x.holder == some blk then { x with holder := none } else x,
    hist := c.hist.map fun x => if x.holder == some blk then { x with holder := none } else x,
    latch := match c.latch with | some (b, f, w) => if b = blk then none else some (b, f, w) | none => none }

/-- A block that has ended (R56, R268): its memory is released, its quarantine is gone. -/
def Block.close (b : Block) : Block :=
  { b with place := .ended, saving := none, mem := [], full := [], badMem := [], quarantine := [], held := [], extents := [],
           savedCmds := [], matrix := MatrixSave.none, olds := [],
           echoes := [], ctx := [], image := [], spillAt := [], softMem := [],
           threads := b.threads.map fun t => { t with live := false, park := none, walk := none },
           strands := b.strands.map fun k => { k with live := false, queue := [], loopBuf := none, prefetched := [], joint := none } }

/-- What follows the end of a block of a grid: a draw goes on (R345); with the last block, the token or the node (R154, R149). -/
def State.gridEnded (s : State) (gi : Nat) : State :=
  match s.grids[gi]? with
  | none => s
  | some g =>
    match g.done, g.isDone with
    | .token .., true => s.want (.tokenDeposit g.core qLaunch)
    | .node p r i, true => s.want (.replayNodeComplete p r i)
    | .draw d, _ => s.drawProgress d
    | _, _ => s

/-- The end of a block is counted in its grid, for a doubled block once both copies have ended. -/
def State.countEnd (s : State) (b : Block) : State :=
  let other : Bool := match b.partner with
    | some p => ((s.blocks[p]?).map fun x => x.place == .ended).getD true
    | none => true
  if other then (s.modGrid b.grid fun g => { g with ended := g.ended ++ [(b.num, b.status)] }).gridEnded b.grid else s

/-- The quad spindles of a group are released with the last of its leading blocks (R306, R366). -/
def State.freeQuad (s : State) (b : Block) : State :=
  if b.group = 0 then s
  else if s.blocks.any fun x => x.grid == b.grid && x.group == b.group && !x.trailing && x.place != .ended then s
  else { s with qspindles := s.qspindles.filter fun q => !(q.grid == b.grid && q.group == b.group) }

/-- Some blocks leave the list of the repaired. -/
def State.leaveRepaired (s : State) (part : Nat) (l : List Nat) : State :=
  s.modPart part fun p => { p with repaired := p.repaired.filter fun r => !l.contains r.2 }

/-- The reservation of a block of a C grid ends: while the block is saved, what its core keeps for it is free (R157). -/
def State.releaseRoom (s : State) (blk : Nat) : State :=
  match s.blocks[blk]? with
  | none => s
  | some b =>
    (match b.place with | .saved .. => s.modCore b.homeCore fun c => c.freeMatrix blk | _ => s).modBlock blk fun b => { b with homeCore := 72 }

/-- A block is closed, its frames return to the pool, and what waits for its end goes on (R56, R154, R306, R361). -/
def State.endBlock (s : State) (blk : Nat) (b : Block) : State :=
  let p := s.partOf blk
  let s := (((s.dropFrame blk).givePool p b.spillAt).forgetLanes blk).modBlock blk Block.close
  ((((s.countEnd b).freeQuad b).sweepCode).want (.deal p))

/-- BLOCK_END (R268): once every thread has exited, what the block holds has been issued (R113) and every counted command has completed, the
block ends. The commands of a saved block complete after its restore (R56), and those of its launch and draw queues stand there again
(R277); the members of a group that are left are restored without it. -/
def execBlockEnd (blk : Nat) (s : State) : Host.Outcome State Fault Refusal :=
  match s.blocks[blk]? with
  | none => .next s
  | some b =>
    if !b.done then .next s
    else if !b.held.isEmpty then .next (s.issueReady.getD s)
    else match b.place with
      | .ended => .next s
      | .saved _ _ =>
        if !b.savedCmds.isEmpty then .next s
        else
          let fellows := (s.restoreGroup blk).filter (· != blk)
          .next (fellows.foldl State.enqueueReady (((s.releaseRoom blk).endBlock blk b).leaveRepaired (s.partOf blk) [blk]))
      | .onCore core =>
        if s.busyBlock core blk then .next s
        else
          let s := (s.finishAtomics blk).drainBlock blk
          .next ((s.modCore core fun c => (c.freeMatrix blk).dropFiled blk).endBlock blk b)

/-! ### The save of a block (R79, R115, R217) -/

/-- A thread's wait as the frame keeps it: a walk is given up, and a wait for the layer unit, a service or the emulation is
taken up again after the restore (R162, R272, R246); an instruction that has read its registers still has (R227). -/
def Thread.settlePark (th : Thread) : Thread :=
  let th := { th with walk := none, again := th.reads }
  match th.park with
  | some (.layer _ _) => { th with park := none }
  | some (.pool _) => { th with park := none }
  | some (.service _) => { th with park := none }
  | some (.retired _) => { th with park := none }
  | _ => th

/-- An entry of an engine queue as it is saved: a chunk that has begun is finished first (R79 step 2, R221), a result that is being written
is written whole; a matrix operation is frozen where it stands, with the tile that it reads from the bypass latch (R220, R326). -/
def State.finishChunk (s : State) (core : Nat) (c : Cmd) : State × Cmd :=
  if c.fin.isSome then (s, c)
  else match c.op, c.work.busy, c.left with
    | .copy oct, _, _ :: _ =>
      match s.chunkStep (blockXl core c.blk) (some c.blk) oct c.pos [] with
      | (.wait s, _) => (s, c)
      | (.fail s st, _) => (s, c.failed st)
      | (.ok s, p) => (s, c.stepped (octW oct 4).toNat p)
    | .mma f .., _, _ => (s, if c.started && mmaByp f && c.work.tile.isEmpty then
        { c with work := { c.work with tile := ((s.core core).latched f).getD [] } } else c)
    | .coll .., true, _ => (s.writeOuts c.work.outs, c.failed c.work.status)
    | .lclr .., true, left => (s.writeOuts c.work.outs, c.cleared (!left.isEmpty))
    | _, _, _ => (s, c)

/-- The entries of a block leave one queue of a core, in order. -/
def State.saveQueue (core blk : Nat) (acc : State × List (Nat × Cmd)) (q : Nat) : State × List (Nat × Cmd) :=
  let mine := (acc.1.queue core q).all.filter fun c => c.blk == blk
  let r := mine.foldl (fun (a : State × List (Nat × Cmd)) c => let x := a.1.finishChunk core c; (x.1, a.2 ++ [(q, x.2)])) acc
  (r.1.modQueue core q fun x => ⟨x.q.filter fun c => c.blk != blk, x.spill.filter fun c => c.blk != blk⟩, r.2)

/-- What a block holds of a core's matrix unit. -/
def Core.matrixOf (c : Core) (blk : Nat) : MatrixSave :=
  ⟨(c.cvs.zipIdx.filter fun x => x.1.holder == some blk).map fun x => (x.2, x.1),
   (c.accs.zipIdx.filter fun x => x.1.holder == some blk).map fun x => (x.2, x.1),
   (c.hist.zipIdx.filter fun x => x.1.holder == some blk).map fun x => (x.2, x.1)⟩

/-- The filed threads of a block with their waiting counts (R142, R217). -/
def Core.filedOf (c : Core) (blk : Nat) : List (Nat × Nat) :=
  (c.bobbins.flatMap (·.threads)).filterMap fun x => if x.1.blk = blk then some (x.1.tid, x.2) else none

/-- The other blocks of a quad or pair fill the room of a block of a C grid alone; every other block gives up its room when
it is saved (R79 step 4, R157). -/
def State.roomAfter (s : State) (blk : Nat) (b : Block) : Nat := if (s.kernel blk).cls = .c then b.homeCore else 72

/-- The save itself: the block's whole context leaves the core. -/
def State.save (s : State) (blk core : Nat) (why : SaveWhy) : State :=
  let s := (s.drainBlock blk).splitBlock blk
  let s := (((s.blocks[blk]?).bind Block.partner).elim s fun p => s.finishAtomics p).finishAtomics blk
  let r := (List.range 9).foldl (State.saveQueue core blk) (s, [])
  let s := r.1
  let c := s.core core
  let s := s.modBlock blk fun b =>
    { b with place := .saved false why, saving := none, homeCore := s.roomAfter blk b, extents := [],
             savedCmds := r.2, matrix := c.matrixOf blk, filedSaved := c.filedOf blk,
             threads := b.threads.map fun t => t.savedResults.settlePark,
             strands := b.strands.map fun k => k.discard }
  let reserved := ((s.blocks[blk]?).map fun b => decide (b.homeCore < 72)).getD false
  (s.modCore core fun c => (if reserved then c.parkMatrix blk else c.freeMatrix blk).dropFiled blk).passJoins core

/-- Has a core no block of a partition left? -/
def State.coreQuiet (s : State) (core part : Nat) : Bool :=
  !(List.range s.blocks.length).any fun k => s.coreOf k == some core && s.partOf k == part

/-- Once every core has halted after a thermal stop, power is removed from the compute dies (R378). -/
def State.settleStop (s : State) : State :=
  if s.svc.stopping && s.cores.all (·.preempt.isNone) && (List.range s.blocks.length).all fun k => (s.coreOf k).isNone then
    { s with power := false, svc := { s.svc with stopping := false } }
  else s

/-- A core whose blocks are saved has answered its pre-emption request; PRECTL.REQ reads 0 once all have (R161, R373). -/
def State.settlePreempt (s : State) (core part : Nat) : State :=
  let s := if s.coreQuiet core part then s.modCore core fun c =>
    { c with preempt := match c.preempt with | some p => if p.part = part then none else some p | none => none } else s
  if s.cores.any fun c => (c.preempt.map fun p => p.part == part).getD false then s
  else (s.modPart part fun p => { p with preReq := false }).settleStop

/-- BLOCK_SAVE (R79): a block that is to be saved leaves its core for its context frame (R217); its cause decides what follows (R80). -/
def execBlockSave (blk : Nat) (s : State) : Host.Outcome State Fault Refusal :=
  match s.blocks[blk]? with
  | none => .next s
  | some b => match b.place, b.saving with
    | .onCore core, some why =>
      let part := s.partOf blk
      let s := ((s.save blk core why).writeFrame blk).settlePreempt core part
      .next (((s.serveSaved part blk why).want (.deal part)).wantTiles)
    | _, _ => .next s

/-! ### The restore of a block (R81, R157, R365) -/

/-- Can the matrix state of a saved block go back to the same numbers on a core: they are free there (log 11)? -/
def Core.matrixRoom (c : Core) (m : MatrixSave) : Bool :=
  (m.cvs.all fun x => ((c.cvs[x.1]?).map fun y => y.holder.isNone).getD false) &&
    (m.accs.all fun x => ((c.accs[x.1]?).map fun y => y.holder.isNone).getD false) &&
    m.hist.all fun x => ((c.hist[x.1]?).map fun y => y.holder.isNone).getD false

/-- No room at all. -/
def Use.full : Use := ⟨8193, 0, 0, 0, true, 0⟩

/-- What is held on every core, for the restore of some blocks, the stream contexts with it (R160): a core without room for their matrix
state counts as full. -/
def State.usesFor (s : State) (l : List Nat) : List Use :=
  s.uses.zipIdx.map fun u => if l.all fun k => match s.blocks[k]? with
      | some b => (s.core u.2).matrixRoom b.matrix
      | none => true
    then { u.1 with ctx := s.contextsUsed u.2 } else Use.full

/-- A block's number and whether it is a trailing copy. -/
def State.numOf (s : State) (k : Nat) : Nat × Bool := ((s.blocks[k]?).map fun b => (b.num, b.trailing)).getD (0, false)

/-- The blocks and cores of a placed unit, matched with the saved blocks by number. -/
def State.matchPlaced (s : State) (l : List Nat) (p : Placed) : List (Nat × Nat) :=
  l.filterMap fun k =>
    let n := s.numOf k
    ((if n.2 then p.trail else p.lead).find? fun x => x.1 == n.1).map fun x => (k, x.2)

/-- The need of block n of a grid for a place: if it is among some saved blocks, with the stream contexts of its copies. -/
def State.numbered (s : State) (l : List Nat) : Need := fun n =>
  let ctx := fun (trailing : Bool) => ((l.filter fun k => s.numOf k == (n, trailing)).map fun k =>
    ((s.blocks[k]?).map Block.contexts).getD 0).sum
  if l.any fun k => (s.numOf k).1 == n then some (ctx false, ctx true) else none

/-- Where the blocks that are restored with a saved block go: a block of a C grid to its reserved room; else the deal rule, a group to one
quad, a copy to another quad than its partner's; a C grid without its reservation all at once (R81, R157, R365). -/
def State.restoreTo (s : State) (blk : Nat) (g : Grid) : Option (List (Nat × Nat)) :=
  let home := fun (k : Nat) => ((s.blocks[k]?).map (·.homeCore)).getD 72
  let cores := (s.part g.part).cores
  let l := s.restoreGroup blk
  if !l.all fun k => ((s.blocks[k]?).map Block.ready).getD false then none
  else if home blk < 72 then some (l.map fun k => (k, home k))
  else if g.kernel.cls = .c then
    (placeAll cores g.kernel g.quad g.count g.doubled (s.numbered l) g.count (s.usesFor l) s.quadSpins 0).map fun ps =>
      ps.flatMap (s.matchPlaced l)
  else
    let n := (s.numOf blk).1
    (placeUnit cores (s.usesFor l) s.quadSpins g.kernel g.quad g.count (if g.quad = 0 then n else n / g.quad * g.quad) g.doubled
      (s.numbered l)).map (s.matchPlaced l)

/-- A filed thread goes back into a bobbin with its count, or, where none has its key and none is free, into a strand of its own in a slot
that is picked as for a new strand (R142, log 88). -/
def State.refile (core blk : Nat) (s : State) (x : Nat × Nat) : State :=
  match s.thread? ⟨blk, x.1⟩ with
  | none => s
  | some th =>
    let key := (((s.blocks[blk]?).map (·.grid)).getD 0, (s.kernel blk).code, th.role, th.pc)
    match pickBobbin (s.core core).bobbins key with
    | some i => s.modCore core fun c => { c with bobbins := c.bobbins.modify i fun b => ⟨some key, b.threads ++ [(⟨blk, x.1⟩, x.2)]⟩ }
    | none =>
      let so := pickSlot (s.positions core) (s.kernel blk).width
      let n := ((s.blocks[blk]?).map (·.strands.length)).getD 0
      let hs := ((s.strand? blk th.strand).map (·.holds)).getD []
      (s.modBlock blk fun b => { b with strands := b.strands ++ [(Strand.start th.role so.1 so.2).holding hs] }).modThread ⟨blk, x.1⟩
        fun th => { th with filed := false, strand := n }

/-- The live strands of a block with their thread counts, for placement (R132). -/
def Block.strandSizes (b : Block) : List (Nat × Role × Nat × Nat) :=
  b.strands.zipIdx.filterMap fun x => if x.1.live then
    some (x.2, x.1.role, (b.threads.countP fun th => th.live && !th.filed && th.strand == x.2), 0) else none

/-- The spill stacks of a block move to pinned near memory of the die of its new core (R54). -/
def State.moveSpill (s : State) (blk core : Nat) (g : Grid) (b : Block) : State :=
  let r := (s.givePool g.part b.spillAt).reserveSpill g.part core g.kernel
  r.1.modBlock blk fun b => { b with spillAt := r.2 }

/-- A block goes back onto a core, with its extents rebuilt: its strands are placed afresh, its commands enter the queues of the
new core, its matrix state the same numbers, its filed threads the bobbins (R81, R132, R221, R333). -/
def State.putBack (s : State) (x : (Nat × Nat) × List Extent) : State :=
  let blk := x.1.1
  let core := x.1.2
  match s.blocks[blk]?, s.grid? blk with
  | some b, some g =>
    let sizes := b.strandSizes
    let at_ := placeStrands g.kernel.width (s.positions core) (sizes.map fun y => y.2)
    let place := fun (st : Strand × Nat) => match (sizes.zip at_).find? fun y => y.1.1 == st.2 with
      | some y => { st.1 with slot := y.2.1, off := y.2.2 }
      | none => st.1
    let s := ((s.dropFrame blk).moveSpill blk core g b).modBlock blk fun b =>
      { b with place := .onCore core, homeCore := core, saving := none, extents := x.2, savedCmds := [],
               matrix := MatrixSave.none, filedSaved := [], strands := b.strands.zipIdx.map place }
    let now := (s.core core).cycles
    let s := b.savedCmds.foldl (fun s c => s.modQueue core c.1 fun q => q.push { c.2 with since := now }) s
    let s := s.modCore core fun c =>
      { c with cvs := b.matrix.cvs.foldl (fun l y => l.set y.1 y.2) c.cvs,
               accs := b.matrix.accs.foldl (fun l y => l.set y.1 y.2) c.accs,
               hist := b.matrix.hist.foldl (fun l y => l.set y.1 y.2) c.hist }
    (b.filedSaved.foldl (State.refile core blk) s).passJoins core
  | _, _ => s

/-- Has a saved block's turn to be restored come: it is a block of a C grid in its reserved room, or it stands first among the repaired
with those that are restored with it (R81, R157)? -/
def State.restoreTurn (s : State) (blk : Nat) (b : Block) (g : Grid) : Bool :=
  b.homeCore < 72 || match (s.part g.part).repairedNow with
    | k :: _ => (s.restoreGroup blk).contains k
    | [] => false

/-- BLOCK_RESTORE (R81): a ready block, with its group, goes back onto a core when its turn has come and there is room; a
block of a C grid in its reserved room waits for no other (R145). A block whose frame is lost ends instead (R218). -/
def execBlockRestore (blk : Nat) (s : State) : Host.Outcome State Fault Refusal :=
  match s.blocks[blk]?, s.grid? blk with
  | some b, some g =>
    if (s.part g.part).exited || !b.ready || !s.restoreTurn blk b g then .next s
    else match s.restoreTo blk g with
      | none => .next s
      | some l =>
        let s := l.foldl (fun s x => s.correctFrame x.1) s
        match l.filter fun x => s.frameLost x.1 with
        | x :: r => .next ((x :: r).foldl (fun s y => s.loseFrame y.1 (((s.blocks[y.1]?).map (·.ctx)).getD [])) s)
        | [] => match State.buildTables g.part g.ranges (l.map (·.2)) s with
          | .error s => .next s
          | .ok (s, ext) =>
            .next ((((l.zip ext).foldl State.putBack s).leaveRepaired g.part (l.map (·.1))).want (.deal g.part))
  | _, _ => .next s

/-- QUEUE_QUOTA_RESTORE (R156): a block saved for QueueQuota becomes ready when the spill ring has room. -/
def execQueueQuotaRestore (blk : Nat) (s : State) : Host.Outcome State Fault Refusal :=
  match (s.blocks[blk]?).map Block.place with
  | some (.saved false why) => if why.cause = 0x40 && s.spillFits (s.partOf blk) 1 then .next (s.makeReady blk) else .next s
  | _ => .next s

/-! ### Pre-emption (R161) -/

/-- Does a core run a draw: a block of a vertex or fragment grid stands on it? -/
def State.runsDraw (s : State) (core part : Nat) : Bool :=
  (List.range s.blocks.length).any fun k => s.coreOf k == some core && s.partOf k == part &&
    ((s.grid? k).map fun g => g.draw.isSome).getD false

/-- The blocks of C grids whose reservation a pre-emption of a core releases: every block of every C grid that has one on
the core (R157). -/
def State.cGridBlocks (s : State) (core part : Nat) : List Nat :=
  let gs := ((List.range s.blocks.length).filterMap fun k =>
    if s.coreOf k == some core && s.partOf k == part && (s.kernel k).cls == .c then (s.blocks[k]?).map (·.grid) else none).dedup
  (List.range s.blocks.length).filter fun k => ((s.blocks[k]?).map fun b => gs.contains b.grid && b.place != .ended).getD false

/-- Steps 2 to 4 of R161 on one core: its blocks of the partition are saved, and all blocks of a C grid of which one is. -/
def State.haltCore (s : State) (core part : Nat) : State :=
  let cs := s.cGridBlocks core part
  let mine := (List.range s.blocks.length).filter fun k => s.coreOf k == some core && s.partOf k == part
  let s := cs.foldl State.releaseRoom s
  ((mine ++ cs).dedup.foldl (fun s k => s.requestSave k SaveWhy.pause) s).settlePreempt core part

/-- A core takes a pre-emption request; one that is pending for the same partition keeps the end of its grace (R161). -/
def Core.takePreempt (c : Core) (part grace : Nat) : Core :=
  { c with preempt := match c.preempt with
      | some q => if q.part = part then some q else some ⟨part, c.cycles + grace⟩
      | none => some ⟨part, c.cycles + grace⟩ }

/-- Some cores take a pre-emption request for a partition; one that runs a draw waits for it, at most GRACE cycles (R161). -/
def State.preempt (s : State) (part : Nat) (cores : List Nat) : State :=
  let grace := min 2048 (s.part part).grace.toNat
  let s := cores.foldl (fun s c => s.modCore c fun k => k.takePreempt part grace) s
  cores.foldl (fun s c => if s.runsDraw c part && 0 < grace then s else s.haltCore c part) s

/-- PREEMPT_REQUEST (R161): every core named takes the request. -/
def execPreemptRequest (part : Nat) (cores : List Nat) (s : State) : Host.Outcome State Fault Refusal := .next (s.preempt part cores)

/-- DRAW_GRACE_EXPIRY (R161): the running draw has ended, or the grace is over. -/
def execDrawGraceExpiry (core : Nat) (s : State) : Host.Outcome State Fault Refusal :=
  match (s.core core).preempt with
  | some p => if !s.runsDraw core p.part || p.graceEnd ≤ (s.core core).cycles then .next (s.haltCore core p.part) else .next s
  | none => .next s

/-! ### Seals (R367 to R369, R113, R278) -/

/-- A thread that a matching seal lets go on (R368); an instruction that the seal has held up is performed with the registers as they were
before the results that are due meanwhile (R227). -/
def Thread.unseal (th : Thread) : Thread :=
  match th.park with
  | some (.seal true) => { th.unpark with sealed := true, again := true, sig := 0, recs := 0 }
  | some (.seal false) => { th.unpark with sig := 0, recs := 0 }
  | some (.sealRest _) => { th.unpark with sig := 0, recs := 0 }
  | _ => th

/-- The rest of the STT inside which a thread has met its seal (R368). -/
def State.finishFrame (s : State) (t : TRef) (rest : List (Addr × Loc × List Byte)) : State :=
  match rest, s.thread? t with
  | _ :: _, some th => match s.storeElems t th rest with
    | .next s => s.modThread t Thread.advance
    | .go s => s
    | _ => s
  | _, _ => s

/-- The elements that a thread at a seal inside a STT has still to write. -/
def State.restOf (s : State) (t : TRef) : List (Addr × Loc × List Byte) :=
  match (s.thread? t).bind (·.park) with
  | some (.sealRest r) => r
  | _ => []

/-- One quarantined write at a seal of a thread of its copy: a write of that thread is performed at its home, in the leading copy, or
discarded, and what earlier writes of the copy's other threads would still write there is overtaken (R103, R113, log 86). -/
def State.releaseStep (perform : Bool) (tid : Nat) (acc : State × List QWrite) (w : QWrite) : State × List QWrite :=
  if w.t.tid != tid then (acc.1, acc.2 ++ [w])
  else (if perform then acc.1.homeWrite w.loc w.bytes w.fill else acc.1, match w.loc with
    | .win .. => acc.2
    | .phys pa => acc.2.flatMap (QWrite.without pa w.bytes.length))

/-- The quarantined writes of a thread leave its copy's quarantine, in the copy's order (R113, R368). -/
def State.unquarantine (perform : Bool) (s : State) (t : TRef) : State :=
  let r := (((s.blocks[t.blk]?).map (·.quarantine)).getD []).foldl (State.releaseStep perform t.tid) (s, [])
  r.1.modBlock t.blk fun b => { b with quarantine := r.2 }

/-- Does a write touch the word at an address? -/
def QWrite.touches (a : Nat) (w : QWrite) : Bool := match w.loc with
  | .win .. => false
  | .phys p => p < a + 4 && a < p + w.bytes.length

/-- The words under some writes leave the instruction caches of the quads on which some blocks stand: what a FENCE of ifetch has let the copy
fetch from its quarantine is not older in memory (R109, R113). -/
def State.dropWords (s : State) (blks : List Nat) (ws : List QWrite) : State :=
  let quads := (blks.filterMap s.coreOf).map (· / 4)
  { s with cores := s.cores.zipIdx.map fun x =>
      if quads.contains (x.2 / 4) then { x.1 with icache := x.1.icache.filter fun y => !ws.any (QWrite.touches y.1) } else x.1 }

/-- A thread's lanes of both copies have reached their seal: no held operation waits for them; of those of a trailing copy nothing is left
then (R113). -/
def State.lanesSealed (s : State) (t l : TRef) : State :=
  { s with blocks := s.blocks.map fun b =>
      let hs := b.held.map fun h => { h with left := (h.left.erase t).erase l }
      { b with held := if b.trailing then hs.filter fun h => !h.left.isEmpty else hs } }

/-- A matching seal: the leading copy's quarantined writes of the thread are performed in order, what is held and has met the seals of all its
lanes is issued, the trailing copy's discarded (R113, R368). -/
def State.sealMatch (s : State) (t : TRef) (partner : Nat) : State :=
  let l : TRef := ⟨partner, t.tid⟩
  let ws := (((s.blocks[t.blk]?).map (·.quarantine)).getD []).filter fun w => w.t.tid == t.tid
  match ((((s.unquarantine true t).unquarantine false l).dropWords [t.blk, partner] ws).lanesSealed t l).issueReady with
  | none => s
  | some s' => (((s'.modThread t Thread.unseal).modThread l Thread.unseal).finishFrame t (s.restOf t)).finishFrame l (s.restOf l)

/-- The entries of a block leave every queue of a core, abandoned (log 36). -/
def State.dropCommands (s : State) (core blk : Nat) : State :=
  (s.modCore core fun c =>
    { ((c.freeMatrix blk).dropFiled blk) with queues := c.queues.map fun q =>
        ⟨q.q.filter fun e => e.blk != blk, q.spill.filter fun e => e.blk != blk⟩ }).passJoins core

/-- One copy begins again from its first instruction with cleared memory, and waits for a core that is chosen again (R369). Its threads
leave the strands that they share with other blocks; its claims of barriers stand. -/
def State.restartCopy (s : State) (blk : Nat) : State :=
  let s := (s.splitBlock blk).forgetLanes blk
  match s.blocks[blk]?, s.grid? blk, s.coreOf blk with
  | some b, some g, some core =>
    let s := s.dropCommands core blk
    let fresh := s.freshBlock g b.grid b.num core b.group b.copy
    (s.modBlock blk fun _ => { fresh with place := .saved false SaveWhy.pause, homeCore := 72, reissued := true, claim := b.claim,
                                          spillAt := b.spillAt, threads := fresh.threads.map fun th => th.sureOf s.mem }).makeReady blk
  | _, _, _ => s

/-- A mismatch (R368, R369): the first reissues the block, a second ends it with DoublingMismatch. -/
def State.sealMismatch (s : State) (blk partner : Nat) : State :=
  if ((s.blocks[blk]?).map (·.reissued)).getD false then
    let drop := fun (b : Block) => { b with quarantine := [] }
    ((s.modBlock blk drop).modBlock partner drop).stopBlock blk 0x0049
  else
    let s := (s.restartCopy blk).restartCopy partner
    let s := s.issueReady.getD s
    ((s.members blk).filter fun k => k != blk && k != partner).foldl (fun s k =>
      (s.releaseRoom k).requestSave k SaveWhy.pause) s

/-- The leading and the trailing block of a pair. -/
def State.pairOf (s : State) (blk : Nat) : Option (Nat × Nat) :=
  (s.blocks[blk]?).bind fun b => match b.copy with
    | .single => none
    | .leading p => some (blk, p)
    | .trailing p => some (p, blk)

/-- The seal at which a thread waits. -/
def Thread.atSeal (th : Thread) : Option (Bool × Addr × Nat) := match th.park with
  | some (.seal b) => some (b, th.pc, 0)
  | some (.sealRest r) => some (false, th.pc, r.length)
  | _ => none

/-- SEAL (R368): once the same thread of both copies has reached a seal, the signatures are compared. -/
def execSeal (blk tid : Nat) (s : State) : Host.Outcome State Fault Refusal :=
  match s.pairOf blk with
  | none => .next (s.modThread ⟨blk, tid⟩ Thread.unseal)
  | some (lead, trail) =>
    let drain := fun (s : State) (b : Nat) => match s.thread? ⟨b, tid⟩ with
      | some th => s.drainStrand b th.strand
      | none => s
    match s.thread? ⟨lead, tid⟩, s.thread? ⟨trail, tid⟩, s.coreOf lead with
    | some x, some y, some core =>
      match x.atSeal, y.atSeal with
      | some a, some b =>
        let s := drain (drain { s with issue := ⟨core, 0, [⟨lead, tid⟩], x.pc, x.word⟩ } lead) trail
        if a = b && x.sig = y.sig then .next (s.sealMatch ⟨lead, tid⟩ trail) else .next (s.sealMismatch lead trail)
      | _, _ => .next s
    | _, _, _ => .next s

end Sys2Proof.Machine
end

