-- ==== Sys2Proof/Machine/Graph.lean ====
section
/-! DEFINITION. Graph objects, their upload, kicks and replays (R148 to R153, R394). -/

namespace Sys2Proof.Machine

/-! ### Upload (R148, R149, R151) -/

/-- The node count of a graph object, and the address of its completion record (R148). -/
def graphNodes (l : List Byte) : Nat := fieldAt l 6 2
def graphDone (l : List Byte) : Nat := fieldAt l 8 8

/-- The header (R148). -/
def graphHeaderBad (l : List Byte) : Bool :=
  l.length < 32 || fieldAt l 0 4 != 0x52475A56 || fieldAt l 4 2 != 1 || graphNodes l == 0 || graphDone l % 8 != 0 ||
    !zeroAt l 16 16 || l.length != 32 + 64 * graphNodes l

/-- The predecessors of a node (R149). -/
def nodePreds (l : List Byte) (i : Nat) : List Nat :=
  let r := nodeRecord l i
  (List.range (fieldAt r 1 1)).map fun k => fieldAt r (2 + 2 * k) 2

/-- The range list of a launch node: its address and entry count (R149). -/
def nodeRanges (l : List Byte) (i : Nat) : Nat × Nat := (fieldAt (nodeRecord l i) 48 8, fieldAt (nodeRecord l i) 56 2)

/-- The fields of a node record that do not depend on the partition (R149, R151). Reserved bits inside a node's octet are checked when the
node is ready (log 75), and a coalescing point's octet is not checked at all (log 74): the spec does not say so. -/
def nodeBad (l : List Byte) (i : Nat) : Bool :=
  let r := nodeRecord l i
  let kind := nodeKind l i
  5 < kind || 4 < fieldAt r 1 1 || ((nodePreds l i).any fun p => i ≤ p) || !zeroAt r 10 6 ||
    match kind with
    | 0 => !zeroAt r 58 6 || 64 < (nodeRanges l i).2
    | 4 => !zeroAt r 16 48
    | 5 => !zeroAt r 56 8
    | _ => !zeroAt r 48 16

/-- The address of the kernel export that a launch node names. -/
def nodeKernelAt (l : List Byte) (i : Nat) : Nat := (pairVal (octW (nodeOct l i) 0) (octW (nodeOct l i) 1)).toNat

/-- The status of one node at upload: FormatInvalid, NodeTooLarge or OK (R151). -/
def State.nodeStatus (s : State) (p : Nat) (l : List Byte) (i : Nat) : Nat :=
  if nodeBad l i then 0x0007
  else if nodeKind l i = 0 then match s.kernelAt p (nodeKernelAt l i) with
    | none => 0x0007
    | some k => if k.tooLarge then 0x0010 else 0
  else 0

/-- Validation in host-assisted mode raises an event for the hypervisor (R163, R395). -/
def State.noticeUpload (s : State) (p : Nat) (l : List Byte) : State := if s.hostDuty p 2 then s.notify p 2 [graphNodes l] none else s

/-- GRAPH_UPLOAD (R151): the outcome is the same in both modes of the validation duty. -/
def execGraphUpload (p : Nat) (l : List Byte) (s : State) : Host.Outcome State Fault Refusal :=
  if !s.svc.enabled then .next s else
  let s := s.noticeUpload p l
  let refuse := fun (st i : Nat) => Host.Outcome.next (s.report (some p) (resultRecord st i 0))
  if graphHeaderBad l then refuse 0x0007 0xFFFF
  else match ((List.range (graphNodes l)).map fun i => (s.nodeStatus p l i, i)).find? fun x => x.1 != 0 with
    | some (st, i) => refuse st i
    | none => match freeHandle ((s.part p).graphs.map (·.handle)) with
      | none => refuse 0x0014 0xFFFF
      | some h => .next ((s.modPart p fun q => { q with graphs := q.graphs ++ [⟨h, l⟩] }).report (some p) (resultRecord 0 0xFFFF h))

/-! ### Reads of the replay engine (R150, R152, R394) -/

/-- Is a home in local near memory? -/
def State.isNear (s : State) (l : Loc) : Bool :=
  match l with
  | .win _ _ => false
  | .phys pa => pa / 2 ^ 46 == s.pkg.toNat && (nearSlice (pa % 2 ^ 46)).isSome

/-- Read 16 bytes of a list or table that must lie in near memory; it waits for a migrating page (R150). -/
def State.readEntry16 (s : State) (p ea : Nat) : Except CopyR (State × List Byte) :=
  match replayXl p s .load (Addr.ofNat ea) with
  | .fault s _ _ _ => .error (.fail s 0x0003)
  | .wait s => .error (.wait s)
  | .exit s => .error (.wait s)
  | .ok s l => if s.isNear l then s.readPiece (replayXl p) ea 16 else .error (.fail s 0x0003)

/-- Read n entries of 16 bytes. -/
def State.readEntries (p : Nat) : Nat → Nat → State → Except CopyR (State × List (List Byte))
  | 0, _, s => .ok (s, [])
  | n + 1, ea, s => match s.readEntry16 p ea with
    | .error e => .error e
    | .ok (s, b) => match State.readEntries p n (ea + 16) s with
      | .error e => .error e
      | .ok (s, l) => .ok (s, b :: l)

/-! ### Kicks (R152, R153) -/

/-- One patch entry: the node, the offset, the size, whether it is the last, the value. -/
structure Patch where
  node : Nat
  off : Nat
  size : Nat
  last : Bool
  value : Nat
  deriving DecidableEq, Repr

/-- A patch entry of a table, unless a field of it is bad (R153). -/
def patchOf (nodes : Nat) (b : List Byte) : Option Patch :=
  let f := fieldAt b
  let size := f 4 1
  if nodes ≤ f 0 2 || !(size == 4 || size == 8) || f 2 2 % size != 0 || f 2 2 < 16 || 63 < f 2 2 || 2 ≤ f 5 1 || f 6 2 != 0 then none
  else some ⟨f 0 2, f 2 2, size, f 5 1 == 1, f 8 size⟩

/-- Read a patch table: at most 256 entries, to the one with LAST (R153). -/
def State.readPatches (p nodes : Nat) : Nat → Nat → State → Except CopyR (State × List Patch)
  | 0, _, s => .error (.fail s 0x0007)
  | n + 1, ea, s => match s.readEntry16 p ea with
    | .error (.fail s _) => .error (.fail s 0x0003)
    | .error e => .error e
    | .ok (s, b) => match patchOf nodes b with
      | none => .error (.fail s 0x0007)
      | some x => if x.last then .ok (s, [x]) else match State.readPatches p nodes n (ea + 16) s with
        | .error e => .error e
        | .ok (s, l) => .ok (s, x :: l)

/-- A graph image with a patch applied. -/
def applyPatch (l : List Byte) (x : Patch) : List Byte := overlay l 0 (leBytes x.size x.value) (32 + 64 * x.node + x.off)

/-- The replays of a graph that are not complete. -/
def Part.openReplays (p : Part) (handle : Nat) : Nat := p.replays.countP fun r => r.handle == handle && !r.recorded

/-- The KSTAT of a refused or accepted kick (R152). -/
def State.setKstat (s : State) (p status : Nat) : State := s.modPart p fun q => { q with kStatus := BitVec.ofNat 16 status }

/-- The cores that hold a block of a priority below a kick's (R161). -/
def State.coresBelow (s : State) (p prio : Nat) : List Nat :=
  (s.part p).cores.filter fun c => (List.range s.blocks.length).any fun k => s.coreOf k == some c && s.partOf k == p &&
    ((s.grid? k).map fun g => decide (g.prio < prio)).getD false

/-- An accepted kick starts a replay; with PRE it pre-empts the cores of blocks of lower priority (R152, R161). -/
def State.acceptKick (s : State) (p : Nat) (value : Addr) (g : Graph) (patches : List Patch) : State :=
  let prio := (value.extractLsb' 0 3).toNat
  let image := patches.foldl applyPatch g.image
  let s := s.modPart p fun q =>
    let n := q.kSeq + 1
    { q with kSeq := n, kStatus := 0, replays := q.replays ++
        [⟨n.toNat, g.handle, prio, image, List.replicate (graphNodes image) .waiting, false⟩] }
  if value.getLsbD 3 then
    match execPreemptRequest p (s.coresBelow p prio) s with
    | .next s => s
    | _ => s
  else s

/-- Take one kick: none where its patch table waits for a migrating page (R150, R152). -/
def State.takeKick (s : State) (p : Nat) (value : Addr) : Option State :=
  let handle := (value.extractLsb' 48 16).toNat
  let table := (value.extractLsb' 4 44).toNat * 16
  match (s.part p).graphs.find? fun g => g.handle == handle with
  | none => some (s.setKstat p 0x0007)
  | some g =>
    if 9 ≤ (s.part p).openReplays handle then some (s.setKstat p 0x0013)
    else if table = 0 then some (s.acceptKick p value g [])
    else match State.readPatches p (graphNodes g.image) 256 table s with
      | .error (.fail s st) => some (s.setKstat p st)
      | .error _ => none
      | .ok (s, l) => some (s.acceptKick p value g l)

/-- Take the kicks of a partition in order, until one waits. -/
def State.takeKicks (p : Nat) : Nat → State → State
  | 0, s => s
  | n + 1, s => match (s.part p).kicks with
    | [] => s
    | v :: r => match s.takeKick p v with
      | none => s
      | some s => State.takeKicks p n (s.modPart p fun q => { q with kicks := r })

/-- KICK (R152): KSTAT.HANDLE is the handle of the last kick written; kicks are taken in order. -/
def execKick (p : Nat) (value : Addr) (s : State) : Host.Outcome State Fault Refusal :=
  if !s.svc.enabled then .next s
  else
    let s := s.modPart p fun q => { q with kicks := q.kicks ++ [value], kHandle := value.extractLsb' 48 16 }
    .next (State.takeKicks p (s.part p).kicks.length s)

/-! ### Replays (R149, R153, R394) -/

/-- Is a replay the running one of its graph: every earlier replay of it is complete (R153)? -/
def Part.running (p : Part) (r : Nat) : Bool :=
  match p.replays[r]? with
  | none => false
  | some x => !x.recorded && (p.replays.take r).all fun y => y.handle != x.handle || y.recorded

/-- Is a node complete? -/
def NodeState.isComplete : NodeState → Bool
  | .complete _ => true
  | _ => false

/-- May a node become ready (R149)? -/
def Part.nodeReady (p : Part) (r i : Nat) : Bool :=
  p.running r && match p.replays[r]? with
    | none => false
    | some x => x.nodes[i]? == some .waiting &&
        (nodePreds x.image i).all fun k => ((x.nodes[k]?).map NodeState.isComplete).getD false

/-- The ranges of a list, or the status with which the node completes (R150); a count above 64, which only a patch can make, completes it
with FormatInvalid (log 76). -/
def State.rangeList (s : State) (p at_ n : Nat) : Except CopyR (State × List OpRange) :=
  if n = 0 then .ok (s, [])
  else if 64 < n then .error (.fail s 0x0007)
  else if at_ % 16 ≠ 0 then .error (.fail s 0x0003)
  else match State.readEntries p n at_ s with
    | .error e => .error e
    | .ok (s, l) =>
      let one := fun (b : List Byte) => (fieldAt b 0 8, fieldAt b 8 6, fieldAt b 14 1 % 2 == 1, fieldAt b 14 1 / 2 % 2 == 1)
      if l.any fun b => fieldAt b 8 6 == 0 || 4 ≤ fieldAt b 14 1 || fieldAt b 15 1 != 0 || 2 ^ 48 < fieldAt b 0 8 + fieldAt b 8 6 then
        .error (.fail s 0x0007)
      else .ok (s, l.map one)

/-- The coalescing points of a replay that name a launch node: their thresholds for its grid (R149, R142). The offset is
counted from the kernel's entry (log 41). A threshold outside 1..W is taken as the nearest in it: the spec does not say (log 73). -/
def coalescing (image : List Byte) (i gi : Nat) (k : Kernel) (done : Nat → Bool) : List (Nat × Addr × Nat) :=
  (List.range (graphNodes image)).filterMap fun j =>
    let r := nodeRecord image j
    if nodeKind image j = 5 && fieldAt r 48 2 = i && done j then
      some (gi, k.entry + Addr.ofNat (fieldAt r 52 4), min k.width (max 1 (fieldAt r 50 2)))
    else none

/-- Attach thresholds. -/
def State.attach (s : State) (p : Nat) (l : List (Nat × Addr × Nat)) : State :=
  s.modPart p fun q => { q with thresholds := l ++ q.thresholds }

/-- The octet of a launch node, without the bits that a node does not use (R149). -/
def launchOct (image : List Byte) (i : Nat) : List Word :=
  let o := nodeOct image i
  (o.set 6 (octW o 6 &&& 0xFFFFFFE0#32)).set 3 (octW o 3 &&& 0xFFFFF8FF#32)

/-- The end of a node. -/
def State.nodeDone (s : State) (p r i st : Nat) : State := s.setNode p r i (.complete st)

/-- A launch node that has become ready (R150, R151, R153, R157). Reserved bits of its octet, and bytes 58–63 that a patch has made non-zero,
complete it with FormatInvalid (log 75, log 76). Its checks come in the order: the kernel and its octet, 0x0010, 0x0011, the reading of the
whole list, the format of its entries (log 90). -/
def State.startLaunchNode (s : State) (p r i : Nat) (x : Replay) : State :=
  let oct := launchOct x.image i
  match s.kernelAt p (nodeKernelAt x.image i) with
  | none => s.nodeDone p r i 0x0007
  | some k =>
    if launchBad oct || !zeroAt (nodeRecord x.image i) 58 6 then s.nodeDone p r i 0x0007
    else if k.tooLarge then s.nodeDone p r i 0x0010
    else if s.notCoResident p k ((octW oct 3).field 0 4) (octW oct 2).toNat ((octW oct 3).bit 5) then s.nodeDone p r i 0x0011
    else match s.rangeList p (nodeRanges x.image i).1 (nodeRanges x.image i).2 with
      | .error (.fail s st) => s.nodeDone p r i st
      | .error _ => s
      | .ok (s, rs) =>
        let gi := s.grids.length
        let done := fun (j : Nat) => ((x.nodes[j]?).map NodeState.isComplete).getD false
        match (s.attach p (coalescing x.image i gi k done)).enterGrid (gridOf p k oct x.prio (.node p r i) rs) with
        | some s => s.setNode p r i (NodeState.start 0 0)
        | none => s.exitPart p 2

/-- A draw node that has become ready (R345, R394). -/
def State.startDrawNode (s : State) (p r i : Nat) (x : Replay) : State :=
  let oct := nodeOct x.image i
  if drawRecordAt oct % 64 ≠ 0 then s.nodeDone p r i 0x0007
  else match State.readSpan (replayXl p) 2 s (drawRecordAt oct) 64 with
    | .error (.fail s st) => s.nodeDone p r i st
    | .error _ => s
    | .ok (s, b) => match s.drawCheck p oct (drawRecord b) with
      | (0, some (v, f)) => match s.startDraw p 0 x.prio v f oct (drawRecord b) (.node p r i) with
        | some s => s.setNode p r i (NodeState.start 0 0)
        | none => s.exitPart p 2
      | (st, _) => s.nodeDone p r i st

/-- A collective node that has become ready: the count of the earlier ones of its group at the replay engine (R316). -/
def State.startCollNode (s : State) (p r i : Nat) (x : Replay) : State :=
  let oct := nodeOct x.image i
  let group := (octW oct 5).field 16 8
  let n := (((s.part p).collCounts.find? fun y => y.1 == group).map (·.2)).getD 0
  if collBad oct then s.nodeDone p r i 0x0007
  else (s.modPart p fun q => { q with collCounts := (group, n + 1) :: q.collCounts.filter fun y => y.1 != group }).setNode p r i (NodeState.start n (s.replayClock p))

/-- A coalescing point that has become ready: its threshold holds for the grid of its launch node, where that stands. An index that names no
launch node makes it do nothing (log 74). -/
def State.startCoalescing (s : State) (p r i : Nat) (x : Replay) : State :=
  let l := fieldAt (nodeRecord x.image i) 48 2
  let s := match s.grids.findIdx? fun g => g.done == .node p r l with
    | some gi => s.attach p (match s.grids[gi]? with | some g => coalescing x.image l gi g.kernel (· == i) | none => [])
    | none => s
  s.nodeDone p r i 0

/-- REPLAY_NODE_READY (R149, R394). -/
def execReplayNodeReady (p r i : Nat) (s : State) : Host.Outcome State Fault Refusal :=
  match (s.part p).replays[r]? with
  | none => .next s
  | some x =>
    if !(s.part p).nodeReady r i then .next s
    else match nodeKind x.image i with
      | 0 => .next (s.startLaunchNode p r i x)
      | 1 => match (CmdOp.copy (nodeOct x.image i)).check with
        | some st => .next (s.nodeDone p r i st)
        | none => .next (s.setNode p r i (NodeState.start 0 0))
      | 2 => .next (s.startCollNode p r i x)
      | 3 => .next (s.startDrawNode p r i x)
      | 4 => .next (s.nodeDone p r i 0)
      | _ => .next (s.startCoalescing p r i x)

/-- The granules of a copy node's next step: one of the chunk in hand by a free choice, or all that are left (R111, log 6). -/
def State.pickGranules (s : State) (oct : List Word) (x : ChunkAt) : State × List Nat :=
  let all := if x.left.isEmpty then spanGranules (octDst oct + x.done) (chunkLen oct x.done) else x.left
  let n := (Config.freeWord s.free).toNat % (all.length + 1)
  ({ s with free := s.free + 1 }, (all[n]?).toList)

/-- A step of a copy node (R394, R46): the next chunk, or some of its granules. -/
def State.stepCopyNode (s : State) (p r i : Nat) (x : ChunkAt) (oct : List Word) : State :=
  let (s, sel) := s.pickGranules oct x
  match s.chunkStep (replayXl p) none oct x sel with
  | (.wait s, _) => s
  | (.fail s st, _) => s.nodeDone p r i st
  | (.ok s, y) => if (octW oct 4).toNat ≤ y.done then s.nodeDone p r i 0 else s.setNode p r i (.running y.done y.left y.work 0)

/-- REPLAY_NODE_COMPLETE (R149): a running node goes on, and completes with the status that its token would carry: a grid
once its last block has ended, a draw once it is finished, a copy after its last chunk, a collective once matched. Copies and
collectives stand still while the partition is exited (R85). -/
def execReplayNodeComplete (p r i : Nat) (s : State) : Host.Outcome State Fault Refusal :=
  match (s.part p).replays[r]?, ((s.part p).replays[r]?).bind fun x => x.nodes[i]? with
  | some x, some (.running n left work _) =>
    match nodeKind x.image i with
    | 0 => match s.grids.find? fun g => g.done == .node p r i with
      | some g => .next (if g.isDone then s.nodeDone p r i g.status else s)
      | none => .next s
    | 1 => if (s.part p).exited then .next s else .next (s.stepCopyNode p r i ⟨n, left, work⟩ (nodeOct x.image i))
    | 2 => if (s.part p).exited then .next s
      else if work.busy then
        let y := s.writeOne work.outs
        .next (if y.2.isEmpty then y.1.nodeDone p r i work.status else y.1.setNode p r i (.running n [] { work with outs := y.2 } 0))
      else match s.parties.find? fun y => y.part == p && y.node == some (r, i) with
      | some y => .next (s.collTry y [])
      | none => .next s
    | 3 => match s.draws.find? fun d => d.done == .node p r i with
      | some d => .next (if d.finished then s.nodeDone p r i d.status else s)
      | none => .next s
    | _ => .next s
  | _, _ => .next s

/-- The completion record (R153): SEQ, the tag of the last node, the status of the lowest-indexed node that failed. -/
def recordOfReplay (x : Replay) : Nat :=
  let last := graphNodes x.image - 1
  let tag := if 4 ≤ nodeKind x.image last then 0 else (octW (nodeOct x.image last) 6).field 16 16
  let st := ((x.nodes.map fun n => match n with | .complete v => v | _ => 0).find? (· != 0)).getD 0
  x.seq * 2 ^ 32 + tag * 65536 + st

/-- A replay counts as complete, and the next of its graph may start. -/
def State.recordDone (s : State) (p r : Nat) : State :=
  s.modPart p fun q => { q with replays := q.replays.modify r fun x => { x with recorded := true } }

/-- COMPLETION_RECORD (R153): the record is written to DONE; where it cannot be, the hypervisor is notified (R395). -/
def execCompletionRecord (p r : Nat) (s : State) : Host.Outcome State Fault Refusal :=
  match (s.part p).replays[r]? with
  | none => .next s
  | some x =>
    if (s.part p).exited || !(s.part p).running r || !x.nodes.all NodeState.isComplete then .next s
    else match s.writeGranule (replayXl p) none [] (graphDone x.image) (leBytes 8 (recordOfReplay x)) with
      | .wait s => .next s
      | .ok s => .next (s.recordDone p r)
      | .fail s st => .next ((s.recordDone p r).notify p 17 [x.handle, x.seq, st] none)

end Sys2Proof.Machine
end

