-- ==== Sys2Proof/Machine/Manage.lean ====
section
/-! DEFINITION. The resident service, the host and the fabric: service calls (R272), the control window (R373), the answers
to notifications (R395), boot (R375), ownership (R376), fabric ports (R374, R43) and the thermal stop (R378). -/

namespace Sys2Proof.Machine

/-! ### Service calls (R272) -/

/-- A thread whose service call has been performed: v4 holds the status, and it goes on at PC + 4. -/
def Thread.served (st : Word) (th : Thread) : Thread := (th.putNow 4 (Reg.plain st)).unpark.advance

/-- Free near frames of a die. -/
def State.dieFrames (s : State) (part die : Nat) : List Nat := (s.freeFrames part true).filter fun f => nearDie (f * 4096) == die

/-- What a function finds at the first of n numbers from one on. -/
def firstFrom {α : Type} (f : Nat → Option α) : Nat → Nat → Option α
  | 0, _ => none
  | n + 1, a => match f a with
    | some x => some x
    | none => firstFrom f n (a + 1)

/-- May n pages lie at a page: in the address space, and clear of the block aperture? -/
def scratchOk (n page : Nat) : Bool :=
  page + n ≤ 2 ^ 36 && !(inAperture (4096 * page) || inAperture (4096 * (page + n) - 1))

/-- The page of the address that the service would choose (log 23). -/
def State.scratchPage (s : State) : Nat := (Config.scratchBase s.free).toNat % 2 ^ 48 / 4096

/-- What a function finds at the page that the service would choose, else at the lowest page of the address space where it finds something
(log 23). -/
def State.scratchAt (s : State) {α : Type} (f : Nat → Option α) : Option α := (f s.scratchPage).or (firstFrom f (2 ^ 36) 0)

/-- Service 0x01: n contiguous virtual pages over pinned near pages of the own die, at the first address tried where they can be mapped
(log 23); none where there is no room. -/
def State.allocScratch (s : State) (part die n : Nat) : Option (State × Nat) :=
  let fs := (s.dieFrames part die).take n
  if n = 0 || 4096 < n || fs.length < n then none
  else
    let t := { s.takeFrames part fs with free := s.free + 1 }
    s.scratchAt fun page =>
      let va := 4096 * page
      if scratchOk n page then
        (State.mapPages part 0x48D (fs.zipIdx.map fun x => (va + 4096 * x.2, x.1)) t).map fun s =>
          (s.modPart part fun p => { p with scratch := (va, n) :: p.scratch }, va)
      else none

/-- Service 0x02: an allocation returned; none where the address is no allocation's. -/
def State.freeScratch (s : State) (part va : Nat) : Option State :=
  ((s.part part).scratch.find? fun x => x.1 == va).map fun x =>
    ((List.range x.2).foldl (fun s i => s.unmapPage part (va + 4096 * i) true) s).modPart part fun p =>
      { p with scratch := p.scratch.erase x }

/-- SERVICE_CALL_PERFORM (R272): the service named is performed for one lane, which goes on at PC + 4. Every result has ZERO
plies. -/
def execServiceCallPerform (blk tid : Nat) (s : State) : Host.Outcome State Fault Refusal :=
  let t : TRef := ⟨blk, tid⟩
  match s.thread? t, s.coreOf blk with
  | some th, some core =>
    match th.park with
    | some (.service 0x00) =>
      .next (s.modThread t fun th => (th.putNow 2 (Reg.plain Config.serviceVersion)).served 0)
    | some (.service 0x01) =>
      match s.allocScratch (s.partOf blk) (core / 36) (th.reg 2).val.toNat with
      | some (s, va) => .next (s.modThread t fun th =>
          ((th.putNow 2 (Reg.plain (Addr.low (Addr.ofNat va)))).putNow 3 (Reg.plain (Addr.high (Addr.ofNat va)))).served 0)
      | none => .next (s.modThread t (Thread.served 1))
    | some (.service 0x02) =>
      match s.freeScratch (s.partOf blk) (pairVal (th.reg 2).val (th.reg 3).val).toNat with
      | some s => .next (s.modThread t (Thread.served 0))
      | none => .next (s.modThread t (Thread.served 2))
    | some (.service _) => .next (s.modThread t (Thread.served 0xFFFFFFFF))
    | _ => .next s
  | _, _ => .next s

/-! ### The control window (R373) -/

/-- RESUME (R373): a write of GO; it is ignored while the partition is not exited. -/
def execResume (part : Nat) (s : State) : Host.Outcome State Fault Refusal := .next (s.resume part)

/-- The event that a partition's notification of a sequence number waits for (R395). -/
def State.waitingEvent (s : State) (part evseq : Nat) : Option HostEvent :=
  (s.svc.mailbox.find? fun n => n.part == part && n.evseq == evseq && n.waiting.isSome).bind (·.waiting)

/-- A notification is answered. -/
def State.answered (s : State) (part evseq : Nat) : State :=
  let f := fun (n : Notice) => if n.part == part && n.evseq == evseq then { n with waiting := none } else n
  { s with svc := { s.svc with mailbox := s.svc.mailbox.map f } }

/-- The Poison trap of a thread that waited for the hypervisor (R370). -/
def State.deliverPoison (s : State) (t : TRef) : State :=
  match (s.thread? t).bind (·.park) with
  | some (.poison sub mask first word) => (s.modThread t Thread.unpark).takeTrap t 0x24 sub mask first word
  | _ => s

/-- The action CONTINUE (R395). -/
def State.ackContinue (s : State) (part evseq : Nat) : State :=
  match s.waitingEvent part evseq with
  | some (.repair blk) => (s.answered part evseq).makeReady blk
  | some (.poison blk tid) => (s.answered part evseq).deliverPoison ⟨blk, tid⟩
  | _ => s

/-- The action POOLGROW, or with no page to add POOLMERGE (R395); where the service must wait for a page it has not acted yet. -/
def State.ackGrow (s : State) (part evseq count : Nat) : State :=
  match s.waitingEvent part evseq with
  | some (.pool va) => ((s.answered part evseq).growPool part count va).getD s
  | _ => s

/-- The action POOLMERGE (R395). -/
def State.ackMerge (s : State) (part evseq : Nat) : State := s.ackGrow part evseq 0

/-- HOSTACK_CONTINUE (R395). -/
def execHostackContinue (part evseq : Nat) (s : State) : Host.Outcome State Fault Refusal := .next (s.ackContinue part evseq)

/-- HOSTACK_POOLGROW (R395): with no page added it acts as POOLMERGE. -/
def execHostackPoolgrow (part evseq count : Nat) (s : State) : Host.Outcome State Fault Refusal := .next (s.ackGrow part evseq count)

/-- HOSTACK_POOLMERGE (R395). -/
def execHostackPoolmerge (part evseq : Nat) (s : State) : Host.Outcome State Fault Refusal := .next (s.ackMerge part evseq)

/-- A write of HOSTACK (R373). -/
def State.writeHostack (s : State) (part : Nat) (v : Addr) : State :=
  let seq := (v.extractLsb' 32 32).toNat
  match (v.extractLsb' 0 8).toNat with
  | 1 => s.ackContinue part seq
  | 2 => s.ackGrow part seq (v.extractLsb' 16 16).toNat
  | 3 => s.ackMerge part seq
  | _ => s

/-- A write of PRECTL (R373): GRACE is stored, and REQ asks for the pre-emption of every core of the partition. -/
def State.writePrectl (s : State) (part : Nat) (v : Addr) : State :=
  let s := s.modPart part fun p => { p with grace := v.extractLsb' 0 12 }
  if v.getLsbD 31 && !(s.part part).cores.isEmpty then
    (s.modPart part fun p => { p with preReq := true }).mustNow (.preemptRequest part (s.part part).cores)
  else s

/-- CONTROL_WINDOW_WRITE (R373, R33, R82, R155, R163): a host write to a partition's control window; reserved bits and other
offsets ignore it. -/
def execControlWindowWrite (part offset : Nat) (v : Addr) (s : State) : Host.Outcome State Fault Refusal :=
  if !s.svc.enabled then .next s
  else match offset with
    | 0x00 => .next (s.modPart part fun p => { p with root := v.extractLsb' 12 34, tbEn := v.getLsbD 0 })
    | 0x08 => .next (s.modPart part fun p => { p with dlBase := v.extractLsb' 15 31, dlEn := v.getLsbD 0 })
    | 0x10 => .next (s.modPart part fun p => { p with dlTail := v.extractLsb' 32 13 })
    | 0x18 => .next (s.modPart part fun p => { p with quota := v.extractLsb' 0 16 })
    | 0x20 => .next (s.modPart part fun p => { p with duty := v.extractLsb' 0 6 })
    | 0x28 => .next (s.writePrectl part v)
    | 0x30 => .next (if v.getLsbD 0 then s.resume part else s)
    | 0x38 => .next (s.writeHostack part v)
    | _ => .next s

/-! ### What the host reads (R372, R373, R152) -/

/-- What a host read of a partition's control window returns, by the offset of an aligned slot of 8 bytes (R373, R33, R82, R155, R163); what
only the host writes reads as zero. -/
def Part.window (p : Part) (offset : Nat) : Addr :=
  match offset with
  | 0x00 => (p.root.zeroExtend 64 <<< 12) ||| (BitVec.ofBool p.tbEn).zeroExtend 64
  | 0x08 => (p.dlBase.zeroExtend 64 <<< 15) ||| (BitVec.ofBool p.dlEn).zeroExtend 64
  | 0x10 => (p.dlTail.zeroExtend 64 <<< 32) ||| p.dlHead.zeroExtend 64
  | 0x18 => p.quota.zeroExtend 64
  | 0x20 => p.duty.zeroExtend 64
  | 0x28 => ((BitVec.ofBool p.preReq).zeroExtend 64 <<< 31) ||| p.grace.zeroExtend 64
  | 0x30 => ((BitVec.ofBool p.exited).zeroExtend 64 <<< 16) ||| (p.reason.zeroExtend 64 <<< 8)
  | _ => 0

/-- KSTAT (R152). -/
def Part.kstat (p : Part) : Addr :=
  (p.kSeq.zeroExtend 64 <<< 32) ||| (p.kHandle.zeroExtend 64 <<< 16) ||| p.kStatus.zeroExtend 64

/-- What the link brings from the host besides writes (R372): a read of 8 bytes of the physical function's BAR 0 or of a virtual function's,
a read of the service mailbox or of a partition's request mailbox, or one of the requests that are not supported. -/
inductive LinkRequest where
  | control (at_ : Nat)
  | virtual (part at_ : Nat)
  | mailbox
  | requests (part : Nat)
  | ats
  | pri
  | peerToPeer
  deriving DecidableEq, Repr

/-- The answer: a value; the requests that have not acted yet, the results, notices, exit reasons and poison records of the service mailbox; the
results of a request mailbox; or Unsupported Request. -/
inductive LinkAnswer where
  | value (v : Addr)
  | service (requests : List Instr) (results : List (List Byte)) (notices : List Notice) (exits : List (BitVec 8)) (poison : List (Nat × Nat))
  | results (l : List (List Byte))
  | unsupported
  deriving DecidableEq, Repr

/-- The results of a partition, or of none. -/
def State.resultsOf (s : State) (part : Option Nat) : List (List Byte) := (s.svc.results.filter fun r => r.1 == part).map (·.2)

/-- The events of the host link but for those that name their source, and for the hypervisor's repairs, for which a kick may wait
(R377, log 96). -/
def fromHost : Instr → Bool
  | .kick .. | .resume .. | .controlWindowWrite .. | .graphUpload .. | .codeObjectLoad .. | .codeObjectUnload .. => true
  | .hostackContinue .. | .hostackPoolgrow .. | .hostackPoolmerge .. | .targetCreate .. | .keyRegister .. | .firmwareImage .. => true
  | _ => false

/-- The management requests that change state (R376, log 57). -/
def manages : Instr → Bool
  | .resume .. | .controlWindowWrite .. | .hostackContinue .. | .hostackPoolgrow .. | .hostackPoolmerge .. => true
  | .hostRepairRequest .. | .preemptRequest .. | .keyRegister .. => true
  | _ => false

/-- The requests of the mailbox that have not acted yet. -/
def State.requests (s : State) : List Instr := s.agenda.filterMap fun
  | .event i => if manages i then some i else none
  | .request _ i => if manages i then some i else none
  | .core _ => none

/-- How the device answers (R372, R373). A mailbox's layout is not given, its contents are (log 78). -/
def State.answer (s : State) (r : LinkRequest) : LinkAnswer :=
  match r with
  | .control a => .value (if a / 32768 < 24 then (s.part (a / 32768)).window (a % 32768 / 8 * 8) else 0)
  | .virtual p a => .value (if a / 8 = 1 then (s.part p).kstat else 0)
  | .mailbox => .service s.requests (s.resultsOf none) s.svc.mailbox (s.parts.map (·.reason)) s.svc.records
  | .requests p => .results (s.resultsOf (some p))
  | .ats => .unsupported
  | .pri => .unsupported
  | .peerToPeer => .unsupported

/-! ### Requests of the hypervisor (R80, R395) -/

/-- HOST_REPAIR_REQUEST (R395): what the hypervisor has the service do in a partition's own memory before it answers. -/
def execHostRepairRequest (part : Nat) (r : Repair) (s : State) : Host.Outcome State Fault Refusal :=
  if !s.svc.enabled then .next s
  else match r with
    | .setEntry pa e => if pa % 8 = 0 && (s.part part).owns pa then .next ((s.writeEntry pa e).settleWaiting part) else .next s
    | .content pa b => if pa % 4096 = 0 && (s.part part).owns pa then .next (s.fillFrames [pa / 4096] b) else .next s
    | .migrate va => execMigration part va true s
    | .reserve pages => .next (s.modPart part fun p => { p with reserve := p.reserve ++ pages })
    | .setAccess va toWrite => .next (s.changeAccess part va.toNat toWrite)
    | .moveNode va level => .next (s.startNode part va.toNat level)

/-! ### Boot (R375, R159) -/

/-- Does a firmware image verify: it ends with a public key of 64 bytes whose hash is in the fuses, and with the signature, by that key, of
the hash of the rest (R359, R375, log 7)? -/
def firmwareOk (image : List Byte) : Bool :=
  let n := image.length - 29856
  let key := (image.drop n).take 64
  shake256 32 key == Config.firmwareKeyHash && slhVerify key (shake256 32 (image.take n)) (image.drop (n + 64))

/-- The LPCT: the present physical cores in ascending order, the rest 0xFF (R159). -/
def lpctOf (fuses : BitVec 72) : List Byte :=
  let present := ((List.range 72).filter fun c => !fuses.getLsbD c).map (BitVec.ofNat 8)
  present ++ List.replicate (72 - present.length) 0xFF

/-- The boot (R375): the image is verified; once it is good, the LPCT and the harvest maps are filled, the poison bitmap is cleared, and the
functions are enabled. -/
def State.boot (s : State) (image : List Byte) : State :=
  let ok := firmwareOk image
  let s := { s with svc := { s.svc with booted := true, verified := ok, enabled := ok } }
  if ok then { s with hv := Config.fuses, lpct := lpctOf Config.fuses, poison := [] } else s

/-- POWER_UP (R375): the boot. Cores that were without power come up as after reset, with their cycle counts at 0 (R276, R144,
log 3). -/
def execPowerUp (firmware : List Byte) (s : State) : Host.Outcome State Fault Refusal :=
  let cores := if s.power then s.cores else s.cores.map fun _ => Core.reset
  .next (State.boot { s with power := true, cores := cores, svc := { s.svc with stopping := false } } firmware)

/-- FIRMWARE_IMAGE (R375): after a failed verification the mailbox accepts a new image. -/
def execFirmwareImage (image : List Byte) (s : State) : Host.Outcome State Fault Refusal :=
  if s.svc.booted && !s.svc.verified then .next (s.boot image) else .next s

/-! ### Ownership (R376, R377) -/

/-- OWNERSHIP_CLAIM (R376): granted while no source owns; else the source is answered Busy. It is ignored before the functions are enabled, as
the other two are (R375, log 56). -/
def execOwnershipClaim (source : Nat) (s : State) : Host.Outcome State Fault Refusal :=
  if !s.svc.enabled then .next s
  else match s.svc.owner with
    | none => .next { s with svc := { s.svc with owner := some source, busy := s.svc.busy.erase source } }
    | some _ => .next { s with svc := { s.svc with busy := insertUp source s.svc.busy } }

/-- OWNERSHIP_HANDOVER (R376): the owner names a successor and keeps ownership. -/
def execOwnershipHandover (source successor : Nat) (s : State) : Host.Outcome State Fault Refusal :=
  if s.svc.enabled && s.svc.owner = some source then .next { s with svc := { s.svc with successor := some successor } } else .next s

/-- HANDOVER_ACCEPT (R376): only the named successor takes ownership, at once. -/
def execHandoverAccept (source : Nat) (s : State) : Host.Outcome State Fault Refusal :=
  if s.svc.enabled && s.svc.owner.isSome && s.svc.successor = some source then
    .next { s with svc := { s.svc with owner := some source, successor := none, busy := s.svc.busy.erase source } }
  else .next s

/-- LINK_LOSS (R376): ownership that came through the source is released. -/
def execLinkLoss (source : Nat) (s : State) : Host.Outcome State Fault Refusal :=
  if s.svc.owner = some source then .next { s with svc := { s.svc with owner := none, successor := none } } else .next s

/-! ### Fabric (R374, R43) -/

/-- PORT_FAILURE (R374). -/
def execPortFailure (port : Nat) (s : State) : Host.Outcome State Fault Refusal :=
  .next { s with svc := { s.svc with ports := s.svc.ports.set port false } }

/-- Is a frame exported to a package and partition (R43), in a slice that is not in retention (R71)? An export is a package,
a partition, a first frame and a count. -/
def State.exported (s : State) (package part frame : Nat) : Bool :=
  !s.retained (.phys (s.podPage frame * 4096)) &&
    s.parts.any fun p => p.owns (frame * 4096) && p.exports.any fun e =>
      e.1 == package && e.2.1 == part && e.2.2.1 ≤ frame && frame < e.2.2.1 + e.2.2.2

/-- An access of another package that has passed its checks: an atomic is one read-modify-write at this package's fabric port (R67). -/
def State.remotePerform (s : State) (home : Loc) (size : Nat) (op : RemoteOp) : State :=
  match op with
  | .load => (s.correct home size).report none (0 :: (s.correct home size).homeRead home size)
  | .store b => (s.homeWrite home (b.take size) false).report none [0]
  | .atom op ty x c =>
    let r := s.performRmw ⟨op, ty, home, x, c, 0, (0, 0, 0), 0⟩
    r.1.report none (0 :: leBytes size r.2.toNat)

/-- Does an access read its home? -/
def RemoteOp.reads : RemoteOp → Bool
  | .store _ => false
  | _ => true

/-- Is an atomic's size another than its type's? -/
def RemoteOp.sizeBad (size : Nat) : RemoteOp → Bool
  | .atom _ ty _ _ => AtomType.bytes ty != size
  | _ => false

/-- REMOTE_WINDOW_ACCESS (R43, R67): this package performs an access of another one, or refuses it; the answer (0 and the data
read, 0x07 for refused, 0x01 for poison) stands among the results (log 17); an access that is malformed is refused too (log 95). -/
def execRemoteWindowAccess (package part pa size : Nat) (op : RemoteOp) (s : State) : Host.Outcome State Fault Refusal :=
  let frame := pa / 4096
  let home : Loc := .phys (s.podPa pa)
  if size = 0 || RemoteOp.sizeBad size op || pa % size ≠ 0 || 4096 < pa % 4096 + size || !s.exported package part frame then
    .next (s.report none [0x07])
  else if !s.clean frame then .next (s.report none [0x01])
  else if RemoteOp.reads op && s.homeBad home size then .next ((s.poisonPage (s.podPage frame)).report none [0x01])
  else .next (s.remotePerform home size op)

/-! ### The thermal stop (R378) -/

/-- A partition is pre-empted and exits with reason 0x03, ThermalStop, whatever it did before; the host is notified (R378, R161). -/
def State.thermalExit (s : State) (p : Nat) : State :=
  ((s.modPart p fun q => { q with exited := true, reason := 3 }).notify p 16 [3] none).preempt p (s.part p).cores

/-- THERMAL_STOP (R378): every partition is pre-empted, the host notified with exit reason 0x03; power is removed from the
compute dies once their cores have halted. -/
def execThermalStop (s : State) : Host.Outcome State Fault Refusal :=
  let s := { s with svc := { s.svc with stopping := true } }
  .next ((List.range s.parts.length).foldl State.thermalExit s).settleStop

/-! ### The order and the right of requests (R376, R377) -/

/-- Must an answer to a pool event wait for a page of the target? -/
def State.growWaits (s : State) (part evseq count : Nat) : Bool :=
  match s.waitingEvent part evseq with
  | some (.pool va) => (s.growPool part count va).isNone
  | _ => false

/-- Must an answer that is a write of HOSTACK, or stands for one, wait so? -/
def State.ackWaits (s : State) : Instr → Bool
  | .hostackPoolgrow p e n => s.growWaits p e n
  | .hostackPoolmerge p e => s.growWaits p e 0
  | .controlWindowWrite p 0x38 v => match (v.extractLsb' 0 8).toNat with
    | 2 => s.growWaits p (v.extractLsb' 32 32).toNat (v.extractLsb' 16 16).toNat
    | 3 => s.growWaits p (v.extractLsb' 32 32).toNat 0
    | _ => false
  | _ => false

/-- Must an event of the host link wait for an earlier one: a kick that waits for a page, or itself for one (R377, R152)? -/
def State.hostWaits (s : State) (i : Instr) : Bool := fromHost i && ((s.parts.any fun p => !p.kicks.isEmpty) || s.ackWaits i)

/-- The kicks of every partition that wait are taken again. -/
def State.retakeKicks (s : State) : State :=
  (List.range s.parts.length).foldl (fun s p => State.takeKicks p (s.part p).kicks.length s) s

/-- The source that the host link is (log 57). -/
def hostSource : Nat := 0

end Sys2Proof.Machine
end

