-- ==== Sys2Proof/Machine/Packed.lean ====
section
/-! DEFINITION. Packed pairs (R291), the PLY group (R295, R198), DREV and DFLIP (R191, R192, R296). -/

namespace Sys2Proof.Machine

/-! ### Packed pairs -/

/-- The format of a packed pair (R291). -/
def pairFmt (bf : Bool) : Fmt := if bf then .bf16 else .f16

/-- Element e of a packed pair (R167). -/
def halfOf (w : Word) (e : Nat) : Nat := w.field (16 * e) 16

/-- A packed operation on both elements: the flags are ORed, and STATE is ZERO only where every input is (R291, R188). -/
def packed (ins : List Reg) (f : Nat → Nat × Flags) : Reg × Flags :=
  let lo := f 0
  let hi := f 1
  (⟨Word.ofNat (lo.1 + hi.1 * 65536), if joinTag ins = .zero then .zero else .lost, ins.any (·.kink), []⟩, lo.2 ||| hi.2)

/-- A two-operand packed form. -/
def packed2 (bf : Bool) (f : Fmt → Nat → Nat → Nat × Flags) (_ : Nat) (x y _ : Reg) : Reg × Flags :=
  packed [x, y] fun e => f (pairFmt bf) (halfOf x.val e) (halfOf y.val e)

/-- PADD2 (R291). -/
def execPadd2 (d a b : RegName) (bf : Bool) (st : Stall) (s : State) : Host.Outcome State Fault Refusal :=
  s.runLocal (.padd2 d a b bf st) st (fp3 d a b 1 TCtx.dueB (packed2 bf Fmt.addOp))

/-- PMUL2 (R291). -/
def execPmul2 (d a b : RegName) (bf : Bool) (st : Stall) (s : State) : Host.Outcome State Fault Refusal :=
  s.runLocal (.pmul2 d a b bf st) st (fp3 d a b 1 TCtx.dueB (packed2 bf Fmt.mulOp))

/-- PFMA2 (R291): a × b + old d with one rounding. -/
def execPfma2 (d a b : RegName) (bf : Bool) (st : Stall) (s : State) : Host.Outcome State Fault Refusal :=
  s.runLocal (.pfma2 d a b bf st) st (fp3 d a b 1 TCtx.dueB fun _ x y z =>
    packed [x, y, z] fun e => (pairFmt bf).fmaOp (halfOf x.val e) (halfOf y.val e) (halfOf z.val e))

/-- PMAX2 (R291). -/
def execPmax2 (d a b : RegName) (bf : Bool) (st : Stall) (s : State) : Host.Outcome State Fault Refusal :=
  s.runLocal (.pmax2 d a b bf st) st (fp3 d a b 1 TCtx.dueB (packed2 bf fun f => f.minmaxOp true))

/-- PMIN2 (R291). -/
def execPmin2 (d a b : RegName) (bf : Bool) (st : Stall) (s : State) : Host.Outcome State Fault Refusal :=
  s.runLocal (.pmin2 d a b bf st) st (fp3 d a b 1 TCtx.dueB (packed2 bf fun f => f.minmaxOp false))

/-! ### The PLY group -/

/-- A ply operation that names k: RegRange 0x03 where k is not below D (R181, R239). -/
def withPly (k : BitVec 4) (f : TCtx → Thread → TLane) : TCtx → Thread → TLane := fun c th =>
  if c.kernel.d ≤ k.toNat then .trap th 0x05 0x03 else f c th

/-- A register with partial k replaced; ZERO becomes LIVE with the others +0, LOST stays LOST (R198). -/
def Reg.setPart (r : Reg) (n k : Nat) (v : Word) : Reg :=
  if r.tag = .lost then r else { r with tag := .live, parts := (partsOf n r.part).set k v }

/-- PLYGET (R295). -/
def execPlyget (d a : RegName) (k : BitVec 4) (st : Stall) (s : State) : Host.Outcome State Fault Refusal :=
  s.runLocal (.plyget d a k st) st (withPly k fun c th => .next (th.result (archOf th.wb d)
    (Reg.plain (if (th.get a).tag = .lost then 0x7FC00000 else (th.get a).part k.toNat)) c.dueA))

/-- PLYSET (R295, R198). -/
def execPlyset (d a : RegName) (k : BitVec 4) (st : Stall) (s : State) : Host.Outcome State Fault Refusal :=
  s.runLocal (.plyset d a k st) st (withPly k fun c th => .next (th.result (archOf th.wb d)
    ((th.get d).setPart c.kernel.d k.toNat (th.val a)) c.dueA))

/-- PLYZERO (R295): partial k becomes +0, STATE stays. -/
def execPlyzero (d : RegName) (k : BitVec 4) (st : Stall) (s : State) : Host.Outcome State Fault Refusal :=
  s.runLocal (.plyzero d k st) st (withPly k fun c th => .next (th.result (archOf th.wb d)
    (if (th.get d).tag = .live then (th.get d).setPart c.kernel.d k.toNat 0 else th.get d) c.dueA))

/-- PLYLOSE (R295). -/
def execPlylose (d : RegName) (st : Stall) (s : State) : Host.Outcome State Fault Refusal :=
  s.runLocal (.plylose d st) st fun c th => .next (th.result (archOf th.wb d)
    { th.get d with tag := .lost, parts := [] } c.dueA)

/-- The code of a STATE (R184). -/
def PlyTag.code : PlyTag → Nat
  | .zero => 0 | .live => 1 | .lost => 2

/-- PLYTAG (R295): STATE in [1:0], KINK in [2]. -/
def execPlytag (d a : RegName) (st : Stall) (s : State) : Host.Outcome State Fault Refusal :=
  s.runLocal (.plytag d a st) st fun c th => .next (th.result (archOf th.wb d)
    (Reg.plain (Word.ofNat ((th.get a).tag.code + if (th.get a).kink then 4 else 0))) c.dueA)

/-- PLYCLRK (R295). -/
def execPlyclrk (d : RegName) (st : Stall) (s : State) : Host.Outcome State Fault Refusal :=
  s.runLocal (.plyclrk d st) st fun c th => .next (th.result (archOf th.wb d) { th.get d with kink := false } c.dueA)

/-! ### DREV and DFLIP -/

/-- The exact sum v + Σ dv_i × δ_i of a LIVE register, and whether it is invalid: ∞ × 0, or opposite infinities, whatever
else is in the sum (R191), or a signalling NaN (R280). -/
def drevSum (n : Nat) (x : Reg) (deltas : List Word) : Val × Bool :=
  let terms := (List.range n).map fun i => (x.partV i, f32v (deltas.getD i 0))
  let prods := terms.map fun p => p.1.mul p.2
  let sum := prods.foldl Val.add x.v
  let has := fun (n : Bool) => (x.v :: prods).any fun v => v.isInf && v.sign == n
  let bad := terms.any fun p => (p.1.mul p.2).isNan && !p.1.isNan && !p.2.isNan
  (sum, bad || (has true && has false) || x.v.isSig || terms.any fun p => p.1.isSig || p.2.isSig)

/-- DREV of one register (R191): a ZERO source gives its value exactly, a NaN too (log 20); so does any source where D = 0 (R296). -/
def drevReg (n : Nat) (x : Reg) (deltas : List Word) : Reg × Flags :=
  if n = 0 then (⟨x.val, .zero, x.kink, []⟩, Flags.none) else
  match x.tag with
  | .lost => (⟨0x7FC00000, .zero, x.kink, []⟩, Flags.nv)
  | .zero => (⟨x.val, .zero, x.kink, []⟩, Flags.none)
  | .live =>
    let r := drevSum n x deltas
    let o := Fmt.f32.round .rne false r.1
    if r.1.isNan then (⟨0x7FC00000, .zero, x.kink, []⟩, if r.2 then Flags.nv else Flags.none)
    else (⟨Word.ofNat o.1, .zero, x.kink, []⟩, o.2)

/-- The sign of a value that is no NaN: +1, −1, and 0 at ±0 (R192). -/
def sgn (v : Val) : Int := if v.isZero then 0 else if v.sign then -1 else 1

/-- DFLIP of one register (R192); where D = 0 it is 0 unless the source is a NaN (R296). -/
def dflipVal (n : Nat) (x : Reg) (deltas : List Word) : Word :=
  if n = 0 then (if x.v.isNan then 1 else 0) else
  let sum := f32v (drevReg n x deltas).1.val
  if x.tag = .lost || x.v.isNan || sum.isNan || sgn sum ≠ sgn x.v then 1 else 0

/-- DREV (R296, R191): the first min(D, k) deltas are the registers b + i, the rest 0. -/
def execDrev (d a b : RegName) (w : Width) (st : Stall) (s : State) : Host.Outcome State Fault Refusal :=
  s.runLocal (.drev d a b w st) st fun c th =>
    let r := drevReg c.kernel.d (th.get a) (th.vals b w.k)
    fpFinish th r.2 fun th => th.result (archOf th.wb d) r.1 c.dueB

/-- DFLIP (R296, R192). -/
def execDflip (d a b : RegName) (w : Width) (st : Stall) (s : State) : Host.Outcome State Fault Refusal :=
  s.runLocal (.dflip d a b w st) st fun c th => .next (th.result (archOf th.wb d)
    (Reg.plain (dflipVal c.kernel.d (th.get a) (th.vals b w.k))) c.dueB)

end Sys2Proof.Machine
end

