-- ==== Sys2Proof/Machine/Retired.lean ====
section
/-! DEFINITION. The retired instructions of VZA-1 and their emulation by the resident service (R246). -/

namespace Sys2Proof.Machine

/-- RetiredOpcode in every lane that issues, before every other check (R244 check 2, R246): the lanes park until the
emulation duty has performed the instruction. -/
def State.retire (s : State) (i : Instr) (st : Stall) : Host.Outcome State Fault Refusal :=
  .next (s.deliverIssued st (s.issuing.map fun t => ⟨t, 0x04, 0, 0⟩) (some i))

/-- LDWV (R246). -/
def execLdwv (d a : RegName) (imm : BitVec 7) (w : Width) (st : Stall) (s : State) : Host.Outcome State Fault Refusal :=
  s.retire (.ldwv d a imm w st) st

/-- STWV (R246). -/
def execStwv (d a : RegName) (imm : BitVec 7) (w : Width) (st : Stall) (s : State) : Host.Outcome State Fault Refusal :=
  s.retire (.stwv d a imm w st) st

/-- FSQRTX (R246). -/
def execFsqrtx (d a : RegName) (st : Stall) (s : State) : Host.Outcome State Fault Refusal := s.retire (.fsqrtx d a st) st

/-- FRCPX (R246). -/
def execFrcpx (d a : RegName) (st : Stall) (s : State) : Host.Outcome State Fault Refusal := s.retire (.frcpx d a st) st

/-- FRSQX (R246). -/
def execFrsqx (d a : RegName) (st : Stall) (s : State) : Host.Outcome State Fault Refusal := s.retire (.frsqx d a st) st

/-- FEXP2X (R246). -/
def execFexp2x (d a : RegName) (st : Stall) (s : State) : Host.Outcome State Fault Refusal := s.retire (.fexp2x d a st) st

/-- FLOG2X (R246). -/
def execFlog2x (d a : RegName) (st : Stall) (s : State) : Host.Outcome State Fault Refusal := s.retire (.flog2x d a st) st

/-- FSINPIX (R246). -/
def execFsinpix (d a : RegName) (st : Stall) (s : State) : Host.Outcome State Fault Refusal := s.retire (.fsinpix d a st) st

/-- FCOSPIX (R246). -/
def execFcospix (d a : RegName) (st : Stall) (s : State) : Host.Outcome State Fault Refusal := s.retire (.fcospix d a st) st

/-- FTANHX (R246). -/
def execFtanhx (d a : RegName) (st : Stall) (s : State) : Host.Outcome State Fault Refusal := s.retire (.ftanhx d a st) st

/-- A v1 special function run for the lanes of the issue. -/
def State.runV1 (s : State) (i : Instr) (d a : RegName) (st : Stall) (op : FunOp) : State :=
  s.runLanes i st (localBody (fp1 d a dueV (funReg op .v1)))

/-- The VZA-1 effect of a retired word, performed as its native form (R246). -/
def State.emulate (s : State) (word : Word) : State :=
  match decode word with
  | some (.ldwv d a imm w st) => s.runLanes (.ldw d a imm w st) st (loadBody d a imm (4 * w.k) loadWords)
  | some (.stwv d a imm w st) => s.runLanes (.stw d a imm w st) st (storeBody a imm (4 * w.k) (groupBytes d w.k))
  | some (.fsqrtx d a st) => s.runV1 (.fsqrt d a .v1 st) d a st .sqrt
  | some (.frcpx d a st) => s.runV1 (.frcp d a .v1 st) d a st .rcp
  | some (.frsqx d a st) => s.runV1 (.frsq d a .v1 st) d a st .rsq
  | some (.fexp2x d a st) => s.runV1 (.fexp2 d a .v1 st) d a st .exp2
  | some (.flog2x d a st) => s.runV1 (.flog2 d a .v1 st) d a st .log2
  | some (.fsinpix d a st) => s.runV1 (.fsinpi d a .v1 st) d a st .sinpi
  | some (.fcospix d a st) => s.runV1 (.fcospi d a .v1 st) d a st .cospi
  | some (.ftanhx d a st) => s.runV1 (.ftanh d a .v1 st) d a st .tanh
  | _ => s

/-- RETIRED_EMULATION (R246): the lane leaves its wait and performs the native form, with its faults at the retired
instruction's pc and %trapinst the retired word. -/
def execRetiredEmulation (blk tid : Nat) (s : State) : Host.Outcome State Fault Refusal :=
  let t : TRef := ⟨blk, tid⟩
  match s.thread? t, s.coreOf blk with
  | some th, some core =>
    match th.park with
    | some (.retired word) =>
      let s := s.modThread t Thread.unpark
      .next (State.emulate { s with issue := ⟨core, 0, [t], th.pc, word⟩ } word)
    | _ => .next s
  | _, _ => .next s

end Sys2Proof.Machine
end

