-- ==== Sys2Proof/Machine/Sched.lean ====
section
/-! DEFINITION. Issue and progress on a core: readiness (R133), the selection of an issue (R134), ages and the two timers
(R135, R147), the waits that end (R137 to R139, R310, R59, R204, R320), the results that arrive (R225), the store queues
(R104), bobbins (R140 to R143), and the withheld cycle (R136, R378). -/

namespace Sys2Proof.Machine

/-! ### The threads of a core -/

/-- The blocks on a core that are not being saved. -/
def State.runningOn (s : State) (core : Nat) : List Nat :=
  (List.range s.blocks.length).filter fun k => match s.blocks[k]? with
    | some b => b.place == .onCore core && b.saving.isNone
    | none => false

/-- The threads of a core, block by block. -/
def State.threadsOn (s : State) (core : Nat) : List TRef :=
  (s.runningOn core).flatMap fun k => (List.range (((s.blocks[k]?).map (·.threads.length)).getD 0)).map (TRef.mk k)

/-- Fold an operation over the threads of a core that are not filed. -/
def State.eachThread (s : State) (core : Nat) (f : State → TRef → Thread → State) : State :=
  (s.threadsOn core).foldl (fun s t => match s.thread? t with
    | some th => if th.live && !th.filed then f s t th else s
    | none => s) s

/-! ### Waits that end -/

/-- The entries of a rejoin file that are complete (R137). -/
def RejoinEntry.complete (e : RejoinEntry) : Bool := e.mask.all e.arrived.contains

/-- A thread of a completed entry goes on at its rejoin pc (R137). -/
def Thread.rejoined (pc : Addr) (th : Thread) : Thread := { th.unpark with pc := pc }

/-- The completed entries of a strand are removed, and their threads unpark together; what was pushed in the cycle before now stands in
the file (R137, R267). -/
def State.settleRejoin (s : State) (blk k : Nat) : State :=
  match s.strand? blk k with
  | none => s
  | some st =>
    let s := (st.rejoin.filter RejoinEntry.complete).foldl (fun s e =>
      e.mask.foldl (fun s t => s.modThread t (Thread.rejoined e.pc)) s) s
    s.modStrand blk k fun st => { st with rejoin := (st.rejoin.filter fun e => !e.complete).map fun e => { e with fresh := false } }

/-- A strand leaves serial mode once its file has at most 15 entries and every overflow stack is empty (R138). -/
def State.settleSerial (s : State) (blk k : Nat) : State :=
  if ((s.strandThreads blk k).filterMap s.thread?).any fun th => !th.overflow.isEmpty then s
  else s.modStrand blk k fun st => { st with serial := st.serial && 15 < st.rejoin.length }

/-- The strands of a core, each once. -/
def State.strandsOn (s : State) (core : Nat) : List (Nat × Nat) :=
  ((s.runningOn core).flatMap fun b =>
    (List.range (((s.blocks[b]?).map (·.strands.length)).getD 0)).map fun k => (b, k)).filter fun x => s.firstPart x.1 x.2

/-- Both for a strand. -/
def State.settleFile (s : State) (x : Nat × Nat) : State := (s.settleRejoin x.1 x.2).settleSerial x.1 x.2

/-- May a fragment's parked graphics instruction be issued again: its earlier primitives have gone by, for the layer unit also at the pixel
that it names (R204, R347)? -/
def State.layerFree (s : State) (th : Thread) (i : Instr) : Bool :=
  match i with
  | .ztest .. => !s.earlierPending th 1
  | .omerge .. => !s.earlierPending th 2
  | _ => !s.layerWaits th (layerPixel th i)

/-- A thread whose wait for a fifth round or for earlier primitives is over issues its instruction again (R320, R204), with the
operands it has read (R227); an EXIT or REFORM that may go on does (R319, R269). -/
def State.settleReissue (core : Nat) (s : State) (t : TRef) (th : Thread) : State :=
  match th.park with
  | some .round =>
    if ((th.cv.map fun x => decide ((s.cvReg core x.1).rounds.length < 4)).getD true) then s.modThread t fun th => { th.unpark with again := true }
    else s
  | some (.layer (.lins ..) _) => s
  | some (.layer i _) => if s.layerFree th i then s.modThread t fun th => { th.unpark with again := true } else s
  | some .exit => s.settleExit core t th
  | some .reform => if th.pend.isEmpty then s.reformThread core t th else s
  | _ => s

/-- Every wait of a core that can end now ends. -/
def State.settle (s : State) (core : Nat) : State :=
  let s := (s.strandsOn core).foldl State.settleFile s
  let s := s.eachThread core fun s t _ => s.tryCollective core t
  let s := s.eachThread core fun s t _ => s.settleBarriers t
  let s := (s.runningOn core).foldl State.wakeGranules s
  s.eachThread core (State.settleReissue core)

/-! ### Readiness (R133) -/

/-- The word at a thread's pc: held by its strand, or as a fetch would read it now. -/
def State.peek (s : State) (core : Nat) (t : TRef) (pc : Addr) : Option Word :=
  match s.heldFor t pc with
  | some w => some w
  | none => match s.fetchMem core t.blk pc with
    | .word _ w => some w
    | _ => none

/-- The link register that CALL and CALLI write beside their operands (R263, R264). -/
def linkOf : Instr → List Nat
  | .call .. => [1]
  | .calli .. => [1]
  | _ => []

/-- Must a thread wait for a result that a word reads or writes (R133)? -/
def State.wordAwaits (s : State) (core : Nat) (t : TRef) (th : Thread) (w : Word) : Bool :=
  match decode w with
  | some i => th.awaits (s.core core).cycles (Instr.archs (s.laneWords t.blk) th.wb i ++ linkOf i)
  | none => false

/-- May a thread of a strand in serial mode issue: it is the lowest-lane live thread that is not parked (R138)? One that may not counts as
not ready (log 84). -/
def State.serialTurn (s : State) (t : TRef) (th : Thread) : Bool :=
  !((s.strand? t.blk th.strand).map (·.serial)).getD false ||
    ((s.strandThreads t.blk th.strand).filterMap s.thread?).all fun x => !(x.park.isNone && x.lane < th.lane)

/-- Is a thread ready (R133)? -/
def State.ready (s : State) (core : Nat) (t : TRef) : Bool :=
  match s.blocks[t.blk]?, s.thread? t with
  | some b, some th =>
    th.live && !th.filed && th.park.isNone && th.walk.isNone && b.saving.isNone && b.place == .onCore core &&
      th.yield == 0 && th.stall == 0 && s.serialTurn t th && match s.peek core t th.pc with
        | some w => !s.wordAwaits core t th w
        | none => true
  | _, _ => false

/-! ### The selection of an issue (R134) -/

/-- A ready thread as the selection sees it: its slot and lane position, its strand, its pc, its grid with its number, its role,
its block's number, whether its grid is of class W, and the age of its entity. -/
structure Ready where
  t : TRef
  slot : Nat
  pos : Nat
  strand : Nat × Nat
  pc : Nat
  grid : Nat
  gnum : Nat
  role : Role
  bnum : Nat
  weak : Bool
  age : Nat
  deriving DecidableEq, Repr

/-- A ready thread as a candidate. -/
def State.cand (s : State) (t : TRef) : Option Ready :=
  match s.blocks[t.blk]?, s.thread? t with
  | some b, some th =>
    match s.grids[b.grid]?, b.strands[th.strand]? with
    | some g, some st =>
      let weak := g.kernel.cls == .w
      some ⟨t, st.slot, st.off + th.lane, st.joint.getD (t.blk, th.strand), th.pc.toNat, b.grid, g.num, th.role, b.num, weak,
        if weak then st.age else th.age⟩
    | _, _ => none
  | _, _ => none

/-- Compare lists of numbers from the left. -/
def lexLt : List Nat → List Nat → Bool
  | a :: r, b :: r' => a < b || (a == b && lexLt r r')
  | _, _ => false

/-- One PC, one grid and one role (R134). -/
def Ready.same (x y : Ready) : Bool := x.pc == y.pc && x.grid == y.grid && x.role == y.role

/-- The candidate set of a thread among ready ones: one for each lane position, that of the lower block number and thread
index, by position; a thread that must stay is put first by `keep` (R134). -/
def candSet (l : List Ready) (x : Ready) (keep : Bool) : List Ready :=
  let all := (l.filter (Ready.same x)).insertionSort fun a b => !lexLt [b.bnum, b.t.tid] [a.bnum, a.t.tid]
  let all := if keep then x :: all.filter (· != x) else all
  (all.foldl (fun acc y => if acc.any fun z => z.pos == y.pos then acc else acc ++ [y]) []).insertionSort fun a b => a.pos ≤ b.pos

/-- The order of the roles. -/
def Role.rank : Role → Nat
  | .main => 0 | .copy => 1 | .matrix => 2 | .epilogue => 3

/-- The lowest-lane ready thread of a W strand stands for it; a C or P thread for itself (R134). -/
def Ready.entity (l : List Ready) (x : Ready) : Bool :=
  !x.weak || !l.any fun y => y.strand == x.strand && y.pos < x.pos

/-- The first set of a slot (R134). -/
def firstSet (l : List Ready) : List Ready :=
  let old := (l.filter fun x => 64 ≤ x.age && Ready.entity l x)
  match leastBy (fun a b => lexLt [b.age, a.pos, a.t.tid] [a.age, b.pos, b.t.tid]) old with
  | some x => candSet l x true
  | none =>
    ((leastBy (fun a b => lexLt [b.length, ((a.head?).map (·.pc)).getD 0, ((a.head?).map (·.pos)).getD 0]
        [a.length, ((b.head?).map (·.pc)).getD 0, ((b.head?).map (·.pos)).getD 0])
      (l.map fun x => candSet l x false)).getD [])

/-- The second set: among the ready threads at other lane positions, that at the lowest pc, grid and role (R134). -/
def secondSet (l set1 : List Ready) : List Ready :=
  let rest := l.filter fun x => !set1.any fun y => y.pos == x.pos
  match leastBy (fun a b => lexLt [a.pc, a.gnum, Role.rank a.role] [b.pc, b.gnum, Role.rank b.role]) rest with
  | some x => candSet rest x false
  | none => []

/-- The unit that an instruction uses and that takes one issue per cycle (R134); 0 for none. -/
def unitOf : Instr → Nat
  | .tex .. => 1
  | .texf .. | .lins .. | .lres .. | .lcnt .. | .lclr .. | .ztest .. | .omerge .. | .vemit .. | .pemit .. | .draw .. | .lcomp .. => 2
  | .trvbox .. | .trvtri .. | .trvomm .. | .trvpush .. | .trvpop .. | .trvstep .. => 3
  | .qacq .. | .qfill .. | .qtake .. | .qdone .. | .qtry .. | .bararr .. | .barwait .. | .bar .. | .qfence .. => 4
  | .bcopy .. => 5
  | .stream .. => 6
  | .coll .. => 7
  | .launch .. => 8
  | .msignBind .. | .msignRelease .. => 9
  | .mma .. => 10
  | .mdrain .. => 11
  | .mzero .. | .mloadc .. | .mhist .. | .mhclr .. | .mwait .. => 12
  | _ => 0

/-- The unit of the word at a candidate's pc. -/
def State.candUnit (s : State) (core : Nat) (l : List Ready) : Nat :=
  (((l.head?).bind fun x => s.peek core x.t (Addr.ofNat x.pc)).bind fun w => (decode w).map unitOf).getD 0

/-- The instructions of class B (R233, R234, R237). -/
def classB : Instr → Bool
  | .imul .. | .imulh .. | .imulhn .. | .imad .. | .mul64 .. | .madw .. | .muli .. | .cvt .. => true
  | .fadd .. | .fsub .. | .fmul .. | .ffma .. | .fmin .. | .fmax .. | .fcmp .. | .fcmpm .. => true
  | .fabs .. | .fneg .. | .ffloor .. | .fceil .. | .fround .. | .ftrunc .. | .ffrac .. => true
  | .padd2 .. | .pmul2 .. | .pfma2 .. | .pmax2 .. | .pmin2 .. | .drev .. | .dflip .. => true
  | _ => false

/-- Has a port issued, in the cycle before, a class-B instruction of a kernel with D of 5 to 8 whose result tag is not ZERO
(R183)? Such a result stands among the pending ones with its tracked cycle 4 cycles ahead. -/
def State.portBusy (s : State) (core slot port : Nat) : Bool :=
  (s.core core).last.any fun x => x.1 == slot && x.2.1 == port && x.2.2.any fun t =>
    (((s.thread? t).map (·.pend)).getD []).any fun p => p.due == some ((s.core core).cycles + 4, true) && p.res.tag != .zero

/-- May a set issue on a port (R183)? -/
def State.portFree (s : State) (core slot port : Nat) (l : List Ready) : Bool :=
  !s.portBusy core slot port ||
    !((((l.head?).bind fun x => s.peek core x.t (Addr.ofNat x.pc)).bind decode).map classB).getD false

/-- The issues of one slot in this cycle, each with its port (R134, R183). -/
def State.slotIssues (s : State) (core slot : Nat) (l : List Ready) : List (Nat × Issue) :=
  let set1 := firstSet l
  let set2 := secondSet l set1
  let u := s.candUnit core set1
  let clash := u != 0 && s.candUnit core set2 == u
  ((if clash then [set1] else [set1, set2]).zipIdx.filter fun x => !x.1.isEmpty && s.portFree core slot x.2 x.1).map fun x =>
    (x.2, ⟨core, slot, x.1.map (·.t), Addr.ofNat (((x.1.head?).map (·.pc)).getD 0), 0⟩)

/-! ### Ages and timers (R134, R135, R147) -/

/-- A threshold of %progctl: values below 14 act as 14 (R144). -/
def progThreshold (e : Nat) : Nat := 2 ^ max 14 e

/-- Is a parked thread in a checked wait, or in the wait for a round that counts as one (R146, R320)? -/
def Park.checked : Park → Bool
  | .rejoin => true
  | .collective _ => true
  | .ready _ => true
  | .barrier .. => true
  | .granule _ => true
  | .round => true
  | _ => false

/-- One issue opportunity of the slot of a thread that is ready or not and issued or not: its yield count, its age and its
timers. An issue that is made in the opportunity ends age and timer when it is made (`State.noteIssued`). -/
def Thread.opportunity (ready issued : Bool) (th : Thread) : Thread :=
  { th with
    yield := if 1 < th.yield then th.yield - 1 else th.yield,
    age := if issued then 0 else if ready then th.age + 1 else th.age,
    starve := if issued then 0 else if ready then th.starve + 1 else th.starve,
    hang := if (th.park.map Park.checked).getD false then th.hang + 1 else th.hang }

/-- The events that an opportunity brings about in a thread, as it was before: the last of a YIELD's opportunities (R270). -/
def yieldEvents (t : TRef) (th : Thread) : List Event := if th.yield = 1 then [.yieldExpiry t.blk t.tid] else []

/-- The threads of a core whose starvation timers have reached the threshold after the issues of the cycle before (R147). -/
def State.starveEvents (s : State) (core : Nat) : List Event :=
  (s.threadsOn core).filterMap fun t => match s.thread? t with
    | some th => if th.live && progThreshold (s.core core).starveExp ≤ th.starve then some (.starvationTimeout t.blk t.tid) else none
    | none => none

/-- The threads of a core whose hang counters have reached the threshold and whose waits have not ended by the end of that
cycle (R147, R212). -/
def State.hangEvents (s : State) (core : Nat) : List Event :=
  (s.threadsOn core).filterMap fun t => match s.thread? t with
    | some th => if th.live && (th.park.map Park.checked).getD false && progThreshold (s.core core).hangExp ≤ th.hang then
        some (.hangTimeout t.blk t.tid) else none
    | none => none

/-- The age of a W strand (R134). -/
def State.ageStrand (ready : List TRef) (s : State) (x : Nat × Nat) : State :=
  let some_ := (s.strandThreads x.1 x.2).any ready.contains
  s.modStrand x.1 x.2 fun st => { st with age := if some_ then st.age + 1 else st.age }

/-- One opportunity of every slot of a core, before its issues. -/
def State.opportunity (s : State) (core : Nat) (ready : List TRef) : State :=
  let s := (s.strandsOn core).foldl (State.ageStrand ready) s
  s.eachThread core fun s t th =>
    (yieldEvents t th).foldl State.mustNow (s.modThread t (Thread.opportunity (ready.contains t) false))

/-- The lanes of an issue issue now: their ages and starvation timers, and the ages of their strands, return to 0 (R134, R147). -/
def State.noteIssued (s : State) : State :=
  s.issuing.foldl (fun s t => match s.thread? t with
    | some th => (s.modThread t fun th => { th with age := 0, starve := 0 }).modStrand t.blk th.strand fun k => { k with age := 0 }
    | none => s) s

/-! ### Results (R225) and what else an agent of the core may do -/

/-- A pending result that arrives by itself at a cycle. -/
def Pending.dueAt (p : Pending) (now : Nat) : Bool := match p.due with | some (c, _) => c ≤ now | none => false

/-- The results of a core that are due at its present cycle. -/
def State.dueResults (s : State) (core : Nat) : List Event :=
  let now := (s.core core).cycles
  (s.threadsOn core).flatMap fun t => (((s.thread? t).map fun th => if th.reads then [] else th.pend)).getD [] |>.filterMap fun p =>
    if p.dueAt now then some (.fixedLatencyResult t.blk t.tid p.reg) else none

/-- The steps that the threads of a core wait for (log 4). -/
def Thread.asks (t : TRef) (th : Thread) : List Event :=
  ((th.pend.filter fun p => p.due.isNone && !p.held).map fun p => Event.variableResultArrive t.blk t.tid p.reg) ++
  (if th.walk.isSome then [.walkMigReread t.blk t.tid] else []) ++
  match th.park with
  | some (.atomic _) => [.atomicRmwPerform t.blk t.tid]
  | some (.unbind _) => [.msignReleaseComplete t.blk t.tid]
  | some (.layer (.lins ..) _) => [.layerInsert t.blk t.tid]
  | some (.service _) => [.serviceCallPerform t.blk t.tid]
  | some (.retired _) => [.retiredEmulation t.blk t.tid]
  | some (.seal _) => [.seal t.blk t.tid]
  | some (.sealRest _) => [.seal t.blk t.tid]
  | _ => []

/-- The events that the threads and strands of a core wait for. -/
def State.threadEvents (s : State) (core : Nat) : List Event :=
  ((s.threadsOn core).flatMap fun t => ((s.thread? t).map (Thread.asks t)).getD []) ++
  (s.runningOn core).flatMap fun b => (((s.blocks[b]?).map (·.strands)).getD []).zipIdx.filterMap fun x =>
    if x.1.queue.isEmpty || !s.firstPart b x.2 then none else some (.storeQueueDrain b x.2)

/-- The event that performs a matrix command. -/
def CmdOp.arrayEvent (core : Nat) : CmdOp → List Event
  | .mma .. => [.mmaArray core, .mcJoinTimeout core]
  | .mdrain .. => [.mdrainArray core]
  | .mzero _ => [.mzeroExec core]
  | .mloadc .. => [.mloadcExec core]
  | .mhist .. => [.mhistExec core]
  | .mhclr _ => [.mhclrExec core]
  | .mwait _ => [.mwaitDeposit core]
  | _ => []

/-- The events of one queue of a core (R155, R311, R313 to R316, R329, R344). -/
def State.queueEvents (s : State) (core q : Nat) : List Event :=
  let x := s.queue core q
  let refill := if x.spill.isEmpty || queueCap ≤ x.standing then [] else [Event.queueRefill false core q]
  let starts := if (s.startable core q).isSome then [Event.engineCommandStart core q] else []
  let deposit := if (((x.q.head?).bind fun c => c.fin).isSome) then [Event.tokenDeposit core q] else []
  let busy := ((x.q.head?).map fun c => c.started && c.fin.isNone).getD false
  refill ++
  if q < 4 then starts ++ (if busy then [.engineChunk core q []] else []) ++ deposit
  else if q = qStream then
    starts ++ (x.q.filterMap fun c => match c.op with
      | .stream oct k => if c.started && c.fin.isNone then some (.streamElement core c.blk k ((octW oct 5).field 0 3)) else none
      | _ => none) ++ deposit
  else if q = qColl then starts ++ (if busy then [.collCombine core [], .collPeerTimeout core] else []) ++ deposit
  else if q = qLaunch then (if x.q.isEmpty then [] else [.launchQueueAdvance core]) ++ [.tokenDeposit core q]
  else if q = qMatrix then starts ++ (if busy then ((x.q.head?).map fun c => c.op.arrayEvent core).getD [] else [])
  else (if x.q.isEmpty then [] else [.drawQueueAdvance core, .lclrExec core]) ++ [.tokenDeposit core q]

/-- Which queues of the launch and draw kind have anything left to deposit. -/
def State.depositIdle (s : State) (core : Nat) : Event → Bool
  | .tokenDeposit _ q => (q == qLaunch || q == qDraw) && (s.queue core q).all.isEmpty && !s.outstanding core q
  | _ => false

/-- The events of a core's queues. -/
def State.coreEvents (s : State) (core : Nat) : List Event :=
  ((List.range 9).flatMap (s.queueEvents core)).filter fun e => !s.depositIdle core e

/-! ### Bobbins (R140 to R143) -/

/-- How many threads a bobbin draws at: the threshold of a coalescing point, else W (R142). -/
def State.bobbinK (s : State) (b : Bobbin) : Nat :=
  match b.key with
  | none => 0
  | some (g, _, _, pc) => match s.grids[g]? with
    | none => 1
    | some x => (((s.part x.part).thresholds.find? fun y => y.1 == g && y.2.1 == pc).map (·.2.2)).getD x.kernel.width

/-- The reform age of a thread's block. -/
def State.reformAge (s : State) (t : TRef) : Nat := ((s.blocks[t.blk]?).map (·.reformAge)).getD 4096

/-- The order of a draw: the longest wait, then the lower block number, then the lower thread index (R142). -/
def State.bobbinOrder (s : State) (l : List (TRef × Nat)) : List (TRef × Nat) :=
  let num := fun (t : TRef) => ((s.blocks[t.blk]?).map (·.num)).getD 0
  l.insertionSort fun a b => !lexLt [a.2, num b.1, b.1.tid] [b.2, num a.1, a.1.tid]

/-- May a bobbin be drawn from (R142)? -/
def State.bobbinReady (s : State) (b : Bobbin) : Bool :=
  !b.threads.isEmpty && (s.bobbinK b ≤ b.threads.length ||
    (match s.bobbinOrder b.threads with | (t, n) :: _ => decide (s.reformAge t ≤ n) | [] => false))

/-- One issue opportunity of waiting for every filed thread of a core. -/
def State.ageBobbins (s : State) (core : Nat) : State :=
  s.modCore core fun c => { c with bobbins := c.bobbins.map fun b => { b with threads := b.threads.map fun x => (x.1, x.2 + 1) } }

/-- The bobbins of a core that are drawn from. -/
def State.bobbinEvents (s : State) (core : Nat) : List Event :=
  (s.core core).bobbins.zipIdx.filterMap fun x => if s.bobbinReady x.1 then some (.bobbinDraw core x.2) else none

/-- The new strand of a draw: a part of it in each block that has a thread in it. -/
def State.addStrand (st : Strand) (s : State) (blk : Nat) : State :=
  s.modBlock blk fun b => { b with strands := b.strands ++ [st] }

/-- The name of the new strand of a draw, where its threads are of more than one block. -/
def State.jointName (s : State) (blks : List Nat) : Option (Nat × Nat) :=
  match blks with
  | b :: _ :: _ => some (b, ((s.blocks[b]?).map (·.strands.length)).getD 0)
  | _ => none

/-- A drawn thread takes its lane in the strand that its block has got last. -/
def State.drawThread (s : State) (x : TRef × Nat) : State :=
  let k := ((s.blocks[x.1.blk]?).map (·.strands.length)).getD 1 - 1
  s.modThread x.1 fun th => { th with filed := false, strand := k, lane := x.2 }

/-- The code objects that a thread's strand executes from (R385). -/
def State.holdsOf (s : State) (t : TRef) : List (List Byte) :=
  (((s.thread? t).bind fun th => s.strand? t.blk th.strand).map (·.holds)).getD []

/-- BOBBIN_DRAW (R142): the threads that have waited longest become a new strand in the slot of the first, at the offset
chosen as at dispatch; after a save and restore of the first thread's block since it was filed, the slot keeps its number (log 89). The
new strand holds the code objects that their strands held (R385, log 35). -/
def execBobbinDraw (core bob : Nat) (s : State) : Host.Outcome State Fault Refusal :=
  match (s.core core).bobbins[bob]? with
  | none => .next s
  | some b =>
    if !s.bobbinReady b then .next s
    else
      let l := s.bobbinOrder b.threads
      let g := (b.key.bind fun k => s.grids[k.1]?)
      let w := (g.map fun g => g.kernel.width).getD 8
      let k := if s.bobbinK b ≤ l.length then s.bobbinK b else w
      let now := l.take (min k l.length)
      let rest := l.drop now.length
      match (now.head?).bind fun x => (s.thread? x.1).bind fun th => s.strand? x.1.blk th.strand with
      | none => .next s
      | some st =>
        let off := pickOffset (s.positions core) st.slot w
        let role := (b.key.map fun k => k.2.2.1).getD .main
        let left : Bobbin := ⟨if rest.isEmpty then none else b.key, rest⟩
        let s := s.modCore core fun c => { c with bobbins := c.bobbins.set bob left }
        let blks := (now.map fun x => x.1.blk).dedup
        let hs := (now.flatMap fun x => s.holdsOf x.1).dedup
        let s := blks.foldl (State.addStrand { (Strand.start role st.slot off).holding hs with joint := s.jointName blks }) s
        .next ((now.zipIdx.map fun x => (x.1.1, x.2)).foldl State.drawThread s)

/-! ### The cycle of a core -/

/-- Is a cycle of a core under a pre-emption request or a shootdown, so that it is not withheld (R378)? -/
def Core.urgent (c : Core) : Bool := c.preempt.isSome || !c.shoots.isEmpty

/-- One cycle of every stall count of a core, filed threads among them: stalls are counted in cycles (R225), withheld ones
too (R378). -/
def State.countStalls (s : State) (core : Nat) : State :=
  (s.threadsOn core).foldl (fun s t => s.modThread t fun th => { th with stall := th.stall - 1 }) s

/-- The events of a core's results at a new cycle. -/
def State.newCycle (s : State) (core : Nat) : State :=
  let s := s.modCore core fun c => { c with cycles := c.cycles + 1 }
  (s.dueResults core).foldl State.mustNow s

/-- WITHHELD_CYCLE (R378): the governor withholds one cycle from issue: the cycle counter and the stall counts advance, nothing
issues and no count of issue opportunities moves. -/
def execWithheldCycle (core : Nat) (s : State) : Host.Outcome State Fault Refusal :=
  if (s.core core).urgent then .next s else .next ((s.newCycle core).countStalls core)

/-- The lowest pc of a strand's threads. -/
def State.lowestPc (s : State) (blk k : Nat) : Option Nat :=
  leastBy (fun x y => decide (x < y)) ((s.strandThreads blk k).filterMap fun t => (s.thread? t).map fun th => th.pc.toNat)

/-- Fetch some words beyond a pc ahead of their use; a word that cannot be fetched is left out. -/
def State.prefetchFrom (core blk k : Nat) : List Nat → State → State
  | [], s => s
  | a :: r, s =>
    if ((s.strand? blk k).bind fun st => st.heldWord a).isSome then State.prefetchFrom core blk k r s
    else match s.fetchMem core blk (Addr.ofNat a) with
      | .word s w => State.prefetchFrom core blk k r (s.modStrand blk k fun st => { st with prefetched := (a, w) :: st.prefetched })
      | _ => s

/-- A strand prefetches up to 8 words beyond its lowest pc (R90); how many is left open (log 6). Words that lie behind are
let go. -/
def State.prefetch (core : Nat) (s : State) (x : Nat × Nat) : State :=
  match s.lowestPc x.1 x.2 with
  | none => s
  | some pc =>
    let n := min 8 (Config.prefetchWords s.free)
    let s := State.modStrand { s with free := s.free + 1 } x.1 x.2 fun st =>
      { st with prefetched := st.prefetched.filter fun w => pc ≤ w.1 && w.1 ≤ pc + 32 }
    State.prefetchFrom core x.1 x.2 ((List.range n).map fun i => pc + 4 * (i + 1)) s

/-- Every strand of a core prefetches. -/
def State.prefetchAll (s : State) (core : Nat) : State :=
  (s.strandsOn core).foldl (State.prefetch core) s

/-- The issues of a cycle, from the ready threads of the core (R134). -/
def State.issues (s : State) (core : Nat) (ready : List TRef) : List (Nat × Issue) :=
  let cs := ready.filterMap s.cand
  (List.range 16).flatMap fun k => s.slotIssues core k (cs.filter fun x => x.slot == k)

/-- One cycle of a core (R134, R136): the waits that can end do, the results that are due come, the threads of the cycle
are chosen and the counts move; what its agents can do next is asked for (log 4). -/
def State.cycle (s : State) (core : Nat) : State :=
  let s := s.settle core
  let late := s.hangEvents core ++ s.starveEvents core
  let s := (late.foldl State.mustNow (s.newCycle core)).prefetchAll core
  let ready := (s.threadsOn core).filter (s.ready core)
  let now := s.issues core ready
  let turn := now.map (·.2)
  let s := ((s.opportunity core ready).countStalls core).ageBobbins core
  let s := s.modCore core fun c => { c with turn := turn, last := now.map fun x => (x.2.slot, x.1, x.2.lanes) }
  let s := (s.bobbinEvents core).foldl State.mustNow s
  s.wantAll (s.threadEvents core ++ s.coreEvents core)

/-- The lanes of an issue that need not wait for a result of the word fetched (R133). -/
def State.keepReady (s : State) (w : Word) : State :=
  { s with issue := { s.issue with lanes := s.issue.lanes.filter fun t => match s.thread? t with
      | some th => !s.wordAwaits s.issue.core t th w
      | none => false } }

/-- The strands of the issuing lanes execute from the code object in which they issue (R385). -/
def State.enterObject (s : State) : State :=
  let p := s.partOf (((s.issue.lanes.head?).map (·.blk)).getD 0)
  match s.objectAt p s.issue.pc.toNat with
  | [] => s
  | h :: _ => s.issuing.foldl (fun s t => match s.thread? t with
    | some th => s.modStrand t.blk th.strand fun k => if k.holds.contains h then k else k.holding (k.holds ++ [h])
    | none => s) s

/-- The lanes that issue a word: those that wait for no result, and the code object that they execute from. -/
def State.issueWord (s : State) (w : Word) : State := (s.keepReady w).noteIssued.enterObject

/-- The lanes of an issue whose fetch waits for a migrating table node (R38). -/
def State.fetchWaits (s : State) : State := s.issue.lanes.foldl (fun s t => s.waitFetch t s.issue.pc) s

/-! ### The single events of a thread -/

/-- WALK_MIG_REREAD (R38): the walk reads the migrating entry again; once its MIG is clear the thread goes on with its
access. -/
def execWalkMigReread (blk tid : Nat) (s : State) : Host.Outcome State Fault Refusal :=
  match s.thread? ⟨blk, tid⟩, s.coreOf blk with
  | some th, some core =>
    match th.walk with
    | none => .next s
    | some ea =>
      let go := fun (s : State) => Host.Outcome.next (s.modThread ⟨blk, tid⟩ fun th => { th with walk := none })
      match s.walk core (s.partOf blk) ea.toNat with
      | .wait s => .next s
      | .leaf s _ _ _ => go s
      | .fault s _ _ => go s
  | _, _ => .next s

/-- The first pending result of a register that a test holds of is taken from the list. -/
def takePending (f : Pending → Bool) : List Pending → Option (Pending × List Pending)
  | [] => none
  | p :: r => if f p then some (p, r) else (takePending f r).map fun x => (x.1, p :: x.2)

/-- A result arrives in its register, or is discarded where a later write has taken the register (R225, R227). -/
def Thread.arriveResult (th : Thread) (f : Pending → Bool) : Thread :=
  match takePending f th.pend with
  | none => th
  | some (p, r) => let th := { th with pend := r }; if p.dead then th else th.setReg p.reg p.res

/-- The variable-latency result of a register that may arrive. One that comes with a seal does not arrive before it (R278). -/
def Pending.variable (p : Pending) (reg : Nat) : Bool := p.reg == reg && p.due.isNone && !p.held

/-- A thread, with those of its strand at its pc: the lanes of one issue, which get the results of its instruction together (R225, log 13). -/
def State.together (s : State) (t : TRef) : List TRef :=
  match s.thread? t with
  | none => []
  | some th =>
    let same := fun (u : TRef) => u != t && ((s.thread? u).map fun x => x.pc == th.pc && x.word == th.word).getD false
    t :: if th.live && !th.filed then ((s.strandThreads t.blk th.strand).filter same).dedup else []

/-- VARIABLE_RESULT_ARRIVE (R225): a variable-latency result arrives, in the lanes of its issue together. -/
def execVariableResultArrive (blk tid reg : Nat) (s : State) : Host.Outcome State Fault Refusal :=
  .next ((s.together ⟨blk, tid⟩).foldl (fun s t => s.modThread t fun th => th.arriveResult fun p => p.variable reg) s)

/-- FIXED_LATENCY_RESULT (R225): a fixed-latency result arrives once its cycle has come, but not while an instruction that
has read its registers still waits (R227). -/
def execFixedLatencyResult (blk tid reg : Nat) (s : State) : Host.Outcome State Fault Refusal :=
  match s.coreOf blk with
  | none => .next s
  | some core => .next (s.modThread ⟨blk, tid⟩ fun th =>
      if th.reads then th else th.arriveResult fun p => p.reg == reg && p.dueAt (s.core core).cycles)

/-- STORE_QUEUE_DRAIN (R104): the oldest write of a strand's store queue is performed; a fill wakes the loads that wait for
its granules (R59). -/
def execStoreQueueDrain (blk strand : Nat) (s : State) : Host.Outcome State Fault Refusal :=
  .next (s.drainOne blk strand)

/-- The trap Hang of one thread, at its instruction boundary (R147, R212). -/
def State.hang (s : State) (t : TRef) (sub : Nat) (word : Word) : State :=
  match s.coreOf t.blk, s.thread? t with
  | some core, some th =>
    let s := s.modThread t fun th => { th.unpark with starve := 0, walk := none }
    State.deliver { s with issue := ⟨core, 0, [t], th.pc, word⟩ } [⟨t, 0x31, sub, 0⟩] none
  | _, _ => s

/-- HANG_TIMEOUT (R147): a thread parked in a checked wait whose counter has reached 2^HANG raises Hang 0x01; if the wait
has ended meanwhile it does not (R212). -/
def execHangTimeout (blk tid : Nat) (s : State) : Host.Outcome State Fault Refusal :=
  match s.coreOf blk, s.thread? ⟨blk, tid⟩ with
  | some core, some th =>
    if th.live && (th.park.map Park.checked).getD false && progThreshold (s.core core).hangExp ≤ th.hang then
      .next (s.hang ⟨blk, tid⟩ 0x01 th.word)
    else .next s
  | _, _ => .next s

/-- STARVATION_TIMEOUT (R147): a ready thread whose timer has reached 2^STARVE raises Hang 0x02; %trapinst is the word it
would have issued. -/
def execStarvationTimeout (blk tid : Nat) (s : State) : Host.Outcome State Fault Refusal :=
  match s.coreOf blk, s.thread? ⟨blk, tid⟩ with
  | some core, some th =>
    if th.live && !th.filed && th.park.isNone && progThreshold (s.core core).starveExp ≤ th.starve then
      .next (s.hang ⟨blk, tid⟩ 0x02 ((s.peek core ⟨blk, tid⟩ th.pc).getD 0))
    else .next s
  | _, _ => .next s

/-- YIELD_EXPIRY (R270): the thread is ready again. -/
def execYieldExpiry (blk tid : Nat) (s : State) : Host.Outcome State Fault Refusal :=
  .next (s.modThread ⟨blk, tid⟩ fun th => { th with yield := 0 })

end Sys2Proof.Machine
end

