-- ==== Sys2Proof/Machine/Special.lean ====
section
/-! DEFINITION. The special registers and WINB (R144, R159, R171, R182, R214, R226, R230, R232, R255, R256). -/

namespace Sys2Proof.Machine

/-- The code of a progress class (R144). -/
def ProgClass.code : ProgClass → Nat
  | .c => 0 | .p => 1 | .w => 2

/-- The logical number of a physical core: its place in the LPCT (R159, R232). -/
def State.logical (s : State) (c : Nat) : Nat := s.lpct.findIdx fun b => b.toNat == c

/-- %trapcause (R214). -/
def TrapRegs.causeWord (r : TrapRegs) : Word := Word.ofNat ((if r.inHandler then 2 ^ 31 else 0) + r.cause.toNat)

/-- %trapinfo (R214). -/
def TrapRegs.infoWord (r : TrapRegs) : Word := Word.ofNat (r.first.toNat * 256 + r.sub.toNat)

/-- The value of a special register as MOVS reads it (R232). -/
def State.special (s : State) (t : TRef) (th : Thread) (n : Nat) : Word :=
  let core := s.core s.issue.core
  let c := s.issue.core
  let k := s.kernel t.blk
  let blk := s.blocks[t.blk]?
  if 0x0410 ≤ n && n ≤ 0x0421 then wordOf ((s.lpct.drop (4 * (n - 0x0410))).take 4)
  else (([(0x0000, Word.ofNat t.tid),
    (0x0001, Word.ofNat ((blk.map (·.num)).getD 0)),
    (0x0002, Word.ofNat th.lane),
    (0x0003, Word.ofNat th.strand),
    (0x0004, Word.ofNat (s.logical c)),
    (0x0005, Word.ofNat c),
    (0x0006, Word.ofNat (c / 4)),
    (0x0007, Word.ofNat (c / 36)),
    (0x0008, Word.ofNat s.pkg.toNat),
    (0x0100, th.trap.causeWord),
    (0x0101, th.trap.epc.truncate 32),
    (0x0102, (th.trap.epc >>> 32).truncate 32),
    (0x0103, th.trap.mask.truncate 32),
    (0x0104, (th.trap.mask >>> 32).truncate 32),
    (0x0105, th.trap.infoWord),
    (0x0106, th.trap.inst),
    (0x0107, th.trap.vec.truncate 32),
    (0x0108, (th.trap.vec >>> 32).truncate 32),
    (0x0200, Word.ofNat ((if k.bf16 then 16 else 0) + k.d)),
    (0x0201, th.plystride.zeroExtend 32),
    (0x0202, k.plycat),
    (0x0300, th.fpctl.zeroExtend 32),
    (0x0301, th.fpflags.zeroExtend 32),
    (0x0400, s.hv.truncate 32),
    (0x0401, Word.ofNat ((s.hv >>> 32).toNat % 16)),
    (0x0402, (s.hv >>> 36).truncate 32),
    (0x0403, Word.ofNat ((s.hv >>> 68).toNat % 16)),
    (0x0500, Word.ofNat ((blk.map (·.reformAge)).getD 0)),
    (0x0501, Word.ofNat k.cls.code),
    (0x0502, Word.ofNat k.width),
    (0x0503, if th.chk then 1 else 0),
    (0x0504, Word.ofNat (core.hangExp * 256 + core.starveExp))] : List (Nat × Word)).lookup n).getD 0

/-- The low 32 bits of a 48-bit address register replaced; bits [1:0] stay 0 (R214). -/
def setLow48 (x : BitVec 48) (v : Word) : BitVec 48 := x.extractLsb' 32 16 ++ (v &&& 0xFFFFFFFC#32)

/-- The high 16 bits of a 48-bit address register replaced (R214). -/
def setHigh48 (x : BitVec 48) (v : Word) : BitVec 48 := v.extractLsb' 0 16 ++ x.extractLsb' 0 32

/-- What MOVTS stores in %reformage (R144). -/
def reformAgeOf (v : Word) : Nat := min (max (v.toNat % 2 ^ 17) 256) 65536

/-- A MOVTS to one of the thread's own registers; a register or field marked R ignores it (R214, R171, R182, R226). -/
def Thread.setSpecial (th : Thread) (n : Nat) (v : Word) : Thread :=
  if n = 0x0101 then { th with trap := { th.trap with epc := setLow48 th.trap.epc v } }
  else if n = 0x0102 then { th with trap := { th.trap with epc := setHigh48 th.trap.epc v } }
  else if n = 0x0107 then { th with trap := { th.trap with vec := setLow48 th.trap.vec v } }
  else if n = 0x0108 then { th with trap := { th.trap with vec := setHigh48 th.trap.vec v } }
  else if n = 0x0201 then { th with plystride := v.truncate 24 }
  else if n = 0x0300 then { th with fpctl := v.truncate 5 }
  else if n = 0x0301 then { th with fpflags := v.truncate 5 }
  else if n = 0x0503 then { th with chk := v.getLsbD 0 }
  else th

/-- MOVS (R255): a special register into d, with ZERO plies and variable latency. -/
def execMovs (d : RegName) (n : BitVec 16) (st : Stall) (s : State) : Host.Outcome State Fault Refusal :=
  s.run (.movs d n st) st fun s t th =>
    .next (s.modThread t fun _ => th.result (archOf th.wb d) (Reg.plain (s.special t th n.toNat)) none)

/-- MOVTS (R255): the value of d into a special register; %reformage is the block's (R144). -/
def execMovts (d : RegName) (n : BitVec 16) (st : Stall) (s : State) : Host.Outcome State Fault Refusal :=
  s.run (.movts d n st) st fun s t th =>
    let s' := s.modThread t fun _ => th.setSpecial n.toNat (th.val d)
    .next (if n = 0x0500#16 then s'.modBlock t.blk fun b => { b with reformAge := reformAgeOf (th.val d) } else s')

/-- WINB (R256, R230): the window base. -/
def execWinb (imm : BitVec 16) (st : Stall) (s : State) : Host.Outcome State Fault Refusal :=
  s.runLocal (.winb imm st) st fun _ th => .next { th with wb := imm.toNat }

end Sys2Proof.Machine
end

