-- ==== Sys2Proof/Machine/Traverse.lean ====
section
/-! DEFINITION. Ray traversal (R207 to R209, R348 to R353): box and triangle tests, opacity micro-maps, the traversal
stack, TRVSTEP. -/

namespace Sys2Proof.Machine

/-- A ray octet (R348). -/
def rayOf (th : Thread) (a : RegName) : List Word := th.vals a 8

/-- Read a box node or triangle: AddressFault 0x05 where it is misaligned (R348, R354). -/
def State.readNode (s : State) (t : TRef) (th : Thread) (ea n al : Nat) : Except Lane (State × List Byte) :=
  if 2 ^ 48 ≤ ea then .error (.trap s 0x20 0x01 ea)
  else if ea % al ≠ 0 then .error (.trap s 0x20 0x05 ea)
  else State.greadFrom t th 3 s ea n

/-! ### Boxes (R349, R207) -/

/-- One child of a box node: its kind, run length less one, offset, and its box, min then max. -/
structure Child where
  kind : Nat
  run : Nat
  off : Word
  box : List Word
  deriving DecidableEq, Repr

/-- The children of a box node (R207). -/
def boxChildren (b : List Byte) : List Child :=
  (List.range 4).map fun c =>
    let r := fieldAt b (96 + 8 * c) 8
    ⟨r / 2 ^ 62, r / 2 ^ 58 % 16, Word.ofNat (r % 2 ^ 32), (List.range 6).map fun i => Word.ofNat (fieldAt b (24 * c + 4 * i) 4)⟩

/-- The larger and the smaller of two f32 words, a NaN losing to a number (R176). -/
def max32 (x y : Word) : Word := Word.ofNat (Fmt.f32.minmaxOp true x.toNat y.toNat).1
def min32 (x y : Word) : Word := Word.ofNat (Fmt.f32.minmaxOp false x.toNat y.toNat).1

/-- The entry and exit of a ray on one axis: a NaN operand of the minimum counts as −∞, one of the maximum as +∞ (R349). -/
def slab (lo hi o dir : Word) : Word × Word :=
  let tl := div32 (sub32 lo o) dir
  let th := div32 (sub32 hi o) dir
  let nan := fun (x r : Word) => if isNan32 x then r else x
  (min32 (nan tl 0xFF800000) (nan th 0xFF800000), max32 (nan tl 0x7F800000) (nan th 0x7F800000))

/-- A child's near distance, and whether it is hit (R349). -/
def boxHit (ray : List Word) (c : Child) : Word × Bool :=
  let r := fun i => ray.getD i 0
  let b := fun i => c.box.getD i 0
  let ax := (List.range 3).map fun i => slab (b i) (b (3 + i)) (r i) (r (3 + i))
  let near := ax.foldl (fun m x => max32 m x.1) (r 6)
  let far := ax.foldl (fun m x => min32 m x.2) (r 7)
  (near, (c.kind == 1 || c.kind == 2) && cmpVal .le (f32v near) (f32v far))

/-- The order of the children: hits by near distance, lower index first on a tie, then misses by index (R349). -/
def boxOrder (h : List (Word × Bool)) : List Nat :=
  let hits := (h.zipIdx.filter fun x => x.1.2).insertionSort fun x y => !(f32v y.1.1).lt (f32v x.1.1)
  hits.map (·.2) ++ (h.zipIdx.filter fun x => !x.1.2).map (·.2)

/-- A mask of child indices. -/
def idxMask (l : List Nat) : Nat := (l.map fun i => 2 ^ i).sum

/-- The order field of R349: four 2-bit indices, field 0 first. -/
def orderField (l : List Nat) : Nat := (l.zipIdx.map fun x => x.1 * 4 ^ x.2).sum

/-- The children with their tests. -/
def boxTests (ray : List Word) (b : List Byte) : List (Child × Word × Bool) :=
  (boxChildren b).map fun c => (c, boxHit ray c)

/-- d and d + 1 of TRVBOX (R349). -/
def boxOut (ray : List Word) (b : List Byte) : Word × Word :=
  let l := boxTests ray b
  let h := l.map (·.2)
  let hits := (boxOrder h).filter fun i => ((h[i]?).map (·.2)).getD false
  let near := ((hits.head?).bind fun i => (h[i]?).map (·.1)).getD 0x7F800000
  (Word.ofNat (idxMask hits + 256 * orderField (boxOrder h) + (if l.any fun x => x.1.kind == 3 then 2 ^ 31 else 0)), near)

/-- TRVBOX (R349): d + 2 and d + 3 are unchanged. -/
def execTrvbox (d a : RegName) (st : Stall) (s : State) : Host.Outcome State Fault Refusal :=
  s.run (.trvbox d a st) st fun s t th =>
    match s.readNode t th (th.pair (member d 2)).toNat 128 64 with
    | .error l => l
    | .ok (s, b) => s.gdone t d [Reg.plain (boxOut (rayOf th a) b).1, Reg.plain (boxOut (rayOf th a) b).2]

/-! ### Triangles (R350) -/

/-- A vector of f32 words. -/
abbrev Vec := List Word

/-- Component i as an exact value. -/
def Vec.v (x : Vec) (i : Nat) : Val := f32v (x.getD i 0)

/-- The difference, each component rounded. -/
def vsub (x y : Vec) : Vec := (List.range 3).map fun i => sub32 (x.getD i 0) (y.getD i 0)

/-- The cross product: each component formed exactly and rounded once. -/
def vcross (x y : Vec) : Vec :=
  [(1, 2), (2, 0), (0, 1)].map fun p => rne32 (((x.v p.1).mul (y.v p.2)).sub ((x.v p.2).mul (y.v p.1)))

/-- The dot product: formed exactly and rounded once. -/
def vdot (x y : Vec) : Word :=
  rne32 ((((x.v 0).mul (y.v 0)).add ((x.v 1).mul (y.v 1))).add ((x.v 2).mul (y.v 2)))

/-- Vertex i of a triangle (R207). -/
def triVertex (b : List Byte) (i : Nat) : Vec := (List.range 3).map fun j => Word.ofNat (fieldAt b (12 * i + 4 * j) 4)

/-- The four results of TRVTRI (R350). -/
def triOut (ray : List Word) (b : List Byte) : List Word :=
  let o := ray.take 3
  let dir := (ray.drop 3).take 3
  let e1 := vsub (triVertex b 1) (triVertex b 0)
  let e2 := vsub (triVertex b 2) (triVertex b 0)
  let s := vsub o (triVertex b 0)
  let p := vcross dir e2
  let q := vcross s e1
  let det := vdot e1 p
  let u := div32 (vdot s p) det
  let v := div32 (vdot dir q) det
  let t := div32 (vdot e2 q) det
  let le := fun (x y : Word) => cmpVal .le (f32v x) (f32v y)
  let hit := cmpVal .ne (f32v det) Val.zero && le 0 u && le 0 v && le (add32 u v) 0x3F800000 && le (ray.getD 6 0) t && le t (ray.getD 7 0)
  if hit then [t, u, v, Word.ofNat (fieldAt b 36 4)] else [0x7F800000, 0, 0, 0]

/-- TRVTRI (R350). -/
def execTrvtri (d a : RegName) (st : Stall) (s : State) : Host.Outcome State Fault Refusal :=
  s.run (.trvtri d a st) st fun s t th =>
    match s.readNode t th (th.pair (member d 2)).toNat 48 16 with
    | .error l => l
    | .ok (s, b) => s.gdone t d ((triOut (rayOf th a) b).map Reg.plain)

/-! ### Opacity micro-maps (R208, R351) -/

/-- A barycentric coordinate scaled by 2^n: its floor and its fraction; one that is not finite or is negative counts
as 0. -/
def baryScaled (x : Word) (n : Nat) : Int × Val :=
  let v := match f32v x with | .fin false m e => Val.fin false m (e + n) | _ => Val.zero
  (v.floorInt, v.sub (Val.ofInt v.floorInt 0))

/-- The index of a hit's sub-triangle (R208), as the formula gives it also for a hit outside the triangle. -/
def microIndex (u v : Word) (n : Nat) : Int :=
  let N : Int := 2 ^ n
  let i := baryScaled u n
  let j := baryScaled v n
  let d : Int := if (i.2.add j.2).lt Val.one then 0 else 1
  let past := i.1 + j.1 > N - 1
  let i' := if past then N - 1 - j.1 else i.1
  let d' := if past then 0 else d
  j.1 * (2 * N - j.1) + 2 * i' + d'

/-- TRVOMM (R351). The tree base, from which a micro-map's offset counts (R207), is no operand of it: a free value that
belongs to the triangle's address (log 34). -/
def execTrvomm (d a : RegName) (st : Stall) (s : State) : Host.Outcome State Fault Refusal :=
  s.run (.trvomm d a st) st fun s t th => orLane do
    let tri := (th.pair (member a 2)).toNat
    let (s, b) ← s.readNode t th tri 48 16
    let f := fieldAt b 40 4
    let out := fun (s : State) (v : Nat) => s.gdone t d [Reg.plain (Word.ofNat v)]
    let n := f / 16 % 16
    if f % 2 = 1 then .ok (out s 3)
    else if f / 256 % 2 = 0 then .ok (out s 2)
    else if 8 < n then .ok (out s (2 + 2 ^ 31))
    else
      let k := microIndex (th.val a) (th.valAt a 1) n
      let ea := (Config.treeBase (Addr.ofNat tri) + Addr.ofNat (fieldAt b 44 4) + BitVec.ofInt 64 (k / 4)).toNat
      let (s, m) ← s.gread t th ea 1 1
      .ok (out s (fieldAt m 0 1 / 4 ^ (k % 4).toNat % 4))

/-! ### The traversal stack (R209, R352) -/

/-- The stack of a kernel: its first register and its entries, if it declares one. -/
def Kernel.stack (k : Kernel) : Option (Nat × Nat) := if k.trvN = 0 then none else some (k.trvBase, k.trvN)

/-- Does the range lie within the thread's allocation (R209)? -/
def stackOk (th : Thread) (st : Nat × Nat) : Bool := st.1 + st.2 ≤ max 1 th.regs.length

/-- Push one offset: onto a full stack the deepest entry is dropped and the restart bit set (R352). -/
def Thread.push (th : Thread) (st : Nat × Nat) (v : Word) : Thread :=
  let (n, e) := st
  if th.trvCount < e then { th.putNow (n + th.trvCount) (Reg.plain v) with trvCount := th.trvCount + 1 }
  else
    let moved := (List.range (e - 1)).foldl (fun t i => t.putNow (n + i) (Reg.plain ((th.reg (n + i + 1)).val))) th
    { moved.putNow (n + e - 1) (Reg.plain v) with trvRestart := true }

/-- Pop: an entry, the root after an overflow, or none (R352). -/
def Thread.pop (th : Thread) (st : Nat × Nat) : Thread × Word :=
  if 0 < th.trvCount then ({ th with trvCount := th.trvCount - 1 }, (th.reg (st.1 + (th.trvCount - 1))).val)
  else if th.trvRestart then ({ th with trvRestart := false }, 0)
  else (th, 0xFFFFFFFF)

/-- Do what needs the stack: RegRange 0x05 without one, 0x01 beyond the allocation; it waits for results on their way to the
range. -/
def withStack (s : State) (t : TRef) (th : Thread) (f : Nat × Nat → Lane) : Lane :=
  match (s.kernel t.blk).stack with
  | none => .trap s 0x05 0x05 0
  | some st =>
    if !stackOk th st then .trap s 0x05 0x01 0
    else if th.awaits (s.core s.issue.core).cycles ((List.range st.2).map (· + st.1)) then .stay s
    else f st

/-- TRVPUSH (R352). -/
def execTrvpush (a : RegName) (st : Stall) (s : State) : Host.Outcome State Fault Refusal :=
  s.run (.trvpush a st) st fun s t th => withStack s t th fun k => .next (s.modThread t fun _ => th.push k (th.val a))

/-- TRVPOP (R352). -/
def execTrvpop (d : RegName) (st : Stall) (s : State) : Host.Outcome State Fault Refusal :=
  s.run (.trvpop d st) st fun s t th => withStack s t th fun k =>
    (s.modThread t fun _ => (th.pop k).1).gdone t d [Reg.plain (th.pop k).2]

/-- The hit children of a box node of a kind, near to far: their index and offset (R353). -/
def stepChildren (ray : List Word) (b : List Byte) (kind : Nat) : List (Nat × Word) :=
  let l := boxTests ray b
  (boxOrder (l.map (·.2))).filterMap fun i => match l[i]? with
    | some (c, _, true) => if c.kind = kind then some (i, c.off) else none
    | _ => none

/-- TRVSTEP (R353). -/
def execTrvstep (d a : RegName) (st : Stall) (s : State) : Host.Outcome State Fault Refusal :=
  s.run (.trvstep d a st) st fun s t th =>
    let arch := fun (i : Nat) => archOf th.wb (member d i)
    let node := th.valAt d 2
    if node = 0xFFFFFFFF#32 then .next (s.modThread t fun th => th.result (arch 3) (Reg.plain 0) none)
    else orLane do
      let (s, _, base) ← s.lookup t (th.pair d).toNat
      let (s, b) ← s.readNode t th (Addr.ofNat base + Addr.ofNat (64 * node.toNat)).toNat 128 64
      let ray := rayOf th a
      let runs := (stepChildren ray b 2).map (·.1)
      let order := boxOrder ((boxTests ray b).map (·.2))
      let boxes := (stepChildren ray b 1).map (·.2)
      let out := Reg.plain (Word.ofNat (idxMask runs + 256 * orderField order))
      let finish := fun (s : State) (f : Thread → Thread) =>
        Lane.next (s.modThread t fun th => ((f th).result (arch 2) (Reg.plain (boxes.headD 0xFFFFFFFF)) none).result (arch 3) out none)
      if boxes.length ≤ 1 then .ok (finish s id)
      else .ok (withStack s t th fun k => finish s fun th => boxes.tail.reverse.foldl (fun th v => th.push k v) th)

end Sys2Proof.Machine
end

