-- ==== Sys2Proof/Machine/Dispatch.lean ====
section
/-! DEFINITION. The dispatch: one arm for every constructor of `Instr`. -/

namespace Sys2Proof.Machine

/-- What an instruction, or a step of another agent, does to the machine. -/
def exec (i : Instr) (s : State) : Host.Outcome State Fault Refusal :=
  match i with
  | .iadd d a b w st => Sys2Proof.Machine.execIadd d a b w st s
  | .isub d a b w st => Sys2Proof.Machine.execIsub d a b w st s
  | .imul d a b w st => Sys2Proof.Machine.execImul d a b w st s
  | .imulh d a b w st => Sys2Proof.Machine.execImulh d a b w st s
  | .imulhn d a b w st => Sys2Proof.Machine.execImulhn d a b w st s
  | .imad d a b w st => Sys2Proof.Machine.execImad d a b w st s
  | .and d a b w st => Sys2Proof.Machine.execAnd d a b w st s
  | .or d a b w st => Sys2Proof.Machine.execOr d a b w st s
  | .xor d a b w st => Sys2Proof.Machine.execXor d a b w st s
  | .andn d a b w st => Sys2Proof.Machine.execAndn d a b w st s
  | .shl d a b w st => Sys2Proof.Machine.execShl d a b w st s
  | .shr d a b w st => Sys2Proof.Machine.execShr d a b w st s
  | .sar d a b w st => Sys2Proof.Machine.execSar d a b w st s
  | .imin d a b w st => Sys2Proof.Machine.execImin d a b w st s
  | .imax d a b w st => Sys2Proof.Machine.execImax d a b w st s
  | .iminn d a b w st => Sys2Proof.Machine.execIminn d a b w st s
  | .imaxn d a b w st => Sys2Proof.Machine.execImaxn d a b w st s
  | .iset d a b c st => Sys2Proof.Machine.execIset d a b c st s
  | .isetn d a b c st => Sys2Proof.Machine.execIsetn d a b c st s
  | .sel d a b w st => Sys2Proof.Machine.execSel d a b w st s
  | .bfx d a b w st => Sys2Proof.Machine.execBfx d a b w st s
  | .bfi d a b w st => Sys2Proof.Machine.execBfi d a b w st s
  | .add64 d a b st => Sys2Proof.Machine.execAdd64 d a b st s
  | .sub64 d a b st => Sys2Proof.Machine.execSub64 d a b st s
  | .mul64 d a b st => Sys2Proof.Machine.execMul64 d a b st s
  | .madw d a b st => Sys2Proof.Machine.execMadw d a b st s
  | .shfr d a b st => Sys2Proof.Machine.execShfr d a b st s
  | .addi d a imm st => Sys2Proof.Machine.execAddi d a imm st s
  | .andi d a imm st => Sys2Proof.Machine.execAndi d a imm st s
  | .ori d a imm st => Sys2Proof.Machine.execOri d a imm st s
  | .xori d a imm st => Sys2Proof.Machine.execXori d a imm st s
  | .shli d a imm st => Sys2Proof.Machine.execShli d a imm st s
  | .shri d a imm st => Sys2Proof.Machine.execShri d a imm st s
  | .sari d a imm st => Sys2Proof.Machine.execSari d a imm st s
  | .isetlti d a imm st => Sys2Proof.Machine.execIsetlti d a imm st s
  | .muli d a imm st => Sys2Proof.Machine.execMuli d a imm st s
  | .addpi d a imm st => Sys2Proof.Machine.execAddpi d a imm st s
  | .lui d imm st => Sys2Proof.Machine.execLui d imm st s
  | .orlo d imm st => Sys2Proof.Machine.execOrlo d imm st s
  | .movi d imm st => Sys2Proof.Machine.execMovi d imm st s
  | .movs d n st => Sys2Proof.Machine.execMovs d n st s
  | .movts d n st => Sys2Proof.Machine.execMovts d n st s
  | .winb imm st => Sys2Proof.Machine.execWinb imm st s
  | .mov d a w st => Sys2Proof.Machine.execMov d a w st s
  | .not d a st => Sys2Proof.Machine.execNot d a st s
  | .ineg d a st => Sys2Proof.Machine.execIneg d a st s
  | .iabs d a st => Sys2Proof.Machine.execIabs d a st s
  | .popc d a st => Sys2Proof.Machine.execPopc d a st s
  | .clz d a st => Sys2Proof.Machine.execClz d a st s
  | .ctz d a st => Sys2Proof.Machine.execCtz d a st s
  | .brev d a st => Sys2Proof.Machine.execBrev d a st s
  | .sext8 d a st => Sys2Proof.Machine.execSext8 d a st s
  | .sext16 d a st => Sys2Proof.Machine.execSext16 d a st s
  | .zext8 d a st => Sys2Proof.Machine.execZext8 d a st s
  | .zext16 d a st => Sys2Proof.Machine.execZext16 d a st s
  | .idiv d a st => Sys2Proof.Machine.execIdiv d a st s
  | .idivn d a st => Sys2Proof.Machine.execIdivn d a st s
  | .irem d a st => Sys2Proof.Machine.execIrem d a st s
  | .iremn d a st => Sys2Proof.Machine.execIremn d a st s
  | .cvt d a src dst sat rnd st => Sys2Proof.Machine.execCvt d a src dst sat rnd st s
  | .voteany d a st => Sys2Proof.Machine.execVoteany d a st s
  | .voteall d a st => Sys2Proof.Machine.execVoteall d a st s
  | .ballot d a st => Sys2Proof.Machine.execBallot d a st s
  | .active d st => Sys2Proof.Machine.execActive d st s
  | .matchLanes d a st => Sys2Proof.Machine.execMatchLanes d a st s
  | .first d a st => Sys2Proof.Machine.execFirst d a st s
  | .shflIdx d a b st => Sys2Proof.Machine.execShflIdx d a b st s
  | .shflUp d a b st => Sys2Proof.Machine.execShflUp d a b st s
  | .shflDown d a b st => Sys2Proof.Machine.execShflDown d a b st s
  | .shflXor d a b st => Sys2Proof.Machine.execShflXor d a b st s
  | .brz a off st => Sys2Proof.Machine.execBrz a off st s
  | .brnz a off st => Sys2Proof.Machine.execBrnz a off st s
  | .brltz a off st => Sys2Proof.Machine.execBrltz a off st s
  | .brgez a off st => Sys2Proof.Machine.execBrgez a off st s
  | .jmp off st => Sys2Proof.Machine.execJmp off st s
  | .call off st => Sys2Proof.Machine.execCall off st s
  | .calli a pair st => Sys2Proof.Machine.execCalli a pair st s
  | .jmpi a pair st => Sys2Proof.Machine.execJmpi a pair st s
  | .jpush off st => Sys2Proof.Machine.execJpush off st s
  | .rejoin st => Sys2Proof.Machine.execRejoin st s
  | .brkn n st => Sys2Proof.Machine.execBrkn n st s
  | .exit st => Sys2Proof.Machine.execExit st s
  | .reform st => Sys2Proof.Machine.execReform st s
  | .yield st => Sys2Proof.Machine.execYield st s
  | .nop st => Sys2Proof.Machine.execNop st s
  | .trap code st => Sys2Proof.Machine.execTrap code st s
  | .brk code st => Sys2Proof.Machine.execBrk code st s
  | .svc code st => Sys2Proof.Machine.execSvc code st s
  | .eretRetry st => Sys2Proof.Machine.execEretRetry st s
  | .eretSkip st => Sys2Proof.Machine.execEretSkip st s
  | .eretSubst a st => Sys2Proof.Machine.execEretSubst a st s
  | .isync st => Sys2Proof.Machine.execIsync st s
  | .icinv d a sync st => Sys2Proof.Machine.execIcinv d a sync st s
  | .cycles d st => Sys2Proof.Machine.execCycles d st s
  | .launch d a st => Sys2Proof.Machine.execLaunch d a st s
  | .fadd d a b w st => Sys2Proof.Machine.execFadd d a b w st s
  | .fsub d a b w st => Sys2Proof.Machine.execFsub d a b w st s
  | .fmul d a b w st => Sys2Proof.Machine.execFmul d a b w st s
  | .ffma d a b w st => Sys2Proof.Machine.execFfma d a b w st s
  | .fmin d a b w st => Sys2Proof.Machine.execFmin d a b w st s
  | .fmax d a b w st => Sys2Proof.Machine.execFmax d a b w st s
  | .fcmp d a b c st => Sys2Proof.Machine.execFcmp d a b c st s
  | .fcmpm d a b c st => Sys2Proof.Machine.execFcmpm d a b c st s
  | .fdiv d a b w st => Sys2Proof.Machine.execFdiv d a b w st s
  | .fabs d a f st => Sys2Proof.Machine.execFabs d a f st s
  | .fneg d a f st => Sys2Proof.Machine.execFneg d a f st s
  | .ffloor d a f st => Sys2Proof.Machine.execFfloor d a f st s
  | .fceil d a f st => Sys2Proof.Machine.execFceil d a f st s
  | .fround d a f st => Sys2Proof.Machine.execFround d a f st s
  | .ftrunc d a f st => Sys2Proof.Machine.execFtrunc d a f st s
  | .ffrac d a f st => Sys2Proof.Machine.execFfrac d a f st s
  | .fsqrt d a f st => Sys2Proof.Machine.execFsqrt d a f st s
  | .frcp d a f st => Sys2Proof.Machine.execFrcp d a f st s
  | .frsq d a f st => Sys2Proof.Machine.execFrsq d a f st s
  | .fexp2 d a f st => Sys2Proof.Machine.execFexp2 d a f st s
  | .flog2 d a f st => Sys2Proof.Machine.execFlog2 d a f st s
  | .fexp d a f st => Sys2Proof.Machine.execFexp d a f st s
  | .flog d a f st => Sys2Proof.Machine.execFlog d a f st s
  | .fsinpi d a f st => Sys2Proof.Machine.execFsinpi d a f st s
  | .fcospi d a f st => Sys2Proof.Machine.execFcospi d a f st s
  | .ftanh d a f st => Sys2Proof.Machine.execFtanh d a f st s
  | .fsigm d a f st => Sys2Proof.Machine.execFsigm d a f st s
  | .fgelu d a f st => Sys2Proof.Machine.execFgelu d a f st s
  | .ferf d a f st => Sys2Proof.Machine.execFerf d a f st s
  | .fsqrtx d a st => Sys2Proof.Machine.execFsqrtx d a st s
  | .frcpx d a st => Sys2Proof.Machine.execFrcpx d a st s
  | .frsqx d a st => Sys2Proof.Machine.execFrsqx d a st s
  | .fexp2x d a st => Sys2Proof.Machine.execFexp2x d a st s
  | .flog2x d a st => Sys2Proof.Machine.execFlog2x d a st s
  | .fsinpix d a st => Sys2Proof.Machine.execFsinpix d a st s
  | .fcospix d a st => Sys2Proof.Machine.execFcospix d a st s
  | .ftanhx d a st => Sys2Proof.Machine.execFtanhx d a st s
  | .padd2 d a b bf st => Sys2Proof.Machine.execPadd2 d a b bf st s
  | .pmul2 d a b bf st => Sys2Proof.Machine.execPmul2 d a b bf st s
  | .pfma2 d a b bf st => Sys2Proof.Machine.execPfma2 d a b bf st s
  | .pmax2 d a b bf st => Sys2Proof.Machine.execPmax2 d a b bf st s
  | .pmin2 d a b bf st => Sys2Proof.Machine.execPmin2 d a b bf st s
  | .redmax d a t st => Sys2Proof.Machine.execRedmax d a t st s
  | .redmin d a t st => Sys2Proof.Machine.execRedmin d a t st s
  | .redsum d a st => Sys2Proof.Machine.execRedsum d a st s
  | .redvar d a st => Sys2Proof.Machine.execRedvar d a st s
  | .rediadd d a t st => Sys2Proof.Machine.execRediadd d a t st s
  | .redand d a t st => Sys2Proof.Machine.execRedand d a t st s
  | .redor d a t st => Sys2Proof.Machine.execRedor d a t st s
  | .redxor d a t st => Sys2Proof.Machine.execRedxor d a t st s
  | .plyget d a k st => Sys2Proof.Machine.execPlyget d a k st s
  | .plyset d a k st => Sys2Proof.Machine.execPlyset d a k st s
  | .plyzero d k st => Sys2Proof.Machine.execPlyzero d k st s
  | .plylose d st => Sys2Proof.Machine.execPlylose d st s
  | .plytag d a st => Sys2Proof.Machine.execPlytag d a st s
  | .plyclrk d st => Sys2Proof.Machine.execPlyclrk d st s
  | .drev d a b w st => Sys2Proof.Machine.execDrev d a b w st s
  | .dflip d a b w st => Sys2Proof.Machine.execDflip d a b w st s
  | .ldb d a imm st => Sys2Proof.Machine.execLdb d a imm st s
  | .ldbs d a imm st => Sys2Proof.Machine.execLdbs d a imm st s
  | .ldh d a imm st => Sys2Proof.Machine.execLdh d a imm st s
  | .ldhs d a imm st => Sys2Proof.Machine.execLdhs d a imm st s
  | .ldw d a imm w st => Sys2Proof.Machine.execLdw d a imm w st s
  | .stb d a imm st => Sys2Proof.Machine.execStb d a imm st s
  | .sth d a imm st => Sys2Proof.Machine.execSth d a imm st s
  | .stw d a imm w st => Sys2Proof.Machine.execStw d a imm w st s
  | .ldt d a imm f st => Sys2Proof.Machine.execLdt d a imm f st s
  | .stt d a imm f st => Sys2Proof.Machine.execStt d a imm f st s
  | .ldfe d a imm w st => Sys2Proof.Machine.execLdfe d a imm w st s
  | .ldfec d a imm w st => Sys2Proof.Machine.execLdfec d a imm w st s
  | .stfe d a imm w st => Sys2Proof.Machine.execStfe d a imm w st s
  | .lda d a sc pair st => Sys2Proof.Machine.execLda d a sc pair st s
  | .stl d a sc pair st => Sys2Proof.Machine.execStl d a sc pair st s
  | .fenceAcq sc st => Sys2Proof.Machine.execFenceAcq sc st s
  | .fenceRel sc st => Sys2Proof.Machine.execFenceRel sc st s
  | .fenceAcqrel sc st => Sys2Proof.Machine.execFenceAcqrel sc st s
  | .fenceSc sc st => Sys2Proof.Machine.execFenceSc sc st s
  | .fenceIfetch sc st => Sys2Proof.Machine.execFenceIfetch sc st s
  | .fenceTable sc st => Sys2Proof.Machine.execFenceTable sc st s
  | .atomc d a k w st => Sys2Proof.Machine.execAtomc d a k w st s
  | .atomq d a k w st => Sys2Proof.Machine.execAtomq d a k w st s
  | .atomd d a k w st => Sys2Proof.Machine.execAtomd d a k w st s
  | .atomp d a k w st => Sys2Proof.Machine.execAtomp d a k w st s
  | .atomx d a k sys st => Sys2Proof.Machine.execAtomx d a k sys st s
  | .spl a imm st => Sys2Proof.Machine.execSpl a imm st s
  | .fil d imm st => Sys2Proof.Machine.execFil d imm st s
  | .qacq quad imm st => Sys2Proof.Machine.execQacq quad imm st s
  | .qfill d quad imm st => Sys2Proof.Machine.execQfill d quad imm st s
  | .qtake d quad imm st => Sys2Proof.Machine.execQtake d quad imm st s
  | .qdone quad imm st => Sys2Proof.Machine.execQdone quad imm st s
  | .qtry d quad imm st => Sys2Proof.Machine.execQtry d quad imm st s
  | .bararr d l imm st => Sys2Proof.Machine.execBararr d l imm st s
  | .barwait l imm st => Sys2Proof.Machine.execBarwait l imm st s
  | .bar d l imm st => Sys2Proof.Machine.execBar d l imm st s
  | .qfence mask st => Sys2Proof.Machine.execQfence mask st s
  | .bcopy a st => Sys2Proof.Machine.execBcopy a st s
  | .stream a st => Sys2Proof.Machine.execStream a st s
  | .qld d q w st => Sys2Proof.Machine.execQld d q w st s
  | .coll a st => Sys2Proof.Machine.execColl a st s
  | .msignBind d a st => Sys2Proof.Machine.execMsignBind d a st s
  | .msignRelease d st => Sys2Proof.Machine.execMsignRelease d st s
  | .mma d a b st => Sys2Proof.Machine.execMma d a b st s
  | .mdrain d a b st => Sys2Proof.Machine.execMdrain d a b st s
  | .mzero st => Sys2Proof.Machine.execMzero st s
  | .mloadc a st => Sys2Proof.Machine.execMloadc a st s
  | .mhist d a st => Sys2Proof.Machine.execMhist d a st s
  | .mhclr d st => Sys2Proof.Machine.execMhclr d st s
  | .mwait d st => Sys2Proof.Machine.execMwait d st s
  | .tex d a ply half st => Sys2Proof.Machine.execTex d a ply half st s
  | .texf d a half st => Sys2Proof.Machine.execTexf d a half st s
  | .lins d a st => Sys2Proof.Machine.execLins d a st s
  | .lres d a st => Sys2Proof.Machine.execLres d a st s
  | .lcnt d a st => Sys2Proof.Machine.execLcnt d a st s
  | .lclr a st => Sys2Proof.Machine.execLclr a st s
  | .ztest d a st => Sys2Proof.Machine.execZtest d a st s
  | .omerge a st => Sys2Proof.Machine.execOmerge a st s
  | .vemit d a st => Sys2Proof.Machine.execVemit d a st s
  | .pemit a st => Sys2Proof.Machine.execPemit a st s
  | .draw d a st => Sys2Proof.Machine.execDraw d a st s
  | .lcomp d a st => Sys2Proof.Machine.execLcomp d a st s
  | .trvbox d a st => Sys2Proof.Machine.execTrvbox d a st s
  | .trvtri d a st => Sys2Proof.Machine.execTrvtri d a st s
  | .trvomm d a st => Sys2Proof.Machine.execTrvomm d a st s
  | .trvpush a st => Sys2Proof.Machine.execTrvpush a st s
  | .trvpop d st => Sys2Proof.Machine.execTrvpop d st s
  | .trvstep d a st => Sys2Proof.Machine.execTrvstep d a st s
  | .ldwv d a imm w st => Sys2Proof.Machine.execLdwv d a imm w st s
  | .stwv d a imm w st => Sys2Proof.Machine.execStwv d a imm w st s
  | .walkMigReread blk tid => Sys2Proof.Machine.execWalkMigReread blk tid s
  | .variableResultArrive blk tid reg => Sys2Proof.Machine.execVariableResultArrive blk tid reg s
  | .storeQueueDrain blk strand => Sys2Proof.Machine.execStoreQueueDrain blk strand s
  | .atomicRmwPerform blk tid => Sys2Proof.Machine.execAtomicRmwPerform blk tid s
  | .hangTimeout blk tid => Sys2Proof.Machine.execHangTimeout blk tid s
  | .starvationTimeout blk tid => Sys2Proof.Machine.execStarvationTimeout blk tid s
  | .yieldExpiry blk tid => Sys2Proof.Machine.execYieldExpiry blk tid s
  | .bobbinDraw core bob => Sys2Proof.Machine.execBobbinDraw core bob s
  | .deal part => Sys2Proof.Machine.execDeal part s
  | .blockEnd blk => Sys2Proof.Machine.execBlockEnd blk s
  | .blockSave blk => Sys2Proof.Machine.execBlockSave blk s
  | .blockRestore blk => Sys2Proof.Machine.execBlockRestore blk s
  | .migration part va toNear => Sys2Proof.Machine.execMigration part va toNear s
  | .shootdown core part va len exec => Sys2Proof.Machine.execShootdown core part va len exec s
  | .shootdownAck core => Sys2Proof.Machine.execShootdownAck core s
  | .dirtyLogDrain part => Sys2Proof.Machine.execDirtyLogDrain part s
  | .patrolScrub slice row => Sys2Proof.Machine.execPatrolScrub slice row s
  | .retentionEntry slice => Sys2Proof.Machine.execRetentionEntry slice s
  | .retentionExit slice triple => Sys2Proof.Machine.execRetentionExit slice triple s
  | .poisonClear part page => Sys2Proof.Machine.execPoisonClear part page s
  | .engineCommandStart core q => Sys2Proof.Machine.execEngineCommandStart core q s
  | .engineChunk core q granules => Sys2Proof.Machine.execEngineChunk core q granules s
  | .tokenDeposit core q => Sys2Proof.Machine.execTokenDeposit core q s
  | .streamElement core blk strand q => Sys2Proof.Machine.execStreamElement core blk strand q s
  | .collCombine core remote => Sys2Proof.Machine.execCollCombine core remote s
  | .collPeerTimeout core => Sys2Proof.Machine.execCollPeerTimeout core s
  | .launchQueueAdvance core => Sys2Proof.Machine.execLaunchQueueAdvance core s
  | .drawQueueAdvance core => Sys2Proof.Machine.execDrawQueueAdvance core s
  | .queueRefill ofPart idx q => Sys2Proof.Machine.execQueueRefill ofPart idx q s
  | .queueQuotaRestore blk => Sys2Proof.Machine.execQueueQuotaRestore blk s
  | .replayNodeReady part rep node => Sys2Proof.Machine.execReplayNodeReady part rep node s
  | .replayNodeComplete part rep node => Sys2Proof.Machine.execReplayNodeComplete part rep node s
  | .completionRecord part rep => Sys2Proof.Machine.execCompletionRecord part rep s
  | .mmaArray core => Sys2Proof.Machine.execMmaArray core s
  | .mdrainArray core => Sys2Proof.Machine.execMdrainArray core s
  | .mzeroExec core => Sys2Proof.Machine.execMzeroExec core s
  | .mloadcExec core => Sys2Proof.Machine.execMloadcExec core s
  | .mhistExec core => Sys2Proof.Machine.execMhistExec core s
  | .mhclrExec core => Sys2Proof.Machine.execMhclrExec core s
  | .mwaitDeposit core => Sys2Proof.Machine.execMwaitDeposit core s
  | .mcJoinTimeout core => Sys2Proof.Machine.execMcJoinTimeout core s
  | .msignReleaseComplete blk tid => Sys2Proof.Machine.execMsignReleaseComplete blk tid s
  | .rasteriseTile draw tile => Sys2Proof.Machine.execRasteriseTile draw tile s
  | .layerInsert blk tid => Sys2Proof.Machine.execLayerInsert blk tid s
  | .layerPoolGrow part target => Sys2Proof.Machine.execLayerPoolGrow part target s
  | .lclrExec core => Sys2Proof.Machine.execLclrExec core s
  | .seal blk tid => Sys2Proof.Machine.execSeal blk tid s
  | .serviceCallPerform blk tid => Sys2Proof.Machine.execServiceCallPerform blk tid s
  | .retiredEmulation blk tid => Sys2Proof.Machine.execRetiredEmulation blk tid s
  | .preemptRequest part cores => Sys2Proof.Machine.execPreemptRequest part cores s
  | .drawGraceExpiry core => Sys2Proof.Machine.execDrawGraceExpiry core s
  | .kick part value => Sys2Proof.Machine.execKick part value s
  | .resume part => Sys2Proof.Machine.execResume part s
  | .hostackContinue part evseq => Sys2Proof.Machine.execHostackContinue part evseq s
  | .hostackPoolgrow part evseq count => Sys2Proof.Machine.execHostackPoolgrow part evseq count s
  | .hostackPoolmerge part evseq => Sys2Proof.Machine.execHostackPoolmerge part evseq s
  | .controlWindowWrite part offset value => Sys2Proof.Machine.execControlWindowWrite part offset value s
  | .graphUpload part image => Sys2Proof.Machine.execGraphUpload part image s
  | .codeObjectLoad part hash delivered => Sys2Proof.Machine.execCodeObjectLoad part hash delivered s
  | .codeObjectUnload part handle => Sys2Proof.Machine.execCodeObjectUnload part handle s
  | .targetCreate part va desc => Sys2Proof.Machine.execTargetCreate part va desc s
  | .keyRegister part key required => Sys2Proof.Machine.execKeyRegister part key required s
  | .hostRepairRequest part repair => Sys2Proof.Machine.execHostRepairRequest part repair s
  | .firmwareImage image => Sys2Proof.Machine.execFirmwareImage image s
  | .powerUp firmware => Sys2Proof.Machine.execPowerUp firmware s
  | .ownershipClaim source => Sys2Proof.Machine.execOwnershipClaim source s
  | .ownershipHandover source successor => Sys2Proof.Machine.execOwnershipHandover source successor s
  | .handoverAccept source => Sys2Proof.Machine.execHandoverAccept source s
  | .linkLoss source => Sys2Proof.Machine.execLinkLoss source s
  | .portFailure port => Sys2Proof.Machine.execPortFailure port s
  | .remoteWindowAccess package part pa size store => Sys2Proof.Machine.execRemoteWindowAccess package part pa size store s
  | .thermalStop => Sys2Proof.Machine.execThermalStop s
  | .fixedLatencyResult blk tid reg => Sys2Proof.Machine.execFixedLatencyResult blk tid reg s
  | .withheldCycle core => Sys2Proof.Machine.execWithheldCycle core s
  | .wordNotInstruction word => Sys2Proof.Machine.execWordNotInstruction word s
  | .instructionFetchFault cause sub => Sys2Proof.Machine.execInstructionFetchFault cause sub s

end Sys2Proof.Machine
end

