-- ==== Sys2Proof/Machine/Turn.lean ====
section
/-! DEFINITION. Who acts next (log 4): what a partition's agents can do now, the cycle of a core with the governor's choice,
the start of an issue, and the placing of one instruction word where the next step fetches it (log 5). -/

namespace Sys2Proof.Machine

/-! ### What the agents of a partition can do -/

/-- The restores that a partition may try: the repaired block whose turn it is, and ready blocks with a reserved room (R81,
R157). -/
def State.restoreEvents (s : State) (p : Nat) : List Event :=
  ((s.part p).repairedNow.take 1).map Event.blockRestore ++
  (List.range s.blocks.length).filterMap fun k => match s.blocks[k]? with
    | some b => if b.ready && b.homeCore < 72 && s.partOf k == p then some (.blockRestore k) else none
    | none => none

/-- The blocks of a partition that were saved for QueueQuota (R156). -/
def State.quotaEvents (s : State) (p : Nat) : List Event :=
  (List.range s.blocks.length).filterMap fun k => match (s.blocks[k]?).map Block.place with
    | some (.saved false why) => if why.cause == 0x40 && s.partOf k == p then some (.queueQuotaRestore k) else none
    | _ => none

/-- The steps of a replay's nodes, and its completion record (R149, R153). -/
def Part.replayEvents (x : Part) (p : Nat) : List Event :=
  x.replays.zipIdx.flatMap fun r =>
    if !x.running r.2 then []
    else if r.1.nodes.all NodeState.isComplete then [.completionRecord p r.2]
    else r.1.nodes.zipIdx.filterMap fun n => match n.1 with
      | .running .. => some (.replayNodeComplete p r.2 n.2)
      | .waiting => if x.nodeReady r.2 n.2 then some (.replayNodeReady p r.2 n.2) else none
      | .complete _ => none

/-- The dispatch queues of a partition that take entries back from the spill ring (R155). -/
def Part.refillEvents (x : Part) (p : Nat) : List Event :=
  x.dispatch.zipIdx.filterMap fun d =>
    if d.1.spill.isEmpty || dispatchRoom ≤ d.1.q.length then none else some (.queueRefill true p d.2)

/-- What the agents of a partition can do now. -/
def State.partEvents (s : State) (p : Nat) : List Event :=
  let x := s.part p
  (if x.exited || x.topPrio.isNone then [] else [.deal p]) ++ s.restoreEvents p ++ s.quotaEvents p ++ x.replayEvents p ++
    x.refillEvents p ++ (if (!s.hostDuty p 1 || x.drainOn) && 2048 ≤ (x.dlHead - x.dlTail).toNat then [.dirtyLogDrain p] else []) ++
    ((x.cores.take 1).filter fun c => (s.lateParty c).isSome).map Event.collPeerTimeout

/-- The blocks of a core whose threads have all exited (R268). -/
def State.endEvents (s : State) (core : Nat) : List Event :=
  (s.runningOn core).filterMap fun k => if ((s.blocks[k]?).map Block.done).getD false then some (.blockEnd k) else none

/-- The end of the draw grace of a core (R161). -/
def State.graceEvents (s : State) (core : Nat) : List Event :=
  if (s.core core).preempt.isSome then [.drawGraceExpiry core] else []

/-- The partitions whose first core a core is: it polls for them. -/
def State.polledBy (s : State) (core : Nat) : List Nat :=
  (List.range s.parts.length).filter fun p => (s.part p).cores.head? == some core

/-- Ask, in a cycle of a core, for what its blocks' ends and its partitions' agents wait for. Kicks that waited for a page
are taken again (R152); code objects whose last strand has exited are freed (R361). -/
def State.poll (s : State) (core : Nat) : State :=
  let s := (s.sweepCode.wantAll (s.endEvents core)).wantAll (s.graceEvents core)
  let s := (s.polledBy core).foldl (fun s p =>
    (State.takeKicks p (s.part p).kicks.length s).wantAll (s.partEvents p)) s
  if (s.polledBy core).isEmpty then s else s.wantTiles

/-! ### A step of a core -/

/-- The turn passes to the next core, where it was this core's. -/
def State.moveOn (s : State) (core : Nat) : State := if s.rr = core then { s with rr := (core + 1) % 72 } else s

/-- A new cycle of a core: withheld, if the governor so chooses (R136, R378, log 13), or run. -/
def State.coreCycle (s : State) (core : Nat) : State :=
  let w := Config.withhold s.free && !(s.core core).urgent
  let s := { s with free := s.free + 1 }
  let s := if w then (s.newCycle core).countStalls core else (s.cycle core).poll core
  if ((s.core core).turn).isEmpty then s.moveOn core else s

/-- Instructions by which a thread may learn of the writes of others (R98, R102), or writes itself. -/
def learns : Instr → Bool
  | .lda .. | .ldfe .. | .ldfec .. | .atomc .. | .atomq .. | .atomd .. | .atomp .. | .atomx .. => true
  | .fenceAcq .. | .fenceAcqrel .. | .fenceSc .. | .qacq .. | .qtake .. | .qtry .. | .barwait .. | .bar .. => true
  | .stb .. | .sth .. | .stw .. | .stt .. | .stfe .. | .stl .. | .stwv .. => true
  | .lins .. | .ztest .. | .omerge .. | .vemit .. | .pemit .. | .svc .. => true
  | _ => false

/-- What a thread's later FENCE table is sure of: after an instruction by which it may have learnt of writes, all that has been performed,
what its copy has in quarantine and what its own strand has queued (R114, log 65). -/
def State.learn (s : State) (t : TRef) : State :=
  match s.thread? t with
  | none => s
  | some th =>
    if ((decode th.word).map learns).getD false then
      let ws := (((s.blocks[t.blk]?).map (·.quarantine)).getD []) ++ ((s.strand? t.blk th.strand).map (·.queue)).getD []
      let m := ws.foldl (fun m w => match w.loc with | .phys pa => Mem.putN m pa w.bytes | .win .. => m) s.mem
      s.modThread t fun th => th.sureOf m
    else s

/-- The first issue of a core's present cycle is taken up; with the last the core's turn is over. -/
def State.begin (s : State) (core : Nat) (i : Issue) (rest : List Issue) : State :=
  let s := i.lanes.foldl State.learn s
  let s := (({ s with issue := i } : State)).modCore core fun c => { c with turn := rest }
  if rest.isEmpty then s.moveOn core else s

/-! ### Placing one instruction (log 5) -/

/-- The virtual address at which the placed word is fetched. -/
def placePc : Nat := 0x1000

/-- The kernel of the placed thread: one thread, 128 registers. -/
def placeKernel : Kernel := { Kernel.blank with entry := Addr.ofNat placePc, block := 1, regs := 128 }

/-- The five near pages that the placed thread needs: four table nodes, and the page of its code. -/
def placeNode (k : Nat) : Nat := 0x100000 + 4096 * k

/-- A table entry of the placed thread's page table: a node, or the executable leaf (R34). -/
def placeEntry (k : Nat) (leaf : Bool) : Addr := Addr.ofNat (placeNode k + if leaf then 0xB1 else 0x401)

/-- The grid of the placed thread. -/
def placeGrid (num : Nat) : Grid :=
  { part := 0, num := num, kernel := placeKernel, prio := 0, count := 1, next := 1, quad := 0, doubled := false, param := 0,
    done := .none, ranges := [], ended := [], draw := none, joined := [], core := 72 }

/-- The block of the placed thread, on core 0. -/
def placeBlock (grid : Nat) : Block :=
  { grid := grid, num := 0, copy := .single, group := 0, place := .onCore 0, homeCore := 0, saving := none,
    threads := [Thread.start placeKernel .main 0 0 128], strands := [Strand.start .main 0 0],
    memSize := 0, mem := [], full := [], badMem := [], softMem := [], reformAge := 4096, spindles := [], extents := [], mwaitStatus := 0,
    savedCmds := [], matrix := MatrixSave.none, quarantine := [], held := [], reissued := false, status := 0, filedSaved := [],
    olds := [], collCounts := [], echoes := [], claim := ⟨[], [], []⟩, ctx := [], image := [], spillAt := [] }

/-- Memory with the page table and the bytes of a code page. -/
def State.placeMem (s : State) (bytes : List Byte) : State :=
  let s := (((s.writeEntry (placeNode 0) (placeEntry 1 false)).writeEntry (placeNode 1) (placeEntry 2 false)).writeEntry
    (placeNode 2) (placeEntry 3 false)).writeEntry (placeNode 3 + 8) (placeEntry 4 true)
  { s with mem := Mem.putN s.mem (s.podPa (placeNode 4)) bytes,
           poison := s.poison.filter fun f => f != (s.podPa (placeNode 4)) / 4096,
           badNear := s.badNear.filter fun w => w / 512 != (s.podPa (placeNode 4)) / 4096,
           softNear := s.softNear.filter fun w => w / 512 != (s.podPa (placeNode 4)) / 4096 }

/-- The machine with a program of the given bytes in partition 0, one thread of it on core 0 at the program's first word,
and core 0 about to issue it. -/
def State.place (s : State) (bytes : List Byte) : State :=
  let b := s.blocks.length
  let g := s.grids.length
  let s := s.placeMem bytes
  let s := s.modPart 0 fun p =>
    { p with root := BitVec.ofNat 34 (placeNode 0 / 4096), tbEn := true, slices := insertUp 0 p.slices, cores := insertUp 0 p.cores }
  let s := s.modCore 0 fun c =>
    { c with tlb := [], walkCache := [], pcache := [], icache := [], turn := [⟨0, 0, [⟨b, 0⟩], Addr.ofNat placePc, 0⟩] }
  { s with grids := s.grids ++ [placeGrid (g + 1)], blocks := s.blocks ++ [placeBlock g], power := true, due := [],
           agenda := [.core 0] }

end Sys2Proof.Machine
end

