-- ==== Sys2Proof/Machine/Step.lean ====
section
/-! DEFINITION. One step of the machine (log 4): the events that are due, then those that act next from outside, then the
events that the agents have been asked for and the cores in alternation, each core in turn. -/

namespace Sys2Proof.Machine

/-- The step of an agent. Each is the meaning of its row of the opcode table. -/
def runEvent (e : Event) (s : State) : Host.Outcome State Fault Refusal :=
  match e with
  | .walkMigReread blk tid => execWalkMigReread blk tid s
  | .variableResultArrive blk tid reg => execVariableResultArrive blk tid reg s
  | .fixedLatencyResult blk tid reg => execFixedLatencyResult blk tid reg s
  | .storeQueueDrain blk strand => execStoreQueueDrain blk strand s
  | .atomicRmwPerform blk tid => execAtomicRmwPerform blk tid s
  | .hangTimeout blk tid => execHangTimeout blk tid s
  | .starvationTimeout blk tid => execStarvationTimeout blk tid s
  | .yieldExpiry blk tid => execYieldExpiry blk tid s
  | .bobbinDraw core bob => execBobbinDraw core bob s
  | .deal part => execDeal part s
  | .blockEnd blk => execBlockEnd blk s
  | .blockSave blk => execBlockSave blk s
  | .blockRestore blk => execBlockRestore blk s
  | .migration part va toNear => execMigration part va toNear s
  | .shootdown core part va len exec => execShootdown core part va len exec s
  | .shootdownAck core => execShootdownAck core s
  | .dirtyLogDrain part => execDirtyLogDrain part s
  | .poisonClear part page => execPoisonClear part page s
  | .engineCommandStart core q => execEngineCommandStart core q s
  | .engineChunk core q granules => execEngineChunk core q granules s
  | .tokenDeposit core q => execTokenDeposit core q s
  | .streamElement core blk strand q => execStreamElement core blk strand q s
  | .collCombine core remote => execCollCombine core remote s
  | .collPeerTimeout core => execCollPeerTimeout core s
  | .launchQueueAdvance core => execLaunchQueueAdvance core s
  | .drawQueueAdvance core => execDrawQueueAdvance core s
  | .queueRefill ofPart idx q => execQueueRefill ofPart idx q s
  | .queueQuotaRestore blk => execQueueQuotaRestore blk s
  | .replayNodeReady part rep node => execReplayNodeReady part rep node s
  | .replayNodeComplete part rep node => execReplayNodeComplete part rep node s
  | .completionRecord part rep => execCompletionRecord part rep s
  | .mmaArray core => execMmaArray core s
  | .mdrainArray core => execMdrainArray core s
  | .mzeroExec core => execMzeroExec core s
  | .mloadcExec core => execMloadcExec core s
  | .mhistExec core => execMhistExec core s
  | .mhclrExec core => execMhclrExec core s
  | .mwaitDeposit core => execMwaitDeposit core s
  | .mcJoinTimeout core => execMcJoinTimeout core s
  | .msignReleaseComplete blk tid => execMsignReleaseComplete blk tid s
  | .rasteriseTile draw tile => execRasteriseTile draw tile s
  | .layerInsert blk tid => execLayerInsert blk tid s
  | .layerPoolGrow part target => execLayerPoolGrow part target s
  | .lclrExec core => execLclrExec core s
  | .seal blk tid => execSeal blk tid s
  | .serviceCallPerform blk tid => execServiceCallPerform blk tid s
  | .retiredEmulation blk tid => execRetiredEmulation blk tid s
  | .preemptRequest part cores => execPreemptRequest part cores s
  | .drawGraceExpiry core => execDrawGraceExpiry core s

/-- What the word of an issue does once fetched: the lanes that wait for a result stay (R133), the others perform the
instruction, or take the trap of a word that is none (R244). -/
def runWord (w : Word) (s : State) : Host.Outcome State Fault Refusal :=
  match decode w with
  | some i => exec i (s.issueWord w)
  | none => execWordNotInstruction w (s.keepReady w).noteIssued

/-- An issue: its fetch, then its word, or its fetch fault, or the wait for a migrating table node (R134, R244, R38). -/
def runIssue (s : State) : Host.Outcome State Fault Refusal :=
  match s.fetch with
  | .word s w => runWord w s
  | .fault s cause sub _ => execInstructionFetchFault cause sub s.noteIssued
  | .wait s => .next s.fetchWaits

/-- One step of a core: the next issue of its cycle, or a new cycle. -/
def stepCore (core : Nat) (s : State) : Host.Outcome State Fault Refusal :=
  match (s.core core).turn with
  | i :: rest => runIssue (s.begin core i rest)
  | [] => .next (s.coreCycle core)

/-- One step without anything due or given from outside: the events that were asked for when a core had acted, one by one,
then the next core. -/
def stepQuiet (s : State) : Host.Outcome State Fault Refusal :=
  let s := if s.quiet then s else { s with quiet := true, batch := s.work.length }
  match s.batch, s.work with
  | n + 1, e :: r => runEvent e { s with work := r, batch := n }
  | _, _ => stepCore s.rr { s with quiet := false }

/-- One entry of the agenda that is an event, of the host link or of a source named: a management request of a source that does not own the
device changes nothing (R376); one of the host link waits while an earlier one does (R377). -/
def stepEvent (source : Option Nat) (i : Instr) (r : List Turn) (s : State) : Host.Outcome State Fault Refusal :=
  if s.hostWaits i && source.getD hostSource == hostSource then stepQuiet s.retakeKicks
  else if manages i && source.isSome && s.svc.owner != source then .next { s with agenda := r }
  else exec i { s with agenda := r }

/-- One step of the machine. With the compute dies without power nothing runs but POWER_UP (R378, R375). -/
def step (s : State) : Host.Outcome State Fault Refusal :=
  match s.power, s.agenda with
  | false, .event (.powerUp firmware) :: r => execPowerUp firmware { s with agenda := r }
  | false, _ => .fault .poweredOff
  | true, a => match s.due with
    | e :: r => runEvent e { s with due := r }
    | [] => match a with
      | .event i :: r => stepEvent none i r s
      | .request source i :: r => stepEvent (some source) i r s
      | .core c :: r => stepCore c { s with agenda := r }
      | [] => stepQuiet s

/-- The machine with an instruction word where the next step fetches its instruction (log 5); the bits above `nbits` are
0. -/
def State.withFetchWord (s : State) (nbits w : Nat) : State := s.place (leBytes 4 (w % 2 ^ nbits % 2 ^ 32))

end Sys2Proof.Machine
end

