-- ==== Sys2Proof/Safety.lean ====
section
/-! DEFINITION. What counts as a safe run, in the terms that the statements use: the machine goes on, its memories keep
their canonical form, it has the 72 cores and 24 partitions of R2 and R3; and when an issue of one lane performs its
instruction, and what stands after it. -/

namespace Sys2Proof.Machine

/-- The step answers a next state. -/
def Goes (o : Host.Outcome State Fault Refusal) : Prop := ∃ t, o = .next t

/-- Every memory of the machine is in its canonical form: the pod's, and that of every block. -/
def State.memOk (s : State) : Bool := Mem.wf s.mem && s.blocks.all fun b => Mem.wf b.mem

/-- The machine has the cores and partitions that the spec gives it (R2, R3), and a core has nine queues. -/
def State.shapeOk (s : State) : Bool :=
  s.cores.length == 72 && s.parts.length == 24 && s.cores.all fun c => c.queues.length == 9

/-- A machine from which runs are safe. -/
def State.ok (s : State) : Bool := s.power && s.memOk && s.shapeOk

/-- A run of the machine up to `n` steps that goes on all the way. -/
def SafeRun : Nat → State → Prop
  | 0, s => s.ok = true
  | n + 1, s => s.ok = true ∧ ∃ t, step s = .next t ∧ SafeRun n t

/-- The checks that come before an instruction's own effect hold for a thread: its register groups are aligned (R228), they
lie in its allocation (R231), and under %pipechk.CHK no result is on its way to them (R226). -/
structure Checked (i : Instr) (s : State) (t : TRef) (th : Thread) : Prop where
  aligned : misalignedSub (Instr.groups (s.laneWords t.blk) i) = none
  inRange : ∀ a ∈ (Instr.rangeGroups (s.laneWords t.blk) i).flatMap (Group.archs th.wb), a < max 1 th.regs.length
  onTime : th.chk = true → th.early (s.core s.issue.core).cycles (Instr.archs (s.laneWords t.blk) th.wb i) = false

/-- An issue of one lane that executes its instruction: its thread may issue (R133, R134) and the checks hold. -/
structure OneLane (i : Instr) (s : State) (t : TRef) (th : Thread) : Prop extends Checked i s t th where
  lanes : s.issue.lanes = [t]
  thread : s.issuable t = some th

/-- The machine after an issue whose thread has become `th'` and goes on at PC + 4: only that thread has changed (R225,
R223). -/
def State.goOn (s : State) (t : TRef) (st : Stall) (th' : Thread) : State :=
  s.modThread t fun _ => (th'.issued st s.issue.word).advance

/-- The machine after an issue whose thread has become `th'`, with the pc that it has. -/
def State.goThere (s : State) (t : TRef) (st : Stall) (th' : Thread) : State :=
  s.modThread t fun _ => th'.issued st s.issue.word

/-- An instruction completes in every state in which its checks hold and `P` does, and makes `f` of its thread; nothing else
of the machine changes. -/
def CompletesWhen (i : Instr) (st : Stall) (P : State → TRef → Thread → Prop) (f : State → TRef → Thread → Thread) : Prop :=
  ∀ s t th, OneLane i s t th → P s t th → exec i s = .next (s.goOn t st (f s t th))

/-- An instruction completes in every state in which its checks hold. -/
def Completes (i : Instr) (st : Stall) (f : State → TRef → Thread → Thread) : Prop :=
  ∀ s t th, OneLane i s t th → exec i s = .next (s.goOn t st (f s t th))

end Sys2Proof.Machine
end

