-- ==== Sys2Proof/Certificates/Slice0/Obligations.lean ====
section
/-! DEFINITION. The statements for the provers. The first part holds the words that they share; each statement then stands
alone, with the rules that it formalises in its docstring. -/

namespace Sys2Proof.Machine

/-! ### Results of a group -/

/-- A thread after a two-source operation on every member of its groups (R228, R248): value `v` with the integer ply rule of
R249, of the latency class `due`. -/
def each2 (d a b : RegName) (n : Nat) (due : TCtx → Due) (v : Word → Word → Word) (s : State) (t : TRef) (th : Thread) : Thread :=
  th.results d (due (s.tctx t)) 0 ((List.range n).map fun i =>
    intReg [th.get (member a i), th.get (member b i)] (v (th.valAt a i) (th.valAt b i)))

/-- The same for an operation that also reads the old destination, as its third value. -/
def each3 (d a b : RegName) (n : Nat) (due : TCtx → Due) (v : Word → Word → Word → Word) (s : State) (t : TRef) (th : Thread) :
    Thread :=
  th.results d (due (s.tctx t)) 0 ((List.range n).map fun i =>
    intReg [th.get (member a i), th.get (member b i), th.get (member d i)] (v (th.valAt a i) (th.valAt b i) (th.valAt d i)))

/-- A thread after an integer operation on one register. -/
def one1 (d a : RegName) (due : TCtx → Due) (v : Word → Word) (s : State) (t : TRef) (th : Thread) : Thread :=
  th.result (archOf th.wb d) (intReg [th.get a] (v (th.val a))) (due (s.tctx t))

/-- A thread after an operation whose result is a pair with the integer ply rule over the registers read. -/
def onePair (d : RegName) (due : TCtx → Due) (ins : Thread → List Reg) (v : Thread → Addr) (s : State) (t : TRef) (th : Thread) :
    Thread :=
  th.results d (due (s.tctx t)) 0 [intReg (ins th) ((v th).extractLsb' 0 32), intReg (ins th) ((v th).extractLsb' 32 32)]

/-- An integer narrowed to a word. -/
def nar (i : Int) : Word := BitVec.ofInt 32 i

/-- The condition of R240 on two integers. -/
def condHolds (c : Cond) (x y : Int) : Bool :=
  match c with
  | .lt => decide (x < y) | .le => decide (x ≤ y) | .eq => decide (x = y) | .ne => decide (x ≠ y)

/-! ### Floating results -/

/-- The flags of several operations of one lane, together (R281). -/
def flagsOf (l : List (Reg × Flags)) : Flags := l.foldl (fun m x => m ||| x.2) Flags.none

/-- A floating instruction of one thread: with results and flags `r`, it either completes, its flags ORed into %fpflags and
its results on their way, or, where %fpctl enables one of its exceptions, it delivers the cause of the lowest of them with the
flags set and no result (R172, R281). -/
def FpOutcome (i : Instr) (st : Stall) (d : RegName) (due : TCtx → Due)
    (r : State → TRef → Thread → List (Reg × Flags)) : Prop :=
  ∀ s t th, OneLane i s t th →
    (enabledCause th.fpctl (flagsOf (r s t th)) = none →
      exec i s = .next (s.goOn t st
        ((th.raise (flagsOf (r s t th))).results d (due (s.tctx t)) 0 ((r s t th).map Prod.fst)))) ∧
    ∀ c, enabledCause th.fpctl (flagsOf (r s t th)) = some c →
      exec i s = .next ((s.modThread t fun _ => th.raise (flagsOf (r s t th))).deliverIssued st [⟨t, c, 0, 0⟩] (some i))

/-- The operation `g` on every member of three groups; it takes the declared ply count D first. -/
def fpEach (d a b : RegName) (n : Nat) (g : Nat → Reg → Reg → Reg → Reg × Flags) (s : State) (t : TRef) (th : Thread) :
    List (Reg × Flags) :=
  (List.range n).map fun i => g (s.plyN t.blk) (th.get (member a i)) (th.get (member b i)) (th.get (member d i))

/-- The operation `g` on one register. -/
def fpOne (a : RegName) (g : Nat → Reg → Reg × Flags) (s : State) (t : TRef) (th : Thread) : List (Reg × Flags) :=
  [g (s.plyN t.blk) (th.get a)]

/-! ### Control transfers -/

/-- The machine after an issue that sends its thread, as `th'`, to its new pc, with the change `l` of the loop buffer of its
strand (R90). -/
def State.sent (s : State) (t : TRef) (st : Stall) (th th' : Thread) (l : Strand → Strand) : State :=
  ((s.modThread t fun _ => th').modStrand t.blk th.strand l).modThread t (Thread.issued st s.issue.word)

/-- A branch: it goes to its target exactly where the test holds, else to PC + 4 (R262, R223). -/
def BranchesOn (i : Instr) (st : Stall) (off : BitVec 16) (test : Thread → Prop) : Prop :=
  ∀ s t th, OneLane i s t th →
    (test th → exec i s = .next (s.sent t st th { th with pc := th.pc + 4 + BitVec.ofInt 64 (off.toInt * 4) }
      fun k => k.jumped th.pc.toNat (th.pc + 4 + BitVec.ofInt 64 (off.toInt * 4)).toNat)) ∧
    (¬ test th → exec i s = .next (s.sent t st th { th with pc := th.pc + 4 } fun k => k.fellThrough th.pc.toNat))

/-- A thread is marked as arrived in its innermost entry, the first of the file that holds it (R137). -/
def arriveIn (t : TRef) : List RejoinEntry → List RejoinEntry
  | [] => []
  | e :: r => if t ∈ e.mask then { e with arrived := addRef t e.arrived } :: r else e :: arriveIn t r

/-- An issue that changes the strand of its thread, as `f`, and its thread, as `g`, and that goes on at PC + 4. -/
def State.stranded (s : State) (t : TRef) (st : Stall) (th : Thread) (f : Strand → Strand) (g : Thread → Thread) : State :=
  ((s.modStrand t.blk th.strand f).modThread t g).modThread t fun x => (x.issued st s.issue.word).advance

/-! ### Accesses -/

/-- An access of n bytes passes the checks of R298 in their order: its address lies below 2^48 and is aligned, and the
aperture or the translation gives it the location l and leaves s': the machine with what the walk has done, before which the
strand's earlier writes are performed (R41). -/
structure Reaches (s : State) (t : TRef) (k : Access) (ea : Addr) (n : Nat) (s' : State) (l : Loc) : Prop where
  below : ea.toNat < 2 ^ 48
  aligned : ea.toNat % n = 0
  here : s.translate t k ea = .ok s' l

/-- The effective address of R297, in exact arithmetic narrowed to 64 bits. -/
def mAddr (th : Thread) (a : RegName) (imm : BitVec 7) (n : Nat) : Addr := BitVec.ofInt 64 ((th.pair a).toInt + imm.toInt * n)

/-- The memory of a block and its full granules. -/
def Block.memFull (b : Block) : List Host.Cell × List Nat := (b.mem, b.full)

/-- Word i of bytes, little-endian, zero-extended. -/
def leWord (bytes : List Byte) (i : Nat) : Word := BitVec.ofNat 32 (leNat ((bytes.drop (4 * i)).take 4))

/-- The checks on a location that has no uncorrectable word: the loads complete with `v` of the bytes that the thread sees
there, in ZERO plies; a single-bit error there is corrected (R68). -/
def LoadsFrom (i : Instr) (st : Stall) (k : Access) (d : RegName) (ea : Thread → Addr) (n : Nat) (v : List Byte → List Word) : Prop :=
  ∀ s t th s' l, OneLane i s t th → Reaches s t k (ea th) n s' l → s'.homeBad l n = false →
    exec i s = .next ((s'.correct l n).goOn t st (th.results d none 0 ((v (s'.visible t th l n)).map Reg.plain)))

/-- A store enters the write of its bytes at its location into the store queue of its strand, behind those in it, and the
thread goes on: in block memory, or in near memory in a block that is not doubled. -/
def StoresTo (i : Instr) (st : Stall) (ea : Thread → Addr) (bytes : Thread → List Byte) : Prop :=
  ∀ s t th s' l, OneLane i s t th → Reaches s t .store (ea th) (bytes th).length s' l →
    (s'.isDoubled t.blk = false ∨ ∃ b o, l = .win b o) →
    exec i s = .next ((s'.enqueueWrite t th ⟨t, l, bytes th, false⟩).modThread t fun x => (x.issued st s'.issue.word).advance)

/-! ### Traps -/

/-- A user-handled cause has been delivered to a thread that was `th` (R211, R215): its earlier instructions have completed,
its trap registers are written, and it stands at its handler. -/
def Handled (s : State) (t : TRef) (th : Thread) (cause sub : Nat) (inst : Word) : Prop :=
  ∃ g n, s.thread? t = some { th.settleResults with
    trap := ⟨true, BitVec.ofNat 8 cause, th.pc.extractLsb' 0 48, 1#64 <<< th.lane, BitVec.ofNat 6 th.lane, BitVec.ofNat 8 sub,
      inst, th.trap.vec⟩,
    pc := 0#16 ++ th.trap.vec, park := none, hang := 0, again := false, sealed := false, sig := g, recs := n }

/-- A thread that can take a trap: IN = 0, with a handler, and in a lane of a mask. -/
def Thread.canTrap (th : Thread) : Prop := th.lane < 64 ∧ th.trap.inHandler = false ∧ th.trap.vec ≠ 0

/-- What the rejoin file of a strand holds: the rejoin pcs, the addresses of the JPUSHes and the masks (R137). -/
def Strand.entries (k : Strand) : List (Addr × Addr × List TRef) := k.rejoin.map fun e => (e.pc, e.at_, e.mask)

/-- The causes that a thread can raise, first delivered first (R212, with the order of R45 for the memory causes). -/
def causeOrder : List Nat :=
  [0x01, 0x02, 0x03, 0x04, 0x05, 0x06, 0x30, 0x20, 0x23, 0x22, 0x21, 0x24, 0x38, 0x39, 0x40, 0x41, 0x10, 0x11, 0x12, 0x13,
    0x14, 0x18, 0x19, 0x1A, 0x31]

/-! ### Collectives, spindles, barriers, queues -/

/-- A thread that has issued a collective and parked at it. -/
def Thread.atSet (th : Thread) (i : Instr) (st : Stall) (w : Word) : Thread :=
  { th with park := some (.collective i), stall := st.toNat, word := w, again := false }

/-- The members of the collective set of a thread that arrives last, lowest lane first. -/
def State.membersAt (s : State) (t : TRef) (th : Thread) (i : Instr) (st : Stall) : Members :=
  ((s.collSet t).filterMap fun u => if u = t then some (t, th.atSet i st s.issue.word)
    else (s.thread? u).map (Prod.mk u)).insertionSort fun x y => x.2.lane ≤ y.2.lane

/-- A thread that is the whole of its collective set goes on from a collective with the registers as `f` leaves them. -/
def Thread.wentOn (th : Thread) (st : Stall) (w : Word) (f : Thread → Thread) : Thread :=
  { f { th with stall := st.toNat, word := w, again := false } with pc := th.pc + 4, park := none, hang := 0 }

/-- The value collectives (R260, R261, R292, R293). -/
def valueCollectives (d a b : RegName) (t : RedType) (st : Stall) : List Instr :=
  [.voteany d a st, .voteall d a st, .ballot d a st, .active d st, .matchLanes d a st, .first d a st, .shflIdx d a b st,
    .shflUp d a b st, .shflDown d a b st, .shflXor d a b st, .redmax d a t st, .redmin d a t st, .redsum d a st,
    .redvar d a st, .rediadd d a t st, .redand d a t st, .redor d a t st, .redxor d a t st]

/-- An engine queue of a core has room for one more entry without the spill ring (R155). -/
def State.hasRoom (s : State) (core q : Nat) : Prop :=
  (s.queue core q).standing < 32 ∧ (s.queue core q).spill = [] ∧ core < s.cores.length ∧ q < (s.core core).queues.length

/-- A queue with a new command of a block at its end. -/
def EQueue.with (q : EQueue) (op : CmdOp) (blk now : Nat) : EQueue := { q with q := q.q ++ [Cmd.fresh op blk now] }

/-- The machine after an issue that has entered one command of a block at the end of a queue of its core, and whose thread goes
on. -/
def State.entered (s : State) (t : TRef) (st : Stall) (q : Nat) (op : CmdOp) : State :=
  (s.modQueue s.issue.core q fun x => x.with op t.blk (s.core s.issue.core).cycles).modThread t fun x =>
    (x.issued st s.issue.word).advance

/-- The operations that a thread signs, with the accumulator of its convergence register (R320, R322, R327, R329). -/
def signedOps (d a b : RegName) (st : Stall) (th : Thread) (acc : Nat) : List (Instr × CmdOp) :=
  [(.mma d a b st, .mma (th.val d) (th.pair a) (th.pair b) acc), (.mzero st, .mzero acc), (.mloadc a st, .mloadc (th.pair a) acc),
    (.mdrain d a b st, .mdrain (th.val d) (th.pair a) (if 2 ≤ ((th.val d).extractLsb' 4 2).toNat then th.pair b else 0)
      (if (th.val d).getLsbD 8 then th.pair (member b 2) else 0) acc)]

/-! ### Graphics and traversal -/

/-- The machine after a graphics instruction whose reads have left s: the results are on their way to d, and the thread
goes on. -/
def State.gave (s : State) (t : TRef) (st : Stall) (d : RegName) (rs : List Reg) : State :=
  s.modThread t fun x => ((x.results d none 0 rs).issued st s.issue.word).advance

/-- An f16 pair in one word. -/
def halves (lo hi : Nat) : Reg := Reg.plain (BitVec.ofNat 32 (lo + 65536 * hi))

/-! ### Targets -/

/-- The writes that create a multi-layer target: its descriptor with an empty status and list of free nodes, then every
chunk of its pool and the last words of the descriptor (R202, R206). -/
def State.createWrites (s : State) (p : Nat) (d : Target) (desc : List Byte) : CopyR :=
  (List.range (16 * d.npages + 1)).foldl (fun (r : CopyR) i => match r with
    | .ok s => s.clearChunk (serviceXl p) d ((d.width * d.height + 511) / 512 + i)
    | r => r) (s.writeSpan (serviceXl p) none d.va (desc.take 22 ++ [0, 0] ++ (desc.drop 24).take 4 ++ leBytes 4 0))

end Sys2Proof.Machine

open Sys2Proof Sys2Proof.Machine

/-- In every state in which its checks hold, an issue of one thread with IADD, ISUB, IMUL, IMULH, IMULHN or IMAD answers
the next state in which that thread alone has changed: each register of d waits for the exact sum, difference or product
narrowed to 32 bits, or its high half, under the ply rule of R249, with the class of its row, and the pc is PC + 4. In
every state in which its checks hold, an issue of one thread with ADD64, SUB64, MUL64, MADW or ADDPI answers the next
state in which that thread alone has changed: the pair d:2 waits for the exact result narrowed to 64 bits, low word in
d, under the ply rule of R249 over every register read. In every state in which its checks hold, an issue of one thread
with ADDI, ANDI, ORI, XORI, SHLI, SHRI, SARI, ISETLTI, MULI, LUI, ORLO or MOVI answers the next state in which that
thread alone has changed: d waits for the result of its row, with the immediate sign-extended or zero-extended as R224
says; LUI and MOVI give ZERO plies with KINK clear. (R248, R249, R250, R225, R252, R253, R224, R254.) -/
def Obligations.IntegerSums : Prop :=
  ((∀ (d a b : RegName) (w : Width) (st : Stall),
    Completes (.iadd d a b w st) st (each2 d a b w.k TCtx.dueA fun x y => nar (x.toInt + y.toInt)) ∧
    Completes (.isub d a b w st) st (each2 d a b w.k TCtx.dueA fun x y => nar (x.toInt - y.toInt)) ∧
    Completes (.imul d a b w st) st (each2 d a b w.k TCtx.dueB fun x y => nar (x.toInt * y.toInt)) ∧
    Completes (.imulh d a b w st) st (each2 d a b w.k TCtx.dueB fun x y => nar (x.toInt * y.toInt / 2 ^ 32)) ∧
    Completes (.imulhn d a b w st) st (each2 d a b w.k TCtx.dueB fun x y => nar (x.toNat * y.toNat / 2 ^ 32)) ∧
    Completes (.imad d a b w st) st (each3 d a b w.k TCtx.dueB fun x y z => nar (x.toInt * y.toInt + z.toInt))) ∧
  (∀ (d a b : RegName) (imm : BitVec 9) (st : Stall),
    Completes (.add64 d a b st) st (onePair d TCtx.dueA (fun th => th.group a 2 ++ th.group b 2)
      fun th => BitVec.ofInt 64 ((th.pair a).toInt + (th.pair b).toInt)) ∧
    Completes (.sub64 d a b st) st (onePair d TCtx.dueA (fun th => th.group a 2 ++ th.group b 2)
      fun th => BitVec.ofInt 64 ((th.pair a).toInt - (th.pair b).toInt)) ∧
    Completes (.mul64 d a b st) st (onePair d TCtx.dueB (fun th => th.group a 2 ++ th.group b 2)
      fun th => BitVec.ofInt 64 ((th.pair a).toInt * (th.pair b).toInt)) ∧
    Completes (.madw d a b st) st (onePair d TCtx.dueB (fun th => [th.get a, th.get b] ++ th.group d 2)
      fun th => BitVec.ofNat 64 ((th.val a).toNat * (th.val b).toNat + (th.pair d).toNat)) ∧
    Completes (.addpi d a imm st) st (onePair d TCtx.dueA (fun th => th.group a 2)
      fun th => BitVec.ofInt 64 ((th.pair a).toInt + imm.toInt)))) ∧
  (∀ (d a : RegName) (i9 : BitVec 9) (i5 : BitVec 5) (i16 : BitVec 16) (st : Stall),
    Completes (.addi d a i9 st) st (one1 d a TCtx.dueA fun x => nar (x.toInt + i9.toInt)) ∧
    Completes (.andi d a i9 st) st (one1 d a TCtx.dueA fun x => x &&& BitVec.ofNat 32 i9.toNat) ∧
    Completes (.ori d a i9 st) st (one1 d a TCtx.dueA fun x => x ||| BitVec.ofNat 32 i9.toNat) ∧
    Completes (.xori d a i9 st) st (one1 d a TCtx.dueA fun x => x ^^^ BitVec.ofNat 32 i9.toNat) ∧
    Completes (.shli d a i5 st) st (one1 d a TCtx.dueA fun x => BitVec.ofNat 32 (x.toNat * 2 ^ i5.toNat)) ∧
    Completes (.shri d a i5 st) st (one1 d a TCtx.dueA fun x => BitVec.ofNat 32 (x.toNat / 2 ^ i5.toNat)) ∧
    Completes (.sari d a i5 st) st (one1 d a TCtx.dueA fun x => nar (x.toInt / 2 ^ i5.toNat)) ∧
    Completes (.isetlti d a i9 st) st (one1 d a TCtx.dueA fun x => if x.toInt < i9.toInt then 1 else 0) ∧
    Completes (.muli d a i9 st) st (one1 d a TCtx.dueB fun x => nar (x.toInt * i9.toInt)) ∧
    Completes (.lui d i16 st) st (fun s t th =>
      th.result (archOf th.wb d) (Reg.plain (BitVec.ofNat 32 (i16.toNat * 65536))) (s.tctx t).dueA) ∧
    Completes (.orlo d i16 st) st (one1 d d TCtx.dueA fun x => x ||| BitVec.ofNat 32 i16.toNat) ∧
    Completes (.movi d i16 st) st (fun s t th =>
      th.result (archOf th.wb d) (Reg.plain (nar i16.toInt)) (s.tctx t).dueA))

/-- In every state in which its checks hold, an issue of one thread with AND, OR, XOR, ANDN, SHL, SHR, SAR or SHFR
answers the next state in which that thread alone has changed: bit j of each result is the bit that the row of R250 or
R252 gives; a shift count is b[4:0], or b[5:0] for SHFR. In every state in which its checks hold, an issue of one thread
with IMIN, IMAX, IMINN, IMAXN, ISET, ISETN, SEL, BFX or BFI answers the next state in which that thread alone has
changed: the smaller or larger value by s() or u(), the flag of the comparison, the whole register that SEL chooses, or
the bit field that R250 lays down. (R248, R249, R250, R252, R251, R240.) -/
def Obligations.IntegerBitsAndChoices : Prop :=
  (∀ (d a b : RegName) (w : Width) (st : Stall),
    Completes (.and d a b w st) st (each2 d a b w.k TCtx.dueA fun x y => BitVec.ofFnLE fun j => x[j] && y[j]) ∧
    Completes (.or d a b w st) st (each2 d a b w.k TCtx.dueA fun x y => BitVec.ofFnLE fun j => x[j] || y[j]) ∧
    Completes (.xor d a b w st) st (each2 d a b w.k TCtx.dueA fun x y => BitVec.ofFnLE fun j => x[j] ^^ y[j]) ∧
    Completes (.andn d a b w st) st (each2 d a b w.k TCtx.dueA fun x y => BitVec.ofFnLE fun j => x[j] && !y[j]) ∧
    Completes (.shl d a b w st) st (each2 d a b w.k TCtx.dueA fun x y =>
      BitVec.ofFnLE fun j => decide (y.toNat % 32 ≤ j) && x.getLsbD (j - y.toNat % 32)) ∧
    Completes (.shr d a b w st) st (each2 d a b w.k TCtx.dueA fun x y =>
      BitVec.ofFnLE fun j => x.getLsbD (j + y.toNat % 32)) ∧
    Completes (.sar d a b w st) st (each2 d a b w.k TCtx.dueA fun x y =>
      BitVec.ofFnLE fun j => x.getLsbD (min 31 (j + y.toNat % 32))) ∧
    Completes (.shfr d a b st) st fun s t th => th.result (archOf th.wb d)
      (intReg [th.get a, th.get (member a 1), th.get b]
        (BitVec.ofFnLE fun j => (th.pair a).getLsbD (j + (th.val b).toNat % 64))) (s.tctx t).dueA) ∧
  (∀ (d a b : RegName) (w : Width) (c : Cond) (st : Stall),
    Completes (.imin d a b w st) st (each2 d a b w.k TCtx.dueA fun x y => nar (min x.toInt y.toInt)) ∧
    Completes (.imax d a b w st) st (each2 d a b w.k TCtx.dueA fun x y => nar (max x.toInt y.toInt)) ∧
    Completes (.iminn d a b w st) st (each2 d a b w.k TCtx.dueA fun x y => BitVec.ofNat 32 (min x.toNat y.toNat)) ∧
    Completes (.imaxn d a b w st) st (each2 d a b w.k TCtx.dueA fun x y => BitVec.ofNat 32 (max x.toNat y.toNat)) ∧
    Completes (.iset d a b c st) st (each2 d a b 1 TCtx.dueA fun x y => if condHolds c x.toInt y.toInt then 1 else 0) ∧
    Completes (.isetn d a b c st) st (each2 d a b 1 TCtx.dueA fun x y => if condHolds c x.toNat y.toNat then 1 else 0) ∧
    Completes (.sel d a b w st) st (fun s t th => th.results d (s.tctx t).dueA 0 ((List.range w.k).map fun i =>
      if th.valAt d i = 0 then th.get (member b i) else th.get (member a i))) ∧
    Completes (.bfx d a b w st) st (each2 d a b w.k TCtx.dueA fun x y =>
      BitVec.ofFnLE fun j => decide (j < min (y.field 8 6) 32) && x.getLsbD (j + y.toNat % 32)) ∧
    Completes (.bfi d a b w st) st (each3 d a b w.k TCtx.dueA fun x y z => BitVec.ofFnLE fun j =>
      if y.toNat % 32 ≤ j ∧ j < y.toNat % 32 + min (y.field 8 6) 32 then x.getLsbD (j - y.toNat % 32) else z[j]))

/-- In every state in which its checks hold, an issue of one thread with MOV, NOT, INEG, IABS, POPC, CLZ, CTZ, BREV,
SEXT8, SEXT16, ZEXT8 or ZEXT16 answers the next state in which that thread alone has changed: MOV copies whole
registers, the others give the value of their row of R257 under the ply rule of R249. In every state in which its checks
hold, an issue of one thread with IDIV, IDIVN, IREM or IREMN answers the next state in which that thread alone has
changed: d waits for the quotient of old d by a truncated toward zero, or the remainder with the sign of the dividend; a
= 0 gives 0xFFFF_FFFF or old d, and the signed overflow 0x8000_0000 or 0. (R249, R257, R188.) -/
def Obligations.IntegerUnaryAndDivision : Prop :=
  (∀ (d a : RegName) (w : Width) (st : Stall),
    Completes (.mov d a w st) st (fun s t th =>
      th.results d (s.tctx t).dueA 0 ((List.range w.k).map fun i => th.get (member a i))) ∧
    Completes (.not d a st) st (one1 d a TCtx.dueA fun x => nar (-1 - x.toInt)) ∧
    Completes (.ineg d a st) st (one1 d a TCtx.dueA fun x => nar (-x.toInt)) ∧
    Completes (.iabs d a st) st (one1 d a TCtx.dueA fun x => nar |x.toInt|) ∧
    Completes (.popc d a st) st (one1 d a TCtx.dueA fun x => BitVec.ofNat 32 ((List.range 32).countP fun j => x.getLsbD j)) ∧
    Completes (.clz d a st) st (one1 d a TCtx.dueA fun x => BitVec.ofNat 32 (if x = 0 then 32 else 31 - x.toNat.log2)) ∧
    Completes (.ctz d a st) st (one1 d a TCtx.dueA fun x =>
      BitVec.ofNat 32 (((List.range 32).find? fun j => x.getLsbD j).getD 32)) ∧
    Completes (.brev d a st) st (one1 d a TCtx.dueA fun x => BitVec.ofFnLE fun j => x.getLsbD (31 - j)) ∧
    Completes (.sext8 d a st) st (one1 d a TCtx.dueA fun x => nar ((x.extractLsb' 0 8).toInt)) ∧
    Completes (.sext16 d a st) st (one1 d a TCtx.dueA fun x => nar ((x.extractLsb' 0 16).toInt)) ∧
    Completes (.zext8 d a st) st (one1 d a TCtx.dueA fun x => BitVec.ofNat 32 (x.toNat % 2 ^ 8)) ∧
    Completes (.zext16 d a st) st (one1 d a TCtx.dueA fun x => BitVec.ofNat 32 (x.toNat % 2 ^ 16))) ∧
  (∀ (d a : RegName) (st : Stall),
    let div := fun (v : Word → Word → Word) (_ : State) (_ : TRef) (th : Thread) =>
      th.result (archOf th.wb d) (intReg [th.get a, th.get d] (v (th.val d) (th.val a))) none
    Completes (.idiv d a st) st (div fun n x => if x = 0 then 0xFFFFFFFF else nar (n.toInt.tdiv x.toInt)) ∧
    Completes (.idivn d a st) st (div fun n x => if x = 0 then 0xFFFFFFFF else BitVec.ofNat 32 (n.toNat / x.toNat)) ∧
    Completes (.irem d a st) st (div fun n x => if x = 0 then n else nar (n.toInt.tmod x.toInt)) ∧
    Completes (.iremn d a st) st (div fun n x => if x = 0 then n else BitVec.ofNat 32 (n.toNat % x.toNat)))

/-- In every state in which its checks hold, an issue of one thread with FADD, FSUB, FMUL, FFMA, FMIN, FMAX, FCMP, FCMPM
or FDIV answers the next state in which that thread alone has changed, its registers waiting for the results and its
flags ORed into %fpflags; or, where %fpctl enables one of the exceptions raised, the state after the delivery of the
cause of the lowest one, with the flags set and d unwritten. In every state in which its checks hold, an issue of one
thread with PADD2, PMUL2, PFMA2, PMAX2, PMIN2 or DREV answers the next state in which that thread alone has changed,
with both 16-bit results in d and the flags set, or the state after the delivery of an enabled exception; DFLIP sets no
flag and completes with its bit in d. (R172, R279, R281, R282, R283, R284, R285, R188, R191, R192, R291, R296.) -/
def Obligations.FloatResults : Prop :=
  (∀ (d a b : RegName) (w : Width) (c : Cond) (st : Stall),
    FpOutcome (.fadd d a b w st) st d TCtx.dueB (fpEach d a b w.k fun n x y _ => faddReg n x y) ∧
    FpOutcome (.fsub d a b w st) st d TCtx.dueB (fpEach d a b w.k fun n x y _ => fsubReg n x y) ∧
    FpOutcome (.fmul d a b w st) st d TCtx.dueB (fpEach d a b w.k fun n x y _ => fmulReg n x y) ∧
    FpOutcome (.ffma d a b w st) st d TCtx.dueB (fpEach d a b w.k ffmaReg) ∧
    FpOutcome (.fmin d a b w st) st d TCtx.dueB (fpEach d a b w.k fun n x y _ => fminmaxReg false n x y) ∧
    FpOutcome (.fmax d a b w st) st d TCtx.dueB (fpEach d a b w.k fun n x y _ => fminmaxReg true n x y) ∧
    FpOutcome (.fcmp d a b c st) st d TCtx.dueB (fpEach d a b 1 fun _ x y _ =>
      (Reg.plain (if cmpVal c x.v y.v then 1 else 0), if x.v.isSig || y.v.isSig then Flags.nv else Flags.none)) ∧
    FpOutcome (.fcmpm d a b c st) st d TCtx.dueB (fun s t th =>
      [(Reg.plain (fcmpFlag c (th.get a) (th.get b)).1, (fcmpFlag c (th.get a) (th.get b)).2),
       fsubReg (s.plyN t.blk) (th.get a) (th.get b)]) ∧
    FpOutcome (.fdiv d a b w st) st d dueV (fpEach d a b w.k fun n x y _ => fdivReg n x y)) ∧
  (∀ (d a b : RegName) (bf : Bool) (w : Width) (st : Stall),
    FpOutcome (.padd2 d a b bf st) st d TCtx.dueB (fpEach d a b 1 (packed2 bf Fmt.addOp)) ∧
    FpOutcome (.pmul2 d a b bf st) st d TCtx.dueB (fpEach d a b 1 (packed2 bf Fmt.mulOp)) ∧
    FpOutcome (.pfma2 d a b bf st) st d TCtx.dueB (fpEach d a b 1 fun _ x y z => packed [x, y, z] fun e =>
      (pairFmt bf).fmaOp (halfOf x.val e) (halfOf y.val e) (halfOf z.val e)) ∧
    FpOutcome (.pmax2 d a b bf st) st d TCtx.dueB (fpEach d a b 1 (packed2 bf fun f => f.minmaxOp true)) ∧
    FpOutcome (.pmin2 d a b bf st) st d TCtx.dueB (fpEach d a b 1 (packed2 bf fun f => f.minmaxOp false)) ∧
    FpOutcome (.drev d a b w st) st d TCtx.dueB (fun s t th =>
      [drevReg (s.plyN t.blk) (th.get a) ((List.range w.k).map (th.valAt b))]) ∧
    Completes (.dflip d a b w st) st fun s t th => th.result (archOf th.wb d)
      (Reg.plain (dflipVal (s.plyN t.blk) (th.get a) ((List.range w.k).map (th.valAt b)))) (s.tctx t).dueB)

/-- In every state in which its checks hold, an issue of one thread with an instruction of the FUN group (FABS, FNEG,
FFLOOR, FCEIL, FROUND, FTRUNC, FFRAC, FSQRT, FRCP, FRSQ, FEXP2, FLOG2, FEXP, FLOG, FSINPI, FCOSPI, FTANH, FSIGM, FGELU,
FERF) or CVT answers the next state in which that thread alone has changed: d waits for the function of a in the format
of the word, and the flags are set; or the state after the delivery of an enabled exception. (R172, R258, R259, R286,
R287, R288, R289, R290.) -/
def Obligations.FloatFunctions : Prop :=
  ∀ (d a : RegName) (f : FunFmt) (st : Stall) (src dst : NumFmt) (sat : Bool) (m : Rnd),
    FpOutcome (.fabs d a f st) st d TCtx.dueB (fpOne a (fabsReg f)) ∧
    FpOutcome (.fneg d a f st) st d TCtx.dueB (fpOne a (fnegReg f)) ∧
    FpOutcome (.ffloor d a f st) st d TCtx.dueB (fpOne a fun _ x => integralReg .rdn f x) ∧
    FpOutcome (.fceil d a f st) st d TCtx.dueB (fpOne a fun _ x => integralReg .rup f x) ∧
    FpOutcome (.fround d a f st) st d TCtx.dueB (fpOne a fun _ x => integralReg .rne f x) ∧
    FpOutcome (.ftrunc d a f st) st d TCtx.dueB (fpOne a fun _ x => integralReg .rz f x) ∧
    FpOutcome (.ffrac d a f st) st d TCtx.dueB (fpOne a (ffracReg f)) ∧
    FpOutcome (.fsqrt d a f st) st d dueV (fpOne a (funReg .sqrt f)) ∧
    FpOutcome (.frcp d a f st) st d dueV (fpOne a (funReg .rcp f)) ∧
    FpOutcome (.frsq d a f st) st d dueV (fpOne a (funReg .rsq f)) ∧
    FpOutcome (.fexp2 d a f st) st d dueV (fpOne a (funReg .exp2 f)) ∧
    FpOutcome (.flog2 d a f st) st d dueV (fpOne a (funReg .log2 f)) ∧
    FpOutcome (.fexp d a f st) st d dueV (fpOne a (funReg .exp f)) ∧
    FpOutcome (.flog d a f st) st d dueV (fpOne a (funReg .log f)) ∧
    FpOutcome (.fsinpi d a f st) st d dueV (fpOne a (funReg .sinpi f)) ∧
    FpOutcome (.fcospi d a f st) st d dueV (fpOne a (funReg .cospi f)) ∧
    FpOutcome (.ftanh d a f st) st d dueV (fpOne a (funReg .tanh f)) ∧
    FpOutcome (.fsigm d a f st) st d dueV (fpOne a (funReg .sigm f)) ∧
    FpOutcome (.fgelu d a f st) st d dueV (fpOne a (funReg .gelu f)) ∧
    FpOutcome (.ferf d a f st) st d dueV (fpOne a (funReg .erf f)) ∧
    FpOutcome (.cvt d a src dst sat m st) st d TCtx.dueB (fpOne a fun _ x => cvtReg src dst sat m x)

/-- In every state in which its checks hold, an issue of one thread with PLYLOSE, PLYTAG or PLYCLRK, or with PLYGET,
PLYSET or PLYZERO and k below D, answers the next state in which that thread alone has changed, d waiting for the
register of its row; with k at or above D the three deliver RegRange 0x03. (R181, R184, R198, R239, R295.) -/
def Obligations.PlyGroup : Prop :=
  ∀ (d a : RegName) (k : BitVec 4) (st : Stall),
    let below := fun (s : State) (t : TRef) (_ : Thread) => k.toNat < s.plyN t.blk
    let into := fun (g : State → TRef → Thread → Reg) (s : State) (t : TRef) (th : Thread) =>
      th.result (archOf th.wb d) (g s t th) (s.tctx t).dueA
    CompletesWhen (.plyget d a k st) st below (into fun _ _ th =>
      Reg.plain (match (th.get a).tag with
        | .lost => 0x7FC00000 | .zero => 0 | .live => (th.get a).parts.getD k.toNat 0)) ∧
    CompletesWhen (.plyset d a k st) st below (into fun s t th => match (th.get d).tag with
      | .lost => th.get d
      | _ => { th.get d with tag := .live, parts := (partsOf (s.plyN t.blk) (th.get d).part).set k.toNat (th.val a) }) ∧
    CompletesWhen (.plyzero d k st) st below (into fun s t th => match (th.get d).tag with
      | .live => { th.get d with parts := (partsOf (s.plyN t.blk) (th.get d).part).set k.toNat 0 }
      | _ => th.get d) ∧
    Completes (.plylose d st) st (into fun _ _ th => { th.get d with tag := .lost, parts := [] }) ∧
    Completes (.plytag d a st) st (into fun _ _ th =>
      Reg.plain (BitVec.ofNat 32 ((th.get a).tag.code + if (th.get a).kink then 4 else 0))) ∧
    Completes (.plyclrk d st) st (into fun _ _ th => { th.get d with kink := false }) ∧
    ∀ i ∈ [Instr.plyget d a k st, .plyset d a k st, .plyzero d k st], ∀ s t th, OneLane i s t th →
      s.plyN t.blk ≤ k.toNat → exec i s = .next ((s.modThread t fun _ => th).deliverIssued st [⟨t, 0x05, 0x03, 0⟩] (some i))

/-- In every state in which its checks hold, an issue of one thread with MOVS, MOVTS, WINB or CYCLES answers the next
state: MOVS brings the value of the special register into d with ZERO plies; MOVTS writes the value bits of d into the
register that it names, where that register or field can be written, %reformage in the block; WINB sets the window base;
CYCLES brings the cycle count of the core into d:2. Nothing else changes. (R255, R256, R230, R232, R276.) -/
def Obligations.SpecialRegisters : Prop :=
  ∀ (d : RegName) (n imm : BitVec 16) (st : Stall),
    Completes (.movs d n st) st (fun s t th =>
      th.result (archOf th.wb d) (Reg.plain (s.special t th n.toNat)) none) ∧
    CompletesWhen (.movts d n st) st (fun _ _ _ => n ≠ 0x0500#16) (fun _ _ th => th.setSpecial n.toNat (th.val d)) ∧
    (∀ s t th, OneLane (.movts d 0x0500#16 st) s t th → exec (.movts d 0x0500#16 st) s =
      .next (((s.modThread t fun _ => th).modBlock t.blk fun b =>
        { b with reformAge := min (max ((th.val d).toNat % 2 ^ 17) 256) 65536 }).modThread t fun x =>
          (x.issued st s.issue.word).advance)) ∧
    Completes (.winb imm st) st (fun _ _ th => { th with wb := imm.toNat }) ∧
    Completes (.cycles d st) st (fun s _ th =>
      let c := BitVec.ofNat 64 (s.core s.issue.core).cycles
      th.results d none 0 [Reg.plain (c.extractLsb' 0 32), Reg.plain (c.extractLsb' 32 32)])

/-- What a MOVTS to a register of the thread leaves: %trapepc and its high half and %tvec and its high half take their
bits with bits [1:0] clear, %plystride 24 bits, %fpctl and %fpflags 5 bits, %chk one bit; each of these writes leaves
every other special register, every other trap register and everything else of the thread as it was, and a write to any
other number leaves all of the thread as it was. (R255, R214, R171, R226, R182.) -/
def Obligations.SpecialRegisterWrites : Prop :=
  ∀ (th : Thread) (v : Word) (n : Nat),
    let trapped := fun (epc vec : BitVec 48) =>
      { th with trap := ⟨th.trap.inHandler, th.trap.cause, epc, th.trap.mask, th.trap.first, th.trap.sub, th.trap.inst, vec⟩ }
    th.setSpecial 0x0101 v = trapped (th.trap.epc.extractLsb' 32 16 ++ (v.extractLsb' 2 30 ++ 0#2)) th.trap.vec ∧
    th.setSpecial 0x0102 v = trapped (v.extractLsb' 0 16 ++ th.trap.epc.extractLsb' 0 32) th.trap.vec ∧
    th.setSpecial 0x0107 v = trapped th.trap.epc (th.trap.vec.extractLsb' 32 16 ++ (v.extractLsb' 2 30 ++ 0#2)) ∧
    th.setSpecial 0x0108 v = trapped th.trap.epc (v.extractLsb' 0 16 ++ th.trap.vec.extractLsb' 0 32) ∧
    th.setSpecial 0x0201 v = { th with plystride := v.extractLsb' 0 24 } ∧
    th.setSpecial 0x0300 v = { th with fpctl := v.extractLsb' 0 5 } ∧
    th.setSpecial 0x0301 v = { th with fpflags := v.extractLsb' 0 5 } ∧
    th.setSpecial 0x0503 v = { th with chk := v.getLsbD 0 } ∧
    (n ∉ [0x0101, 0x0102, 0x0107, 0x0108, 0x0201, 0x0300, 0x0301, 0x0503] → th.setSpecial n v = th)

/-- In every state in which its checks hold, an issue of one thread with SPL or FIL and a slot below the spill depth of
the kernel answers the next state: SPL keeps the whole register a in the slot, FIL brings the slot into d, and a FIL of
a slot that the thread wrote last gives the register written; a slot at or beyond the depth delivers RegRange 0x04.
Nothing else changes. (R54, R305.) -/
def Obligations.SpillSlots : Prop :=
  ∀ (r : RegName) (n : BitVec 9) (st : Stall),
    let below := fun (s : State) (t : TRef) (_ : Thread) => n.toNat < (s.kernel t.blk).spill
    CompletesWhen (.spl r n st) st below (fun _ _ th => th.setSlot n.toNat (th.get r)) ∧
    CompletesWhen (.fil r n st) st below (fun _ _ th => th.result (archOf th.wb r) (th.slot n.toNat) none) ∧
    (∀ (th : Thread) (m : Nat) (x : Reg), (th.setSlot m x).slot m = x ∧ ∀ k ≠ m, (th.setSlot m x).slot k = th.slot k) ∧
    ∀ i ∈ [Instr.spl r n st, .fil r n st], ∀ s t th, OneLane i s t th → (s.kernel t.blk).spill ≤ n.toNat →
      exec i s = .next ((s.modThread t fun _ => th).deliverIssued st [⟨t, 0x05, 0x04, 0⟩] (some i))

/-- In every state in which its checks hold, an issue of one thread with BRZ, BRNZ, BRLTZ or BRGEZ answers the next
state in which that thread stands at PC + 4 + off16 × 4 where the value of a is zero, is not zero, is below zero or is
not below zero by s(), and at PC + 4 otherwise; beside that thread only the loop buffer of its strand changes; and the
word with the fields op, a, off16 and st decodes to the instruction. (R262.) -/
def Obligations.Branches : Prop :=
  ∀ (a : RegName) (off : BitVec 16) (st : Stall),
    BranchesOn (.brz a off st) st off (fun th => th.val a = 0) ∧
    BranchesOn (.brnz a off st) st off (fun th => th.val a ≠ 0) ∧
    BranchesOn (.brltz a off st) st off (fun th => (th.val a).toInt < 0) ∧
    BranchesOn (.brgez a off st) st off (fun th => 0 ≤ (th.val a).toInt) ∧
    decode (0x30#7 ++ a ++ off ++ st) = some (.brz a off st) ∧ decode (0x31#7 ++ a ++ off ++ st) = some (.brnz a off st) ∧
    decode (0x32#7 ++ a ++ off ++ st) = some (.brltz a off st) ∧ decode (0x33#7 ++ a ++ off ++ st) = some (.brgez a off st)

/-- In every state in which its checks hold, an issue of one thread with JMP or CALL goes to PC + 4 + off23 × 4, and
with JMPI or CALLI to the value of a within the high half of the pc, or to the pair a:2, with bits [1:0] clear; the
calls write the low word of PC + 4 into v1 with ZERO plies, a being read first; a pair beyond 48 bits raises
AddressFault 0x01 and writes nothing; and the words with the fields of each form decode to it. (R263, R264.) -/
def Obligations.JumpsAndCalls : Prop :=
  ∀ (a : RegName) (off : BitVec 23) (st : Stall) (s : State) (t : TRef) (th : Thread),
    let linked := th.putNow 1 (Reg.plain ((th.pc + 4).extractLsb' 0 32))
    let near : Addr := th.pc + 4 + BitVec.ofInt 64 (off.toInt * 4)
    let single : Addr := 0#16 ++ th.pc.extractLsb' 32 16 ++ (th.val a).extractLsb' 2 30 ++ 0#2
    let paired : Addr := (th.pair a).extractLsb' 2 62 ++ 0#2
    (OneLane (.jmp off st) s t th →
      exec (.jmp off st) s = .next (s.sent t st th { th with pc := near } fun k => k.jumped th.pc.toNat near.toNat)) ∧
    (OneLane (.call off st) s t th →
      exec (.call off st) s = .next (s.sent t st th { linked with pc := near } Strand.leaveLoop)) ∧
    (OneLane (.jmpi a false st) s t th →
      exec (.jmpi a false st) s = .next (s.sent t st th { th with pc := single } Strand.leaveLoop)) ∧
    (OneLane (.calli a false st) s t th →
      exec (.calli a false st) s = .next (s.sent t st th { linked with pc := single } Strand.leaveLoop)) ∧
    (OneLane (.jmpi a true st) s t th → (th.pair a).toNat < 2 ^ 48 →
      exec (.jmpi a true st) s = .next (s.sent t st th { th with pc := paired } Strand.leaveLoop)) ∧
    (OneLane (.calli a true st) s t th → (th.pair a).toNat < 2 ^ 48 →
      exec (.calli a true st) s = .next (s.sent t st th { linked with pc := paired } Strand.leaveLoop)) ∧
    (∀ i ∈ [Instr.jmpi a true st, .calli a true st], OneLane i s t th → 2 ^ 48 ≤ (th.pair a).toNat →
      exec i s = .next (s.deliverIssued st [⟨t, 0x20, 0x01, (th.pair a).toNat⟩] (some i))) ∧
    decode (0x34#7 ++ off ++ st) = some (.jmp off st) ∧ decode (0x35#7 ++ off ++ st) = some (.call off st) ∧
    decode (0x36#7 ++ 0#7 ++ a ++ 0#7 ++ 0#2 ++ st) = some (.calli a false st) ∧
    decode (0x36#7 ++ 0#7 ++ a ++ 0#7 ++ 1#2 ++ st) = some (.calli a true st) ∧
    decode (0x37#7 ++ 0#7 ++ a ++ 0#7 ++ 0#2 ++ st) = some (.jmpi a false st) ∧
    decode (0x37#7 ++ 0#7 ++ a ++ 0#7 ++ 1#2 ++ st) = some (.jmpi a true st)

/-- In every state in which its checks hold, an issue of one thread answers the next state that the rules give. The top
entry of a file is the topmost that it had at the start of the cycle, or above it one that the other port has pushed in
the cycle and that has the rejoin pc and address of the JPUSH. JPUSH, outside serial mode, leaves all as it is where the
top entry has its rejoin pc and address and holds the thread; below a depth of 64 it joins the top entry with that
rejoin pc and address, or pushes an entry of its own where the file is not full; with a full file, or in serial mode,
the strand is in serial mode and the thread pushes the pair onto its overflow stack; at a depth of 64 it raises RegRange
0x02. REJOIN takes the top of the overflow stack, and goes on at its rejoin pc; without one it marks the thread as
arrived in its innermost entry and parks it; without an entry it only goes on. BRKN drops n pairs of the overflow stack,
and then leaves as many of the innermost entries as are left of n. Nothing else changes. (R137, R138, R266, R267.) -/
def Obligations.RejoinFile : Prop :=
  ∀ (off : BitVec 23) (n : BitVec 16) (st : Stall) (s : State) (t : TRef) (th : Thread),
    let k := s.strandOf t th
    let label : Addr := th.pc + 4 + BitVec.ofInt 64 (off.toInt * 4)
    let top := k.rejoin.find? fun e => decide (e.fresh = false ∨ (e.pc = label ∧ e.at_ = th.pc))
    let joins := (top.map fun e => decide (e.pc = label ∧ e.at_ = th.pc)) = some true
    let inTop := (top.map fun e => e.mask.contains t) = some true
    let depth := k.depth t + th.overflow.length
    (OneLane (.jpush off st) s t th →
      (k.serial = false → joins → inTop → exec (.jpush off st) s = .next (s.goOn t st th)) ∧
      (k.serial = false → ¬ (joins ∧ inTop) → depth < 64 → (joins ∨ k.rejoin.length < 16) →
        exec (.jpush off st) s = .next (s.stranded t st th (fun x => x.push t label th.pc) id)) ∧
      ((k.serial = true ∨ (¬ joins ∧ k.rejoin.length = 16)) → depth < 64 →
        exec (.jpush off st) s = .next (s.stranded t st th (fun x => { x with serial := true })
          fun x => { x with overflow := (label, th.pc) :: x.overflow })) ∧
      (64 ≤ depth → (k.serial = true ∨ ¬ (joins ∧ inTop)) →
        exec (.jpush off st) s = .next (s.deliverIssued st [⟨t, 0x05, 0x02, 0⟩] (some (.jpush off st))))) ∧
    (OneLane (.rejoin st) s t th →
      (∀ pc at_ r, th.overflow = (pc, at_) :: r →
        exec (.rejoin st) s = .next (s.goThere t st { th with overflow := r, pc := pc })) ∧
      (th.overflow = [] → k.depth t = 0 → exec (.rejoin st) s = .next (s.goOn t st th)) ∧
      (th.overflow = [] → k.depth t ≠ 0 → exec (.rejoin st) s =
        .next (((s.modStrand t.blk th.strand fun x => { x with rejoin := arriveIn t x.rejoin }).parkAt t .rejoin).modThread t
          (Thread.issued st s.issue.word)))) ∧
    (OneLane (.brkn n st) s t th → exec (.brkn n st) s =
      .next (((s.modThread t fun x => { x with overflow := x.overflow.drop n.toNat }).modStrand t.blk th.strand fun x =>
        x.leave t (n.toNat - min n.toNat th.overflow.length)).modThread t fun x => (x.issued st s.issue.word).advance))

/-- In every state in which its checks hold, an issue of one thread answers the next state: NOP changes nothing but the
pc; YIELD sets the yield count of the thread to 16; ISYNC makes the strand give up its loop buffer and its prefetched
words. A thread whose yield count is not 0 is not ready, and an opportunity lowers a count above 1 by one. (R270, R274,
R91, R133.) -/
def Obligations.ThreadControl : Prop :=
  (∀ st : Stall, Completes (.nop st) st (fun _ _ th => th) ∧
    Completes (.yield st) st (fun _ _ th => { th with yield := 16 }) ∧
    ∀ s t th, OneLane (.isync st) s t th → exec (.isync st) s =
      .next (s.stranded t st th (fun k => { k with loopBuf := none, prefetched := [] }) id)) ∧
  (∀ (s : State) (c : Nat) (t : TRef) (th : Thread), s.thread? t = some th → th.yield ≠ 0 → s.ready c t = false) ∧
  ∀ (th : Thread) (r i : Bool), 1 < th.yield → (th.opportunity r i).yield = th.yield - 1

/-- In every state in which its checks hold: an EXIT parks while an open round holds a signature of its thread; else, in
a block that is not doubled or after its seal, the thread ends, with no entry of its overflow stack left, the results on
their way to it arrived but for those of commands that have not issued yet, and the entries of its strand left; every
other thread, and memory, are as before; in a doubled block it waits for its seal first. A REFORM of a thread for which
a result is on its way parks; of any other, after the earlier writes of the strand, with a bobbin of its key or a free
one, it files the thread in it, at PC + 4 with an empty overflow stack; and with none the thread goes on at PC + 4 in a
new strand of its own. That a REFORM performs the queued writes of its strand in its own step is the choice of the model
(log 12). (R137, R140, R141, R268, R269, R319, R368.) -/
def Obligations.ExitAndReform : Prop :=
  ∀ (st : Stall) (s : State) (t : TRef) (th : Thread),
    let core := s.issue.core
    (OneLane (.exit st) s t th →
      (s.exitWaits core t th = true → exec (.exit st) s = .next (s.goThere t st { th with park := some .exit })) ∧
      (s.exitWaits core t th = false → s.isDoubled t.blk = true → th.sealed = false → exec (.exit st) s =
        .next (((s.parkAt t (.seal true)).want (.seal t.blk t.tid)).modThread t (Thread.issued st s.issue.word))) ∧
      (s.exitWaits core t th = false → (s.isDoubled t.blk = false ∨ th.sealed = true) → ∃ s' x, exec (.exit st) s = .next s' ∧
        s'.thread? t = some x ∧ x.live = false ∧ x.overflow = [] ∧ x.pend = th.pend.filter (·.held) ∧
         x.park = none ∧ s'.mem = s.mem ∧
        (th.cv = none → s'.cores = s.cores) ∧ (∀ u ≠ t, s'.thread? u = s.thread? u) ∧
        ∀ k, s.strand? t.blk th.strand = some k → k.joint = none → (s'.strand? t.blk th.strand).map (·.rejoin) =
          some (leaveEntries t k.rejoin.length k.rejoin))) ∧
    (OneLane (.reform st) s t th →
      (th.pend ≠ [] → exec (.reform st) s = .next (s.goThere t st { th with park := some .reform })) ∧
      (th.pend = [] →
        let s1 := s.drainStrand t.blk th.strand
        let key := s.bobbinKey t th
        s1.thread? t = some th → core < s1.cores.length →
        let out := fun (f : Bool) (k : Nat) => some ({ th with
          filed := f, strand := k, pc := th.pc + 4, overflow := [], park := none, hang := 0, stall := st.toNat,
          word := s1.issue.word, again := false } : Thread)
        (∀ i b, pickBobbin (s1.core core).bobbins key = some i → (s1.core core).bobbins[i]? = some b →
          ∃ s', exec (.reform st) s = .next s' ∧ s'.thread? t = out true th.strand ∧ s'.mem = s1.mem ∧
            (s'.core core).bobbins[i]? = some ⟨some key, b.threads ++ [(t, 0)]⟩) ∧
        (∀ b, pickBobbin (s1.core core).bobbins key = none → s1.blocks[t.blk]? = some b →
          (∀ x ∈ b.threads, x.strand < b.strands.length) → ∃ s', exec (.reform st) s = .next s' ∧ s'.thread? t = out false b.strands.length ∧ s'.mem = s1.mem ∧ s'.cores = s1.cores ∧
            s'.strandThreads t.blk b.strands.length = [t])))

/-- In every state in which its checks hold, an issue of one thread with LDB, LDBS, LDH, LDHS or LDW whose address a:2 +
s(imm7) × bytes moved reaches a location without an uncorrectable error answers the next state in which d waits for the
bytes that the thread sees there, zero-extended, sign-extended or word by word, with ZERO plies and KINK clear; beside
what the translation itself changed and the single-bit errors that are corrected only that thread changes. (R297, R298,
R64, R68, R103, R189.) -/
def Obligations.Loads : Prop :=
  ∀ (d a : RegName) (imm : BitVec 7) (w : Width) (st : Stall),
    LoadsFrom (.ldb d a imm st) st .load d (fun th => mAddr th a imm 1) 1
      (fun bs => [BitVec.ofNat 32 (leNat bs)]) ∧
    LoadsFrom (.ldbs d a imm st) st .load d (fun th => mAddr th a imm 1) 1
      (fun bs => [BitVec.ofInt 32 (BitVec.ofNat 8 (leNat bs)).toInt]) ∧
    LoadsFrom (.ldh d a imm st) st .load d (fun th => mAddr th a imm 2) 2
      (fun bs => [BitVec.ofNat 32 (leNat bs)]) ∧
    LoadsFrom (.ldhs d a imm st) st .load d (fun th => mAddr th a imm 2) 2
      (fun bs => [BitVec.ofInt 32 (BitVec.ofNat 16 (leNat bs)).toInt]) ∧
    LoadsFrom (.ldw d a imm w st) st .load d (fun th => mAddr th a imm (4 * w.k)) (4 * w.k)
      (fun bs => (List.range w.k).map (leWord bs))

/-- In every state in which its checks hold, an issue of one thread with STB, STH or STW whose address a:2 + s(imm7) ×
bytes moved reaches a location enters the write of the low byte, the low half or the words of d at that location into
the store queue of its strand; no home byte of any memory changes, beside what the translation itself wrote, and no
register. In a doubled block, of a write to pod memory by STW, the same holds, and the write is folded into the
signature of the thread. (R297, R298, R104, R367.) -/
def Obligations.Stores : Prop :=
  ∀ (d a : RegName) (imm : BitVec 7) (w : Width) (st : Stall),
    StoresTo (.stb d a imm st) st (fun th => mAddr th a imm 1) (fun th => [(th.val d).extractLsb' 0 8]) ∧
    StoresTo (.sth d a imm st) st (fun th => mAddr th a imm 2)
      (fun th => [(th.val d).extractLsb' 0 8, (th.val d).extractLsb' 8 8]) ∧
    StoresTo (.stw d a imm w st) st (fun th => mAddr th a imm (4 * w.k))
      (fun th => (List.range w.k).flatMap fun i => (List.range 4).map fun j => (th.valAt d i).extractLsb' (8 * j) 8) ∧
    ∀ s t th s' pa, OneLane (.stw d a imm w st) s t th → Reaches s t .store (mAddr th a imm (4 * w.k)) (4 * w.k) s' (.phys pa) →
      s'.isDoubled t.blk = true → s'.thread? t = some th → ∃ s2, exec (.stw d a imm w st) s = .next s2 ∧ s2.mem = s'.mem ∧
        (s2.blocks.map (·.mem)) = s'.blocks.map (·.mem) ∧
        (s2.thread? t).map (fun x => (x.sig, x.regs, x.pc)) = some ((th.fold (mAddr th a imm (4 * w.k)).toNat
          (groupBytes d w.k th)).sig, th.regs, th.pc + 4)

/-- When a write enters the store queue of a thread's strand, a read of the same memory by that thread returns for each
byte that the write covers the byte of the write, and for each other byte what it would have returned before; with
nothing queued or quarantined it returns the home. (R103, R61.) -/
def Obligations.Forwarding : Prop :=
  ∀ (s : State) (t : TRef) (th : Thread) (l : Loc) (n : Nat) (k : Strand),
    s.strand? t.blk th.strand = some k → k.joint = none →
    (∀ (b o b' o' : Nat) (bytes : List Byte) (f : Bool), l = .win b o →
      ∀ i < n, ((s.enqueueWrite t th ⟨t, .win b' o', bytes, f⟩).visible t th l n)[i]? =
        if b = b' ∧ o' ≤ o + i ∧ o + i < o' + bytes.length then bytes[o + i - o']? else (s.visible t th l n)[i]?) ∧
    (∀ (p p' : Nat) (bytes : List Byte) (f : Bool), l = .phys p →
      ∀ i < n, ((s.enqueueWrite t th ⟨t, .phys p', bytes, f⟩).visible t th l n)[i]? =
        if p' ≤ p + i ∧ p + i < p' + bytes.length then bytes[p + i - p']? else (s.visible t th l n)[i]?) ∧
    (k.queue = [] → ((s.blocks[t.blk]?).map (·.quarantine)).getD [] = [] → s.visible t th l n = s.homeRead l n)

/-- When the oldest write of the store queue of a strand is performed, and no thread waits on a granule of the block
that it is for, it leaves the queue; outside a doubled block its bytes stand at its home, every other byte of that
memory reads as before, and every other memory, every register and every core is unchanged; a full/empty bit changes
only for a STFE. (R61, R68, R97, R104.) -/
def Obligations.StoreQueueDrain : Prop :=
  ∀ (s : State) (blk k : Nat) (st : Strand) (w : QWrite) (r : List QWrite),
    s.strand? blk k = some st → st.joint = none → st.queue = w :: r → s.memOk = true →
    (s.blocks[w.t.blk]?).map Block.doubled ≠ some true →
    (∀ b o m, w.loc = .win b o → s.blocks[b]? = some m → ∀ x ∈ m.threads, ∀ g, x.park ≠ some (.granule g)) →
    ∃ s', exec (.storeQueueDrain blk k) s = .next s' ∧ (s'.strand? blk k).map (·.queue) = some r ∧
      s'.cores = s.cores ∧ s'.parts = s.parts ∧ s'.grids = s.grids ∧
      (∀ t, s'.thread? t = s.thread? t) ∧
      (∀ p, w.loc = .phys p → (∀ b : Nat, (s'.blocks[b]?).map Block.memFull = (s.blocks[b]?).map Block.memFull) ∧
        ∀ a, Mem.get s'.mem a = if p ≤ a ∧ a < p + w.bytes.length then w.bytes.getD (a - p) 0 else Mem.get s.mem a) ∧
      ∀ b o m, w.loc = .win b o → s.blocks[b]? = some m → s'.mem = s.mem ∧
        (∀ c ≠ b, (s'.blocks[c]?).map Block.memFull = (s.blocks[c]?).map Block.memFull) ∧
        ∃ m', s'.blocks[b]? = some m' ∧ (w.fill = false → m'.full = m.full) ∧
          ∀ a, Mem.get m'.mem a = if o ≤ a ∧ a < o + w.bytes.length then w.bytes.getD (a - o) 0 else Mem.get m.mem a

/-- In every state in which its other checks hold, an issue of one thread with LDW or STW delivers AddressFault 0x01 for
an address at or above 2^48, else AddressFault 0x02 for one that is not aligned to the bytes moved, else the fault that
the aperture or the translation finds, with the state as that leaves it. A load or store address in
0x0000_FF00_0000_0000 to 0x0000_FF00_FFFF_FFFF is resolved by its fields alone, and no table, extent or poisoned page
plays a part: with bits [31:22] zero and WIN = 0 it is the offset in the own memory of the block, if that is below the
allocation; reserved bits, WIN 1 to 3 and an offset beyond it are AccessFault 0x0A, and a peer window of a block that is
in no quad group AccessFault 0x0B. Nothing of the machine changes. (R298, R28, R64, R57, R58.) -/
def Obligations.AccessChecks : Prop :=
  (∀ (d a : RegName) (imm : BitVec 7) (w : Width) (st : Stall),
    ∀ x ∈ [(Instr.ldw d a imm w st, Access.load), (.stw d a imm w st, .store)], ∀ s t th, OneLane x.1 s t th →
      let ea := mAddr th a imm (4 * w.k)
      (2 ^ 48 ≤ ea.toNat → exec x.1 s = .next (s.deliverIssued st [⟨t, 0x20, 0x01, ea.toNat⟩] (some x.1))) ∧
      (ea.toNat < 2 ^ 48 → ea.toNat % (4 * w.k) ≠ 0 →
        exec x.1 s = .next (s.deliverIssued st [⟨t, 0x20, 0x02, ea.toNat⟩] (some x.1))) ∧
      (ea.toNat < 2 ^ 48 → ea.toNat % (4 * w.k) = 0 → ∀ s' c sub aux,
        s.translate t x.2 ea = .fault s' c sub aux →
        exec x.1 s = .next (s'.deliverIssued st [⟨t, c, sub, aux⟩] (some x.1)))) ∧
  (∀ (s : State) (core blk : Nat) (k : Access) (ea : Addr) (b : Block), k ≠ .fetch → s.blocks[blk]? = some b →
    ea.extractLsb' 32 32 = 0xFF00 →
    let res := (ea.extractLsb' 22 10).toNat
    let win := (ea.extractLsb' 19 3).toNat
    let off := (ea.extractLsb' 0 19).toNat
    s.xlat core blk false k ea =
      if res ≠ 0 ∨ (1 ≤ win ∧ win ≤ 3) then .fault s 0x21 0x0A ea.toNat
      else if win = 0 then (if off < b.memSize then .ok s (.win blk off) else .fault s 0x21 0x0A ea.toNat)
      else if b.group = 0 then .fault s 0x21 0x0B ea.toNat
      else s.xlat core blk false k ea)

/-- In every state in which its checks hold and nothing of the own strand is queued, an issue of one thread with LDFE or
LDFEC whose granules in its own window are all full and hold no uncorrectable word answers the next state in which d
waits for the words there with ZERO plies; LDFEC has set every covered granule empty and LDFE none, and no byte changes.
With a granule empty the thread waits at the bank, with the registers and words of its load and the number of its
arrival, and no granule changes. STFE enters a write that fills into the store queue. (R300, R59, R102.) -/
def Obligations.FullEmpty : Prop :=
  ∀ (d a : RegName) (imm : BitVec 7) (w : Width) (st : Stall) (s : State) (t : TRef) (th : Thread) (b : Block) (k : Strand) (off : Nat),
    s.blocks[t.blk]? = some b → mAddr th a imm (4 * w.k) = BitVec.ofNat 64 (0xFF0000000000 + off) → off < b.memSize →
    off < 2 ^ 19 → off % (4 * w.k) = 0 →
    (OneLane (.stfe d a imm w st) s t th → exec (.stfe d a imm w st) s =
      .next ((s.enqueueWrite t th ⟨t, .win t.blk off, groupBytes d w.k th, true⟩).modThread t fun x =>
        (x.issued st s.issue.word).advance)) ∧
    (s.strand? t.blk th.strand = some k → k.joint = none → k.queue = [] →
      (b.spanFull off (4 * w.k) = true → s.homeBad (.win t.blk off) (4 * w.k) = false →
        (OneLane (.ldfe d a imm w st) s t th → ∃ s', exec (.ldfe d a imm w st) s = .next s' ∧ s'.mem = s.mem ∧
          s'.thread? t = some ((th.results d none 0 ((List.range w.k).map fun i =>
            Reg.plain (leWord (Mem.getN b.mem off (4 * w.k)) i))).issued st s.issue.word).advance ∧
          (s'.blocks[t.blk]?).map Block.memFull = some (b.mem, b.full)) ∧
        (OneLane (.ldfec d a imm w st) s t th → ∃ s', exec (.ldfec d a imm w st) s = .next s' ∧ s'.mem = s.mem ∧
          s'.thread? t = some ((th.results d none 0 ((List.range w.k).map fun i =>
            Reg.plain (leWord (Mem.getN b.mem off (4 * w.k)) i))).issued st s.issue.word).advance ∧
          (s'.blocks[t.blk]?).map Block.memFull = some (b.mem, b.full.filter fun g =>
            decide (¬(off / 16 ≤ g ∧ g ≤ (off + 4 * w.k - 1) / 16))))) ∧
      (b.spanFull off (4 * w.k) = false →
        ∀ i ∈ [(Instr.ldfe d a imm w st, false), (.ldfec d a imm w st, true)], OneLane i.1 s t th → ∃ s', exec i.1 s = .next s' ∧
          s'.thread? t = some { th with
            park := some (.granule ⟨(List.range w.k).map fun j => archOf th.wb (member d j), off, w.k, i.2, s.nextJoin⟩),
            stall := st.toNat, word := s.issue.word, again := false } ∧
          (s'.blocks[t.blk]?).map Block.memFull = some (b.mem, b.full)))

/-- In every state in which its checks hold, outside a doubled block: an issue of one thread with LDA completes as a
load of 4 or 8 bytes at a:2, one with STL enters its write behind every queued write of its strand, and one with a FENCE
of each kind answers the next state in which every write of the strand's store queue has been performed at its home in
order; an ifetch FENCE also empties the instruction cache of every core in its scope, and a table FENCE lets the later
lookups of its thread see memory as that thread last could have learnt of it, or newer. That a FENCE performs the queued
writes, a table FENCE too, is the choice of the model (log 12), as is what a table FENCE is sure of (log 65). (R301,
R302, R92, R104, R114.) -/
def Obligations.AcquireRelease : Prop :=
  ∀ (d a : RegName) (sc : Scope) (pair : Bool) (st : Stall),
    LoadsFrom (.lda d a sc pair st) st .load d (fun th => th.pair a) (if pair then 8 else 4)
      (fun bs => (List.range (if pair then 2 else 1)).map (leWord bs)) ∧
    (∀ s t th s' l, OneLane (.stl d a sc pair st) s t th → th.sealed = false → s.isDoubled t.blk = false →
      s'.isDoubled t.blk = false → Reaches s t .store (th.pair a) (if pair then 8 else 4) s' l →
      exec (.stl d a sc pair st) s = .next ((s'.enqueueWrite t th
        ⟨t, l, groupBytes d (if pair then 2 else 1) th, false⟩).modThread t fun x => (x.issued st s'.issue.word).advance)) ∧
    (∀ i ∈ [Instr.fenceAcq sc st, .fenceRel sc st, .fenceAcqrel sc st, .fenceSc sc st], ∀ s t th,
      OneLane i s t th → th.sealed = false → s.isDoubled t.blk = false → exec i s =
        .next ((s.drainStrand t.blk th.strand).modThread t fun x => (x.issued st (s.drainStrand t.blk th.strand).issue.word).advance)) ∧
    (∀ s t th, OneLane (.fenceTable sc st) s t th → th.sealed = false → s.isDoubled t.blk = false →
      let s1 := s.drainStrand t.blk th.strand
      exec (.fenceTable sc st) s = .next ((s1.modThread t fun x => { x with table := x.acq }).modThread t fun x =>
        (x.issued st s1.issue.word).advance)) ∧
    ∀ s t th, OneLane (.fenceIfetch sc st) s t th → th.sealed = false → s.isDoubled t.blk = false →
      let s1 := s.drainStrand t.blk th.strand
      ∃ s', exec (.fenceIfetch sc st) s = .next s' ∧ s'.mem = s1.mem ∧ (s'.thread? t).map (·.pc) = (s1.thread? t).map (·.pc + 4) ∧
        ∀ c < s1.cores.length, (s'.core c).icache = if Scope.covers sc s1.issue.core c then [] else (s1.core c).icache

/-- In every state in which its checks hold, with a legal stride and every element of the frame at its own location: an
issue of one thread with LDT answers the next state in which d waits for the register that R195 forms of the value and
the partials, which lie at A and at A + (i + 1) × STRIDE; one with STT, of a thread that traps no conversion and outside
a doubled block, enters the value converted with RNE and then the D partials of R194 into the store queue, in the order
of the elements. (R193, R194, R195, R299.) -/
def Obligations.TangentFrames : Prop :=
  ∀ (d a : RegName) (imm : BitVec 7) (f : FrameFmt) (st : Stall) (s : State) (t : TRef) (th : Thread),
    let k := s.kernel t.blk
    let vb := frameBytes f
    let stride := th.plystride.toNat
    let es := (mAddr th a imm vb, vb) :: (List.range k.d).map fun i => (mAddr th a imm vb + Addr.ofNat ((i + 1) * stride), k.partBytes)
    stride % k.partBytes = 0 → vb ≤ stride → k.partBytes ≤ stride →
    (∀ e ∈ es, e.1.toNat < 2 ^ 48 ∧ e.1.toNat % e.2 = 0) →
    (OneLane (.ldt d a imm f st) s t th → (s.elems t .load es).stop = none → (s.elems t .load es).poison = none →
      let r := s.elems t .load es
      r.s.firstError (r.locs.zip (es.map (·.2))) = none →
      exec (.ldt d a imm f st) s = .next (((r.locs.zip (es.map (·.2))).foldl (fun (z : State) x => z.correct x.1 x.2) r.s).goOn t st (th.result (archOf th.wb d)
        (let vs := (r.locs.zip (es.map (·.2))).map fun x => leNat (r.s.visible t th x.1 x.2)
         ldtReg (frameFmt f) k (vs.headD 0) vs.tail) none))) ∧
    (OneLane (.stt d a imm f st) s t th → (s.elems t .plan es).stop = none → (s.elems t .plan es).poison = none →
      let s1 := (s.elems t .plan es).s
      let c := cvtFloat (frameFmt f) .rne false (th.get d).v
      enabledCause th.fpctl c.2.1 = none → (s1.elems t .store es).stop = none → (s1.elems t .store es).poison = none →
      (s1.elems t .store es).s.isDoubled t.blk = false →
      exec (.stt d a imm f st) s = .next ((((es.zip ((s1.elems t .store es).locs.zip (c.1 :: sttParts k (th.get d)))).foldl
        (fun (z : State) x => z.enqueueWrite t (th.raise c.2.1) ⟨t, x.2.1, leBytes x.1.2 x.2.2, false⟩)
        ((s1.elems t .store es).s.modThread t fun _ => th.raise c.2.1)).modThread t fun x =>
          (x.issued st (s1.elems t .store es).s.issue.word).advance)))

/-- In every state in which its checks hold, outside a doubled block, an issue of one thread with an atomic whose
address reaches a location parks the thread at PC + 4 with the read-modify-write to be performed, its strand's earlier
writes performed, where the agent of its scope reaches the location by the table of R67; elsewhere it delivers
AccessFault 0x0C. (R67, R303, R304, R104.) -/
def Obligations.AtomicsIssue : Prop :=
  ∀ (d a : RegName) (k : AtomKind) (w : Width) (sys : Bool) (st : Stall),
    ∀ x ∈ [(Instr.atomc d a k w st, AtomAgent.c), (.atomq d a k w st, .q), (.atomd d a k w st, .d), (.atomp d a k w st, .p),
        (.atomx d a k sys st, .x)],
    ∀ s t th s1 l, OneLane x.1 s t th → th.sealed = false → Reaches s t .probe (th.pair a) (AtomType.bytes k.ty) s1 l →
      let there := match l, x.2 with
        | .win b _, .c => b = t.blk
        | .win _ _, .q => True
        | .win _ _, _ => False
        | .phys _, .c => False
        | .phys _, .x => True
        | .phys pa, _ => pa / 2 ^ 46 = s1.pkg.toNat
      (¬ there → exec x.1 s = .next (s1.deliverIssued st [⟨t, 0x21, 0x0C, (th.pair a).toNat⟩] (some x.1))) ∧
      (there → s1.isDoubled t.blk = false → ∀ s2, s2.thread? t = some th →
        Reaches s1 t .rmw (th.pair a) (AtomType.bytes k.ty) s2 l → s2.homeBad l (AtomType.bytes k.ty) = false →
        let s3 := s2.drainStrand t.blk th.strand
        ∃ s' r, exec x.1 s = .next s' ∧ s'.mem = s3.mem ∧
          s'.thread? t = some { th with park := some (.atomic r), pc := th.pc + 4, stall := st.toNat, word := s3.issue.word,
                                        again := false } ∧
          r.op = k.op ∧ r.ty = k.ty ∧ r.loc = l ∧ r.reg = archOf th.wb d ∧ (r.x, r.c) = atomOperands th d k ∧
          r.issue = (s3.issue.core, (s3.core s3.issue.core).cycles, s3.issue.slot) ∧
          Event.atomicRmwPerform t.blk t.tid ∈ s'.work)

/-- When the atomic on pod memory of a thread of a block that is not doubled is performed, with no lower lane of its
issue waiting, its bytes at the home become the new value of R304, computed from the old value and the operands in exact
arithmetic of its type, every other byte of that memory reads as before, and the thread goes on with the old value on
its way to d with ZERO plies. (R67, R304.) -/
def Obligations.AtomicPerformed : Prop :=
  ∀ (s : State) (t : TRef) (th : Thread) (r : Rmw) (p : Nat), s.thread? t = some th → th.park = some (.atomic r) →
    r.loc = .phys p → (s.blocks[t.blk]?).map (fun b => (b.copy, b.quarantine)) = some (.single, []) → s.lowerLaneWaits r = false → s.memOk = true →
    let n := if r.ty = .n64 then 8 else 4
    let m := 2 ^ (8 * n)
    let old := leNat (Mem.getN s.mem p n)
    let sg := fun (v : Nat) => (BitVec.ofNat 32 v).toInt
    let x := r.x.toNat
    let new : Nat := match r.op with
      | .add => (old + x) % m
      | .min => if r.ty = .i32 then (if sg x < sg old then x else old) else min x old
      | .max => if r.ty = .i32 then (if sg old < sg x then x else old) else max x old
      | .and => old &&& x
      | .or => old ||| x
      | .xor => old ^^^ x
      | .xchg => x
      | .cas => if old = r.c.toNat then x else old
      | .fadd => (Fmt.f32.addOp (old % 2 ^ 32) (x % 2 ^ 32)).1
    ∃ s', exec (.atomicRmwPerform t.blk t.tid) s = .next s' ∧
      (∀ a, Mem.get s'.mem a = if p ≤ a ∧ a < p + n then (leBytes n new).getD (a - p) 0 else Mem.get s.mem a) ∧
      (∀ b : Nat, (s'.blocks[b]?).map (·.mem) = (s.blocks[b]?).map (·.mem)) ∧ s'.cores = s.cores ∧
      s'.thread? t = some { th.atomResult r (BitVec.ofNat 64 old) with park := none, hang := 0 } ∧
      ∀ u ≠ t, s'.thread? u = s.thread? u

/-- When a user-handled cause is delivered to a thread, with IN = 0 and a handler: %trapcause holds IN = 1 and the
cause, %trapepc and %trapepch its pc, %trapmask and %trapmaskh the mask, %trapinfo FIRST and SUB, %trapinst the word;
its pc is %tvech:%tvec, and its registers, window, plies and strand are as before, as are the entries of every rejoin
file, every other thread, memory and the cores. With no handler, or with IN already 1, every thread of the block ends,
with Aborted (0x0006). Causes that the system handles leave every trap register as it is. (R215.) -/
def Obligations.TrapEntry : Prop :=
  ∀ (s : State) (t : TRef) (th : Thread) (cause sub first : Nat) (mask : BitVec 64) (word : Word), s.thread? t = some th →
    let s' := s.takeTrap t cause sub mask first word
    (th.trap.inHandler = false → th.trap.vec ≠ 0 →
      (∃ g n, s'.thread? t = some { th with
        trap := ⟨true, BitVec.ofNat 8 cause, th.pc.extractLsb' 0 48, mask, BitVec.ofNat 6 first, BitVec.ofNat 8 sub, word,
          th.trap.vec⟩,
        pc := 0#16 ++ th.trap.vec, park := none, hang := 0, again := false, sealed := false, sig := g, recs := n }) ∧
      (∀ u ≠ t, s'.thread? u = s.thread? u) ∧ s'.mem = s.mem ∧ s'.cores = s.cores ∧ s'.grids = s.grids ∧ s'.parts = s.parts ∧
      ∀ b k, (s'.strand? b k).map Strand.entries = (s.strand? b k).map Strand.entries) ∧
    ((th.trap.inHandler = true ∨ th.trap.vec = 0) → ∀ b, s.blocks[t.blk]? = some b →
      ∃ b', s'.blocks[t.blk]? = some b' ∧ b'.status = (if b.status = 0 then 6 else b.status) ∧
        (∀ x ∈ b'.threads, x.live = false) ∧ Event.blockEnd t.blk ∈ s'.work) ∧
    ∀ x ∈ [0x04, 0x1A, 0x22, 0x23, 0x40, 0x41], ∀ (l : List LaneTrap) (i : Option Instr), (∀ y ∈ l, y.cause = x) →
      ∀ u, ((s.deliver l i).thread? u).map (·.trap) = (s.thread? u).map (·.trap)

/-- Of the causes that the lanes of one issue raised, those delivered are exactly the ones with the cause that comes
first in the order of R212, and the subcode of the lowest lane that raised it. Of an issue of two threads with a
register instruction of which one raises a cause and the other does not, the other completes it, and the one that raised
the cause is delivered, its thread being as the instruction left it. (R212, R45, R211, R172.) -/
def Obligations.CauseSelection : Prop :=
  (∀ (l : List LaneTrap), (∀ x ∈ l, x.cause ∈ causeOrder) → l ≠ [] →
    ∃ x ∈ l, (∀ y ∈ l, causeOrder.idxOf x.cause ≤ causeOrder.idxOf y.cause) ∧
      (l.find? fun y => y.cause == x.cause) = some x ∧
      deliveredTraps l = l.filter fun y => y.cause == x.cause && y.sub == x.sub) ∧
  (∀ (i : Instr) (st : Stall) (f : TCtx → Thread → TLane) (s : State) (t u : TRef) (a b a' b' : Thread) (c sub : Nat),
    (∀ s, exec i s = s.runLocal i st f) → t ≠ u → s.issue.lanes = [t, u] → s.issuable t = some a → s.issuable u = some b →
    Checked i s t a → Checked i s u b → f (s.tctx t) a = .trap a' c sub → f (s.tctx u) b = .next b' →
    exec i s = .next (((s.modThread t fun _ => a').modThread u fun _ => (b'.issued st s.issue.word).advance).deliverIssued
      st [⟨t, c, sub, 0⟩] (some i)))

/-- An issue of one thread with any instruction that runs lane by lane delivers IllegalEncoding with the subcode of the
first misaligned group of d, a and b; else RegRange 0x01 where a named register lies at or beyond the allocation; else,
under %pipechk.CHK, StallShort where a result is on its way to one of its registers. (R228, R229, R231, R226, R244.) -/
def Obligations.IssueChecks : Prop :=
  ∀ (i : Instr) (st : Stall) (body : Body) (s : State) (t : TRef) (th : Thread),
    (∀ s, exec i s = s.run i st body) → s.issue.lanes = [t] → s.issuable t = some th →
    let groups := Instr.groups (s.laneWords t.blk) i
    let beyond := ∃ a ∈ (Instr.rangeGroups (s.laneWords t.blk) i).flatMap (Group.archs th.wb), max 1 th.regs.length ≤ a
    let sub := if groups.any (fun g => g.field == .d && g.base.toNat % g.size != 0) then 1
      else if groups.any (fun g => g.field == .a && g.base.toNat % g.size != 0) then 2 else 3
    ((∃ g ∈ groups, g.base.toNat % g.size ≠ 0) → exec i s = .next (s.deliverIssued st [⟨t, 0x02, sub, 0⟩] (some i))) ∧
    ((∀ g ∈ groups, g.base.toNat % g.size = 0) → beyond → exec i s = .next (s.deliverIssued st [⟨t, 0x05, 0x01, 0⟩] (some i))) ∧
    ((∀ g ∈ groups, g.base.toNat % g.size = 0) → ¬ beyond → th.chk = true →
      th.early (s.core s.issue.core).cycles (Instr.archs (s.laneWords t.blk) th.wb i) = true →
      exec i s = .next (s.deliverIssued st [⟨t, 0x06, 0, 0⟩] (some i)))

/-- In every state in which its checks hold: an issue of one thread with TRAP or BRK, of a thread with a handler and IN
= 0, enters the handler with cause 0x18 or 0x19, SUB the code, the pc saved and the word in %trapinst; its earlier
instructions completed; one with SVC parks the thread at the instruction for its service. An ERET form with IN = 1
clears IN and continues at %trapepch:%trapepc (retry) or after it (skip and subst; subst also writes the value of a into
every register of the destination of the word in %trapinst, with ZERO plies); with IN = 0 it raises IllegalInstruction
0x01. (R216, R271, R272, R273, R215.) -/
def Obligations.TrapsAndReturns : Prop :=
  ∀ (a : RegName) (code : BitVec 8) (st : Stall) (s : State) (t : TRef) (th : Thread),
    let back : Addr := 0#16 ++ th.trap.epc
    (th.canTrap →
      (OneLane (.trap code st) s t th → ∃ s', exec (.trap code st) s = .next s' ∧
        Handled s' t { th with stall := st.toNat } 0x18 code.toNat s.issue.word) ∧
      (OneLane (.brk code st) s t th → ∃ s', exec (.brk code st) s = .next s' ∧
        Handled s' t { th with stall := st.toNat } 0x19 code.toNat s.issue.word)) ∧
    (OneLane (.svc code st) s t th → ∃ s', exec (.svc code st) s = .next s' ∧ s'.thread? t =
      some { th.settleResults with park := some (.service code.toNat), stall := st.toNat, again := false } ∧
      Event.serviceCallPerform t.blk t.tid ∈ s'.work) ∧
    (th.trap.inHandler = true →
      (OneLane (.eretRetry st) s t th → ∃ s', exec (.eretRetry st) s = .next s' ∧ s'.mem = s.mem ∧ s'.thread? t = some
        { th with trap := { th.trap with inHandler := false }, pc := back, stall := st.toNat, word := s.issue.word,
                  again := false }) ∧
      (OneLane (.eretSkip st) s t th → ∃ s', exec (.eretSkip st) s = .next s' ∧ s'.mem = s.mem ∧ s'.thread? t = some
        { th with trap := { th.trap with inHandler := false }, pc := back + 4, barAt := none, stall := st.toNat,
                  word := s.issue.word, again := false }) ∧
      (OneLane (.eretSubst a st) s t th → ∃ s', exec (.eretSubst a st) s = .next s' ∧ s'.mem = s.mem ∧
        s'.thread? t = some ((Thread.resumeSubst (s.laneWords t.blk) th (th.val a)).issued st s.issue.word) ∧
        ((decode th.trap.inst).bind (Instr.dest (s.laneWords t.blk)) = none → (s'.thread? t).map (fun x => (x.pc, x.regs)) =
          some (back + 4, th.regs)) ∧
        ∀ d n, (decode th.trap.inst).bind (Instr.dest (s.laneWords t.blk)) = some (d, n) →
          (s'.thread? t).map (fun x => (x.pc, x.regs)) = some (back + 4, ((List.range n).foldl (fun (z : Thread) j =>
            z.putNow (archOf th.wb (member d j)) (Reg.plain (th.val a))) th).regs))) ∧
    (th.trap.inHandler = false → ∀ i ∈ [Instr.eretRetry st, .eretSkip st, .eretSubst a st], OneLane i s t th →
      exec i s = .next (s.deliverIssued st [⟨t, 0x01, 0x01, 0⟩] (some i)))

/-- An issue of one thread with LDWV, STWV or one of the eight retired functions parks the thread at the instruction
with the word, whatever its registers, and the trap registers do not change; RETIRED_EMULATION then runs the native form
of the word for it: LDW, STW, or the function with w = 3, at the retired pc. So it completes, the thread going on at PC
+ 4, in every state in which the checks of the native form hold: for LDWV with the words that the thread sees at an
address that reaches a location without an uncorrectable error, for STWV with the write of its words in the store queue
of the strand, at a location that the address reaches, and for a function with its result on its way and its flags set,
where %fpctl enables none of its exceptions. (R246, R244, R286, R297.) -/
def Obligations.RetiredWords : Prop :=
  ∀ (d a : RegName) (imm : BitVec 7) (w : Width) (st : Stall) (s : State) (t : TRef) (th : Thread),
    (∀ i ∈ [Instr.ldwv d a imm w st, .stwv d a imm w st, .fsqrtx d a st, .frcpx d a st, .frsqx d a st, .fexp2x d a st,
        .flog2x d a st, .fsinpix d a st, .fcospix d a st, .ftanhx d a st],
      s.issue.lanes = [t] → s.issuable t = some th → ∃ s', exec i s = .next s' ∧
        s'.thread? t = some { th.settleResults with park := some (.retired s.issue.word), stall := st.toNat, again := false } ∧
        (∀ u ≠ t, s'.thread? u = s.thread? u) ∧
        s'.mem = s.mem ∧ Event.retiredEmulation t.blk t.tid ∈ s'.work) ∧
    (∀ word core, s.thread? t = some th → s.coreOf t.blk = some core → th.park = some (.retired word) →
      let s1 := { s.modThread t fun x => { x with park := none, hang := 0 } with issue := ⟨core, 0, [t], th.pc, word⟩ }
      ∀ y ∈ [(Instr.ldwv d a imm w st, Instr.ldw d a imm w st), (.stwv d a imm w st, .stw d a imm w st),
          (.fsqrtx d a st, .fsqrt d a .v1 st), (.frcpx d a st, .frcp d a .v1 st), (.frsqx d a st, .frsq d a .v1 st),
          (.fexp2x d a st, .fexp2 d a .v1 st), (.flog2x d a st, .flog2 d a .v1 st), (.fsinpix d a st, .fsinpi d a .v1 st),
          (.fcospix d a st, .fcospi d a .v1 st), (.ftanhx d a st, .ftanh d a .v1 st)],
        decode word = some y.1 → exec (.retiredEmulation t.blk t.tid) s = exec y.2 s1) ∧
    ∀ word core, s.thread? t = some th → s.coreOf t.blk = some core → th.park = some (.retired word) →
      let s1 := { s.modThread t fun x => { x with park := none, hang := 0 } with issue := ⟨core, 0, [t], th.pc, word⟩ }
      let th1 := { th with park := none, hang := 0 }
      let n := 4 * w.k
      (∀ s' l, decode word = some (.ldwv d a imm w st) → OneLane (.ldw d a imm w st) s1 t th1 →
        Reaches s1 t .load (mAddr th a imm n) n s' l → s'.homeBad l n = false → exec (.retiredEmulation t.blk t.tid) s =
          .next ((s'.correct l n).goOn t st (th1.results d none 0
            ((List.range w.k).map fun j => Reg.plain (leWord (s'.visible t th1 l n) j))))) ∧
      (∀ s' l, decode word = some (.stwv d a imm w st) → OneLane (.stw d a imm w st) s1 t th1 →
        Reaches s1 t .store (mAddr th a imm n) n s' l → (s'.isDoubled t.blk = false ∨ ∃ b o, l = .win b o) →
        exec (.retiredEmulation t.blk t.tid) s = .next ((s'.enqueueWrite t th1 ⟨t, l, groupBytes d w.k th1, false⟩).modThread t
          fun x => (x.issued st s'.issue.word).advance)) ∧
      ∀ y ∈ [(Instr.fsqrtx d a st, Instr.fsqrt d a .v1 st, FunOp.sqrt), (.frcpx d a st, .frcp d a .v1 st, .rcp),
          (.frsqx d a st, .frsq d a .v1 st, .rsq), (.fexp2x d a st, .fexp2 d a .v1 st, .exp2),
          (.flog2x d a st, .flog2 d a .v1 st, .log2), (.fsinpix d a st, .fsinpi d a .v1 st, .sinpi),
          (.fcospix d a st, .fcospi d a .v1 st, .cospi), (.ftanhx d a st, .ftanh d a .v1 st, .tanh)],
        let r := funReg y.2.2 .v1 (s.plyN t.blk) (th.get a)
        decode word = some y.1 → OneLane y.2.1 s1 t th1 → enabledCause th.fpctl r.2 = none →
        exec (.retiredEmulation t.blk t.tid) s =
          .next (s1.goOn t st ((th1.raise r.2).results d (dueV (s1.tctx t)) 0 [r.1]))

/-- WORD_NOT_INSTRUCTION delivers IllegalInstruction for the majors 0x00 and 0x7F and ReservedEncoding for every other
word, with subcode 0, and the word in %trapinst; INSTRUCTION_FETCH_FAULT delivers the cause and subcode of an address or
access fault of the fetch. To one thread with a handler and IN = 0 that is its entry into the handler; memory and the
cores do not change. The 0 that %trapinst takes at a fetch fault is the choice of the model (log 25). (R244, R245,
R215.) -/
def Obligations.FetchTraps : Prop :=
  ∀ (s : State) (t : TRef) (th : Thread) (word : Word), s.issue.lanes = [t] → s.issuable t = some th → th.canTrap →
    (∃ s', exec (.wordNotInstruction word) s = .next s' ∧ s'.mem = s.mem ∧ s'.cores = s.cores ∧
      Handled s' t th (if word.extractLsb' 25 7 = 0 ∨ word.extractLsb' 25 7 = 0x7F then 0x01 else 0x03) 0 word) ∧
    ∀ cause ∈ [0x20, 0x21], ∀ sub, ∃ s', exec (.instructionFetchFault cause sub) s = .next s' ∧ s'.mem = s.mem ∧
      s'.cores = s.cores ∧ Handled s' t th cause sub 0

/-- In every state in which its checks hold, an issue of one thread with ICINV of one page's part, whose page translates
for fetching, answers the next state in which the instruction cache of the core holds no word that overlaps [a:2, a:2 +
d) and every other word that it held; with d = 0 nothing changes but the pc, without .sync; .sync makes every strand on
the core give up its loop buffer and prefetched words. Of any range the thread goes on at PC + 4, or waits at the
instruction for a migrating table node that the walk of a page of the range meets. A line of one word is the choice of
the model (log 71). (R275, R91.) -/
def Obligations.InstructionCache : Prop :=
  ∀ (d a : RegName) (st : Stall) (s : State) (t : TRef) (th : Thread) (sync : Bool), OneLane (.icinv d a sync st) s t th →
    let lo := (th.pair a).toNat
    let len := (th.val d).toNat
    (∃ s', exec (.icinv d a sync st) s = .next s' ∧ (s'.thread? t = some ((th.issued st s.issue.word).advance) ∨
      ∃ p, lo / 4096 ≤ p ∧ 4096 * p < lo + len ∧ s'.thread? t =
        some { th with walk := some (BitVec.ofNat 64 (4096 * p)), again := true })) ∧
    (len = 0 → sync = false → exec (.icinv d a sync st) s = .next (s.goOn t st th)) ∧
    (0 < len → lo / 4096 = (lo + len - 1) / 4096 → ∀ s1 pa,
      s.xlat s.issue.core t.blk false .fetch (BitVec.ofNat 64 (4096 * (lo / 4096))) = .ok s1 (.phys pa) →
      s.issue.core < s1.cores.length →
      ∃ s', exec (.icinv d a sync st) s = .next s' ∧ s'.mem = s1.mem ∧
        s'.thread? t = some ((th.issued st s.issue.word).advance) ∧
        (sync = true → ∀ (k : Nat) (b : Block), s'.blocks[k]? = some b → b.place = .onCore s.issue.core →
          ∀ x ∈ b.strands, x.loopBuf = none ∧ x.prefetched = []) ∧
        (∀ x ∈ (s'.core s.issue.core).icache, x ∈ (s1.core s.issue.core).icache) ∧
        ∀ x ∈ (s1.core s.issue.core).icache, x ∈ (s'.core s.issue.core).icache ↔
          ¬ (x.1 / 4096 = pa / 4096 ∧ lo < 4096 * (lo / 4096) + x.1 % 4096 + 4 ∧ 4096 * (lo / 4096) + x.1 % 4096 < lo + len))

/-- An issue of one thread with a value collective parks it as long as some thread of its collective set is not parked
at a collective with the same pc. When it is the last to arrive, with no exception to trap, the collective is performed
for the whole set: each member goes on at PC + 4 with the result of its lane in d; memory and the cores do not change.
(R139, R146, R294.) -/
def Obligations.CollectivesWait : Prop :=
  ∀ (d a b : RegName) (ty : RedType) (st : Stall), ∀ i ∈ valueCollectives d a b ty st, ∀ (s : State) (t : TRef) (th : Thread),
    OneLane i s t th → (s.collSet t).Nodup → t ∈ s.collSet t →
    let m := s.membersAt t th i st
    let k := s.kernel (((m.head?).map (·.1.blk)).getD t.blk)
    ((∃ u ∈ s.collSet t, u ≠ t ∧ ∃ x, s.thread? u = some x ∧ ¬ (x.atCollective.isSome = true ∧ x.pc = th.pc)) →
      ∃ s', exec i s = .next s' ∧ s'.thread? t = some (th.atSet i st s.issue.word) ∧ s'.mem = s.mem ∧
        ∀ u ≠ t, s'.thread? u = s.thread? u) ∧
    ((∀ u ∈ s.collSet t, u ≠ t → ∃ x, s.thread? u = some x ∧ x.atCollective.isSome = true ∧ x.pc = th.pc) →
      (∀ x ∈ m, ∀ r, collectiveOut i k.width k.d m x.2 = some r → enabledCause x.2.fpctl r.2.2 = none) →
      ∃ s', exec i s = .next s' ∧ s'.mem = s.mem ∧ s'.cores = s.cores ∧
        ∀ x ∈ m, ∃ d' rs fl, collectiveOut i k.width k.d m x.2 = some (d', rs, fl) ∧
          s'.thread? x.1 = some { ((x.2.raise fl).results d' none 0 rs) with pc := th.pc + 4, park := none, hang := 0 })

/-- Over a set of members with different lanes below 64: VOTEANY and VOTEALL give whether some or all values of a are
not 0; BALLOT, ACTIVE and MATCH the mask of the lanes with a not 0, of all lanes, and of those with the same value, in
one register or, with 64 lanes, a pair; FIRST the value of the lowest lane; SHFL the whole register a of the source
lane, or its own where that lane is not in the set; REDIADD the sum modulo 2^32, REDAND, REDOR and REDXOR the bitwise
results, REDMAX and REDMIN of the integer types the largest and smallest; all but SHFL and RED with ZERO plies. (R260,
R261, R176, R188, R292.) -/
def Obligations.CollectiveResults : Prop :=
  ∀ (d a b : RegName) (ty : RedType) (st : Stall) (w n : Nat) (m : Members) (th : Thread),
    (m.map fun x => x.2.lane).Pairwise (· < ·) → (∀ x ∈ m, x.2.lane < 64) → m ≠ [] →
    let flag := fun (p : Prop) [Decidable p] => Reg.plain (if p then 1 else 0)
    let mask := fun (p : Thread → Bool) => maskRegs w (BitVec.ofFnLE fun (j : Fin 64) => m.any fun x => x.2.lane == j && p x.2)
    let src := fun (l : Option Nat) => ((l.bind fun l => m.find? fun x => x.2.lane == l).map fun x => x.2.get a).getD (th.get a)
    let c := (th.val b).toNat % 64
    let red := fun (v : Word) => [intReg (m.map fun x => x.2.get a) v]
    collectiveOut (.voteany d a st) w n m th = some (d, [flag (∃ x ∈ m, x.2.val a ≠ 0)], 0) ∧
    collectiveOut (.voteall d a st) w n m th = some (d, [flag (∀ x ∈ m, x.2.val a ≠ 0)], 0) ∧
    collectiveOut (.ballot d a st) w n m th = some (d, mask fun x => x.val a != 0, 0) ∧
    collectiveOut (.active d st) w n m th = some (d, mask fun _ => true, 0) ∧
    collectiveOut (.matchLanes d a st) w n m th = some (d, mask fun x => x.val a == th.val a, 0) ∧
    (∀ x r, m = x :: r → collectiveOut (.first d a st) w n m th = some (d, [Reg.plain (x.2.val a)], 0)) ∧
    collectiveOut (.shflIdx d a b st) w n m th = some (d, [src (if c < w then some c else none)], 0) ∧
    collectiveOut (.shflUp d a b st) w n m th = some (d, [src (if c ≤ th.lane then some (th.lane - c) else none)], 0) ∧
    collectiveOut (.shflDown d a b st) w n m th = some (d, [src (if th.lane + c < w then some (th.lane + c) else none)], 0) ∧
    collectiveOut (.shflXor d a b st) w n m th = some (d, [src (if th.lane ^^^ c < w then some (th.lane ^^^ c) else none)], 0) ∧
    collectiveOut (.rediadd d a ty st) w n m th =
      some (d, red (BitVec.ofNat 32 ((m.map fun x => (x.2.val a).toNat).sum)), 0) ∧
    collectiveOut (.redand d a ty st) w n m th = some (d, red (BitVec.ofFnLE fun j => m.all fun x => (x.2.val a)[j]), 0) ∧
    collectiveOut (.redor d a ty st) w n m th = some (d, red (BitVec.ofFnLE fun j => m.any fun x => (x.2.val a)[j]), 0) ∧
    collectiveOut (.redxor d a ty st) w n m th =
      some (d, red (BitVec.ofFnLE fun j => (m.countP fun x => (x.2.val a)[j]) % 2 == 1), 0) ∧
    (∀ v : Word, (∃ x ∈ m, x.2.val a = v) → (∀ x ∈ m, (x.2.val a).toInt ≤ v.toInt) →
      collectiveOut (.redmax d a .i32 st) w n m th = some (d, red v, 0)) ∧
    (∀ v : Word, (∃ x ∈ m, x.2.val a = v) → (∀ x ∈ m, v.toInt ≤ (x.2.val a).toInt) →
      collectiveOut (.redmin d a .i32 st) w n m th = some (d, red v, 0)) ∧
    (∀ v : Word, (∃ x ∈ m, x.2.val a = v) → (∀ x ∈ m, (x.2.val a).toNat ≤ v.toNat) →
      collectiveOut (.redmax d a .n32 st) w n m th = some (d, red v, 0)) ∧
    (∀ v : Word, (∃ x ∈ m, x.2.val a = v) → (∀ x ∈ m, v.toNat ≤ (x.2.val a).toNat) →
      collectiveOut (.redmin d a .n32 st) w n m th = some (d, red v, 0))

/-- For an issue of one thread that is its whole collective set, on a claimed spindle that no set waits for, where no
fill stands in the store queue of its strand (and which is no quad spindle of a trailing copy): QACQ acquires a free
slot, or without one waits; QFILL fills an acquired slot, else a free one, else raises IllegalWait 0x03; QTAKE takes the
head of the FIFO into d, or waits; QDONE returns a taken slot, or does nothing without one; QTRY gives the head and 1,
or 0 and 0. What completes keeps the sum of the counts, and goes on at PC + 4. On a spindle that the block has not
claimed each raises IllegalWait 0x02. (R306, R307, R308.) -/
def Obligations.Spindles : Prop :=
  ∀ (d : RegName) (quad : Bool) (id : BitVec 9) (st : Stall) (s : State) (t : TRef) (th : Thread) (x : Spindle),
    let ops := [Instr.qacq quad id st, .qfill d quad id st, .qtake d quad id st, .qdone quad id st, .qtry d quad id st]
    let out := fun (i : Instr) (y : Spindle) (f : Thread → Thread) => OneLane i s t th → ∃ s', exec i s = .next s' ∧
      s'.spindle? t.blk quad id.toNat = some y ∧ s'.thread? t = some (th.wentOn st s.issue.word f) ∧ y.total = x.total
    let waits := fun (i : Instr) => OneLane i s t th → ∃ s', exec i s = .next s' ∧
      s'.spindle? t.blk quad id.toNat = some { x with waiters := [(t.blk, t.tid, th.pc)] } ∧
      s'.thread? t = some { th with park := some (.ready i), stall := st.toNat, word := s.issue.word, again := false }
    (s.spindle? t.blk quad id.toNat = none → ∀ i ∈ ops, OneLane i s t th →
      exec i s = .next (((s.deliverIssued st [⟨t, 0x30, 0x02, 0⟩] (some i))).settleIssue)) ∧
    (s.collSet t = [t] → s.spindle? t.blk quad id.toNat = some x → x.waiters = [] → (quad = true → s.trails t.blk = false) →
      (∀ w ∈ (s.strandOf t th).queue, w.fill = false) →
      (0 < x.free → out (.qacq quad id st) { x with free := x.free - 1, acq := x.acq + 1 } fun z => z) ∧
      (x.free = 0 → waits (.qacq quad id st)) ∧
      (0 < x.acq → out (.qfill d quad id st) { x with acq := x.acq - 1, fifo := x.fifo ++ [th.val d] } fun z => z) ∧
      (x.acq = 0 → 0 < x.free →
        out (.qfill d quad id st) { x with free := x.free - 1, fifo := x.fifo ++ [th.val d] } fun z => z) ∧
      (x.acq = 0 → x.free = 0 → OneLane (.qfill d quad id st) s t th → th.canTrap → ∃ s', exec (.qfill d quad id st) s = .next s' ∧
        s'.spindle? t.blk quad id.toNat = some x ∧
        Handled s' t { th with stall := st.toNat, word := s.issue.word } 0x30 0x03 s.issue.word) ∧
      (∀ h r, x.fifo = h :: r →
        out (.qtake d quad id st) { x with fifo := r, taken := x.taken + 1 } (fun z => z.results d none 0 [Reg.plain h]) ∧
        out (.qtry d quad id st) { x with fifo := r, taken := x.taken + 1 } fun z => z.results d none 0 [Reg.plain h, Reg.plain 1]) ∧
      (x.fifo = [] → waits (.qtake d quad id st)) ∧
      (x.fifo = [] → out (.qtry d quad id st) x fun z => z.results d none 0 [Reg.plain 0, Reg.plain 0]) ∧
      (0 < x.taken → out (.qdone quad id st) { x with taken := x.taken - 1, free := x.free + 1 } fun z => z) ∧
      (x.taken = 0 → out (.qdone quad id st) x fun z => z))

/-- For an issue of one thread in a block that is not doubled, on a claimed barrier, when the earlier writes of the
strand have been performed: BARARR gives the participant count in d and counts one arrival; BARWAIT goes on at once
before the first arrival of the thread or where the phase before its own is complete, else it parks for that phase; BAR
counts its arrival, once, and does the same for its own phase, and where its arrival has been counted it waits again
without another (the reading of the model, log 52). A phase is complete once every participant of the barrier has
arrived in it or has exited. Unclaimed: IllegalWait 0x02; a wait that the progress class forbids: 0x01. (R309, R310,
R146.) -/
def Obligations.Barriers : Prop :=
  ∀ (d : RegName) (l : BarLevel) (id : BitVec 9) (st : Stall) (s : State) (t : TRef) (th : Thread),
    let n := id.toNat
    let s1 := s.drainStrand t.blk th.strand
    let counted := { th.results d none 0 [Reg.plain (BitVec.ofNat 32 (s.barCount t.blk l))] with
      phases := (l, n, th.phase l n + 1) :: th.phases.filter fun x => !(x.1 == l && x.2.1 == n) }
    let left := fun (x : Thread) (w : Word) => some { x with
      pc := th.pc + 4, park := none, hang := 0, barAt := none, stall := st.toNat, word := w, again := false }
    let parked := fun (x : Thread) (w : Word) (p : Nat) => some { x with
      park := some (.barrier l n p), stall := st.toNat, word := w, again := false }
    (∀ p, s.undealt t.blk l = [] → (s.phaseDone t.blk l n p = true ↔
      ∀ k ∈ s.participants t.blk l, ∀ b, s.blocks[k]? = some b → ∀ x ∈ b.threads, x.live = false ∨ p < x.phase l n)) ∧
    (s.claimed t.blk l n = false → ∀ i ∈ [Instr.bararr d l id st, .barwait l id st, .bar d l id st], OneLane i s t th →
      exec i s = .next (s.deliverIssued st [⟨t, 0x30, 0x02, 0⟩] (some i))) ∧
    (s.claimed t.blk l n = true →
      (s1.thread? t = some th → OneLane (.bararr d l id st) s t th → ∃ s', exec (.bararr d l id st) s = .next s' ∧
        s'.mem = s1.mem ∧ s'.thread? t = some ((counted.issued st s1.issue.word).advance)) ∧
      (s.illegalBarWait t.blk l = true → ∀ i ∈ [Instr.barwait l id st, .bar d l id st], OneLane i s t th →
        exec i s = .next (s.deliverIssued st [⟨t, 0x30, 0x01, 0⟩] (some i))) ∧
      (s.illegalBarWait t.blk l = false → s.isDoubled t.blk = false → th.sealed = false →
        (OneLane (.barwait l id st) s t th →
          ((th.phase l n = 0 ∨ s.phaseDone t.blk l n (th.phase l n - 1) = true) →
            ∃ s', exec (.barwait l id st) s = .next s' ∧ s'.mem = s.mem ∧ s'.thread? t = left th s.issue.word) ∧
          (0 < th.phase l n → s.phaseDone t.blk l n (th.phase l n - 1) = false →
            ∃ s', exec (.barwait l id st) s = .next s' ∧ s'.mem = s.mem ∧
              s'.thread? t = parked th s.issue.word (th.phase l n - 1))) ∧
        (OneLane (.bar d l id st) s t th → th.barAt ≠ some th.pc → s1.thread? t = some th → s1.isDoubled t.blk = false →
          let s2 := s1.modThread t fun _ => { counted with barAt := some th.pc }
          (s2.phaseDone t.blk l n (th.phase l n) = true →
            ∃ s', exec (.bar d l id st) s = .next s' ∧ s'.mem = s1.mem ∧ s'.thread? t = left counted s1.issue.word) ∧
          (s2.phaseDone t.blk l n (th.phase l n) = false → ∃ s', exec (.bar d l id st) s = .next s' ∧ s'.mem = s1.mem ∧
            s'.thread? t = parked { counted with barAt := some th.pc } s1.issue.word (th.phase l n))) ∧
        (OneLane (.bar d l id st) s t th → th.barAt = some th.pc →
          (s.phaseDone t.blk l n (th.phase l n - 1) = true →
            ∃ s', exec (.bar d l id st) s = .next s' ∧ s'.mem = s.mem ∧ s'.thread? t = left th s.issue.word) ∧
          (s.phaseDone t.blk l n (th.phase l n - 1) = false → ∃ s', exec (.bar d l id st) s = .next s' ∧ s'.mem = s.mem ∧
            s'.thread? t = parked th s.issue.word (th.phase l n - 1)))))

/-- For an issue of one thread, in the state in which the earlier writes of its strand have been performed, in a block
that is not doubled: with the spindle of the octet claimed and room in the queue, BCOPY, STREAM and COLL enter their
octet at the end of the copy queue that it names, the stream queue and the collective queue; LAUNCH gives its status in
d, and with status 0 enters the launch queue; the thread goes on. With the spindle not claimed, BCOPY, STREAM and COLL
raise IllegalWait 0x02. (R277, R311, R312, R314, R316.) -/
def Obligations.EngineIssue : Prop :=
  ∀ (d a : RegName) (st : Stall) (s : State) (t : TRef) (th : Thread),
    let oct := th.vals a 8
    let core := s.issue.core
    let copyQ := ((oct.getD 6 0).extractLsb' 8 2).toNat
    let s1 := s.drainStrand t.blk th.strand
    let now := (s1.core core).cycles
    let claimed := (s1.spindle? t.blk false ((oct.getD 6 0).extractLsb' 0 5).toNat).isSome
    s1.isDoubled t.blk = false → s1.issue.core = core →
    (claimed = true →
      (OneLane (.bcopy a st) s t th → s1.hasRoom core copyQ →
        exec (.bcopy a st) s = .next (s1.entered t st copyQ (.copy oct))) ∧
      (OneLane (.stream a st) s t th → s1.hasRoom core 4 →
        exec (.stream a st) s = .next (s1.entered t st 4 (.stream oct th.strand))) ∧
      (OneLane (.coll a st) s t th → s1.hasRoom core 5 → ∀ b, s1.blocks[t.blk]? = some b → s1.thread? t = some th →
        ∃ s', exec (.coll a st) s = .next s' ∧
          s'.queue core 5 = (s1.queue core 5).with (.coll oct (b.collCount ((oct.getD 5 0).extractLsb' 16 8).toNat)) t.blk now ∧
          s'.mem = s1.mem ∧ s'.thread? t = some ((th.issued st s1.issue.word).advance))) ∧
    (claimed = false → ∀ i ∈ [Instr.bcopy a st, .stream a st, .coll a st], OneLane i s t th → exec i s =
      .next (s1.deliverIssued st [⟨t, 0x30, 0x02, 0⟩] (some i))) ∧
    (OneLane (.launch d a st) s t th →
      (∀ v, s1.launchCheck t.blk oct = (v, none) → exec (.launch d a st) s = .next (s1.modThread t fun x =>
        ((x.result (archOf x.wb d) (Reg.plain (BitVec.ofNat 32 v)) none).issued st s1.issue.word).advance)) ∧
      ∀ k, s1.launchCheck t.blk oct = (0, some k) → s1.hasRoom core 6 → s1.thread? t = some th →
        ∃ s', exec (.launch d a st) s = .next s' ∧
          s'.queue core 6 = (s1.queue core 6).with (.launch k oct) t.blk now ∧ s'.mem = s1.mem ∧ s'.grids = s1.grids ∧
          s'.thread? t = some (((th.result (archOf th.wb d) (Reg.plain 0) none).issued st s1.issue.word).advance))

/-- For an issue of one thread that is its whole collective set: in a block that is not doubled, where no queue of the
core holds a join entry, a QFENCE whose queues all hold a command and have room appends one join entry to each queue of
its mask and to no other, and the thread goes on. A QLD on an operand queue of its strand that holds an element takes
the first one, whose words come to d with 0 beyond them (and the mark of the end of its stream that stands behind it,
the choice of the model, log 68); on an empty one it waits while a stream that will fill it stands in the stream queue,
and raises IllegalWait 0x04 where none does. (R311, R101, R314, R315.) -/
def Obligations.QueueFenceAndQld : Prop :=
  ∀ (d : RegName) (q : BitVec 3) (w : Width) (mask : BitVec 9) (st : Stall) (s : State) (t : TRef) (th : Thread),
    s.collSet t = [t] →
    (OneLane (.qfence mask st) s t th → s.isDoubled t.blk = false → (s.core s.issue.core).queues.length = 9 →
      (∀ k < 9, ∀ c ∈ (s.queue s.issue.core k).all, ∀ id, c.op ≠ .join id) →
      (∀ k < 9, mask.getLsbD k = true → s.hasRoom s.issue.core k ∧ (s.queue s.issue.core k).q ≠ []) →
      ∃ s', exec (.qfence mask st) s = .next s' ∧ s'.mem = s.mem ∧
        s'.thread? t = some (th.wentOn st s.issue.word fun z => z) ∧
        ∀ k < 9, s'.queue s.issue.core k = if mask.getLsbD k then
          (s.queue s.issue.core k).with (.join s.nextJoin) t.blk (s.core s.issue.core).cycles else s.queue s.issue.core k) ∧
    (OneLane (.qld d q w st) s t th → ∀ k, s.strand? t.blk th.strand = some k → k.joint = none →
      (∀ e r, k.opQueue q.toNat = e :: r → e ≠ [] → ∃ s', exec (.qld d q w st) s = .next s' ∧ s'.mem = s.mem ∧
        (s'.strand? t.blk th.strand).map (·.opQueue q.toNat) = some (if r.head? = some [] then r.tail else r) ∧
        s'.thread? t = some (th.wentOn st s.issue.word fun z =>
          z.results d none 0 ((List.range w.k).map fun j => Reg.plain (e.getD j 0)))) ∧
      (k.opQueue q.toNat = [] → s.streamLive s.issue.core t.blk th.strand q.toNat = true →
        ∃ s', exec (.qld d q w st) s = .next s' ∧ s'.mem = s.mem ∧ s'.thread? t = some { th with
          park := some (.ready (.qld d q w st)), stall := st.toNat, word := s.issue.word, again := false }) ∧
      (k.opQueue q.toNat = [] → s.streamLive s.issue.core t.blk th.strand q.toNat = false → th.canTrap →
        ∃ s', exec (.qld d q w st) s = .next s' ∧ s'.mem = s.mem ∧
          Handled s' t { th with stall := st.toNat, word := s.issue.word } 0x30 0x04 s.issue.word))

/-- In every state in which its checks hold: an issue of one thread that is not bound with MSIGN, on a free convergence
register and an accumulator that no other block holds, with a binding word that R319 accepts, gives the register the
count, the accumulator and the block, bound once, and binds the thread; on a register that the block holds with the same
count and accumulator and room it is bound once more. MSIGN of the bound register releases it where no open round holds
a signature of the thread: the bound count falls by one, and at 0 with no open round the register is free; where one
does, the thread waits, with the register as it was. For an issue of one thread with MHIST, MHCLR or MWAIT, in the state
in which the earlier writes of its strand have been performed, with a slot register below 16, a destination that passes
the checks of R321, a claimed spindle, and room in the matrix queue: the command enters at the end of the matrix queue
and the thread goes on. A slot register of 16 or more raises FormatDivergence 0x02, and so does a reserved bit of a wait
word; MWAIT on a spindle that is not claimed raises IllegalWait 0x02. (R317, R318, R319, R321, R329, R330.) -/
def Obligations.MatrixIssue : Prop :=
  (∀ (d : BitVec 7) (a : RegName) (st : Stall) (s : State) (t : TRef) (th : Thread),
    let core := s.issue.core
    let cv := d.toNat
    let w := th.val a
    let n := (w.extractLsb' 0 14).toNat
    let acc := (w.extractLsb' 16 2).toNat
    core < s.cores.length → cv < (s.core core).cvs.length →
    let bound := fun (c' : CvReg) (r : Nat) => ∃ s', exec (.msignBind d a st) s = .next s' ∧ s'.cvReg core cv = c' ∧
      s'.thread? t = some (({ th with cv := some (cv, r) }.issued st s.issue.word).advance) ∧ s'.mem = s.mem
    (OneLane (.msignBind d a st) s t th → th.cv = none → w.extractLsb' 18 14 = 0 → w.extractLsb' 14 2 = 0 → 1 ≤ n → n ≤ 8192 →
      s.accTaken core acc t.blk = false →
      ((s.cvReg core cv).holder = none → bound ⟨n, acc, some t.blk, 1, 0, []⟩ 0) ∧
      ∀ c, s.cvReg core cv = c → c.holder = some t.blk → c.n = n → c.acc = acc → c.bound < n →
        bound { c with bound := c.bound + 1 } c.firstRound) ∧
    (OneLane (.msignRelease d st) s t th → ∀ r c, th.cv = some (cv, r) → s.cvReg core cv = c →
      (c.signedBy t = false → ∃ s', exec (.msignRelease d st) s = .next s' ∧ s'.mem = s.mem ∧
        s'.thread? t = some (({ th with cv := none }.issued st s.issue.word).advance) ∧
        s'.cvReg core cv = if c.bound ≤ 1 ∧ c.rounds = [] then CvReg.free else { c with bound := c.bound - 1 }) ∧
      (c.signedBy t = true → ∃ s', exec (.msignRelease d st) s = .next s' ∧ s'.mem = s.mem ∧ s'.cvReg core cv = c ∧
        Event.msignReleaseComplete t.blk t.tid ∈ s'.work ∧ s'.thread? t = some { th with
          park := some (.unbind cv), stall := st.toNat, word := s.issue.word, again := false }))) ∧
  (∀ (d a : RegName) (st : Stall) (s : State) (t : TRef) (th : Thread),
    let v := th.val d
    let s1 := s.drainStrand t.blk th.strand
    let raises := fun (i : Instr) (cause sub : Nat) => exec i s = .next (s1.deliverIssued st [⟨t, cause, sub, 0⟩] (some i))
    s1.hasRoom s.issue.core 7 → s1.issue.core = s.issue.core →
    (OneLane (.mhist d a st) s t th →
      (v.toNat < 16 → s1.opFault t.blk (.mhist v.toNat (th.pair a)) = none →
        exec (.mhist d a st) s = .next (s1.entered t st 7 (.mhist v.toNat (th.pair a)))) ∧
      (16 ≤ v.toNat → raises (.mhist d a st) 0x38 0x02)) ∧
    (OneLane (.mhclr d st) s t th →
      (v.toNat < 16 → exec (.mhclr d st) s = .next (s1.entered t st 7 (.mhclr v.toNat))) ∧
      (16 ≤ v.toNat → raises (.mhclr d st) 0x38 0x02)) ∧
    (OneLane (.mwait d st) s t th →
      (v.extractLsb' 5 11 ≠ 0 → raises (.mwait d st) 0x38 0x02) ∧
      (v.extractLsb' 5 11 = 0 → s1.spindle? t.blk false (v.extractLsb' 0 5).toNat = none → raises (.mwait d st) 0x30 0x02) ∧
      (v.extractLsb' 5 11 = 0 → (s1.spindle? t.blk false (v.extractLsb' 0 5).toNat).isSome = true →
        exec (.mwait d st) s = .next (s1.entered t st 7 (.mwait v)))))

/-- For an issue of one thread with MMA, MDRAIN, MZERO or MLOADC, in the state in which the earlier writes of its strand
have been performed: a thread that is not bound raises OperandDivergence 0x03. A signature of a bound thread whose
register has no open round, with operands that pass their checks, opens a round with the operation and the thread in it,
or, where the register counts one thread, puts the operation in the matrix queue. A later signature with the operation
of its round joins it, or, as the last of the count, puts it in the matrix queue. A later signature of an MMA with
another format word raises FormatDivergence 0x01, one with the same word and other operands OperandDivergence 0x01.
(R317, R320, R322, R327, R329, R332.) -/
def Obligations.MatrixSignatures : Prop :=
  ∀ (d a b : RegName) (st : Stall) (s : State) (t : TRef) (th : Thread) (cv r : Nat),
    let core := s.issue.core
    let s1 := s.drainStrand t.blk th.strand
    let c := s1.cvReg core cv
    let fits := ∀ x ∈ drainArchs th (th.val d) b, x < max 1 th.regs.length
    s1.issue.core = core → core < s1.cores.length → cv < (s1.core core).cvs.length → s1.thread? t = some th →
    ∀ x ∈ signedOps d a b st th c.acc, OneLane x.1 s t th → fits → th.pend = [] →
      let signed := fun (c' : CvReg) (n : Nat) (q : EQueue) => ∃ s', exec x.1 s = .next s' ∧ s'.mem = s1.mem ∧
        s'.cvReg core cv = c' ∧ s'.queue core 7 = q ∧ (∀ k ≠ 7, s'.queue core k = s1.queue core k) ∧
        s'.thread? t = some (({ th with cv := some (cv, n + 1) }.issued st s1.issue.word).advance)
      let entered := (s1.queue core 7).with x.2 t.blk (s1.core core).cycles
      (th.cv = none → exec x.1 s = .next (s.deliverIssued st [⟨t, 0x39, 0x03, 0⟩] (some x.1))) ∧
      (th.cv = some (cv, r) →
        (c.rounds = [] → s1.opFault t.blk x.2 = none →
          (1 < c.n → signed { c with rounds := [⟨c.nextRound, x.2, [t]⟩], nextRound := c.nextRound + 1 } c.nextRound
            (s1.queue core 7)) ∧
          (c.n ≤ 1 → s1.hasRoom core 7 → signed { c with rounds := [], nextRound := c.nextRound + 1 } c.nextRound entered)) ∧
        ∀ rd, c.rounds = [rd] → rd.num = r → r < c.nextRound →
          (rd.op = x.2 →
            (rd.signed.length + 1 < c.n → signed { c with rounds := [{ rd with signed := rd.signed ++ [t] }] } r (s1.queue core 7)) ∧
            (c.n ≤ rd.signed.length + 1 → s1.hasRoom core 7 → signed { c with rounds := [] } r entered)) ∧
          (∀ f a' b' acc', rd.op = .mma f a' b' acc' → x.1 = .mma d a b st →
            (f ≠ th.val d → exec x.1 s = .next (s1.deliverIssued st [⟨t, 0x38, 0x01, 0⟩] (some x.1))) ∧
            (f = th.val d → (a' ≠ th.pair a ∨ b' ≠ th.pair b) →
              exec x.1 s = .next (s1.deliverIssued st [⟨t, 0x39, 0x01, 0⟩] (some x.1)))))

/-- In every state in which its checks hold and whose reads succeed, an issue of one thread with TEX or TEXF answers the
next state in which the results are on their way to d: with an invalid descriptor the canonical NaN in every channel;
TEXF of a texel outside its level gives 0, and inside it the texel; TEX of a valid texture its four filtered channels;
all as f32 words or as two f16 pairs. (R336, R337, R338, R340.) -/
def Obligations.Textures : Prop :=
  ∀ (d a : RegName) (ply half : Bool) (st : Stall) (s : State) (t : TRef) (th : Thread),
    let entry := th.pair (member a 2)
    let k := s.kernel t.blk
    let u := th.get a
    let v := th.get (member a 1)
    let x := ((th.val a).extractLsb' 0 16).toNat
    let y := ((th.val a).extractLsb' 16 16).toNat
    let l := (th.valAt a 1).toNat
    (∀ s1, s.texDescAt t th entry = .ok (s1, none) →
      (OneLane (.tex d a ply half st) s t th → exec (.tex d a ply half st) s = .next (s1.gave t st d (texOut ply half k.d s1.free
        (List.replicate 4 (if ply then fpZeroReg [u, v] 0x7FC00000 true false else Reg.plain 0x7FC00000))))) ∧
      (OneLane (.texf d a half st) s t th → exec (.texf d a half st) s =
        .next (s1.gave t st d (texOut false half 0 0 (List.replicate 4 (Reg.plain 0x7FC00000)))))) ∧
    ∀ s1 td, s.texDescAt t th entry = .ok (s1, some td) →
      ((td.levels ≤ l ∨ td.w l ≤ x ∨ td.h l ≤ y) → OneLane (.texf d a half st) s t th → exec (.texf d a half st) s =
        .next (s1.gave t st d (texOut false half 0 0 (List.replicate 4 (Reg.plain 0))))) ∧
      (l < td.levels → x < td.w l → y < td.h l → OneLane (.texf d a half st) s t th → ∀ s2 c, s1.texel t th td l x y = .ok (s2, c) →
        exec (.texf d a half st) s = .next (s2.gave t st d (texOut false half 0 0 (c.map Reg.plain)))) ∧
      (OneLane (.tex d a ply half st) s t th → ∀ s2 ch, s1.texChannels t th k td ply u v = .ok (s2, ch) → ∃ n f,
        exec (.tex d a ply half st) s = .next (State.gave { s2 with free := n } t st d (texOut ply half k.d f ch)))

/-- For an issue of one thread whose reads succeed, in the state in which the earlier writes of its strand have been
performed: LINS waits parked where it must; else a descriptor that is invalid or of a pixel outside it gives 7, a
fragment without coverage 2, and any other what the insertion gives. LRES, LCNT and LCOMP wait parked for earlier
primitives and draws; else LRES gives the depth, colour, coverage, tag and merges of layer k, or +∞ and zeros; LCNT the
number of layers with MOI and DROP; LCOMP the composite, front to back; each gives zeros for an invalid descriptor. LCLR
enters its command at the end of the draw queue. (R341, R343, R344, R204.) -/
def Obligations.LayerAccesses : Prop :=
  ∀ (d a : RegName) (st : Stall) (s : State) (t : TRef) (th : Thread),
    let s1 := s.drainStrand t.blk th.strand
    let va := (th.pair a).toNat
    let pixel := (th.valAt a 2).toNat
    let k := s.kernel t.blk
    let parked := fun (i : Instr) (n : Nat) => some { th with
      park := some (.layer i n), stall := st.toNat, word := s1.issue.word, again := false }
    (OneLane (.lins d a st) s t th →
      (s1.insertWaits t th a none = true → s1.thread? t = some th → ∃ s' n, exec (.lins d a st) s = .next s' ∧ s'.mem = s1.mem ∧
        s'.thread? t = parked (.lins d a st) n ∧ Event.layerInsert t.blk t.tid ∈ s'.work) ∧
      (s1.insertWaits t th a none = false →
        (∀ s2, s1.targetAt t th va pixel = .ok (s2, none) → s2.isDoubled t.blk = false →
          exec (.lins d a st) s = .next ((s2.noteDid t 0).gave t st d [Reg.plain 7])) ∧
        (∀ s2 tg, s1.targetAt t th va pixel = .ok (s2, some tg) → (s2.fragNode t th a).cov = 0 → s2.isDoubled t.blk = false →
          exec (.lins d a st) s = .next ((s2.noteDid t 0).gave t st d [Reg.plain 2])) ∧
        ∀ s2 v, s1.insertOne t th a = .ok (s2, v) → s2.isDoubled t.blk = false →
          exec (.lins d a st) s = .next (s2.gave t st d [Reg.plain (BitVec.ofNat 32 v)]))) ∧
    (s1.layerWaits th pixel = true → s1.thread? t = some th → ∀ i ∈ [Instr.lres d a st, .lcnt d a st, .lcomp d a st],
      OneLane i s t th → ∃ s', exec i s = .next s' ∧ s'.mem = s1.mem ∧ s'.thread? t = parked i 0) ∧
    (s1.layerWaits th pixel = false →
      (∀ s2, s1.targetAt t th va pixel = .ok (s2, none) →
        (OneLane (.lres d a st) s t th → exec (.lres d a st) s = .next (s2.gave t st d (List.replicate 4 (Reg.plain 0)))) ∧
        (OneLane (.lcnt d a st) s t th → exec (.lcnt d a st) s = .next (s2.gave t st d [Reg.plain 0])) ∧
        (OneLane (.lcomp d a st) s t th → exec (.lcomp d a st) s = .next (s2.gave t st d (List.replicate 2 (Reg.plain 0))))) ∧
      ∀ s2 tg s3 l, s1.targetAt t th va pixel = .ok (s2, some tg) → s2.seenList t th tg pixel = .ok (s3, l) →
        s3.kernel t.blk = k →
        (OneLane (.lres d a st) s t th →
          (l[(th.valAt a 3).toNat]? = none → exec (.lres d a st) s =
            .next (s3.gave t st d [Reg.plain 0x7F800000, Reg.plain 0, Reg.plain 0, Reg.plain 0])) ∧
          ∀ n, l[(th.valAt a 3).toNat]? = some n → exec (.lres d a st) s = .next (s3.gave t st d
            [depthReg k n, halves (n.rgba.getD 0 0) (n.rgba.getD 1 0), halves (n.rgba.getD 2 0) (n.rgba.getD 3 0),
              Reg.plain (BitVec.ofNat 32 (n.cov + 2 ^ 16 * n.tag + 2 ^ 24 * n.merges))])) ∧
        (OneLane (.lcnt d a st) s t th → exec (.lcnt d a st) s = .next (s3.gave t st d
          [Reg.plain (BitVec.ofNat 32 (l.length % 16 + (if tg.status % 2 = 1 then 256 else 0) +
            (if tg.status / 2 % 2 = 1 then 512 else 0)))])) ∧
        (OneLane (.lcomp d a st) s t th → exec (.lcomp d a st) s = .next (s3.gave t st d
          (let c := fun (k : Nat) => toHalf ((l.foldl (fun (acc : List Word) n => (List.range 4).map fun k =>
              add32 (acc.getD k 0) (mul32 (sub32 0x3F800000 (acc.getD 3 0)) (n.chan k))) [0, 0, 0, 0]).getD k 0)
           [halves (c 0) (c 1), halves (c 2) (c 3)])))) ∧
    (OneLane (.lclr a st) s t th → s1.isDoubled t.blk = false → s1.issue.core = s.issue.core →
      (th.valAt a 2).extractLsb' 5 11 = 0 →
      (s1.spindle? t.blk false ((th.valAt a 2).extractLsb' 0 5).toNat).isSome = true → s1.hasRoom s.issue.core 8 →
      exec (.lclr a st) s = .next (s1.entered t st 8 (.lclr (th.pair a) (th.valAt a 2))))

/-- For an issue of one thread whose reads and writes succeed, DRAW, ZTEST and OMERGE in the state in which the earlier
writes of its strand have been performed: DRAW, in a block that is not doubled, gives FormatInvalid for a record that is
not 64-byte aligned, else the status of its checks, and with status 0 enters the draw queue; VEMIT stores the octet with
its t partials under its index; PEMIT adds a primitive of the three vertices that its block has emitted, or one without
vertices; outside a vertex grid both raise IllegalInstruction 0x02, as ZTEST and OMERGE do outside a fragment grid.
Where no earlier primitive of its tile is pending, ZTEST gives the mask of the covered samples that pass, and writes
their depth where the draw writes depth; OMERGE writes nothing, the colour, or the colour merged over the old one, as
the draw says; where one is pending both park. (R345, R346, R347, R245.) -/
def Obligations.DrawStages : Prop :=
  ∀ (d a : RegName) (st : Stall) (s : State) (t : TRef) (th : Thread),
    let s1 := s.drainStrand t.blk th.strand
    let oct := th.vals a 8
    let at_ := (pairVal (oct.getD 0 0) (oct.getD 1 0)).toNat
    let num := ((s.blocks[t.blk]?).map (·.num)).getD 0
    let gives := fun (z : State) (v : Nat) => z.modThread t fun x =>
      ((x.result (archOf x.wb d) (Reg.plain (BitVec.ofNat 32 v)) none).issued st z.issue.word).advance
    (OneLane (.draw d a st) s t th → s1.isDoubled t.blk = false →
      (at_ % 64 ≠ 0 → exec (.draw d a st) s = .next (gives s1 7)) ∧
      (at_ % 64 = 0 → ∀ s2 b, s1.gread t th at_ 64 64 = .ok (s2, b) →
        let record := (List.range 8).map fun i => Addr.ofNat (fieldAt b (8 * i) 8)
        (∀ v, s2.drawIssue t.blk oct record = (v, none) → exec (.draw d a st) s = .next (gives s2 v)) ∧
        ∀ ks, s2.drawIssue t.blk oct record = (0, some ks) → s2.hasRoom s2.issue.core 8 → s2.thread? t = some th → ∃ s',
          exec (.draw d a st) s = .next s' ∧ s'.mem = s2.mem ∧
          s'.queue s2.issue.core 8 = (s2.queue s2.issue.core 8).with (.draw oct record) t.blk (s2.core s2.issue.core).cycles ∧
          s'.thread? t = some (((th.result (archOf th.wb d) (Reg.plain 0) none).issued st s2.issue.word).advance))) ∧
    (∀ i ∈ [Instr.vemit d a st, .pemit a st], OneLane i s t th → s.drawOf t.blk false = none →
      exec i s = .next (s.deliverIssued st [⟨t, 0x01, 0x02, 0⟩] (some i))) ∧
    (∀ i ∈ [Instr.ztest d a st, .omerge a st], OneLane i s t th → (s.drawOf t.blk true = none ∨ th.frag = none) →
      exec i s = .next (s.deliverIssued st [⟨t, 0x01, 0x02, 0⟩] (some i))) ∧
    (∀ di dr, s.drawOf t.blk false = some (di, dr) →
      (OneLane (.vemit d a st) s t th → (th.val d).toNat ≤ 65535 → ∃ s' dr', exec (.vemit d a st) s = .next s' ∧
        s'.mem = s.mem ∧ s'.draws[di]? = some dr' ∧ dr'.vertex num (th.val d).toNat = some ((th.group a 8).map (emitted (s.kernel t.blk))) ∧
        dr'.prims = dr.prims ∧ s'.thread? t = some ((th.issued st s.issue.word).advance)) ∧
      (OneLane (.pemit a st) s t th → ∃ s' dr', exec (.pemit a st) s = .next s' ∧ s'.mem = s.mem ∧ s'.draws[di]? = some dr' ∧
        s'.thread? t = some ((th.issued st s.issue.word).advance) ∧
        let adds := fun (p : Prim) => (dr'.prims.map fun q => { q with num := none }).Perm
          ((dr.prims ++ [p]).map fun q => { q with num := none })
        (∀ x y z, dr.vertex num (th.val a).toNat = some x → dr.vertex num (th.valAt a 1).toNat = some y →
          dr.vertex num (th.valAt a 2).toNat = some z → adds ⟨num, [x, y, z], (th.valAt a 3).toNat, none⟩) ∧
        ((∃ i < 3, dr.vertex num (th.valAt a i).toNat = none) → adds ⟨num, [], (th.valAt a 3).toNat, none⟩))) ∧
    ∀ di dr fr, s.drawOf t.blk true = some (di, dr) → th.frag = some fr →
      let sample := fun (base size i : Nat) => base + size * ((fr.y * dr.width + fr.x) * 2 ^ dr.log2Samples + i)
      let depths := (dr.samplesOf ((th.valAt a 1).toNat &&& fr.cov)).map fun i => (i, sample ((dr.record.getD 4 0)).toNat 4 i)
      let colours := (dr.samplesOf (th.valAt a 2).toNat).map fun i => (i, sample ((dr.record.getD 3 0)).toNat 8 i)
      let rgba := [(th.val a).toNat % 65536, (th.val a).toNat / 65536, (th.valAt a 1).toNat % 65536, (th.valAt a 1).toNat / 65536]
      let mode := ((octW dr.oct 3).extractLsb' 6 2).toNat
      let parks := fun (i : Instr) (kind : Nat) => s1.earlierPending th kind = true → s1.thread? t = some th → ∃ s',
        exec i s = .next s' ∧ s'.mem = s1.mem ∧
        s'.thread? t = some { th with park := some (.layer i 0), stall := st.toNat, word := s1.issue.word, again := false }
      let merged := fun (z : State) => ∃ s', exec (.omerge a st) s = .next s' ∧ s'.mem = z.mem ∧
        s'.thread? t = (z.thread? t).map fun x =>
          (({ x with frag := x.frag.map fun (f : Frag) => { f with did := 2 :: f.did } } : Thread).issued st z.issue.word).advance
      (OneLane (.ztest d a st) s t th → parks (.ztest d a st) 1) ∧
      (OneLane (.ztest d a st) s t th → s1.earlierPending th 1 = false → ∀ s2 old s3, State.readSamples t th 4 depths s1 = .ok (s2, old) →
        let pass := old.filter fun (x : Nat × Nat × List Byte) =>
          depthPass ((octW dr.oct 3).extractLsb' 2 3).toNat (th.val a) (wordOf x.2.2)
        (if (octW dr.oct 3).getLsbD 5 then s2.gwrite t (pass.map fun (x : Nat × Nat × List Byte) => (x.2.1, wordBytes (th.val a)))
          else Except.ok s2) = .ok s3 →
        ∃ s', exec (.ztest d a st) s = .next s' ∧ s'.mem = s3.mem ∧ s'.cores = s3.cores ∧
          s'.thread? t = (s3.thread? t).map fun x => ((Thread.results
            { x with frag := x.frag.map fun (f : Frag) => { f with did := 1 :: f.did } } d none 0
            [Reg.plain (BitVec.ofNat 32 ((pass.map fun (x : Nat × Nat × List Byte) => 2 ^ x.1).sum))]).issued st s3.issue.word).advance) ∧
      (OneLane (.omerge a st) s t th → parks (.omerge a st) 2 ∧ (s1.earlierPending th 2 = false →
        (mode = 0 → merged s1) ∧
        (mode = 1 → ∀ s2, s1.gwrite t (colours.map fun x => (x.2, rgba.flatMap (leBytes 2))) = .ok s2 → merged s2) ∧
        (mode = 2 → ∀ s2 old s3, State.readSamples t th 8 colours s1 = .ok (s2, old) →
          s2.gwrite t (old.map fun (x : Nat × Nat × List Byte) => (x.2.1, mergeColour 2 rgba x.2.2)) = .ok s3 → merged s3)))

/-- In every state in which its checks hold and whose reads succeed, an issue of one thread answers the next state in
which the results are on their way to d: TRVBOX the mask, order and nearest distance of the hits, TRVTRI the hit or +∞
and zeros; TRVOMM 3 for an opaque triangle, 2 for one without a micro-map, 2 with bit 31 for a subdivision above 8, and
else the two bits of the micro-map, whose base is the free value of the model (log 34); TRVSTEP at the end marker writes
0 in d+3 and nothing else, and at a node with no more than one box child that is hit the offset of that child, or the
end marker, in d+2 and the runs and the order in d+3. With a stack, TRVPUSH puts an entry on it, or drops the deepest
entry of a full one and sets the restart bit; TRVPOP takes the last entry, or 0 after an overflow, or 0xFFFF_FFFF. That
the entries of the stack are the architectural registers from TRVBASE, whatever the window base is, is the reading of
the model (log 60). Without a stack both raise RegRange 0x05. (R348, R349, R350, R351, R352, R353, R209.) -/
def Obligations.Traversal : Prop :=
  ∀ (d a : RegName) (st : Stall) (s : State) (t : TRef) (th : Thread),
    let node := (th.pair (member d 2)).toNat
    let tri := (th.pair (member a 2)).toNat
    (OneLane (.trvbox d a st) s t th → ∀ s1 b, s.readNode t th node 128 64 = .ok (s1, b) →
      exec (.trvbox d a st) s = .next (s1.gave t st d
        [Reg.plain (boxOut (th.vals a 8) b).1, Reg.plain (boxOut (th.vals a 8) b).2])) ∧
    (OneLane (.trvtri d a st) s t th → ∀ s1 b, s.readNode t th node 48 16 = .ok (s1, b) →
      exec (.trvtri d a st) s = .next (s1.gave t st d ((triOut (th.vals a 8) b).map Reg.plain))) ∧
    (OneLane (.trvomm d a st) s t th → ∀ s1 b, s.readNode t th tri 48 16 = .ok (s1, b) →
      let f := fieldAt b 40 4
      (f % 2 = 1 → exec (.trvomm d a st) s = .next (s1.gave t st d [Reg.plain 3])) ∧
      (f % 2 = 0 → f / 256 % 2 = 0 → exec (.trvomm d a st) s = .next (s1.gave t st d [Reg.plain 2])) ∧
      (f % 2 = 0 → f / 256 % 2 = 1 → 8 < f / 16 % 16 →
        exec (.trvomm d a st) s = .next (s1.gave t st d [Reg.plain 0x80000002])) ∧
      (f % 2 = 0 → f / 256 % 2 = 1 → f / 16 % 16 ≤ 8 →
        let n := microIndex (th.val a) (th.valAt a 1) (f / 16 % 16)
        ∀ s2 m, s1.gread t th (Config.treeBase (BitVec.ofNat 64 tri) + BitVec.ofNat 64 (fieldAt b 44 4) + BitVec.ofInt 64 (n / 4)).toNat 1 1 =
          .ok (s2, m) → exec (.trvomm d a st) s =
          .next (s2.gave t st d [Reg.plain (BitVec.ofNat 32 (fieldAt m 0 1 / 4 ^ (n % 4).toNat % 4))]))) ∧
    (OneLane (.trvstep d a st) s t th → th.valAt d 2 = 0xFFFFFFFF → exec (.trvstep d a st) s = .next (s.modThread t fun x =>
      ((x.result (archOf th.wb (member d 3)) (Reg.plain 0) none).issued st s.issue.word).advance)) ∧
    (OneLane (.trvstep d a st) s t th → th.valAt d 2 ≠ 0xFFFFFFFF → ∀ s1 c base s2 b, s.lookup t (th.pair d).toNat = .ok (s1, c, base) →
      s1.readNode t th (BitVec.ofNat 64 base + BitVec.ofNat 64 (64 * (th.valAt d 2).toNat)).toNat 128 64 = .ok (s2, b) →
      let boxes := (stepChildren (th.vals a 8) b 1).map (·.2)
      let out := idxMask ((stepChildren (th.vals a 8) b 2).map (·.1)) +
        256 * orderField (boxOrder ((boxTests (th.vals a 8) b).map (·.2)))
      boxes.length ≤ 1 → exec (.trvstep d a st) s = .next (s2.modThread t fun x =>
        (((x.result (archOf th.wb (member d 2)) (Reg.plain (boxes.headD 0xFFFFFFFF)) none).result (archOf th.wb (member d 3))
          (Reg.plain (BitVec.ofNat 32 out)) none).issued st s2.issue.word).advance)) ∧
    ((s.kernel t.blk).trvN = 0 → ∀ i ∈ [Instr.trvpush a st, .trvpop d st], OneLane i s t th →
      exec i s = .next (s.deliverIssued st [⟨t, 0x05, 0x05, 0⟩] (some i))) ∧
    (∀ n e, n = (s.kernel t.blk).trvBase → e = (s.kernel t.blk).trvN → 0 < e → 0 < n → n + e ≤ th.regs.length → th.pend = [] →
      (OneLane (.trvpush a st) s t th →
        (th.trvCount < e → ∃ s' th', exec (.trvpush a st) s = .next s' ∧ s'.mem = s.mem ∧ s'.thread? t = some th' ∧
          th'.trvCount = th.trvCount + 1 ∧ th'.trvRestart = th.trvRestart ∧ th'.pc = th.pc + 4 ∧
          ∀ r, th'.reg r = if r = n + th.trvCount then Reg.plain (th.val a) else th.reg r) ∧
        (th.trvCount = e → ∃ s' th', exec (.trvpush a st) s = .next s' ∧ s'.mem = s.mem ∧ s'.thread? t = some th' ∧
          th'.trvCount = e ∧ th'.trvRestart = true ∧ th'.pc = th.pc + 4 ∧
          ∀ r, (th'.reg r).val = if r = n + (e - 1) then th.val a else if n ≤ r ∧ r < n + (e - 1) then (th.reg (r + 1)).val
            else (th.reg r).val)) ∧
      (OneLane (.trvpop d st) s t th →
        (0 < th.trvCount → exec (.trvpop d st) s = .next (s.modThread t fun _ =>
          ((({ th with trvCount := th.trvCount - 1 }.results d none 0
            [Reg.plain (th.reg (n + (th.trvCount - 1))).val]).issued st s.issue.word).advance))) ∧
        (th.trvCount = 0 → th.trvRestart = true → exec (.trvpop d st) s = .next (s.modThread t fun _ =>
          ((({ th with trvRestart := false }.results d none 0 [Reg.plain 0]).issued st s.issue.word).advance))) ∧
        (th.trvCount = 0 → th.trvRestart = false → exec (.trvpop d st) s = .next (s.modThread t fun _ =>
          (((th.results d none 0 [Reg.plain 0xFFFFFFFF]).issued st s.issue.word).advance)))))

/-- For a thread of a block on a core: YIELD_EXPIRY clears its yield; VARIABLE_RESULT_ARRIVE puts the first pending
variable-latency result of a register there, in the other lanes of its strand that stand at the same instruction too
(log 13), and FIXED_LATENCY_RESULT, where no instruction that has read its registers still waits, a fixed-latency one
whose cycle has come, or drops a result that a later write has overtaken; WALK_MIG_REREAD lets it go on once the walk no
longer meets a migrating node; HANG_TIMEOUT and STARVATION_TIMEOUT at their thresholds enter its handler with Hang 0x01
or 0x02; SERVICE_CALL_PERFORM gives the results and the status in v4 and goes on at PC + 4. WITHHELD_CYCLE advances the
cycle counter and the stall counts of its core and nothing else of a thread or core; under a pre-emption request or a
shootdown it does nothing. (R225, R227, R38, R147, R270, R272, R378, R215.) -/
def Obligations.ThreadEvents : Prop :=
  ∀ (s : State) (t : TRef) (th : Thread) (core : Nat), s.thread? t = some th → s.coreOf t.blk = some core →
    let hung := fun (sub : Nat) (w : Word) (o : Host.Outcome State Fault Refusal) => ∃ s', o = .next s' ∧ s'.mem = s.mem ∧
      Handled s' t { th with starve := 0, walk := none } 0x31 sub w
    let served := fun (l : List (Nat × Word)) => ∃ s' x, exec (.serviceCallPerform t.blk t.tid) s = .next s' ∧
      s'.thread? t = some x ∧ x.pc = th.pc + 4 ∧ x.park = none ∧ (∀ y ∈ l, x.reg y.1 = Reg.plain y.2) ∧
      ∀ r, (∀ y ∈ l, y.1 ≠ r) → x.reg r = th.reg r
    exec (.yieldExpiry t.blk t.tid) s = .next (s.modThread t fun _ => { th with yield := 0 }) ∧
    (∀ l p r, th.pend = l ++ p :: r → (∀ x ∈ l, x.reg ≠ p.reg) →
      let came := s.modThread t fun _ =>
        if p.dead then { th with pend := l ++ r } else ({ th with pend := l ++ r } : Thread).setReg p.reg p.res
      (p.due = none → p.held = false → ∃ s', exec (.variableResultArrive t.blk t.tid p.reg) s = .next s' ∧ s'.mem = s.mem ∧
        s'.cores = s.cores ∧ s'.thread? t = came.thread? t ∧ ∀ u ≠ t, s'.thread? u = if u ∈ s.together t then
          (s.thread? u).map (fun x => x.arriveResult fun q => q.variable p.reg) else s.thread? u) ∧
      ∀ c k, p.due = some (c, k) → th.reads = false → c ≤ (s.core core).cycles → exec (.fixedLatencyResult t.blk t.tid p.reg) s = .next came) ∧
    (∀ ea s1, th.walk = some ea →
      (s.walk core (s.partOf t.blk) ea.toNat = .wait s1 → exec (.walkMigReread t.blk t.tid) s = .next s1) ∧
      ∀ x y z, s.walk core (s.partOf t.blk) ea.toNat = .leaf s1 x y z →
        exec (.walkMigReread t.blk t.tid) s = .next (s1.modThread t fun u => { u with walk := none })) ∧
    (th.live = true → th.canTrap →
      (∀ p, th.park = some p → p.checked = true → 2 ^ max 14 (s.core core).hangExp ≤ th.hang →
        hung 1 th.word (exec (.hangTimeout t.blk t.tid) s)) ∧
      (th.park = none → th.filed = false → 2 ^ max 14 (s.core core).starveExp ≤ th.starve →
        hung 2 ((s.peek core t th.pc).getD 0) (exec (.starvationTimeout t.blk t.tid) s))) ∧
    (4 < th.regs.length → ∀ code, th.park = some (.service code) →
      (code = 0 → served [(2, Config.serviceVersion), (4, 0)]) ∧ (3 ≤ code → served [(4, 0xFFFFFFFF)]) ∧
      (code = 1 → ∀ x, x = s.allocScratch (s.partOf t.blk) (core / 36) (th.reg 2).val.toNat → (x = none → served [(4, 1)]) ∧
        ∀ s1 va, x = some (s1, va) → s1.thread? t = some th →
          served [(2, (Addr.ofNat va).extractLsb' 0 32), (3, (Addr.ofNat va).extractLsb' 32 32), (4, 0)]) ∧
      (code = 2 → ∀ x, x = s.freeScratch (s.partOf t.blk) ((th.reg 3).val ++ (th.reg 2).val).toNat → (x = none → served [(4, 2)]) ∧
        ∀ s1, x = some s1 → s1.thread? t = some th → served [(4, 0)])) ∧
    (core < s.cores.length →
      ((s.core core).urgent = false → ∃ s', exec (.withheldCycle core) s = .next s' ∧ s'.mem = s.mem ∧
        s'.core core = { s.core core with cycles := (s.core core).cycles + 1 } ∧ (∀ c ≠ core, s'.core c = s.core c) ∧
        ∀ u, s'.thread? u = (s.thread? u).map fun x => if u ∈ s.threadsOn core then { x with stall := x.stall - 1 } else x) ∧
      ((s.core core).urgent = true → exec (.withheldCycle core) s = .next s))

/-- DEAL of one unit of the next grid, with its extent tables built, starts its blocks with cleared memory on the cores
chosen, and leaves every other block; BLOCK_END of a block whose threads have exited, which holds nothing back and whose
commands are complete ends it, empties its memory, frees what it holds of the matrix unit and records its status;
BLOCK_SAVE for no fault of a block without pending writes, commands or atomics takes it from its core, ready, with its
memory, full bits, registers and matrix state, and frees what it holds of the matrix unit, but not for a block of a C
grid, whose room stays reserved; BLOCK_RESTORE puts the ready blocks whose turn it is, with frames in order once their
single-bit errors are corrected, on the cores chosen, with memory, registers, waits and trap registers as they were;
PREEMPT_REQUEST waits for a running draw for at most GRACE cycles, of which a second request of the partition adds none,
and otherwise, as at DRAW_GRACE_EXPIRY, every block of the partition on the core is to be saved. (R157, R268, R56, R79,
R81, R217, R161, R154.) -/
def Obligations.BlockEvents : Prop :=
  (∀ (s s1 : State) (part gi : Nat) (g : Grid) (p : Placed) (ext : List (List Extent)), (s.part part).exited = false →
    (s.part part).dealGrid = some gi → s.grids[gi]? = some g → s.dealUnits g = [p] →
    State.buildTables g.part g.ranges p.cores s = .ok (s1, ext) → s1.blocks = s.blocks → s1.grids = s.grids →
    ∃ s', exec (.deal part) s = .next s' ∧
      s'.blocks.length = s.blocks.length + p.lead.length + p.trail.length ∧
      (∀ k < s.blocks.length, s'.blocks[k]? = s.blocks[k]?) ∧
      (∀ i x, p.lead[i]? = some x → ∃ y, s'.blocks[s.blocks.length + i]? = some y ∧ y.grid = gi ∧ y.num = x.1 ∧
        y.place = .onCore x.2 ∧ y.mem = [] ∧ y.full = [] ∧ y.status = 0 ∧ y.extents = ext.getD i []) ∧
      (s'.grids[gi]?).map (·.next) = some (g.next + p.lead.length)) ∧
  (∀ (s : State) (blk core : Nat) (b : Block) (g : Grid), s.blocks[blk]? = some b → s.grids[b.grid]? = some g →
    b.place = .onCore core →
    (b.done = true → b.held = [] → s.busyBlock core blk = false → ∃ s' x, exec (.blockEnd blk) s = .next s' ∧ s'.blocks[blk]? = some x ∧
      x.place = .ended ∧ x.mem = [] ∧ x.full = [] ∧ (∀ y ∈ x.threads, y.live = false) ∧
      (∀ c ∈ (s'.core core).cvs, c.holder ≠ some blk) ∧ (∀ c ∈ (s'.core core).accs, c.holder ≠ some blk) ∧
      (b.partner = none → (s'.grids[b.grid]?).map (·.ended) = some (g.ended ++ [(b.num, b.status)]))) ∧
    (∀ why, b.saving = some why → why.cause = 0 → b.partner = none → (∀ q, ∀ c ∈ (s.queue core q).all, c.blk ≠ blk) →
      (∀ k ∈ b.strands, k.queue = [] ∧ k.joint = none) → (∀ x ∈ b.threads, ∀ r, x.park ≠ some (.atomic r)) →
      (∀ f ∈ (s.part (s.partOf blk)).pool ++ (s.part (s.partOf blk)).freeNear, s.pageBad f = false) →
      ∃ s' x, exec (.blockSave blk) s = .next s' ∧ ((s.part (s.partOf blk)).pool ++ (s.part (s.partOf blk)).freeNear = [] → s'.mem = s.mem) ∧
        s'.blocks[blk]? = some x ∧ x.place = .saved true why ∧
        x.mem = b.mem ∧ x.full = b.full ∧ x.threads = b.threads.map (fun y => y.savedResults.settlePark) ∧
        x.matrix = (s.core core).matrixOf blk ∧
        if (s.kernel blk).cls = .c ∧ b.homeCore < 72 then x.homeCore = b.homeCore else ∀ c ∈ (s'.core core).cvs, c.holder ≠ some blk)) ∧
  (∀ (s s1 : State) (blk : Nat) (b : Block) (g : Grid) (l : List (Nat × Nat)) (ext : List (List Extent)), s.blocks[blk]? = some b →
    s.grids[b.grid]? = some g → b.ready = true → (s.part g.part).exited = false →
    s.restoreTurn blk b g = true → s.restoreTo blk g = some l → (l.map (·.1)).Nodup →
    let s0 := l.foldl (fun (z : State) x => z.correctFrame x.1) s
    (∀ x ∈ l, s0.frameLost x.1 = false ∧ ∃ y, s.blocks[x.1]? = some y ∧ y.ready = true ∧ (s.grids[y.grid]?).isSome = true) →
    State.buildTables g.part g.ranges (l.map (·.2)) s0 = .ok (s1, ext) → s1.blocks = s.blocks →
    s1.grids = s.grids →
    ∃ s', exec (.blockRestore blk) s = .next s' ∧ ∀ x ∈ l, ∀ y, s.blocks[x.1]? = some y → ∃ z, s'.blocks[x.1]? = some z ∧
      z.place = .onCore x.2 ∧ z.mem = y.mem ∧ z.full = y.full ∧
      z.threads.map (fun u => (u.pc, u.regs, u.park, u.trap)) = y.threads.map fun u => (u.pc, u.regs, u.park, u.trap)) ∧
  ∀ (s : State) (part c : Nat), c < s.cores.length →
    let halts := fun (o : Host.Outcome State Fault Refusal) => ∃ s', o = .next s' ∧ s'.mem = s.mem ∧ ∀ k y, s.blocks[k]? = some y →
      y.place = .onCore c → s.partOf k = part → ∃ z, s'.blocks[k]? = some z ∧ z.saving.isSome = true ∧ z.threads = y.threads ∧
        z.place = y.place ∧ z.mem = y.mem
    (s.runsDraw c part = true → 0 < (s.part part).grace.toNat →
      ((s.core c).preempt = none → exec (.preemptRequest part [c]) s =
        .next (s.modCore c fun k => { k with preempt := some ⟨part, k.cycles + min 2048 (s.part part).grace.toNat⟩ })) ∧
      ∀ q, (s.core c).preempt = some q → q.part = part → exec (.preemptRequest part [c]) s = .next s) ∧
    ((s.runsDraw c part = false ∨ (s.part part).grace.toNat = 0) → halts (exec (.preemptRequest part [c]) s)) ∧
    ∀ p, (s.core c).preempt = some p → p.part = part →
      ((s.runsDraw c part = false ∨ p.graceEnd ≤ (s.core c).cycles) → halts (exec (.drawGraceExpiry c) s)) ∧
      (s.runsDraw c part = true → (s.core c).cycles < p.graceEnd → exec (.drawGraceExpiry c) s = .next s)

/-- BOBBIN_DRAW of a full bobbin takes as many threads as it draws at, in the order of R142: each is in lane i of a new
strand, with its pc and registers, and the others stay filed. SEAL of two copies whose threads stand before one
instruction that is a seal, with no fill in their store queues: equal signatures, with no operation held back, let both
threads go on with cleared signatures, and nothing of the thread stays in quarantine; a first mismatch sends both copies
back to their start with cleared memory, ready to be placed again; a second one ends every thread of both with
DoublingMismatch (0x0049). (R142, R113, R368, R369.) -/
def Obligations.BobbinsAndSeals : Prop :=
  (∀ (s : State) (core bob : Nat) (b : Bobbin) (n : Nat), (s.core core).bobbins[bob]? = some b → core < s.cores.length →
    n = s.bobbinK b → 0 < n → n ≤ b.threads.length → (b.threads.map (·.1)).Nodup →
    (∀ x ∈ b.threads, ∃ th, s.thread? x.1 = some th ∧ (s.strand? x.1.blk th.strand).isSome = true) →
    let l := s.bobbinOrder b.threads
    ∃ s', exec (.bobbinDraw core bob) s = .next s' ∧ s'.mem = s.mem ∧
      ((s'.core core).bobbins[bob]?).map (·.threads) = some (l.drop n) ∧
      (∀ x ∈ l.drop n, s'.thread? x.1 = s.thread? x.1) ∧
      ∀ i < n, ∀ x, l[i]? = some x → ∀ th, s.thread? x.1 = some th → ∀ y, s.blocks[x.1.blk]? = some y →
        s'.thread? x.1 = some { th with filed := false, lane := i, strand := y.strands.length }) ∧
  ∀ (s : State) (lead trail tid core core' : Nat) (bl bt : Block) (x y : Thread), lead ≠ trail →
    s.blocks[lead]? = some bl → s.blocks[trail]? = some bt → bl.copy = .leading trail → bt.copy = .trailing lead →
    bl.threads[tid]? = some x → bt.threads[tid]? = some y → bl.place = .onCore core → bt.place = .onCore core' →
    (s.grids[bl.grid]?).isSome = true → (s.grids[bt.grid]?).isSome = true →
    x.park = some (.seal true) → y.park = some (.seal true) → x.pc = y.pc →
    (∀ w ∈ (s.strandOf ⟨lead, tid⟩ x).queue, w.fill = false) → (∀ w ∈ (s.strandOf ⟨trail, tid⟩ y).queue, w.fill = false) →
    (x.sig = y.sig → (∀ b ∈ s.blocks, b.held = []) → ∃ s', exec (.seal lead tid) s = .next s' ∧
      s'.thread? ⟨lead, tid⟩ = some { x with park := none, hang := 0, sig := 0, recs := 0, sealed := true, again := true } ∧
      s'.thread? ⟨trail, tid⟩ = some { y with park := none, hang := 0, sig := 0, recs := 0, sealed := true, again := true } ∧
      ∀ k ∈ [lead, trail], ∀ b : Block, s'.blocks[k]? = some b → ∀ w ∈ b.quarantine, w.t.tid ≠ tid) ∧
    (x.sig ≠ y.sig → bl.reissued = false → ∃ s', exec (.seal lead tid) s = .next s' ∧ ∀ k ∈ [lead, trail],
      ∃ b : Block, s'.blocks[k]? = some b ∧ b.place = .saved true SaveWhy.pause ∧ b.mem = [] ∧ b.full = [] ∧ b.reissued = true) ∧
    (x.sig ≠ y.sig → bl.reissued = true → bl.status = 0 → bt.status = 0 → ∃ s', exec (.seal lead tid) s = .next s' ∧
      ∀ k ∈ [lead, trail], ∃ b : Block, s'.blocks[k]? = some b ∧ b.status = 0x49 ∧ ∀ u ∈ b.threads, u.live = false)

/-- SHOOTDOWN of a range drops exactly the cached translations and extents of the partition that overlap it on that
core, and records it; SHOOTDOWN_ACK answers what the core has received: of each migration those acknowledgements of the
core no longer stand out whose range one of these shootdowns covers that was sent when the migration began or later.
MIGRATION, where no table node of the partition is to move, first sends the shootdown of each leaf to every core of the
partition; once every core has answered, it moves a 4 KiB page: the new frame holds the bytes of the old one and the
leaf names it, with MIG clear and the tier of its direction. DIRTY_LOG_DRAIN in hardware mode, or where the drain was
raised in it, with 2,048 entries or more, copies as many as the host has room for and advances TAIL; otherwise it
changes nothing. (R75, R86, R88, R41, R49, R50.) -/
def Obligations.MemoryEvents : Prop :=
  (∀ (s : State) (core part : Nat) (va : Addr) (len : Nat) (ex : Bool), core < s.cores.length → 0 < len →
    let meets := fun (v n : Nat) => 4096 * v < va.toNat + len ∧ va.toNat < 4096 * (v + n)
    ∃ s', exec (.shootdown core part va len ex) s = .next s' ∧ s'.mem = s.mem ∧ s'.parts = s.parts ∧
      (s'.core core).shoots = (s.core core).shoots ++ [⟨part, va.toNat, len, ex, s.svc.shootNum⟩] ∧
      s'.svc.shootNum = s.svc.shootNum + 1 ∧ Event.shootdownAck core ∈ s'.work ∧
      (∀ e, e ∈ (s'.core core).tlb ↔ e ∈ (s.core core).tlb ∧ ¬ (e.part = part ∧ meets e.vpn e.pages)) ∧
      (∀ c ≠ core, s'.core c = s.core c) ∧
      ∀ k b, s.blocks[k]? = some b → ∃ b' : Block, s'.blocks[k]? = some b' ∧ b'.threads = b.threads ∧ b'.mem = b.mem ∧
        if b.place = .onCore core ∧ s.partOf k = part then
          ∀ e, e ∈ b'.extents ↔ e ∈ b.extents ∧ ¬ meets e.vbase e.pages
        else b' = b) ∧
  (∀ (s : State) (core : Nat), core < s.cores.length → ∃ s', exec (.shootdownAck core) s = .next s' ∧ (s'.core core).shoots = [] ∧
    ∀ (i : Nat) (m : Migration), s.svc.moves[i]? = some m → ∃ m', s'.svc.moves[i]? = some m' ∧ m'.leaves = m.leaves ∧
      ∀ x, x ∈ m'.acks.left ↔ x ∈ m.acks.left ∧ ¬ (x.1 = core ∧ ∃ d ∈ (s.core core).shoots, d.part = m.part ∧
        m.acks.since ≤ d.num ∧ (d.exec = true ∨ m.acks.exec = false) ∧ d.va ≤ 4096 * x.2.1 ∧
        4096 * (x.2.1 + x.2.2) ≤ d.va + d.len)) ∧
  (∀ (s : State) (part : Nat) (va : Addr) (toNear : Bool) (l : List (Nat × Nat × Nat)), (∀ n ∈ s.svc.nodes, n.part ≠ part) →
    s.moveOf part (va.toNat / 4096) = none →
    s.moveSet part va.toNat toNear ≠ [] → placeMoves (s.freeFrames part toNear) (s.moveSet part va.toNat toNear) = some l →
    ∃ s', exec (.migration part va toNear) s = .next s' ∧ s'.blocks = s.blocks ∧
      s'.svc.moves = s.svc.moves ++ [⟨part, l, toNear, ⟨s.svc.shootNum, false,
        (s.part part).cores.flatMap fun c => l.map fun x => (c, x.1, x.2.1)⟩⟩] ∧
      ∀ c ∈ (s.part part).cores, ∀ x ∈ l, Event.shootdown c part (Addr.ofNat (4096 * x.1)) (4096 * x.2.1) false ∈ s'.work) ∧
  (∀ (s : State) (part : Nat) (va : Addr) (toNear : Bool) (m : Migration) (vp f : Nat) (l : LeafAt), s.memOk = true →
    (∀ n ∈ s.svc.nodes, n.part ≠ part) →
    s.moveOf part (va.toNat / 4096) = some m → m.acks.left = [] → s.moveHeld m = false → m.leaves = [(vp, 1, f)] → f < 2 ^ 34 →
    s.leafOf m.part (4096 * vp) = some l → s.podPage f ≠ s.podPage (Pte.frame l.pte) →
    (s.podPa l.ent + 8 ≤ 4096 * s.podPage f ∨ 4096 * (s.podPage f + 1) ≤ s.podPa l.ent) →
    ∃ s', exec (.migration part va toNear) s = .next s' ∧ s'.svc.moves = s.svc.moves.erase m ∧
      (∀ i < 4096, Mem.get s'.mem (4096 * s.podPage f + i) = Mem.get s.mem (4096 * s.podPage (Pte.frame l.pte) + i)) ∧
      Pte.frame (s'.readEntry l.ent) = f ∧ Pte.mig (s'.readEntry l.ent) = false ∧ Pte.tier (s'.readEntry l.ent) = !m.toNear) ∧
  ∀ (s : State) (part : Nat), part < s.parts.length →
    let p := s.part part
    let n := (p.dlHead - p.dlTail).toNat
    let k := min n p.logRoom
    ((s.hostDuty part 1 = false ∨ p.drainOn = true) → p.ringOk = true → 2048 ≤ n → ∃ s', exec (.dirtyLogDrain part) s = .next s' ∧
      s'.mem = s.mem ∧ s'.part part = { p with
        dlTail := p.dlTail + BitVec.ofNat 13 k, logRoom := p.logRoom - k, drainOn := false,
        logDrained := p.logDrained ++ (List.range k).map fun i => s.readEntry (p.dlBase.toNat * 32768 + 8 * ((p.dlTail.toNat + i) % 4096)) } ∧
      ∀ q ≠ part, s'.part q = s.part q) ∧
    ((s.hostDuty part 1 = true ∧ p.drainOn = false ∨ n < 2048 ∨ p.ringOk = false) → exec (.dirtyLogDrain part) s = .next s)

/-- POISON_CLEAR of a free page writes it with zeros, clears its bit and leaves every other byte and bit; of any other
page it changes nothing. PATROL_SCRUB poisons the page of a row with an uncorrectable error, and only corrects single-
bit errors otherwise; RETENTION_ENTRY takes a slice whose every owner is an exited partition with no block on a core
(the paused state of the model, log 70), RETENTION_EXIT gives it back and poisons the pages of the rows with a triple
error; REMOTE_WINDOW_ACCESS that is malformed or of a frame that is not exported is refused with 0x07, of a poisoned
page 0x01, and otherwise reads the bytes, writes them and no other byte, or performs its atomic and answers the old
value. The form of the answer is the choice of the model (log 17), as is that a malformed access is refused with 0x07
too (log 95). (R43, R67, R70, R71, R370.) -/
def Obligations.PageEvents : Prop :=
  (∀ (s : State) (part page : Nat), s.memOk = true →
    let free := page / 2 ^ 34 = s.pkg.toNat ∧ s.isFree part (page % 2 ^ 34) = true
    (free → ∃ s', exec (.poisonClear part page) s = .next s' ∧
      (∀ a, Mem.get s'.mem a = if a / 4096 = page then 0 else Mem.get s.mem a) ∧
      (∀ p, p ∈ s'.poison ↔ p ∈ s.poison ∧ p ≠ page) ∧ s'.blocks = s.blocks ∧ s'.cores = s.cores ∧ s'.parts = s.parts) ∧
    (¬ free → exec (.poisonClear part page) s = .next s)) ∧
  (∀ (s : State) (slice row : Nat), slice < 128 → row < 2 ^ 21 → s.svc.retention.contains slice = false →
    let pa := s.podPa (slice * 0x02000000 + row * 16)
    (s.homeBad (.phys pa) 16 = true → ∃ s', exec (.patrolScrub slice row) s = .next s' ∧ s'.mem = s.mem ∧
      ∀ p, p ∈ s'.poison ↔ p = pa / 4096 ∨ p ∈ s.poison) ∧
    (s.homeBad (.phys pa) 16 = false → exec (.patrolScrub slice row) s = .next (s.correct (.phys pa) 16))) ∧
  (∀ (s : State) (slice : Nat),
    (slice < 128 → (∀ (i : Nat) (p : Part), s.parts[i]? = some p → slice ∈ p.slices → p.exited = true ∧ s.residentOf i = []) →
      ∃ s', exec (.retentionEntry slice) s = .next s' ∧ s'.mem = s.mem ∧
        ∀ k, k ∈ s'.svc.retention ↔ k = slice ∨ k ∈ s.svc.retention) ∧
    ((∃ (i : Nat) (p : Part), s.parts[i]? = some p ∧ slice ∈ p.slices ∧ p.exited = false) →
      exec (.retentionEntry slice) s = .next s) ∧
    ∀ rows, slice ∈ s.svc.retention → s.svc.retention.Nodup → ∃ s', exec (.retentionExit slice rows) s = .next s' ∧
      s'.mem = s.mem ∧ (∀ k, k ∈ s'.svc.retention ↔ k ∈ s.svc.retention ∧ k ≠ slice) ∧
      ∀ p, p ∈ s'.poison ↔ p ∈ s.poison ∨ ∃ r ∈ rows, r < 2 ^ 21 ∧ p = s.podPa (slice * 0x02000000 + r * 16) / 4096) ∧
  ∀ (s : State) (package part pa size : Nat) (op : RemoteOp), s.memOk = true →
    let home := s.podPa pa
    let fits := 0 < size ∧ RemoteOp.sizeBad size op = false ∧ pa % size = 0 ∧ pa % 4096 + size ≤ 4096
    let run := exec (.remoteWindowAccess package part pa size op) s
    ((¬ fits ∨ s.exported package part (pa / 4096) = false) → run = .next (s.report none [0x07])) ∧
    (fits → s.exported package part (pa / 4096) = true →
      (s.podPage (pa / 4096) ∈ s.poison → run = .next (s.report none [0x01])) ∧
      (s.podPage (pa / 4096) ∉ s.poison →
        (op = .load → s.homeBad (.phys home) size = false →
          run = .next ((s.correct (.phys home) size).report none (0 :: Mem.getN s.mem home size))) ∧
        (∀ b, op = .store b → b.length = size → ∃ s', run = .next s' ∧
          s'.svc.results = s.svc.results ++ [(none, [0])] ∧ s'.blocks = s.blocks ∧ s'.cores = s.cores ∧ s'.parts = s.parts ∧
          ∀ a, Mem.get s'.mem a = if home ≤ a ∧ a < home + size then b.getD (a - home) 0 else Mem.get s.mem a) ∧
        ∀ o ty x c, op = .atom o ty x c → s.homeBad (.phys home) size = false →
          let r := s.performRmw ⟨o, ty, .phys home, x, c, 0, (0, 0, 0), 0⟩
          run = .next (r.1.report none (0 :: leBytes size r.2.toNat))))

/-- ENGINE_COMMAND_START marks the head of a queue as started, and ends it at once with the status that its own checks
give; a matrix command begins to read what it names (log 85); ENGINE_CHUNK ends the head with the status of a failed
chunk, or advances it, and completes it with status 0 at its length; TOKEN_DEPOSIT puts {TAG, STATUS} of a finished
head, or of a finished grid, into the FIFO of its spindle and removes it, but a DRAW that has failed at the head of its
queue only after the draws ahead of it; it waits while no slot is free, and for the next cycle of the core where issues
of this one are still to come; STREAM_ELEMENT appends the element read to the operand queue, and ends its stream with
the last; COLL_COMBINE waits for every participant, with a disagreement ends each with FormatInvalid, has a single local
one first read its source, what it reads then being, granule by granule, the data of that moment or of the combination
(log 85), and then has the combined data written granule by granule; COLL_PEER_TIMEOUT ends a COLL and what matches it
with PeerUnreachable after 2^24 cycles, with FormatInvalid where one of these is malformed or two of them disagree;
LAUNCH_QUEUE_ADVANCE enters the grid, or the partition exits with reason 0x02; QUEUE_REFILL moves the oldest spilled
entry; QUEUE_QUOTA_RESTORE makes a block saved for QueueQuota ready once the spill ring has room. (R154, R155, R156,
R307, R313, R314, R316.) -/
def Obligations.EngineEvents : Prop :=
  ∀ (s : State) (core q : Nat) (c : Cmd) (r : List Cmd), core < s.cores.length → (s.queue core q).q = c :: r →
    (∀ e ∈ (s.core core).queues.flatMap EQueue.all, ∀ n, e.op ≠ .join n) →
    let head := fun (s : State) => (s.queue core q).q.head?
    (c.started = false →
      (q = 4 → (∃ oct k, c.op = .stream oct k) ∧ s.contextsUsed core < 64) → ∃ s', exec (.engineCommandStart core q) s = .next s' ∧
      s'.mem = s.mem ∧ (q ≠ 4 → s'.blocks = s.blocks) ∧ (s'.queue core q).q = { c with
        started := true, fin := c.op.check, since := if q = 7 then (s.core core).cycles else c.since,
        work := if q = 7 then { c.work with early := s.readEarly c.blk c.op } else c.work } :: r) ∧
    (∀ oct sel, c.op = .copy oct → c.started = true → c.fin = none →
      let x := s.chunkStep (blockXl core c.blk) (some c.blk) oct ⟨c.done, c.left, c.work⟩ sel
      (∀ s1, x.1 = .wait s1 → exec (.engineChunk core q sel) s = .next s1) ∧
      (∀ s1 st, x.1 = .fail s1 st → head s1 = some c → ∃ s', exec (.engineChunk core q sel) s = .next s' ∧ s'.mem = s1.mem ∧
        s'.blocks = s1.blocks ∧ (core < s1.cores.length → head s' = some { c with fin := some st, left := [], work := .none })) ∧
      ∀ s1, x.1 = .ok s1 → head s1 = some c → core < s1.cores.length → ∃ s', exec (.engineChunk core q sel) s = .next s' ∧
        s'.mem = s1.mem ∧ s'.blocks = s1.blocks ∧ head s' = some { c with
          done := x.2.done, left := x.2.left, work := x.2.work,
          fin := if (oct.getD 4 0).toNat ≤ x.2.done then some 0 else none }) ∧
    ((s.core core).turn ≠ [] → exec (.tokenDeposit core q) s = .next (s.want (.tokenDeposit core q))) ∧
    (∀ oct st b sp, q ≠ 6 → (q = 8 → s.outstanding core q = false) → (s.core core).turn = [] →
      (∀ k, s.coreOf c.blk = some k → (s.core k).turn = []) → c.op.octet = some oct → c.fin = some st →
      s.blocks[c.blk]? = some b → b.place ≠ .ended → b.copy = .single →
      s.spindle? c.blk false ((oct.getD 6 0).extractLsb' 0 5).toNat = some sp →
      (0 < sp.free → ∃ s', exec (.tokenDeposit core q) s = .next s' ∧ s'.mem = s.mem ∧ (s'.queue core q).q = r ∧
          s'.spindle? c.blk false ((oct.getD 6 0).extractLsb' 0 5).toNat = some { sp with
            free := sp.free - 1,
            fifo := sp.fifo ++ [BitVec.ofNat 32 (((oct.getD 6 0).extractLsb' 16 16).toNat * 65536 + st)] }) ∧
      (sp.free = 0 → exec (.tokenDeposit core q) s = .next s)) ∧
    (∀ oct k w b s1 st, q = 4 → c.op = .stream oct k → c.started = true → c.fin = none → w = ((oct.getD 5 0).extractLsb' 0 3).toNat →
      s.strand? c.blk k = some st → st.joint = none → (st.opQueue w).length < 16 → w < st.opq.length →
      (streamAddr oct c.done).toNat % streamSize oct = 0 →
      s.readPiece (blockXl core c.blk) (streamAddr oct c.done).toNat (streamSize oct) = .ok (s1, b) →
      s1.blocks = s.blocks → s1.queue core 4 = s.queue core 4 → core < s1.cores.length →
      (s.blocks[c.blk]?).bind Block.partner = none →
      let n := ((oct.getD 2 0).extractLsb' 0 16).toNat * ((oct.getD 2 0).extractLsb' 16 16).toNat
      ∃ s', exec (.streamElement core c.blk k w) s = .next s' ∧ s'.mem = s1.mem ∧
        head s' = some { c with done := c.done + 1, fin := if n ≤ c.done + 1 then some 0 else none } ∧
        (c.done + 1 < n → (s'.strand? c.blk k).map (·.opq) = some (st.opq.modify w fun l => l ++ [wordsOf b])) ∧
        ∃ l, (s'.strand? c.blk k).map (·.opQueue w) = some (st.opQueue w ++ wordsOf b :: l)) ∧
    (∀ w, s.collBusy core = some w → ∀ remote,
      let x := s.writeOne w.outs
      exec (.collCombine core remote) s = .next (x.1.modHead core 5 fun c =>
        if x.2 = [] then { c with fin := some w.status, left := [], work := .none } else { c with work := { w with outs := x.2 } })) ∧
    (∀ x remote, s.collHead core = some x →
      let locals := s.parties.filter x.joins
      (locals.length + remote.length ≠ ((octW x.oct 7).extractLsb' 16 16).toNat → exec (.collCombine core remote) s = .next s) ∧
      (locals.length + remote.length = ((octW x.oct 7).extractLsb' 16 16).toNat → collAgree locals remote x.oct = false →
        exec (.collCombine core remote) s = .next (s.collEnd locals 0x0007)) ∧
      (locals.length + remote.length = ((octW x.oct 7).extractLsb' 16 16).toNat → collAgree locals remote x.oct = true →
        modeBad x.oct = false → locals = [x] →
        let f := ((octW x.oct 5).extractLsb' 4 4).toNat
        let count := (octW x.oct 4).toNat
        let bytes := collSize f * count
        ∀ s1 data hs, s.collData bytes [x] = .ok (s1, [data], [hs]) →
          let s2 := s1.mixedMuch 1 bytes
          let all := (((octW x.oct 7).extractLsb' 0 16).toNat, s1.mixed x.early (octSrc x.oct) data) :: remote.map fun y => (y.rank, y.data)
          let out := collResult ((octW x.oct 5).extractLsb' 0 4 == 1) f count
            ((List.range ((octW x.oct 7).extractLsb' 16 16).toNat).map fun k => ((all.find? fun y => y.1 == k).map (·.2)).getD [])
          exec (.collCombine core remote) s = .next (if bytes ≠ 0 ∧ x.early = [] then s1.collBegun [(x, data)]
            else s2.collReady x (planned out.1 hs) out.2)) ∧
      (q = 5 → (∀ y ∈ s.parties, y.blk = none → (s.part y.part).cores.head? ≠ some core) → exec (.collPeerTimeout core) s =
        .next (if c.since + 2 ^ 24 ≤ (s.core core).cycles then
          s.collEnd locals (if collAgree locals [] x.oct = true ∧ ∀ y ∈ locals, collWrong y.oct = false then 0x0005 else 0x0007)
          else s))) ∧
    (∀ k oct, q = 6 → c.op = .launch k oct → (s.part (s.partOf c.blk)).exited = false →
      let g := { gridOf (s.partOf c.blk) k oct ((octW oct 3).extractLsb' 8 3).toNat
        (.token c.blk ((octW oct 6).extractLsb' 0 5).toNat ((octW oct 6).extractLsb' 16 16).toNat) [] with core := core }
      (∀ s1, s.enterGrid g = some s1 → ∃ s', exec (.launchQueueAdvance core) s = .next s' ∧ s'.mem = s.mem ∧ s'.blocks = s.blocks ∧
        s'.grids = s.grids ++ [{ g with num := (s.part g.part).gridNum + 1 }]) ∧
      (s.enterGrid g = none → ∃ s', exec (.launchQueueAdvance core) s = .next s' ∧ s'.grids = s.grids ∧
        (s.partOf c.blk < s.parts.length → (s'.part (s.partOf c.blk)).exited = true ∧ (s'.part (s.partOf c.blk)).reason = 2))) ∧
    (∀ e l, (s.queue core q).spill = e :: l → exec (.queueRefill false core q) s =
      .next (s.modQueue core q fun x => if x.standing < 32 then ⟨x.q ++ [e], l⟩ else x)) ∧
    (∀ k d e l, k < 8 → (s.part core).dispatch[k]? = some d → d.spill = e :: l → core < s.parts.length →
      ∃ s', exec (.queueRefill true core k) s = .next s' ∧ s'.mem = s.mem ∧ s'.blocks = s.blocks ∧
        (s'.part core).dispatch[k]? = some (if d.q.length < 1 + Config.dispatchCap then ⟨d.q ++ [e], l⟩ else d)) ∧
    (∀ (i : Nat) (g : Grid) (b : Block) (blk sp tag : Nat) (x : Spindle), s.grids[i]? = some g → g.done = .token blk sp tag → g.isDone = true → g.core = core →
      (∀ j < i, ∀ h : Grid, s.grids[j]? = some h → ∀ u v w, h.done ≠ .token u v w) → (s.core core).turn = [] → s.blocks[blk]? = some b →
      b.place ≠ .ended → (∀ k, s.coreOf blk = some k → (s.core k).turn = []) → b.copy = .single → s.spindle? blk false sp = some x → 0 < x.free → ∃ s',
        exec (.tokenDeposit core 6) s = .next s' ∧ s'.mem = s.mem ∧ (s'.grids[i]?).map (·.done) = some .none ∧
        s'.spindle? blk false sp = some { x with
          free := x.free - 1, fifo := x.fifo ++ [BitVec.ofNat 32 (tag * 65536 + g.status)] }) ∧
    ∀ blk b why, s.blocks[blk]? = some b → b.place = .saved false why → why.cause = 0x40 → (s.grids[b.grid]?).isSome = true →
      (s.spillFits (s.partOf blk) 1 = true → ∃ s', exec (.queueQuotaRestore blk) s = .next s' ∧ s'.mem = s.mem ∧
        s'.blocks[blk]? = some { b with place := .saved true why }) ∧
      (s.spillFits (s.partOf blk) 1 = false → exec (.queueQuotaRestore blk) s = .next s)

/-- For the started head of a core's matrix queue: MMA_ARRAY with both tiles read gives each of the 16,384 accumulator
words the chunked sums of R175, and otherwise leaves the accumulator; MDRAIN_ARRAY performs the drain and MHIST_EXEC
reads the counters of a slot that no other block holds, and each then writes its output granule by granule; MZERO_EXEC
makes the accumulator zero, MLOADC_EXEC loads it as stored, MHCLR_EXEC zeroes the counters; MWAIT_DEPOSIT deposits the
first non-OK status kept for the block and clears it, between two cycles of the core. A failure is the status kept for
the block's next MWAIT if none is. MC_JOIN_TIMEOUT ends the wait for partners after 128 cycles, and
MSIGN_RELEASE_COMPLETE the wait of a thread whose rounds have closed. (R175, R317, R319, R323, R325, R328, R329, R330,
R331.) -/
def Obligations.MatrixEvents : Prop :=
  ∀ (s : State) (core : Nat) (c : Cmd) (r : List Cmd) (b : Block), core < s.cores.length → s.queue core 7 = ⟨c :: r, []⟩ →
    (∀ e ∈ (s.core core).queues.flatMap EQueue.all, ∀ n, e.op ≠ .join n) → s.blocks[c.blk]? = some b → c.started = true →
    let kept := fun (st : Nat) => if b.mwaitStatus = 0 then st else b.mwaitStatus
    let ends := fun (o : Host.Outcome State Fault Refusal) (st : Nat) (accs : List Acc) => ∃ s', o = .next s' ∧
      (s'.queue core 7).q = r ∧ (s'.core core).accs = accs ∧ (s'.blocks[c.blk]?).map (·.mwaitStatus) = some (kept st)
    let accs := (s.core core).accs
    let set := fun (i : Nat) (v : List Word) => accs.modify i fun a => { a with vals := v }
    (∀ f a x i, c.op = .mma f a x i → (mmaMc f = true → s.mcWaits core c = false ∧ s.mcPartners core c = []) →
      (∀ fa fb sc, s.mmaA core c.blk f a = .ok fa → s.mmaB core c.blk f x = .ok (fb, sc) → ends (exec (.mmaArray core) s) 0
        (set i ((List.range 16384).map fun n => MmaIn.elem ⟨fa, fb, sc⟩ f ((s.accVals core i).getD n 0) (n / 128) (n % 128)))) ∧
      (∀ e, s.mmaA core c.blk f a = .error e → ends (exec (.mmaArray core) s) e accs) ∧
      ∀ fa e, s.mmaA core c.blk f a = .ok fa → s.mmaB core c.blk f x = .error e → ends (exec (.mmaArray core) s) e accs) ∧
    (∀ i, (i = Instr.mdrainArray core ∧ ∃ o d v w n, c.op = .mdrain o d v w n) ∨ (i = Instr.mhistExec core ∧ ∃ k d, c.op = .mhist k d) →
      c.work.busy = true →
      let y := s.writeOne c.work.outs
      (y.2 = [] → ends (exec i s) c.work.status accs) ∧
      (y.2 ≠ [] → exec i s = .next (y.1.modHead core 7 fun z => { z with work := { c.work with outs := y.2 } }))) ∧
    (∀ o d v w i, c.op = .mdrain o d v w i → c.work.busy = false →
      (∀ s1 ws, s.drain core c.blk o d v w i = .ok (s1, ws) → exec (.mdrainArray core) s =
        .next (s1.modHead core 7 fun z => { z with work := ⟨[], [], true, ws, 0, [], []⟩ })) ∧
      ∀ e, s.drain core c.blk o d v w i = .error e → ends (exec (.mdrainArray core) s) e accs) ∧
    (∀ i, c.op = .mzero i → ends (exec (.mzeroExec core) s) 0 (set i [])) ∧
    (∀ a i, c.op = .mloadc a i → (∀ d, s.readTile core c.blk a 65536 = .ok d → ends (exec (.mloadcExec core) s) 0 (set i (wordsOf d))) ∧
      ∀ e, s.readTile core c.blk a 65536 = .error e → ends (exec (.mloadcExec core) s) e accs) ∧
    (∀ k d h, c.op = .mhist k d → (s.core core).hist[k]? = some h → c.work.busy = false →
      ((∃ o, h.holder = some o ∧ o ≠ c.blk) → ends (exec (.mhistExec core) s) 7 accs) ∧
      ((h.holder = none ∨ h.holder = some c.blk) → ∀ ws, s.tileWrites c.blk d (h.vals.flatMap wordBytes) = some ws →
        ∃ s1 : State, s1.mem = s.mem ∧ s1.blocks = s.blocks ∧ (s1.core core).hist[k]? = some { h with holder := some c.blk } ∧
          exec (.mhistExec core) s = .next (s1.modHead core 7 fun z => { z with work := ⟨[], [], true, ws, 0, [], []⟩ }))) ∧
    (∀ k h, c.op = .mhclr k → (s.core core).hist[k]? = some h →
      ((∃ o, h.holder = some o ∧ o ≠ c.blk) → ends (exec (.mhclrExec core) s) 7 accs) ∧
      ((h.holder = none ∨ h.holder = some c.blk) → ends (exec (.mhclrExec core) s) 0 accs ∧
        ∃ s', exec (.mhclrExec core) s = .next s' ∧ (s'.core core).hist[k]? = some ⟨[], some c.blk⟩)) ∧
    ((s.core core).turn ≠ [] → exec (.mwaitDeposit core) s = .next (s.want (.mwaitDeposit core))) ∧
    (∀ w sp, c.op = .mwait w → (s.core core).turn = [] → b.place ≠ .ended → s.spindle? c.blk false (w.extractLsb' 0 5).toNat = some sp →
      (sp.free = 0 → exec (.mwaitDeposit core) s = .next s) ∧
      (0 < sp.free → ∃ s', exec (.mwaitDeposit core) s = .next s' ∧ (s'.queue core 7).q = r ∧
        (s'.blocks[c.blk]?).map (·.mwaitStatus) = some 0 ∧
        s'.spindle? c.blk false (w.extractLsb' 0 5).toNat = some { sp with
          free := sp.free - 1, fifo := sp.fifo ++ [BitVec.ofNat 32 ((w.extractLsb' 16 16).toNat * 65536 + b.mwaitStatus)] })) ∧
    (s.mcWaits core c = true → exec (.mmaArray core) s = .next s ∧ exec (.mcJoinTimeout core) s = .next (if c.since + 128 ≤ (s.core core).cycles then
      s.modQueue core 7 fun x => ⟨{ c with left := [0] } :: r, x.spill⟩ else s)) ∧
    ∀ (t : TRef) (th : Thread) (i n : Nat) (cv : CvReg), s.thread? t = some th → s.coreOf t.blk = some core → th.park = some (.unbind i) →
      th.cv = some (i, n) → (s.core core).cvs[i]? = some cv →
      ((∃ x ∈ cv.rounds, t ∈ x.signed) → exec (.msignReleaseComplete t.blk t.tid) s = .next s) ∧
      ((∀ x ∈ cv.rounds, t ∉ x.signed) → ∃ s', exec (.msignReleaseComplete t.blk t.tid) s = .next s' ∧ s'.mem = s.mem ∧
        s'.thread? t = some { th with cv := none, park := none, hang := 0, pc := th.pc + 4 })

/-- DRAW_QUEUE_ADVANCE starts the draw at the head and removes it, or ends it with the status of its checks; LCLR_EXEC
waits for the draws ahead of the clear, then translates one chunk after another and writes each granule by granule, and
ends with OK after the last, or with the status of a failed access or bad descriptor; RASTERISE_TILE of a tile that is
left launches the fragment strands of its bin and marks it done, stops where the dispatch queue has no room, and of any
other tile does nothing, once bins beyond their space are relieved and the spill frames of flushed tiles written;
LAYER_INSERT applies a parked LINS when its turn has come, with its result in d, and its thread goes on; LAYER_POOL_GROW
performs the growth duty for one page, and the answers POOLGROW and POOLMERGE for as many pages as the answer counts and
for none, and they leave no thread parked on the pool of that target, unless the service must wait for a page of it:
then nothing has been done; TARGET_CREATE of a valid descriptor writes it and its pool, and anything else, or any before
the functions are enabled, changes nothing. The model's choices, not the rules': one page at a time, and that the
service waits for a migrating page (log 31, DESIGN CHOICE); that a bad descriptor (log 48, DEDUCED), or one before the
functions are enabled (log 56, DEDUCED), changes nothing; the order and the waiting of the rasteriser (log 33). (R199,
R202, R204, R206, R341, R344, R345, R395.) -/
def Obligations.DrawEvents : Prop :=
  (∀ (s : State) (core : Nat) (c : Cmd) (r : List Cmd), core < s.cores.length → s.queue core 8 = ⟨c :: r, []⟩ →
    (∀ e ∈ (s.core core).queues.flatMap EQueue.all, ∀ n, e.op ≠ .join n) →
    (∀ oct rec, c.op = .draw oct rec → c.fin = none → (s.part (s.partOf c.blk)).exited = false →
      (∀ v, s.drawCheck (s.partOf c.blk) oct rec = (v, none) → ∃ s', exec (.drawQueueAdvance core) s = .next s' ∧ s'.mem = s.mem ∧
        s'.blocks = s.blocks ∧ (s'.queue core 8).q = { c with fin := some v } :: r) ∧
      ∀ v f s1, s.drawCheck (s.partOf c.blk) oct rec = (0, some (v, f)) →
        s.startDraw (s.partOf c.blk) core (((s.grid? c.blk).map (·.prio)).getD 0) v f oct rec
          (.token c.blk ((octW oct 6).extractLsb' 0 5).toNat ((octW oct 6).extractLsb' 16 16).toNat) = some s1 →
        ∃ s' d, exec (.drawQueueAdvance core) s = .next s' ∧ s'.mem = s.mem ∧ s'.blocks = s.blocks ∧ (s'.queue core 8).q = r ∧
          s'.draws = s.draws ++ [d] ∧ d.oct = oct ∧ d.record = rec ∧ d.verts = [] ∧ d.prims = []) ∧
    ∀ tgt w, c.op = .lclr tgt w → c.fin = none →
      (s.outstanding core 8 = true → exec (.lclrExec core) s = .next s) ∧
      (s.outstanding core 8 = false → c.work.busy = true → ∀ y, s.writeOne c.work.outs = y → y.1.queue core 8 = s.queue core 8 →
        core < y.1.cores.length → ∃ s', exec (.lclrExec core) s = .next s' ∧ s'.mem = y.1.mem ∧ s'.blocks = y.1.blocks ∧
          (s'.queue core 8).q = (if y.2 ≠ [] then { c with work := { c.work with outs := y.2 } }
            else if c.left = [] then { c with started := true, done := c.done + 1, work := .none }
            else { c with fin := some 0, left := [], work := .none }) :: r) ∧
      (s.outstanding core 8 = false → c.work.busy = false → ∀ plan, s.clearPlan (blockXl core c.blk) c.blk tgt.toNat c.done = plan →
        (∀ s1 v, plan = .error (.fail s1 v) → s1.queue core 8 = s.queue core 8 → core < s1.cores.length →
          ∃ s', exec (.lclrExec core) s = .next s' ∧ s'.mem = s1.mem ∧ s'.blocks = s1.blocks ∧
            (s'.queue core 8).q = { c with fin := some v, left := [], work := .none } :: r) ∧
        (∀ s1, plan = .error (.wait s1) → exec (.lclrExec core) s = .next s1) ∧
        (∀ s1 l last, plan = .ok (s1, l, last) → s1.queue core 8 = s.queue core 8 → core < s1.cores.length →
          ∃ s', exec (.lclrExec core) s = .next s' ∧ s'.mem = s1.mem ∧ s'.blocks = s1.blocks ∧ (s'.queue core 8).q =
            { c with started := true, left := if last then [0] else [], work := ⟨[], [], true, l, 0, [], []⟩ } :: r) ∧
        (tgt.toNat % 32 ≠ 0 → plan = .error (.fail s 7)) ∧
        ∀ s1 b, tgt.toNat % 32 = 0 → s.engineRead (blockXl core c.blk) tgt.toNat 32 = .ok (s1, b) →
          targetOf tgt.toNat b = none → plan = .error (.fail s1 7))) ∧
  (∀ (s s0 : State) (di tile : Nat) (d : Draw), (s.relieve di).writeSpills di = s0 → s0.draws[di]? = some d →
    (∀ e, s.draws[di]? = some e → e.binsFull = false → e.spills = [] → s0 = s) ∧
    ((d.finished = true ∨ s0.drawWaits di = true ∨ tile ∉ d.tilesLeft ∨ d.spilling tile = true ∨ (s0.part d.part).exited = true) →
      exec (.rasteriseTile di tile) s = .next s0) ∧
    (d.finished = false → s0.drawWaits di = false → tile ∈ d.tilesLeft → d.spilling tile = false → (s0.part d.part).exited = false →
      ∀ s1 all, State.launchFrags di tile (d.bin tile) (s0.reloadTile di tile) = (s1, all) →
        (all = false → exec (.rasteriseTile di tile) s = .next s1) ∧
        (all = true → ∃ s' d', exec (.rasteriseTile di tile) s = .next s' ∧ s1.grids <+: s'.grids ∧ s'.blocks = s1.blocks ∧
          s'.draws[di]? = some d' ∧ d'.tilesDone = tile :: d.tilesDone))) ∧
  (∀ (s : State) (t : TRef) (th : Thread) (core n : Nat) (d a : RegName) (st : Stall), s.thread? t = some th →
    s.coreOf t.blk = some core → th.park = some (.layer (.lins d a st) n) →
    (s.insertWaits t th a (some n) = true → exec (.layerInsert t.blk t.tid) s = .next s) ∧
    (s.insertWaits t th a (some n) = false → ∀ s1 v x,
      State.insertOne { s with issue := ⟨core, 0, [t], th.pc, th.word⟩ } t th a = .ok (s1, v) → s1.isDoubled t.blk = false →
      s1.thread? t = some x → ∃ s', exec (.layerInsert t.blk t.tid) s = .next s' ∧ s'.mem = s1.mem ∧
        s'.thread? t = some { x.results d none 0 [Reg.plain (BitVec.ofNat 32 v)] with park := none, hang := 0, pc := x.pc + 4 })) ∧
  (∀ (s : State) (p : Nat) (va : Addr),
    (∀ (n : Nat) (s' : State) (t : TRef) (th : Thread) (d a : RegName) (st : Stall), s.growPool p n va = some s' → s'.partOf t.blk = p →
      s'.thread? t = some th → th.park = some (.pool (.lins d a st)) → th.pair a ≠ va) ∧
    exec (.layerPoolGrow p va) s = .next ((s.growPool p 1 va).getD (s.want (.layerPoolGrow p va))) ∧
    ∀ seq n, (s.waitingEvent p seq = some (.pool va) →
        exec (.hostackPoolgrow p seq n) s = .next (((s.answered p seq).growPool p n va).getD s) ∧
        exec (.hostackPoolmerge p seq) s = .next (((s.answered p seq).growPool p 0 va).getD s)) ∧
      (s.waitingEvent p seq = none → exec (.hostackPoolgrow p seq n) s = .next s ∧ exec (.hostackPoolmerge p seq) s = .next s)) ∧
  ∀ (s : State) (p : Nat) (va : Addr) (desc : List Byte),
    ((va.toNat % 32 ≠ 0 ∨ desc.length ≠ 32 ∨ targetOf va.toNat desc = none) → exec (.targetCreate p va desc) s = .next s) ∧
    (s.svc.enabled = false → exec (.targetCreate p va desc) s = .next s) ∧
    (s.svc.enabled = true → va.toNat % 32 = 0 → desc.length = 32 → ∀ d s1, targetOf va.toNat desc = some d → s.createWrites p d desc = .ok s1 →
      ∃ s', exec (.targetCreate p va desc) s = .next s' ∧ s'.mem = s1.mem ∧ s'.blocks = s1.blocks ∧ s'.cores = s1.cores ∧
        (p < s1.parts.length → va ∈ (s'.part p).targets))

/-- GRAPH_UPLOAD of a valid image whose nodes all pass gives it the lowest free handle and reports it, and otherwise
reports the first failure and stores nothing, in host-assisted mode after an event for the hypervisor; KICK of an
unknown handle sets KSTAT FormatInvalid, of a graph with nine open replays GraphBusy, and otherwise starts a replay with
the next SEQ and every node waiting; REPLAY_NODE_READY starts a node whose predecessors are complete, or completes it
with the status of its checks, and does nothing for any other; REPLAY_NODE_COMPLETE completes a launch or draw node with
the status of its grid or draw once it has ended; COMPLETION_RECORD, once every node is complete, writes {SEQ, TAG,
STATUS} to DONE, and does nothing before, or while the partition is exited. The model's choices, not the rules': that
the handle of a KICK is checked before its count of replays (log 41, DEDUCED), the order of the checks of a launch node
that has become ready (log 90), and that an upload before the functions are enabled is ignored (log 56). (R148, R149,
R151, R152, R153, R394.) -/
def Obligations.GraphEvents : Prop :=
  (∀ (s s0 : State) (p : Nat) (l : List Byte), s.svc.enabled = true →
    s0 = (if s.hostDuty p 2 then s.notify p 2 [graphNodes l] none else s) →
    let st := fun (i : Nat) => s0.nodeStatus p l i
    (graphHeaderBad l = true → exec (.graphUpload p l) s = .next (s0.report (some p) (resultRecord 0x0007 0xFFFF 0))) ∧
    (graphHeaderBad l = false → ∀ i < graphNodes l, (∀ j < i, st j = 0) → st i ≠ 0 →
      exec (.graphUpload p l) s = .next (s0.report (some p) (resultRecord (st i) i 0))) ∧
    (graphHeaderBad l = false → (∀ i < graphNodes l, st i = 0) → ∀ h, 1 ≤ h → h ≤ 65535 →
      h ∉ (s0.part p).graphs.map (·.handle) → (∀ k, 1 ≤ k → k < h → k ∈ (s0.part p).graphs.map (·.handle)) →
      exec (.graphUpload p l) s = .next ((s0.modPart p fun q => { q with graphs := q.graphs ++ [⟨h, l⟩] }).report (some p)
        (resultRecord 0 0xFFFF h)))) ∧
  (∀ (s : State) (p : Nat) (v : Addr), s.svc.enabled = true → p < s.parts.length → (s.part p).kicks = [] →
    let h := (v.extractLsb' 48 16).toNat
    let ends := fun (st : Nat) => ∃ s', exec (.kick p v) s = .next s' ∧ s'.mem = s.mem ∧ s'.blocks = s.blocks ∧ s'.part p =
      { s.part p with kHandle := BitVec.ofNat 16 h, kStatus := BitVec.ofNat 16 st }
    ((∀ g ∈ (s.part p).graphs, g.handle ≠ h) → ends 0x0007) ∧
    ∀ g, (s.part p).graphs.find? (fun g => g.handle == h) = some g →
      (9 ≤ (s.part p).openReplays h → ends 0x0013) ∧
      ((s.part p).openReplays h < 9 → v.extractLsb' 3 45 = 0 → ∃ s', exec (.kick p v) s = .next s' ∧ s'.mem = s.mem ∧
        s'.blocks = s.blocks ∧ s'.part p = { s.part p with
          kHandle := BitVec.ofNat 16 h, kStatus := 0, kSeq := (s.part p).kSeq + 1, replays := (s.part p).replays ++
            [⟨((s.part p).kSeq + 1).toNat, g.handle, (v.extractLsb' 0 3).toNat, g.image,
              List.replicate (graphNodes g.image) .waiting, false⟩] })) ∧
  (∀ (s : State) (p r i : Nat) (x : Replay), (s.part p).replays[r]? = some x →
    let oct := launchOct x.image i
    ((s.part p).nodeReady r i = false → exec (.replayNodeReady p r i) s = .next s) ∧
    ((s.part p).nodeReady r i = true →
      (nodeKind x.image i = 4 → exec (.replayNodeReady p r i) s = .next (s.setNode p r i (.complete 0))) ∧
      (nodeKind x.image i = 1 → exec (.replayNodeReady p r i) s = .next (s.setNode p r i
        (match (CmdOp.copy (nodeOct x.image i)).check with | some st => .complete st | none => NodeState.start 0 0))) ∧
      (nodeKind x.image i = 0 → s.kernelAt p (nodeKernelAt x.image i) = none →
        exec (.replayNodeReady p r i) s = .next (s.setNode p r i (.complete 0x0007))) ∧
      (nodeKind x.image i = 0 → ∀ k s1 rs s2, s.kernelAt p (nodeKernelAt x.image i) = some k → launchBad oct = false →
        zeroAt (nodeRecord x.image i) 58 6 = true → k.tooLarge = false →
        s.notCoResident p k ((octW oct 3).extractLsb' 0 4).toNat (octW oct 2).toNat ((octW oct 3).getLsbD 5) = false →
        s.rangeList p (nodeRanges x.image i).1 (nodeRanges x.image i).2 = .ok (s1, rs) →
        (s1.attach p (coalescing x.image i s1.grids.length k fun j => ((x.nodes[j]?).map NodeState.isComplete).getD false)).enterGrid
          (gridOf p k oct x.prio (.node p r i) rs) = some s2 →
        exec (.replayNodeReady p r i) s = .next (s2.setNode p r i (NodeState.start 0 0)))) ∧
    (∀ n left work since, x.nodes[i]? = some (.running n left work since) →
      (nodeKind x.image i = 0 → ∀ g, s.grids.find? (fun g => g.done == .node p r i) = some g →
        exec (.replayNodeComplete p r i) s = .next (if g.count ≤ g.ended.length then s.setNode p r i (.complete g.status) else s)) ∧
      (nodeKind x.image i = 3 → ∀ d, s.draws.find? (fun d => d.done == .node p r i) = some d →
        exec (.replayNodeComplete p r i) s = .next (if d.finished then s.setNode p r i (.complete d.status) else s))) ∧
    (((s.part p).exited = true ∨ (s.part p).running r = false ∨ ∃ n ∈ x.nodes, n.isComplete = false) → exec (.completionRecord p r) s = .next s) ∧
    ((s.part p).exited = false → (s.part p).running r = true → (∀ n ∈ x.nodes, n.isComplete = true) → ∀ s1,
      s.writeGranule (replayXl p) none [] (graphDone x.image) (leBytes 8 (recordOfReplay x)) = .ok s1 →
      exec (.completionRecord p r) s = .next (s1.modPart p fun q =>
        { q with replays := q.replays.modify r fun y => { y with recorded := true } })))

/-- CONTROL_WINDOW_WRITE sets the fields of its register once the functions are enabled, and ignores other offsets;
RESUME ends an exit, except that with a slice in retention it waits and with the ring still full the partition exits
again; HOSTACK_CONTINUE makes the block that waits ready; HOST_REPAIR_REQUEST writes an entry or a page of the
partition's own memory, asks for a migration, changes a page between executable and writable, or adds reserve pages;
CODE_OBJECT_LOAD of an unknown hash is refused with 0x0015; CODE_OBJECT_UNLOAD withdraws a handle that others share the
object with; KEY_REGISTER adds a key; POWER_UP and FIRMWARE_IMAGE enable the functions exactly when the image verifies,
and then fill the LPCT and the harvest maps and clear the poison bitmap; OWNERSHIP_CLAIM, OWNERSHIP_HANDOVER,
HANDOVER_ACCEPT and LINK_LOSS pass the ownership as R376 lays down; PORT_FAILURE marks a port; THERMAL_STOP exits every
partition with reason 0x03, and power is removed only where no block stands on a core, and at once where none does. The
model's choices, not the rules': whatever is ignored before the functions are enabled is log 56 (DEDUCED: R375 says only
which functions are disabled); where a result stands, with its partition, is log 17 (DESIGN CHOICE); what the hypervisor
may have the service repair in a partition's own memory is R395's action in the form of the model's own event. (R33,
R82, R155, R163, R359, R360, R361, R373, R375, R376, R378, R395.) -/
def Obligations.ServiceEvents : Prop :=
  ∀ (s : State) (p : Nat), p < s.parts.length →
    (∀ (v : Addr),
      (s.svc.enabled = true →
        exec (.controlWindowWrite p 0x00 v) s = .next (s.modPart p fun q => { q with root := v.extractLsb' 12 34, tbEn := v.getLsbD 0 }) ∧
        exec (.controlWindowWrite p 0x08 v) s = .next (s.modPart p fun q => { q with dlBase := v.extractLsb' 15 31, dlEn := v.getLsbD 0 }) ∧
        exec (.controlWindowWrite p 0x10 v) s = .next (s.modPart p fun q => { q with dlTail := v.extractLsb' 32 13 }) ∧
        exec (.controlWindowWrite p 0x18 v) s = .next (s.modPart p fun q => { q with quota := v.extractLsb' 0 16 }) ∧
        exec (.controlWindowWrite p 0x20 v) s = .next (s.modPart p fun q => { q with duty := v.extractLsb' 0 6 }) ∧
        (v.getLsbD 31 = false → exec (.controlWindowWrite p 0x28 v) s =
          .next (s.modPart p fun q => { q with grace := v.extractLsb' 0 12 })) ∧
        (v.getLsbD 0 = true → exec (.controlWindowWrite p 0x30 v) s = exec (.resume p) s) ∧
        (v.extractLsb' 0 8 = 1 → exec (.controlWindowWrite p 0x38 v) s = exec (.hostackContinue p (v.extractLsb' 32 32).toNat) s) ∧
        ∀ o, 0x38 < o → exec (.controlWindowWrite p o v) s = .next s) ∧
      (s.svc.enabled = false → ∀ o, exec (.controlWindowWrite p o v) s = .next s)) ∧
    ((s.part p).exited = true →
      (s.slicesHeld p = true → exec (.resume p) s = .next (s.modPart p fun q => { q with resumeOn := true })) ∧
      (s.slicesHeld p = false → (s.part p).ringFull = false → ∃ s', exec (.resume p) s = .next s' ∧ s'.mem = s.mem ∧
        s'.blocks = s.blocks ∧ s'.part p = { s.part p with exited := false, resumeOn := false } ∧ Event.deal p ∈ s'.work) ∧
      (s.slicesHeld p = false → (s.part p).dlEn = true → (s.part p).ringFull = true → (s.part p).logRoom = 0 →
        ∃ s', exec (.resume p) s = .next s' ∧ (s'.part p).exited = true ∧ (s'.part p).reason = 1)) ∧
    ((s.part p).exited = false → exec (.resume p) s = .next s) ∧
    (∀ seq, (s.waitingEvent p seq = none → exec (.hostackContinue p seq) s = .next s) ∧
      ∀ blk b why, s.waitingEvent p seq = some (.repair blk) → s.blocks[blk]? = some b → b.place = .saved false why →
        (s.grids[b.grid]?).isSome = true → ∃ s', exec (.hostackContinue p seq) s = .next s' ∧ s'.mem = s.mem ∧
          s'.blocks[blk]? = some { b with place := .saved true why }) ∧
    (s.svc.enabled = true → ∀ (pa : Nat) (e : Addr) (l : List Addr) (bytes : List Byte),
      exec (.hostRepairRequest p (.content pa bytes)) s =
        .next (if pa % 4096 = 0 ∧ (s.part p).owns pa = true then s.fillFrames [pa / 4096] bytes else s) ∧
      exec (.hostRepairRequest p (.migrate e)) s = exec (.migration p e true) s ∧
      (∀ lv, exec (.hostRepairRequest p (.moveNode e lv)) s = .next (s.startNode p e.toNat lv)) ∧
      exec (.hostRepairRequest p (.setEntry pa e)) s =
        .next (if pa % 8 = 0 ∧ (s.part p).owns pa = true then (s.writeEntry pa e).settleWaiting p else s) ∧
      (∀ w, exec (.hostRepairRequest p (.setAccess e w)) s = .next (s.changeAccess p e.toNat w)) ∧
      exec (.hostRepairRequest p (.reserve l)) s = .next (s.modPart p fun q => { q with reserve := q.reserve ++ l })) ∧
    (s.svc.enabled = false → ∀ hash d h key req, exec (.codeObjectLoad p hash d) s = .next s ∧ exec (.codeObjectUnload p h) s = .next s ∧
      exec (.keyRegister p key req) s = .next s) ∧
    (s.svc.enabled = true → ∀ (hash : List Byte) (d : List (List Byte)), s.imageOf d hash = none →
      exec (.codeObjectLoad p hash d) s = .next (s.report (some p) (resultRecord 0x0015 0xFFFF 0))) ∧
    (s.svc.enabled = true → ∀ (hash l : List Byte) (d : List (List Byte)) (h : Nat) (s0 s1 : State),
      s.imageOf d hash = some l → Image.bad l = false → (s.part p).sigBad l = false →
      State.loadImports p d (s.svc.objects.length + d.length + 1) (Image.deps l).zipIdx s = .ok s0 →
      freeHandle (s.loadHandles p) = some h → State.loadObject p d s0 (hash, l) = .ok s1 →
      ∃ s', exec (.codeObjectLoad p hash d) s = .next s' ∧ s'.mem = s1.mem ∧ s'.blocks = s1.blocks ∧
        s'.svc.results = s1.svc.results ++ [(some p, resultRecord 0 0xFFFF h)] ∧ (∀ c ∈ s'.cores, c.icache = []) ∧
        ∀ o ∈ s'.svc.objects, o.hash = hash → (p, h) ∈ o.handles ∧ p ∉ o.draining) ∧
    (∀ h, (∀ o ∈ s.svc.objects, (p, h) ∉ o.handles) → (∀ o ∈ s.svc.objects, o.draining = [] ∧ o.handles ≠ []) →
      exec (.codeObjectUnload p h) s = .next s) ∧
    (s.svc.enabled = true → ∀ h o l, s.svc.objects = o :: l → (p, h) ∈ o.handles → (p, h) ∉ o.handles.erase (p, h) → o.handles.erase (p, h) ≠ [] →
      (∀ q ∈ o :: l, q.imports = []) → (∀ q ∈ l, q.draining = [] ∧ q.handles ≠ [] ∧ (p, h) ∉ q.handles) →
      ∃ s' o', exec (.codeObjectUnload p h) s = .next s' ∧ s'.mem = s.mem ∧ s'.svc.objects = o' :: l ∧
        o'.handles = o.handles.erase (p, h) ∧ o'.image = o.image) ∧
    (s.svc.enabled = true → ∀ key req, exec (.keyRegister p key req) s = .next (s.modPart p fun q => { q with keys := q.keys ++ [key], sigRequired := req })) ∧
    (∀ image, let boots := fun (s' : State) =>
        s'.mem = s.mem ∧ s'.blocks = s.blocks ∧ s'.parts = s.parts ∧
        s'.svc.booted = true ∧ s'.svc.verified = firmwareOk image ∧ s'.svc.enabled = firmwareOk image ∧
        (firmwareOk image = true → s'.poison = [] ∧ s'.hv = Config.fuses ∧ s'.lpct.length = 72 ∧
          ∀ c < 72, Config.fuses.getLsbD c = false → BitVec.ofNat 8 c ∈ s'.lpct) ∧
        (firmwareOk image = false → s'.poison = s.poison ∧ s'.hv = s.hv ∧ s'.lpct = s.lpct)
      (∃ s', exec (.powerUp image) s = .next s' ∧ s'.power = true ∧ boots s') ∧
      (s.svc.booted = true → s.svc.verified = false → ∃ s', exec (.firmwareImage image) s = .next s' ∧ s'.power = s.power ∧ boots s') ∧
      (s.svc.verified = true → exec (.firmwareImage image) s = .next s)) ∧
    (s.svc.enabled = false → ∀ (a b : Nat), exec (.ownershipClaim a) s = .next s ∧ exec (.ownershipHandover a b) s = .next s ∧
      exec (.handoverAccept a) s = .next s) ∧
    (s.svc.enabled = true → ∀ (a b : Nat), ∃ s1 s2 s3 s4, exec (.ownershipClaim a) s = .next s1 ∧ exec (.ownershipHandover a b) s = .next s2 ∧
      exec (.handoverAccept a) s = .next s3 ∧ exec (.linkLoss a) s = .next s4 ∧
      s1.svc.owner = (if s.svc.owner = none then some a else s.svc.owner) ∧ (s.svc.owner ≠ none → a ∈ s1.svc.busy) ∧
      s1.svc.successor = s.svc.successor ∧
      s2.svc.owner = s.svc.owner ∧ s2.svc.successor = (if s.svc.owner = some a then some b else s.svc.successor) ∧
      s3.svc.owner = (if s.svc.owner ≠ none ∧ s.svc.successor = some a then some a else s.svc.owner) ∧
      s4.svc.owner = (if s.svc.owner = some a then none else s.svc.owner)) ∧
    (∀ port, ∃ s', exec (.portFailure port) s = .next s' ∧ s'.mem = s.mem ∧ s'.blocks = s.blocks ∧
      ∀ i, s'.svc.ports[i]? = if i = port then (s.svc.ports[i]?).map fun _ => false else s.svc.ports[i]?) ∧
    ∃ s', exec .thermalStop s = .next s' ∧ (s'.part p).exited = true ∧ (s'.part p).reason = 3 ∧
      (∃ n ∈ s'.svc.mailbox, n.part = p ∧ n.duty = 16 ∧ n.args = [3]) ∧
      (s.power = true → s'.power = false → ∀ k, s'.coreOf k = none) ∧
      ((∀ k, s.coreOf k = none) → (∀ c ∈ s.cores, c.preempt = none) → s'.power = false)

/-- An issue of any number of different threads, of which each may issue and passes its checks, with an instruction that
is local to its thread and that raises nothing there, answers the next state in which each of these threads has become
what the instruction makes of it; every other thread, every byte of every memory, every full/empty bit, every strand
with its store queue and rejoin file, every spindle and quad spindle, the poison bitmap, the pending work, the cores,
partitions, grids, draws and the service are unchanged. (R134, R223, R225, R248.) -/
def Obligations.EveryLane : Prop :=
  ∀ (i : Instr) (st : Stall) (f : TCtx → Thread → TLane) (g : TCtx → Thread → Thread) (s : State),
    (∀ s, exec i s = s.runLocal i st f) → (∀ c th, f c th = .next (g c th)) → s.issue.lanes.Nodup →
    (∀ t ∈ s.issue.lanes, ∃ th, s.issuable t = some th ∧ Checked i s t th) →
    ∃ s', exec i s = .next s' ∧
      (∀ t ∈ s.issue.lanes, ∀ th, s.issuable t = some th →
        s'.thread? t = some (((g (s.tctx t) th).issued st s.issue.word).advance)) ∧
      (∀ u, u ∉ s.issue.lanes → s'.thread? u = s.thread? u) ∧
      (∀ k : Nat, (s'.blocks[k]?).map Block.memFull = (s.blocks[k]?).map Block.memFull ∧
        (s'.blocks[k]?).map (·.strands) = (s.blocks[k]?).map (·.strands) ∧
        (s'.blocks[k]?).map (·.spindles) = (s.blocks[k]?).map (·.spindles) ∧
        (s'.blocks[k]?).map (·.quarantine) = (s.blocks[k]?).map (·.quarantine)) ∧
      s'.qspindles = s.qspindles ∧ s'.poison = s.poison ∧ s'.work = s.work ∧ s'.due = s.due ∧
      s'.mem = s.mem ∧ s'.cores = s.cores ∧ s'.parts = s.parts ∧ s'.grids = s.grids ∧ s'.draws = s.draws ∧ s'.svc = s.svc

/-- Words written out field by field from the encodings of the spec decode to the instructions that they stand for, at
least one of every family. (R222, R223, R224, R235, R237, R240, R241, R242, R243.) -/
def Obligations.DecodeWords : Prop :=
  decode 0x022050C4 = some (.iadd 8 10 12 .w2 0) ∧ decode 0x56000100 = some (.winb 64 0) ∧
  decode 0x52180000 = some (.movs 6 0 0) ∧ decode 0x5A1C3100 = some (.cvt 7 6 .f16 .f32 false .rne 0) ∧
  decode 0x7C000000 = some (.nop 0) ∧ decode 0x928CDA23 = some (.fmul 35 27 34 .w1 3) ∧
  decode 0xA08D18D0 = some (.fexp 35 35 .f32 0) ∧ decode 0xAE44A100 = some (.plyset 17 20 0 0) ∧
  decode 0x5C102820 = some (.ballot 4 5 0) ∧ decode 0xBC105020 = some (.ldw 4 10 2 .w1 0) ∧
  decode 0xC2105020 = some (.stw 4 10 2 .w1 0) ∧ decode 0xFA105020 = some (.ldwv 4 10 2 .w1 0) ∧
  decode 0xC8606008 = some (.ldfe 24 12 0 .w4 0) ∧ decode 0xCE605034 = some (.lda 24 10 .pkg true 0) ∧
  decode 0xD2000130 = some (.fenceRel .pkg 0) ∧ decode 0xDA2053D8 = some (.atomp 8 10 ⟨.cas, .n64, true⟩ .w4 0) ∧
  decode 0xDE00A00C = some (.spl 20 3 0) ∧ decode 0xE220800C = some (.qtake 8 false 3 0) ∧
  decode 0xE4008000 = some (.bcopy 16 0) ∧ decode 0xEC002000 = some (.msignBind 0 4 0) ∧
  decode 0xEE1840A0 = some (.mma 6 8 10 0) ∧ decode 0xF2380040 = some (.mwait 14 0) ∧
  decode 0xF6C12020 = some (.lres 48 36 0) ∧ decode 0xF8604000 = some (.trvbox 24 8 0)

/-- For every well-formed instruction, with every operand at every value that its encoding admits, decoding the word
that encodes it gives exactly that instruction; and every word that decodes, decodes to a well-formed instruction.
(R222, R223, R224, R244.) -/
def Obligations.EncodeRoundTrip : Prop :=
  (∀ (i : Instr) (w : Word), i.wf = true → encode i = some w → decode w = some i) ∧
  ∀ (w : Word) (i : Instr), decode w = some i → i.wf = true

/-- When a core takes up an issue, a word that decodes to an instruction has that instruction performed in the lanes
that need not wait for a result, whose strands then execute from the code object of that word, and any other word raises
the cause of a word that is no instruction; an event that the machine is given from outside is performed as its row of
the table says, unless it is one of the host link that must wait for an earlier one, or a management request of a source
that does not own the device, which changes nothing (R376, R377); and after the placing of a word in reset, the next
step performs the instruction that it decodes to for the one thread placed there. (R133, R134, R222, R244, R376, R377.)
-/
def Obligations.StepRunsDecoded : Prop :=
  (∀ (s s1 : State) (c : Nat) (x : Issue) (rest : List Issue) (w : Word), s.power = true → s.due = [] →
    (s.core c).turn = x :: rest →
    let runs := fun (o : Host.Outcome State Fault Refusal) =>
      (∀ i, decode w = some i → o = exec i (s1.issueWord w)) ∧
      (decode w = none → o = exec (.wordNotInstruction w) (s1.keepReady w).noteIssued)
    (∀ r, s.agenda = .core c :: r → (State.begin { s with agenda := r } c x rest).fetch = .word s1 w → runs (step s)) ∧
    (s.agenda = [] → s.quiet = true → (s.batch = 0 ∨ s.work = []) → s.rr = c →
      (State.begin { s with quiet := false } c x rest).fetch = .word s1 w → runs (step s))) ∧
  (∀ (s : State) (i : Instr) (r : List Turn), s.power = true → s.due = [] → s.agenda = .event i :: r →
    s.hostWaits i = false → step s = exec i { s with agenda := r }) ∧
  (∀ (s : State) (src : Nat) (i : Instr) (r : List Turn), s.power = true → s.due = [] → s.agenda = .request src i :: r →
    (src ≠ hostSource ∨ s.hostWaits i = false) →
    ((manages i = false ∨ s.svc.owner = some src) → step s = exec i { s with agenda := r }) ∧
    (manages i = true → s.svc.owner ≠ some src → step s = .next { s with agenda := r })) ∧
  ∀ (w : Word) (i : Instr), decode w = some i → ∃ s', step (State.reset.withFetchWord 32 w.toNat) = exec i s' ∧
    s'.issue = ⟨0, 0, [⟨0, 0⟩], 0x1000, w⟩ ∧ (s'.issuable ⟨0, 0⟩).isSome = true

/-- Every row of the opcode table answers a next state in every state whatever, so that ordinary data never ends a run;
a step is never refused, and it faults exactly in a machine whose compute dies have lost their power, unless the next
thing to happen is POWER_UP. (R211, R375, R378.) -/
def Obligations.NeverStops : Prop :=
  (∀ (i : Instr) (s : State), ∃ t, exec i s = .next t) ∧
  (∀ s : State, (∃ f, step s = .fault f) ↔ s.power = false ∧ ∀ image r, s.agenda ≠ .event (.powerUp image) :: r) ∧
  ∀ (s : State) (r : Refusal), step s ≠ .refused r

/-- After reset every one of the 24 partitions has translation disabled with ROOT 0, DLCTL, DLPTR and DUTYMAP 0, QUOTA
16, GRACE 2,048, no exit and reason 0; %progctl of every one of the 72 cores has HANG 24 and STARVE 20; no notification
or kick stands; and every memory is in its canonical form. What the spec gives no reset value for is the model's choice
(log 3) and not part of this statement. (R33, R82, R144, R155, R163, R373.) -/
def Obligations.Reset : Prop :=
  let s := State.reset
  s.memOk = true ∧ s.shapeOk = true ∧
  (∀ p ∈ s.parts, p.root = 0 ∧ p.tbEn = false ∧ p.dlBase = 0 ∧ p.dlEn = false ∧ p.dlHead = 0 ∧ p.dlTail = 0 ∧ p.quota = 16 ∧
    p.duty = 0 ∧ p.preReq = false ∧ p.grace = 2048 ∧ p.exited = false ∧ p.reason = 0 ∧ p.kicks = []) ∧
  (∀ c ∈ s.cores, c.hangExp = 24 ∧ c.starveExp = 20) ∧ s.svc.mailbox = []

/-- From every state in which the memory of the pod and the memory of every block list strictly rising addresses and no
byte that an unlisted address reads as, a step that answers a next state answers one with the same property: whatever
the instruction or the event, equal memories stay equal data. (R9, R56, R61.) -/
def Obligations.MemoryStaysCanonical : Prop :=
  ∀ s s' : State, s.memOk = true → step s = .next s' → s'.memOk = true
end

