-- ==== Sys2Proof/Laws/State.lean ====
section
/-! SUPPORT. What each update of the state leaves alone, one lemma for each field and update, and what it makes of the part
that it changes. -/

namespace Sys2Proof.Machine

/-! ### modBlock -/

@[simp] theorem modBlock_mem (s : State) (b : Nat) (f : Block → Block) : (s.modBlock b f).mem = s.mem := rfl
@[simp] theorem modBlock_pkg (s : State) (b : Nat) (f : Block → Block) : (s.modBlock b f).pkg = s.pkg := rfl
@[simp] theorem modBlock_pod (s : State) (b : Nat) (f : Block → Block) : (s.modBlock b f).pod = s.pod := rfl
@[simp] theorem modBlock_hv (s : State) (b : Nat) (f : Block → Block) : (s.modBlock b f).hv = s.hv := rfl
@[simp] theorem modBlock_lpct (s : State) (b : Nat) (f : Block → Block) : (s.modBlock b f).lpct = s.lpct := rfl
@[simp] theorem modBlock_poison (s : State) (b : Nat) (f : Block → Block) : (s.modBlock b f).poison = s.poison := rfl
@[simp] theorem modBlock_badNear (s : State) (b : Nat) (f : Block → Block) : (s.modBlock b f).badNear = s.badNear := rfl
@[simp] theorem modBlock_softNear (s : State) (b : Nat) (f : Block → Block) : (s.modBlock b f).softNear = s.softNear := rfl
@[simp] theorem modBlock_sliceErrs (s : State) (b : Nat) (f : Block → Block) : (s.modBlock b f).sliceErrs = s.sliceErrs := rfl
@[simp] theorem modBlock_cores (s : State) (b : Nat) (f : Block → Block) : (s.modBlock b f).cores = s.cores := rfl
@[simp] theorem modBlock_grids (s : State) (b : Nat) (f : Block → Block) : (s.modBlock b f).grids = s.grids := rfl
@[simp] theorem modBlock_parts (s : State) (b : Nat) (f : Block → Block) : (s.modBlock b f).parts = s.parts := rfl
@[simp] theorem modBlock_qspindles (s : State) (b : Nat) (f : Block → Block) : (s.modBlock b f).qspindles = s.qspindles := rfl
@[simp] theorem modBlock_draws (s : State) (b : Nat) (f : Block → Block) : (s.modBlock b f).draws = s.draws := rfl
@[simp] theorem modBlock_svc (s : State) (b : Nat) (f : Block → Block) : (s.modBlock b f).svc = s.svc := rfl
@[simp] theorem modBlock_power (s : State) (b : Nat) (f : Block → Block) : (s.modBlock b f).power = s.power := rfl
@[simp] theorem modBlock_nextJoin (s : State) (b : Nat) (f : Block → Block) : (s.modBlock b f).nextJoin = s.nextJoin := rfl
@[simp] theorem modBlock_free (s : State) (b : Nat) (f : Block → Block) : (s.modBlock b f).free = s.free := rfl
@[simp] theorem modBlock_due (s : State) (b : Nat) (f : Block → Block) : (s.modBlock b f).due = s.due := rfl
@[simp] theorem modBlock_agenda (s : State) (b : Nat) (f : Block → Block) : (s.modBlock b f).agenda = s.agenda := rfl
@[simp] theorem modBlock_work (s : State) (b : Nat) (f : Block → Block) : (s.modBlock b f).work = s.work := rfl
@[simp] theorem modBlock_batch (s : State) (b : Nat) (f : Block → Block) : (s.modBlock b f).batch = s.batch := rfl
@[simp] theorem modBlock_quiet (s : State) (b : Nat) (f : Block → Block) : (s.modBlock b f).quiet = s.quiet := rfl
@[simp] theorem modBlock_rr (s : State) (b : Nat) (f : Block → Block) : (s.modBlock b f).rr = s.rr := rfl
@[simp] theorem modBlock_issue (s : State) (b : Nat) (f : Block → Block) : (s.modBlock b f).issue = s.issue := rfl

/-! ### modThread -/

@[simp] theorem modThread_mem (s : State) (t : TRef) (f : Thread → Thread) : (s.modThread t f).mem = s.mem := rfl
@[simp] theorem modThread_pkg (s : State) (t : TRef) (f : Thread → Thread) : (s.modThread t f).pkg = s.pkg := rfl
@[simp] theorem modThread_pod (s : State) (t : TRef) (f : Thread → Thread) : (s.modThread t f).pod = s.pod := rfl
@[simp] theorem modThread_hv (s : State) (t : TRef) (f : Thread → Thread) : (s.modThread t f).hv = s.hv := rfl
@[simp] theorem modThread_lpct (s : State) (t : TRef) (f : Thread → Thread) : (s.modThread t f).lpct = s.lpct := rfl
@[simp] theorem modThread_poison (s : State) (t : TRef) (f : Thread → Thread) : (s.modThread t f).poison = s.poison := rfl
@[simp] theorem modThread_badNear (s : State) (t : TRef) (f : Thread → Thread) : (s.modThread t f).badNear = s.badNear := rfl
@[simp] theorem modThread_softNear (s : State) (t : TRef) (f : Thread → Thread) : (s.modThread t f).softNear = s.softNear := rfl
@[simp] theorem modThread_sliceErrs (s : State) (t : TRef) (f : Thread → Thread) : (s.modThread t f).sliceErrs = s.sliceErrs := rfl
@[simp] theorem modThread_cores (s : State) (t : TRef) (f : Thread → Thread) : (s.modThread t f).cores = s.cores := rfl
@[simp] theorem modThread_grids (s : State) (t : TRef) (f : Thread → Thread) : (s.modThread t f).grids = s.grids := rfl
@[simp] theorem modThread_parts (s : State) (t : TRef) (f : Thread → Thread) : (s.modThread t f).parts = s.parts := rfl
@[simp] theorem modThread_qspindles (s : State) (t : TRef) (f : Thread → Thread) : (s.modThread t f).qspindles = s.qspindles := rfl
@[simp] theorem modThread_draws (s : State) (t : TRef) (f : Thread → Thread) : (s.modThread t f).draws = s.draws := rfl
@[simp] theorem modThread_svc (s : State) (t : TRef) (f : Thread → Thread) : (s.modThread t f).svc = s.svc := rfl
@[simp] theorem modThread_power (s : State) (t : TRef) (f : Thread → Thread) : (s.modThread t f).power = s.power := rfl
@[simp] theorem modThread_nextJoin (s : State) (t : TRef) (f : Thread → Thread) : (s.modThread t f).nextJoin = s.nextJoin := rfl
@[simp] theorem modThread_free (s : State) (t : TRef) (f : Thread → Thread) : (s.modThread t f).free = s.free := rfl
@[simp] theorem modThread_due (s : State) (t : TRef) (f : Thread → Thread) : (s.modThread t f).due = s.due := rfl
@[simp] theorem modThread_agenda (s : State) (t : TRef) (f : Thread → Thread) : (s.modThread t f).agenda = s.agenda := rfl
@[simp] theorem modThread_work (s : State) (t : TRef) (f : Thread → Thread) : (s.modThread t f).work = s.work := rfl
@[simp] theorem modThread_batch (s : State) (t : TRef) (f : Thread → Thread) : (s.modThread t f).batch = s.batch := rfl
@[simp] theorem modThread_quiet (s : State) (t : TRef) (f : Thread → Thread) : (s.modThread t f).quiet = s.quiet := rfl
@[simp] theorem modThread_rr (s : State) (t : TRef) (f : Thread → Thread) : (s.modThread t f).rr = s.rr := rfl
@[simp] theorem modThread_issue (s : State) (t : TRef) (f : Thread → Thread) : (s.modThread t f).issue = s.issue := rfl

/-! ### modCore -/

@[simp] theorem modCore_mem (s : State) (c : Nat) (f : Core → Core) : (s.modCore c f).mem = s.mem := rfl
@[simp] theorem modCore_pkg (s : State) (c : Nat) (f : Core → Core) : (s.modCore c f).pkg = s.pkg := rfl
@[simp] theorem modCore_pod (s : State) (c : Nat) (f : Core → Core) : (s.modCore c f).pod = s.pod := rfl
@[simp] theorem modCore_hv (s : State) (c : Nat) (f : Core → Core) : (s.modCore c f).hv = s.hv := rfl
@[simp] theorem modCore_lpct (s : State) (c : Nat) (f : Core → Core) : (s.modCore c f).lpct = s.lpct := rfl
@[simp] theorem modCore_poison (s : State) (c : Nat) (f : Core → Core) : (s.modCore c f).poison = s.poison := rfl
@[simp] theorem modCore_badNear (s : State) (c : Nat) (f : Core → Core) : (s.modCore c f).badNear = s.badNear := rfl
@[simp] theorem modCore_softNear (s : State) (c : Nat) (f : Core → Core) : (s.modCore c f).softNear = s.softNear := rfl
@[simp] theorem modCore_sliceErrs (s : State) (c : Nat) (f : Core → Core) : (s.modCore c f).sliceErrs = s.sliceErrs := rfl
@[simp] theorem modCore_blocks (s : State) (c : Nat) (f : Core → Core) : (s.modCore c f).blocks = s.blocks := rfl
@[simp] theorem modCore_grids (s : State) (c : Nat) (f : Core → Core) : (s.modCore c f).grids = s.grids := rfl
@[simp] theorem modCore_parts (s : State) (c : Nat) (f : Core → Core) : (s.modCore c f).parts = s.parts := rfl
@[simp] theorem modCore_qspindles (s : State) (c : Nat) (f : Core → Core) : (s.modCore c f).qspindles = s.qspindles := rfl
@[simp] theorem modCore_draws (s : State) (c : Nat) (f : Core → Core) : (s.modCore c f).draws = s.draws := rfl
@[simp] theorem modCore_svc (s : State) (c : Nat) (f : Core → Core) : (s.modCore c f).svc = s.svc := rfl
@[simp] theorem modCore_power (s : State) (c : Nat) (f : Core → Core) : (s.modCore c f).power = s.power := rfl
@[simp] theorem modCore_nextJoin (s : State) (c : Nat) (f : Core → Core) : (s.modCore c f).nextJoin = s.nextJoin := rfl
@[simp] theorem modCore_free (s : State) (c : Nat) (f : Core → Core) : (s.modCore c f).free = s.free := rfl
@[simp] theorem modCore_due (s : State) (c : Nat) (f : Core → Core) : (s.modCore c f).due = s.due := rfl
@[simp] theorem modCore_agenda (s : State) (c : Nat) (f : Core → Core) : (s.modCore c f).agenda = s.agenda := rfl
@[simp] theorem modCore_work (s : State) (c : Nat) (f : Core → Core) : (s.modCore c f).work = s.work := rfl
@[simp] theorem modCore_batch (s : State) (c : Nat) (f : Core → Core) : (s.modCore c f).batch = s.batch := rfl
@[simp] theorem modCore_quiet (s : State) (c : Nat) (f : Core → Core) : (s.modCore c f).quiet = s.quiet := rfl
@[simp] theorem modCore_rr (s : State) (c : Nat) (f : Core → Core) : (s.modCore c f).rr = s.rr := rfl
@[simp] theorem modCore_issue (s : State) (c : Nat) (f : Core → Core) : (s.modCore c f).issue = s.issue := rfl

/-! ### modPart -/

@[simp] theorem modPart_mem (s : State) (p : Nat) (f : Part → Part) : (s.modPart p f).mem = s.mem := rfl
@[simp] theorem modPart_pkg (s : State) (p : Nat) (f : Part → Part) : (s.modPart p f).pkg = s.pkg := rfl
@[simp] theorem modPart_pod (s : State) (p : Nat) (f : Part → Part) : (s.modPart p f).pod = s.pod := rfl
@[simp] theorem modPart_hv (s : State) (p : Nat) (f : Part → Part) : (s.modPart p f).hv = s.hv := rfl
@[simp] theorem modPart_lpct (s : State) (p : Nat) (f : Part → Part) : (s.modPart p f).lpct = s.lpct := rfl
@[simp] theorem modPart_poison (s : State) (p : Nat) (f : Part → Part) : (s.modPart p f).poison = s.poison := rfl
@[simp] theorem modPart_badNear (s : State) (p : Nat) (f : Part → Part) : (s.modPart p f).badNear = s.badNear := rfl
@[simp] theorem modPart_softNear (s : State) (p : Nat) (f : Part → Part) : (s.modPart p f).softNear = s.softNear := rfl
@[simp] theorem modPart_sliceErrs (s : State) (p : Nat) (f : Part → Part) : (s.modPart p f).sliceErrs = s.sliceErrs := rfl
@[simp] theorem modPart_cores (s : State) (p : Nat) (f : Part → Part) : (s.modPart p f).cores = s.cores := rfl
@[simp] theorem modPart_blocks (s : State) (p : Nat) (f : Part → Part) : (s.modPart p f).blocks = s.blocks := rfl
@[simp] theorem modPart_grids (s : State) (p : Nat) (f : Part → Part) : (s.modPart p f).grids = s.grids := rfl
@[simp] theorem modPart_qspindles (s : State) (p : Nat) (f : Part → Part) : (s.modPart p f).qspindles = s.qspindles := rfl
@[simp] theorem modPart_draws (s : State) (p : Nat) (f : Part → Part) : (s.modPart p f).draws = s.draws := rfl
@[simp] theorem modPart_svc (s : State) (p : Nat) (f : Part → Part) : (s.modPart p f).svc = s.svc := rfl
@[simp] theorem modPart_power (s : State) (p : Nat) (f : Part → Part) : (s.modPart p f).power = s.power := rfl
@[simp] theorem modPart_nextJoin (s : State) (p : Nat) (f : Part → Part) : (s.modPart p f).nextJoin = s.nextJoin := rfl
@[simp] theorem modPart_free (s : State) (p : Nat) (f : Part → Part) : (s.modPart p f).free = s.free := rfl
@[simp] theorem modPart_due (s : State) (p : Nat) (f : Part → Part) : (s.modPart p f).due = s.due := rfl
@[simp] theorem modPart_agenda (s : State) (p : Nat) (f : Part → Part) : (s.modPart p f).agenda = s.agenda := rfl
@[simp] theorem modPart_work (s : State) (p : Nat) (f : Part → Part) : (s.modPart p f).work = s.work := rfl
@[simp] theorem modPart_batch (s : State) (p : Nat) (f : Part → Part) : (s.modPart p f).batch = s.batch := rfl
@[simp] theorem modPart_quiet (s : State) (p : Nat) (f : Part → Part) : (s.modPart p f).quiet = s.quiet := rfl
@[simp] theorem modPart_rr (s : State) (p : Nat) (f : Part → Part) : (s.modPart p f).rr = s.rr := rfl
@[simp] theorem modPart_issue (s : State) (p : Nat) (f : Part → Part) : (s.modPart p f).issue = s.issue := rfl

/-! ### modGrid -/

@[simp] theorem modGrid_mem (s : State) (g : Nat) (f : Grid → Grid) : (s.modGrid g f).mem = s.mem := rfl
@[simp] theorem modGrid_pkg (s : State) (g : Nat) (f : Grid → Grid) : (s.modGrid g f).pkg = s.pkg := rfl
@[simp] theorem modGrid_pod (s : State) (g : Nat) (f : Grid → Grid) : (s.modGrid g f).pod = s.pod := rfl
@[simp] theorem modGrid_hv (s : State) (g : Nat) (f : Grid → Grid) : (s.modGrid g f).hv = s.hv := rfl
@[simp] theorem modGrid_lpct (s : State) (g : Nat) (f : Grid → Grid) : (s.modGrid g f).lpct = s.lpct := rfl
@[simp] theorem modGrid_poison (s : State) (g : Nat) (f : Grid → Grid) : (s.modGrid g f).poison = s.poison := rfl
@[simp] theorem modGrid_badNear (s : State) (g : Nat) (f : Grid → Grid) : (s.modGrid g f).badNear = s.badNear := rfl
@[simp] theorem modGrid_softNear (s : State) (g : Nat) (f : Grid → Grid) : (s.modGrid g f).softNear = s.softNear := rfl
@[simp] theorem modGrid_sliceErrs (s : State) (g : Nat) (f : Grid → Grid) : (s.modGrid g f).sliceErrs = s.sliceErrs := rfl
@[simp] theorem modGrid_cores (s : State) (g : Nat) (f : Grid → Grid) : (s.modGrid g f).cores = s.cores := rfl
@[simp] theorem modGrid_blocks (s : State) (g : Nat) (f : Grid → Grid) : (s.modGrid g f).blocks = s.blocks := rfl
@[simp] theorem modGrid_parts (s : State) (g : Nat) (f : Grid → Grid) : (s.modGrid g f).parts = s.parts := rfl
@[simp] theorem modGrid_qspindles (s : State) (g : Nat) (f : Grid → Grid) : (s.modGrid g f).qspindles = s.qspindles := rfl
@[simp] theorem modGrid_draws (s : State) (g : Nat) (f : Grid → Grid) : (s.modGrid g f).draws = s.draws := rfl
@[simp] theorem modGrid_svc (s : State) (g : Nat) (f : Grid → Grid) : (s.modGrid g f).svc = s.svc := rfl
@[simp] theorem modGrid_power (s : State) (g : Nat) (f : Grid → Grid) : (s.modGrid g f).power = s.power := rfl
@[simp] theorem modGrid_nextJoin (s : State) (g : Nat) (f : Grid → Grid) : (s.modGrid g f).nextJoin = s.nextJoin := rfl
@[simp] theorem modGrid_free (s : State) (g : Nat) (f : Grid → Grid) : (s.modGrid g f).free = s.free := rfl
@[simp] theorem modGrid_due (s : State) (g : Nat) (f : Grid → Grid) : (s.modGrid g f).due = s.due := rfl
@[simp] theorem modGrid_agenda (s : State) (g : Nat) (f : Grid → Grid) : (s.modGrid g f).agenda = s.agenda := rfl
@[simp] theorem modGrid_work (s : State) (g : Nat) (f : Grid → Grid) : (s.modGrid g f).work = s.work := rfl
@[simp] theorem modGrid_batch (s : State) (g : Nat) (f : Grid → Grid) : (s.modGrid g f).batch = s.batch := rfl
@[simp] theorem modGrid_quiet (s : State) (g : Nat) (f : Grid → Grid) : (s.modGrid g f).quiet = s.quiet := rfl
@[simp] theorem modGrid_rr (s : State) (g : Nat) (f : Grid → Grid) : (s.modGrid g f).rr = s.rr := rfl
@[simp] theorem modGrid_issue (s : State) (g : Nat) (f : Grid → Grid) : (s.modGrid g f).issue = s.issue := rfl

/-! ### modDraw -/

@[simp] theorem modDraw_mem (s : State) (d : Nat) (f : Draw → Draw) : (s.modDraw d f).mem = s.mem := rfl
@[simp] theorem modDraw_pkg (s : State) (d : Nat) (f : Draw → Draw) : (s.modDraw d f).pkg = s.pkg := rfl
@[simp] theorem modDraw_pod (s : State) (d : Nat) (f : Draw → Draw) : (s.modDraw d f).pod = s.pod := rfl
@[simp] theorem modDraw_hv (s : State) (d : Nat) (f : Draw → Draw) : (s.modDraw d f).hv = s.hv := rfl
@[simp] theorem modDraw_lpct (s : State) (d : Nat) (f : Draw → Draw) : (s.modDraw d f).lpct = s.lpct := rfl
@[simp] theorem modDraw_poison (s : State) (d : Nat) (f : Draw → Draw) : (s.modDraw d f).poison = s.poison := rfl
@[simp] theorem modDraw_badNear (s : State) (d : Nat) (f : Draw → Draw) : (s.modDraw d f).badNear = s.badNear := rfl
@[simp] theorem modDraw_softNear (s : State) (d : Nat) (f : Draw → Draw) : (s.modDraw d f).softNear = s.softNear := rfl
@[simp] theorem modDraw_sliceErrs (s : State) (d : Nat) (f : Draw → Draw) : (s.modDraw d f).sliceErrs = s.sliceErrs := rfl
@[simp] theorem modDraw_cores (s : State) (d : Nat) (f : Draw → Draw) : (s.modDraw d f).cores = s.cores := rfl
@[simp] theorem modDraw_blocks (s : State) (d : Nat) (f : Draw → Draw) : (s.modDraw d f).blocks = s.blocks := rfl
@[simp] theorem modDraw_grids (s : State) (d : Nat) (f : Draw → Draw) : (s.modDraw d f).grids = s.grids := rfl
@[simp] theorem modDraw_parts (s : State) (d : Nat) (f : Draw → Draw) : (s.modDraw d f).parts = s.parts := rfl
@[simp] theorem modDraw_qspindles (s : State) (d : Nat) (f : Draw → Draw) : (s.modDraw d f).qspindles = s.qspindles := rfl
@[simp] theorem modDraw_svc (s : State) (d : Nat) (f : Draw → Draw) : (s.modDraw d f).svc = s.svc := rfl
@[simp] theorem modDraw_power (s : State) (d : Nat) (f : Draw → Draw) : (s.modDraw d f).power = s.power := rfl
@[simp] theorem modDraw_nextJoin (s : State) (d : Nat) (f : Draw → Draw) : (s.modDraw d f).nextJoin = s.nextJoin := rfl
@[simp] theorem modDraw_free (s : State) (d : Nat) (f : Draw → Draw) : (s.modDraw d f).free = s.free := rfl
@[simp] theorem modDraw_due (s : State) (d : Nat) (f : Draw → Draw) : (s.modDraw d f).due = s.due := rfl
@[simp] theorem modDraw_agenda (s : State) (d : Nat) (f : Draw → Draw) : (s.modDraw d f).agenda = s.agenda := rfl
@[simp] theorem modDraw_work (s : State) (d : Nat) (f : Draw → Draw) : (s.modDraw d f).work = s.work := rfl
@[simp] theorem modDraw_batch (s : State) (d : Nat) (f : Draw → Draw) : (s.modDraw d f).batch = s.batch := rfl
@[simp] theorem modDraw_quiet (s : State) (d : Nat) (f : Draw → Draw) : (s.modDraw d f).quiet = s.quiet := rfl
@[simp] theorem modDraw_rr (s : State) (d : Nat) (f : Draw → Draw) : (s.modDraw d f).rr = s.rr := rfl
@[simp] theorem modDraw_issue (s : State) (d : Nat) (f : Draw → Draw) : (s.modDraw d f).issue = s.issue := rfl

/-! ### mustNow -/

@[simp] theorem mustNow_mem (s : State) (e : Event) : (s.mustNow e).mem = s.mem := rfl
@[simp] theorem mustNow_pkg (s : State) (e : Event) : (s.mustNow e).pkg = s.pkg := rfl
@[simp] theorem mustNow_pod (s : State) (e : Event) : (s.mustNow e).pod = s.pod := rfl
@[simp] theorem mustNow_hv (s : State) (e : Event) : (s.mustNow e).hv = s.hv := rfl
@[simp] theorem mustNow_lpct (s : State) (e : Event) : (s.mustNow e).lpct = s.lpct := rfl
@[simp] theorem mustNow_poison (s : State) (e : Event) : (s.mustNow e).poison = s.poison := rfl
@[simp] theorem mustNow_badNear (s : State) (e : Event) : (s.mustNow e).badNear = s.badNear := rfl
@[simp] theorem mustNow_softNear (s : State) (e : Event) : (s.mustNow e).softNear = s.softNear := rfl
@[simp] theorem mustNow_sliceErrs (s : State) (e : Event) : (s.mustNow e).sliceErrs = s.sliceErrs := rfl
@[simp] theorem mustNow_cores (s : State) (e : Event) : (s.mustNow e).cores = s.cores := rfl
@[simp] theorem mustNow_blocks (s : State) (e : Event) : (s.mustNow e).blocks = s.blocks := rfl
@[simp] theorem mustNow_grids (s : State) (e : Event) : (s.mustNow e).grids = s.grids := rfl
@[simp] theorem mustNow_parts (s : State) (e : Event) : (s.mustNow e).parts = s.parts := rfl
@[simp] theorem mustNow_qspindles (s : State) (e : Event) : (s.mustNow e).qspindles = s.qspindles := rfl
@[simp] theorem mustNow_draws (s : State) (e : Event) : (s.mustNow e).draws = s.draws := rfl
@[simp] theorem mustNow_svc (s : State) (e : Event) : (s.mustNow e).svc = s.svc := rfl
@[simp] theorem mustNow_power (s : State) (e : Event) : (s.mustNow e).power = s.power := rfl
@[simp] theorem mustNow_nextJoin (s : State) (e : Event) : (s.mustNow e).nextJoin = s.nextJoin := rfl
@[simp] theorem mustNow_free (s : State) (e : Event) : (s.mustNow e).free = s.free := rfl
@[simp] theorem mustNow_agenda (s : State) (e : Event) : (s.mustNow e).agenda = s.agenda := rfl
@[simp] theorem mustNow_work (s : State) (e : Event) : (s.mustNow e).work = s.work := rfl
@[simp] theorem mustNow_batch (s : State) (e : Event) : (s.mustNow e).batch = s.batch := rfl
@[simp] theorem mustNow_quiet (s : State) (e : Event) : (s.mustNow e).quiet = s.quiet := rfl
@[simp] theorem mustNow_rr (s : State) (e : Event) : (s.mustNow e).rr = s.rr := rfl
@[simp] theorem mustNow_issue (s : State) (e : Event) : (s.mustNow e).issue = s.issue := rfl

/-! ### parkAt -/

@[simp] theorem parkAt_mem (s : State) (t : TRef) (p : Park) : (s.parkAt t p).mem = s.mem := rfl
@[simp] theorem parkAt_pkg (s : State) (t : TRef) (p : Park) : (s.parkAt t p).pkg = s.pkg := rfl
@[simp] theorem parkAt_pod (s : State) (t : TRef) (p : Park) : (s.parkAt t p).pod = s.pod := rfl
@[simp] theorem parkAt_hv (s : State) (t : TRef) (p : Park) : (s.parkAt t p).hv = s.hv := rfl
@[simp] theorem parkAt_lpct (s : State) (t : TRef) (p : Park) : (s.parkAt t p).lpct = s.lpct := rfl
@[simp] theorem parkAt_poison (s : State) (t : TRef) (p : Park) : (s.parkAt t p).poison = s.poison := rfl
@[simp] theorem parkAt_badNear (s : State) (t : TRef) (p : Park) : (s.parkAt t p).badNear = s.badNear := rfl
@[simp] theorem parkAt_softNear (s : State) (t : TRef) (p : Park) : (s.parkAt t p).softNear = s.softNear := rfl
@[simp] theorem parkAt_sliceErrs (s : State) (t : TRef) (p : Park) : (s.parkAt t p).sliceErrs = s.sliceErrs := rfl
@[simp] theorem parkAt_cores (s : State) (t : TRef) (p : Park) : (s.parkAt t p).cores = s.cores := rfl
@[simp] theorem parkAt_grids (s : State) (t : TRef) (p : Park) : (s.parkAt t p).grids = s.grids := rfl
@[simp] theorem parkAt_parts (s : State) (t : TRef) (p : Park) : (s.parkAt t p).parts = s.parts := rfl
@[simp] theorem parkAt_qspindles (s : State) (t : TRef) (p : Park) : (s.parkAt t p).qspindles = s.qspindles := rfl
@[simp] theorem parkAt_draws (s : State) (t : TRef) (p : Park) : (s.parkAt t p).draws = s.draws := rfl
@[simp] theorem parkAt_svc (s : State) (t : TRef) (p : Park) : (s.parkAt t p).svc = s.svc := rfl
@[simp] theorem parkAt_power (s : State) (t : TRef) (p : Park) : (s.parkAt t p).power = s.power := rfl
@[simp] theorem parkAt_nextJoin (s : State) (t : TRef) (p : Park) : (s.parkAt t p).nextJoin = s.nextJoin := rfl
@[simp] theorem parkAt_free (s : State) (t : TRef) (p : Park) : (s.parkAt t p).free = s.free := rfl
@[simp] theorem parkAt_due (s : State) (t : TRef) (p : Park) : (s.parkAt t p).due = s.due := rfl
@[simp] theorem parkAt_agenda (s : State) (t : TRef) (p : Park) : (s.parkAt t p).agenda = s.agenda := rfl
@[simp] theorem parkAt_work (s : State) (t : TRef) (p : Park) : (s.parkAt t p).work = s.work := rfl
@[simp] theorem parkAt_batch (s : State) (t : TRef) (p : Park) : (s.parkAt t p).batch = s.batch := rfl
@[simp] theorem parkAt_quiet (s : State) (t : TRef) (p : Park) : (s.parkAt t p).quiet = s.quiet := rfl
@[simp] theorem parkAt_rr (s : State) (t : TRef) (p : Park) : (s.parkAt t p).rr = s.rr := rfl
@[simp] theorem parkAt_issue (s : State) (t : TRef) (p : Park) : (s.parkAt t p).issue = s.issue := rfl

/-! ### goOn -/

@[simp] theorem goOn_mem (s : State) (t : TRef) (st : Stall) (th : Thread) : (s.goOn t st th).mem = s.mem := rfl
@[simp] theorem goOn_pkg (s : State) (t : TRef) (st : Stall) (th : Thread) : (s.goOn t st th).pkg = s.pkg := rfl
@[simp] theorem goOn_pod (s : State) (t : TRef) (st : Stall) (th : Thread) : (s.goOn t st th).pod = s.pod := rfl
@[simp] theorem goOn_hv (s : State) (t : TRef) (st : Stall) (th : Thread) : (s.goOn t st th).hv = s.hv := rfl
@[simp] theorem goOn_lpct (s : State) (t : TRef) (st : Stall) (th : Thread) : (s.goOn t st th).lpct = s.lpct := rfl
@[simp] theorem goOn_poison (s : State) (t : TRef) (st : Stall) (th : Thread) : (s.goOn t st th).poison = s.poison := rfl
@[simp] theorem goOn_badNear (s : State) (t : TRef) (st : Stall) (th : Thread) : (s.goOn t st th).badNear = s.badNear := rfl
@[simp] theorem goOn_softNear (s : State) (t : TRef) (st : Stall) (th : Thread) : (s.goOn t st th).softNear = s.softNear := rfl
@[simp] theorem goOn_sliceErrs (s : State) (t : TRef) (st : Stall) (th : Thread) : (s.goOn t st th).sliceErrs = s.sliceErrs := rfl
@[simp] theorem goOn_cores (s : State) (t : TRef) (st : Stall) (th : Thread) : (s.goOn t st th).cores = s.cores := rfl
@[simp] theorem goOn_grids (s : State) (t : TRef) (st : Stall) (th : Thread) : (s.goOn t st th).grids = s.grids := rfl
@[simp] theorem goOn_parts (s : State) (t : TRef) (st : Stall) (th : Thread) : (s.goOn t st th).parts = s.parts := rfl
@[simp] theorem goOn_qspindles (s : State) (t : TRef) (st : Stall) (th : Thread) : (s.goOn t st th).qspindles = s.qspindles := rfl
@[simp] theorem goOn_draws (s : State) (t : TRef) (st : Stall) (th : Thread) : (s.goOn t st th).draws = s.draws := rfl
@[simp] theorem goOn_svc (s : State) (t : TRef) (st : Stall) (th : Thread) : (s.goOn t st th).svc = s.svc := rfl
@[simp] theorem goOn_power (s : State) (t : TRef) (st : Stall) (th : Thread) : (s.goOn t st th).power = s.power := rfl
@[simp] theorem goOn_nextJoin (s : State) (t : TRef) (st : Stall) (th : Thread) : (s.goOn t st th).nextJoin = s.nextJoin := rfl
@[simp] theorem goOn_free (s : State) (t : TRef) (st : Stall) (th : Thread) : (s.goOn t st th).free = s.free := rfl
@[simp] theorem goOn_due (s : State) (t : TRef) (st : Stall) (th : Thread) : (s.goOn t st th).due = s.due := rfl
@[simp] theorem goOn_agenda (s : State) (t : TRef) (st : Stall) (th : Thread) : (s.goOn t st th).agenda = s.agenda := rfl
@[simp] theorem goOn_work (s : State) (t : TRef) (st : Stall) (th : Thread) : (s.goOn t st th).work = s.work := rfl
@[simp] theorem goOn_batch (s : State) (t : TRef) (st : Stall) (th : Thread) : (s.goOn t st th).batch = s.batch := rfl
@[simp] theorem goOn_quiet (s : State) (t : TRef) (st : Stall) (th : Thread) : (s.goOn t st th).quiet = s.quiet := rfl
@[simp] theorem goOn_rr (s : State) (t : TRef) (st : Stall) (th : Thread) : (s.goOn t st th).rr = s.rr := rfl
@[simp] theorem goOn_issue (s : State) (t : TRef) (st : Stall) (th : Thread) : (s.goOn t st th).issue = s.issue := rfl

/-! ### goThere -/

@[simp] theorem goThere_mem (s : State) (t : TRef) (st : Stall) (th : Thread) : (s.goThere t st th).mem = s.mem := rfl
@[simp] theorem goThere_pkg (s : State) (t : TRef) (st : Stall) (th : Thread) : (s.goThere t st th).pkg = s.pkg := rfl
@[simp] theorem goThere_pod (s : State) (t : TRef) (st : Stall) (th : Thread) : (s.goThere t st th).pod = s.pod := rfl
@[simp] theorem goThere_hv (s : State) (t : TRef) (st : Stall) (th : Thread) : (s.goThere t st th).hv = s.hv := rfl
@[simp] theorem goThere_lpct (s : State) (t : TRef) (st : Stall) (th : Thread) : (s.goThere t st th).lpct = s.lpct := rfl
@[simp] theorem goThere_poison (s : State) (t : TRef) (st : Stall) (th : Thread) : (s.goThere t st th).poison = s.poison := rfl
@[simp] theorem goThere_badNear (s : State) (t : TRef) (st : Stall) (th : Thread) : (s.goThere t st th).badNear = s.badNear := rfl
@[simp] theorem goThere_softNear (s : State) (t : TRef) (st : Stall) (th : Thread) : (s.goThere t st th).softNear = s.softNear := rfl
@[simp] theorem goThere_sliceErrs (s : State) (t : TRef) (st : Stall) (th : Thread) : (s.goThere t st th).sliceErrs = s.sliceErrs := rfl
@[simp] theorem goThere_cores (s : State) (t : TRef) (st : Stall) (th : Thread) : (s.goThere t st th).cores = s.cores := rfl
@[simp] theorem goThere_grids (s : State) (t : TRef) (st : Stall) (th : Thread) : (s.goThere t st th).grids = s.grids := rfl
@[simp] theorem goThere_parts (s : State) (t : TRef) (st : Stall) (th : Thread) : (s.goThere t st th).parts = s.parts := rfl
@[simp] theorem goThere_qspindles (s : State) (t : TRef) (st : Stall) (th : Thread) : (s.goThere t st th).qspindles = s.qspindles := rfl
@[simp] theorem goThere_draws (s : State) (t : TRef) (st : Stall) (th : Thread) : (s.goThere t st th).draws = s.draws := rfl
@[simp] theorem goThere_svc (s : State) (t : TRef) (st : Stall) (th : Thread) : (s.goThere t st th).svc = s.svc := rfl
@[simp] theorem goThere_power (s : State) (t : TRef) (st : Stall) (th : Thread) : (s.goThere t st th).power = s.power := rfl
@[simp] theorem goThere_nextJoin (s : State) (t : TRef) (st : Stall) (th : Thread) : (s.goThere t st th).nextJoin = s.nextJoin := rfl
@[simp] theorem goThere_free (s : State) (t : TRef) (st : Stall) (th : Thread) : (s.goThere t st th).free = s.free := rfl
@[simp] theorem goThere_due (s : State) (t : TRef) (st : Stall) (th : Thread) : (s.goThere t st th).due = s.due := rfl
@[simp] theorem goThere_agenda (s : State) (t : TRef) (st : Stall) (th : Thread) : (s.goThere t st th).agenda = s.agenda := rfl
@[simp] theorem goThere_work (s : State) (t : TRef) (st : Stall) (th : Thread) : (s.goThere t st th).work = s.work := rfl
@[simp] theorem goThere_batch (s : State) (t : TRef) (st : Stall) (th : Thread) : (s.goThere t st th).batch = s.batch := rfl
@[simp] theorem goThere_quiet (s : State) (t : TRef) (st : Stall) (th : Thread) : (s.goThere t st th).quiet = s.quiet := rfl
@[simp] theorem goThere_rr (s : State) (t : TRef) (st : Stall) (th : Thread) : (s.goThere t st th).rr = s.rr := rfl
@[simp] theorem goThere_issue (s : State) (t : TRef) (st : Stall) (th : Thread) : (s.goThere t st th).issue = s.issue := rfl

/-! ### want and wantAll -/

@[simp] theorem want_mem (s : State) (e : Event) : (s.want e).mem = s.mem := by unfold State.want; split <;> rfl
@[simp] theorem want_pkg (s : State) (e : Event) : (s.want e).pkg = s.pkg := by unfold State.want; split <;> rfl
@[simp] theorem want_pod (s : State) (e : Event) : (s.want e).pod = s.pod := by unfold State.want; split <;> rfl
@[simp] theorem want_hv (s : State) (e : Event) : (s.want e).hv = s.hv := by unfold State.want; split <;> rfl
@[simp] theorem want_lpct (s : State) (e : Event) : (s.want e).lpct = s.lpct := by unfold State.want; split <;> rfl
@[simp] theorem want_poison (s : State) (e : Event) : (s.want e).poison = s.poison := by unfold State.want; split <;> rfl
@[simp] theorem want_badNear (s : State) (e : Event) : (s.want e).badNear = s.badNear := by unfold State.want; split <;> rfl
@[simp] theorem want_softNear (s : State) (e : Event) : (s.want e).softNear = s.softNear := by unfold State.want; split <;> rfl
@[simp] theorem want_sliceErrs (s : State) (e : Event) : (s.want e).sliceErrs = s.sliceErrs := by unfold State.want; split <;> rfl
@[simp] theorem want_cores (s : State) (e : Event) : (s.want e).cores = s.cores := by unfold State.want; split <;> rfl
@[simp] theorem want_blocks (s : State) (e : Event) : (s.want e).blocks = s.blocks := by unfold State.want; split <;> rfl
@[simp] theorem want_grids (s : State) (e : Event) : (s.want e).grids = s.grids := by unfold State.want; split <;> rfl
@[simp] theorem want_parts (s : State) (e : Event) : (s.want e).parts = s.parts := by unfold State.want; split <;> rfl
@[simp] theorem want_qspindles (s : State) (e : Event) : (s.want e).qspindles = s.qspindles := by unfold State.want; split <;> rfl
@[simp] theorem want_draws (s : State) (e : Event) : (s.want e).draws = s.draws := by unfold State.want; split <;> rfl
@[simp] theorem want_svc (s : State) (e : Event) : (s.want e).svc = s.svc := by unfold State.want; split <;> rfl
@[simp] theorem want_power (s : State) (e : Event) : (s.want e).power = s.power := by unfold State.want; split <;> rfl
@[simp] theorem want_nextJoin (s : State) (e : Event) : (s.want e).nextJoin = s.nextJoin := by unfold State.want; split <;> rfl
@[simp] theorem want_free (s : State) (e : Event) : (s.want e).free = s.free := by unfold State.want; split <;> rfl
@[simp] theorem want_due (s : State) (e : Event) : (s.want e).due = s.due := by unfold State.want; split <;> rfl
@[simp] theorem want_agenda (s : State) (e : Event) : (s.want e).agenda = s.agenda := by unfold State.want; split <;> rfl
@[simp] theorem want_batch (s : State) (e : Event) : (s.want e).batch = s.batch := by unfold State.want; split <;> rfl
@[simp] theorem want_quiet (s : State) (e : Event) : (s.want e).quiet = s.quiet := by unfold State.want; split <;> rfl
@[simp] theorem want_rr (s : State) (e : Event) : (s.want e).rr = s.rr := by unfold State.want; split <;> rfl
@[simp] theorem want_issue (s : State) (e : Event) : (s.want e).issue = s.issue := by unfold State.want; split <;> rfl

@[simp] theorem wantAll_mem (s : State) (l : List Event) : (s.wantAll l).mem = s.mem := by
  unfold State.wantAll; induction l generalizing s with
  | nil => rfl
  | cons e r ih => simp [ih]
@[simp] theorem wantAll_pkg (s : State) (l : List Event) : (s.wantAll l).pkg = s.pkg := by
  unfold State.wantAll; induction l generalizing s with
  | nil => rfl
  | cons e r ih => simp [ih]
@[simp] theorem wantAll_pod (s : State) (l : List Event) : (s.wantAll l).pod = s.pod := by
  unfold State.wantAll; induction l generalizing s with
  | nil => rfl
  | cons e r ih => simp [ih]
@[simp] theorem wantAll_hv (s : State) (l : List Event) : (s.wantAll l).hv = s.hv := by
  unfold State.wantAll; induction l generalizing s with
  | nil => rfl
  | cons e r ih => simp [ih]
@[simp] theorem wantAll_lpct (s : State) (l : List Event) : (s.wantAll l).lpct = s.lpct := by
  unfold State.wantAll; induction l generalizing s with
  | nil => rfl
  | cons e r ih => simp [ih]
@[simp] theorem wantAll_poison (s : State) (l : List Event) : (s.wantAll l).poison = s.poison := by
  unfold State.wantAll; induction l generalizing s with
  | nil => rfl
  | cons e r ih => simp [ih]
@[simp] theorem wantAll_badNear (s : State) (l : List Event) : (s.wantAll l).badNear = s.badNear := by
  unfold State.wantAll; induction l generalizing s with
  | nil => rfl
  | cons e r ih => simp [ih]
@[simp] theorem wantAll_softNear (s : State) (l : List Event) : (s.wantAll l).softNear = s.softNear := by
  unfold State.wantAll; induction l generalizing s with
  | nil => rfl
  | cons e r ih => simp [ih]
@[simp] theorem wantAll_sliceErrs (s : State) (l : List Event) : (s.wantAll l).sliceErrs = s.sliceErrs := by
  unfold State.wantAll; induction l generalizing s with
  | nil => rfl
  | cons e r ih => simp [ih]
@[simp] theorem wantAll_cores (s : State) (l : List Event) : (s.wantAll l).cores = s.cores := by
  unfold State.wantAll; induction l generalizing s with
  | nil => rfl
  | cons e r ih => simp [ih]
@[simp] theorem wantAll_blocks (s : State) (l : List Event) : (s.wantAll l).blocks = s.blocks := by
  unfold State.wantAll; induction l generalizing s with
  | nil => rfl
  | cons e r ih => simp [ih]
@[simp] theorem wantAll_grids (s : State) (l : List Event) : (s.wantAll l).grids = s.grids := by
  unfold State.wantAll; induction l generalizing s with
  | nil => rfl
  | cons e r ih => simp [ih]
@[simp] theorem wantAll_parts (s : State) (l : List Event) : (s.wantAll l).parts = s.parts := by
  unfold State.wantAll; induction l generalizing s with
  | nil => rfl
  | cons e r ih => simp [ih]
@[simp] theorem wantAll_qspindles (s : State) (l : List Event) : (s.wantAll l).qspindles = s.qspindles := by
  unfold State.wantAll; induction l generalizing s with
  | nil => rfl
  | cons e r ih => simp [ih]
@[simp] theorem wantAll_draws (s : State) (l : List Event) : (s.wantAll l).draws = s.draws := by
  unfold State.wantAll; induction l generalizing s with
  | nil => rfl
  | cons e r ih => simp [ih]
@[simp] theorem wantAll_svc (s : State) (l : List Event) : (s.wantAll l).svc = s.svc := by
  unfold State.wantAll; induction l generalizing s with
  | nil => rfl
  | cons e r ih => simp [ih]
@[simp] theorem wantAll_power (s : State) (l : List Event) : (s.wantAll l).power = s.power := by
  unfold State.wantAll; induction l generalizing s with
  | nil => rfl
  | cons e r ih => simp [ih]
@[simp] theorem wantAll_nextJoin (s : State) (l : List Event) : (s.wantAll l).nextJoin = s.nextJoin := by
  unfold State.wantAll; induction l generalizing s with
  | nil => rfl
  | cons e r ih => simp [ih]
@[simp] theorem wantAll_free (s : State) (l : List Event) : (s.wantAll l).free = s.free := by
  unfold State.wantAll; induction l generalizing s with
  | nil => rfl
  | cons e r ih => simp [ih]
@[simp] theorem wantAll_due (s : State) (l : List Event) : (s.wantAll l).due = s.due := by
  unfold State.wantAll; induction l generalizing s with
  | nil => rfl
  | cons e r ih => simp [ih]
@[simp] theorem wantAll_agenda (s : State) (l : List Event) : (s.wantAll l).agenda = s.agenda := by
  unfold State.wantAll; induction l generalizing s with
  | nil => rfl
  | cons e r ih => simp [ih]
@[simp] theorem wantAll_batch (s : State) (l : List Event) : (s.wantAll l).batch = s.batch := by
  unfold State.wantAll; induction l generalizing s with
  | nil => rfl
  | cons e r ih => simp [ih]
@[simp] theorem wantAll_quiet (s : State) (l : List Event) : (s.wantAll l).quiet = s.quiet := by
  unfold State.wantAll; induction l generalizing s with
  | nil => rfl
  | cons e r ih => simp [ih]
@[simp] theorem wantAll_rr (s : State) (l : List Event) : (s.wantAll l).rr = s.rr := by
  unfold State.wantAll; induction l generalizing s with
  | nil => rfl
  | cons e r ih => simp [ih]
@[simp] theorem wantAll_issue (s : State) (l : List Event) : (s.wantAll l).issue = s.issue := by
  unfold State.wantAll; induction l generalizing s with
  | nil => rfl
  | cons e r ih => simp [ih]

/-! ### modStrand -/

@[simp] theorem modStrand_mem (s : State) (blk k : Nat) (f : Strand → Strand) : (s.modStrand blk k f).mem = s.mem := by
  unfold State.modStrand; generalize s.strandParts blk k = l; induction l generalizing s with
  | nil => rfl
  | cons e r ih => simp [ih]
@[simp] theorem modStrand_pkg (s : State) (blk k : Nat) (f : Strand → Strand) : (s.modStrand blk k f).pkg = s.pkg := by
  unfold State.modStrand; generalize s.strandParts blk k = l; induction l generalizing s with
  | nil => rfl
  | cons e r ih => simp [ih]
@[simp] theorem modStrand_pod (s : State) (blk k : Nat) (f : Strand → Strand) : (s.modStrand blk k f).pod = s.pod := by
  unfold State.modStrand; generalize s.strandParts blk k = l; induction l generalizing s with
  | nil => rfl
  | cons e r ih => simp [ih]
@[simp] theorem modStrand_hv (s : State) (blk k : Nat) (f : Strand → Strand) : (s.modStrand blk k f).hv = s.hv := by
  unfold State.modStrand; generalize s.strandParts blk k = l; induction l generalizing s with
  | nil => rfl
  | cons e r ih => simp [ih]
@[simp] theorem modStrand_lpct (s : State) (blk k : Nat) (f : Strand → Strand) : (s.modStrand blk k f).lpct = s.lpct := by
  unfold State.modStrand; generalize s.strandParts blk k = l; induction l generalizing s with
  | nil => rfl
  | cons e r ih => simp [ih]
@[simp] theorem modStrand_poison (s : State) (blk k : Nat) (f : Strand → Strand) : (s.modStrand blk k f).poison = s.poison := by
  unfold State.modStrand; generalize s.strandParts blk k = l; induction l generalizing s with
  | nil => rfl
  | cons e r ih => simp [ih]
@[simp] theorem modStrand_badNear (s : State) (blk k : Nat) (f : Strand → Strand) : (s.modStrand blk k f).badNear = s.badNear := by
  unfold State.modStrand; generalize s.strandParts blk k = l; induction l generalizing s with
  | nil => rfl
  | cons e r ih => simp [ih]
@[simp] theorem modStrand_softNear (s : State) (blk k : Nat) (f : Strand → Strand) : (s.modStrand blk k f).softNear = s.softNear := by
  unfold State.modStrand; generalize s.strandParts blk k = l; induction l generalizing s with
  | nil => rfl
  | cons e r ih => simp [ih]
@[simp] theorem modStrand_sliceErrs (s : State) (blk k : Nat) (f : Strand → Strand) : (s.modStrand blk k f).sliceErrs = s.sliceErrs := by
  unfold State.modStrand; generalize s.strandParts blk k = l; induction l generalizing s with
  | nil => rfl
  | cons e r ih => simp [ih]
@[simp] theorem modStrand_cores (s : State) (blk k : Nat) (f : Strand → Strand) : (s.modStrand blk k f).cores = s.cores := by
  unfold State.modStrand; generalize s.strandParts blk k = l; induction l generalizing s with
  | nil => rfl
  | cons e r ih => simp [ih]
@[simp] theorem modStrand_grids (s : State) (blk k : Nat) (f : Strand → Strand) : (s.modStrand blk k f).grids = s.grids := by
  unfold State.modStrand; generalize s.strandParts blk k = l; induction l generalizing s with
  | nil => rfl
  | cons e r ih => simp [ih]
@[simp] theorem modStrand_parts (s : State) (blk k : Nat) (f : Strand → Strand) : (s.modStrand blk k f).parts = s.parts := by
  unfold State.modStrand; generalize s.strandParts blk k = l; induction l generalizing s with
  | nil => rfl
  | cons e r ih => simp [ih]
@[simp] theorem modStrand_qspindles (s : State) (blk k : Nat) (f : Strand → Strand) : (s.modStrand blk k f).qspindles = s.qspindles := by
  unfold State.modStrand; generalize s.strandParts blk k = l; induction l generalizing s with
  | nil => rfl
  | cons e r ih => simp [ih]
@[simp] theorem modStrand_draws (s : State) (blk k : Nat) (f : Strand → Strand) : (s.modStrand blk k f).draws = s.draws := by
  unfold State.modStrand; generalize s.strandParts blk k = l; induction l generalizing s with
  | nil => rfl
  | cons e r ih => simp [ih]
@[simp] theorem modStrand_svc (s : State) (blk k : Nat) (f : Strand → Strand) : (s.modStrand blk k f).svc = s.svc := by
  unfold State.modStrand; generalize s.strandParts blk k = l; induction l generalizing s with
  | nil => rfl
  | cons e r ih => simp [ih]
@[simp] theorem modStrand_power (s : State) (blk k : Nat) (f : Strand → Strand) : (s.modStrand blk k f).power = s.power := by
  unfold State.modStrand; generalize s.strandParts blk k = l; induction l generalizing s with
  | nil => rfl
  | cons e r ih => simp [ih]
@[simp] theorem modStrand_nextJoin (s : State) (blk k : Nat) (f : Strand → Strand) : (s.modStrand blk k f).nextJoin = s.nextJoin := by
  unfold State.modStrand; generalize s.strandParts blk k = l; induction l generalizing s with
  | nil => rfl
  | cons e r ih => simp [ih]
@[simp] theorem modStrand_free (s : State) (blk k : Nat) (f : Strand → Strand) : (s.modStrand blk k f).free = s.free := by
  unfold State.modStrand; generalize s.strandParts blk k = l; induction l generalizing s with
  | nil => rfl
  | cons e r ih => simp [ih]
@[simp] theorem modStrand_due (s : State) (blk k : Nat) (f : Strand → Strand) : (s.modStrand blk k f).due = s.due := by
  unfold State.modStrand; generalize s.strandParts blk k = l; induction l generalizing s with
  | nil => rfl
  | cons e r ih => simp [ih]
@[simp] theorem modStrand_agenda (s : State) (blk k : Nat) (f : Strand → Strand) : (s.modStrand blk k f).agenda = s.agenda := by
  unfold State.modStrand; generalize s.strandParts blk k = l; induction l generalizing s with
  | nil => rfl
  | cons e r ih => simp [ih]
@[simp] theorem modStrand_work (s : State) (blk k : Nat) (f : Strand → Strand) : (s.modStrand blk k f).work = s.work := by
  unfold State.modStrand; generalize s.strandParts blk k = l; induction l generalizing s with
  | nil => rfl
  | cons e r ih => simp [ih]
@[simp] theorem modStrand_batch (s : State) (blk k : Nat) (f : Strand → Strand) : (s.modStrand blk k f).batch = s.batch := by
  unfold State.modStrand; generalize s.strandParts blk k = l; induction l generalizing s with
  | nil => rfl
  | cons e r ih => simp [ih]
@[simp] theorem modStrand_quiet (s : State) (blk k : Nat) (f : Strand → Strand) : (s.modStrand blk k f).quiet = s.quiet := by
  unfold State.modStrand; generalize s.strandParts blk k = l; induction l generalizing s with
  | nil => rfl
  | cons e r ih => simp [ih]
@[simp] theorem modStrand_rr (s : State) (blk k : Nat) (f : Strand → Strand) : (s.modStrand blk k f).rr = s.rr := by
  unfold State.modStrand; generalize s.strandParts blk k = l; induction l generalizing s with
  | nil => rfl
  | cons e r ih => simp [ih]
@[simp] theorem modStrand_issue (s : State) (blk k : Nat) (f : Strand → Strand) : (s.modStrand blk k f).issue = s.issue := by
  unfold State.modStrand; generalize s.strandParts blk k = l; induction l generalizing s with
  | nil => rfl
  | cons e r ih => simp [ih]

/-! ### What is changed -/

@[simp] theorem modBlock_get (s : State) (b : Nat) (f : Block → Block) :
    (s.modBlock b f).blocks[b]? = (s.blocks[b]?).map f := by simp [State.modBlock]

theorem modBlock_other (s : State) {b c : Nat} (f : Block → Block) (h : c ≠ b) :
    (s.modBlock b f).blocks[c]? = s.blocks[c]? := by simp [State.modBlock, Ne.symm h]

/-- A thread after its own change. -/
@[simp] theorem modThread_get (s : State) (t : TRef) (f : Thread → Thread) :
    (s.modThread t f).thread? t = (s.thread? t).map f := by
  simp only [State.thread?, State.modThread, modBlock_get]
  cases s.blocks[t.blk]? <;> simp [Block.modThread]

/-- Another thread after the change of one. -/
theorem modThread_other (s : State) {t u : TRef} (f : Thread → Thread) (h : u ≠ t) :
    (s.modThread t f).thread? u = s.thread? u := by
  simp only [State.thread?, State.modThread]
  by_cases hb : u.blk = t.blk
  · rw [hb, modBlock_get]
    have ht : u.tid ≠ t.tid := fun e => h (by cases u; cases t; simp_all)
    cases s.blocks[t.blk]? <;> simp [Block.modThread, Ne.symm ht]
  · rw [modBlock_other s _ hb]

/-- What a change of a thread leaves of its block. -/
theorem modThread_block (s : State) (t : TRef) (f : Thread → Thread) (b : Nat) :
    (s.modThread t f).blocks[b]? = if b = t.blk then (s.blocks[b]?).map fun k => k.modThread t.tid f else s.blocks[b]? := by
  by_cases h : b = t.blk
  · subst h; simp [State.modThread]
  · simp [State.modThread, modBlock_other s _ h, h]

@[simp] theorem blockModThread_mem (b : Block) (tid : Nat) (f : Thread → Thread) : (b.modThread tid f).mem = b.mem := rfl
@[simp] theorem blockModThread_full (b : Block) (tid : Nat) (f : Thread → Thread) : (b.modThread tid f).full = b.full := rfl
@[simp] theorem blockModThread_strands (b : Block) (tid : Nat) (f : Thread → Thread) :
    (b.modThread tid f).strands = b.strands := rfl
@[simp] theorem blockModThread_quarantine (b : Block) (tid : Nat) (f : Thread → Thread) :
    (b.modThread tid f).quarantine = b.quarantine := rfl

@[simp] theorem modCore_get (s : State) (c : Nat) (f : Core → Core) :
    (s.modCore c f).cores[c]? = (s.cores[c]?).map f := by simp [State.modCore]

@[simp] theorem modPart_get (s : State) (p : Nat) (f : Part → Part) :
    (s.modPart p f).parts[p]? = (s.parts[p]?).map f := by simp [State.modPart]

/-- An event asked for is among those asked for. -/
theorem want_asked (s : State) (e : Event) : e ∈ (s.want e).work := by
  unfold State.want; split
  · rename_i h; simpa using h
  · simp

/-- What was asked for stays asked for. -/
theorem want_keeps (s : State) {e x : Event} (h : x ∈ s.work) : x ∈ (s.want e).work := by
  unfold State.want; split
  · exact h
  · simp [h]

/-- A strand without a joint name is its one part. -/
theorem strandParts_single (s : State) (blk k : Nat) (h : (s.strand? blk k).bind Strand.joint = none) :
    s.strandParts blk k = [(blk, k)] := by simp [State.strandParts, h]

/-- A strand without a joint name is changed in its block alone. -/
theorem modStrand_single (s : State) (blk k : Nat) (f : Strand → Strand) (h : (s.strand? blk k).bind Strand.joint = none) :
    s.modStrand blk k f = s.modBlock blk fun b => b.modStrand k f := by
  simp [State.modStrand, strandParts_single s blk k h]

end Sys2Proof.Machine
end

