-- ==== Sys2Proof/Laws/Access.lean ====
section
/-! SUPPORT. Translations and accesses (R37, R42, R298): what a translation leaves of the machine, and what an access that
reaches a location does. -/

namespace Sys2Proof.Machine

/-- Two states that differ at most in memory and its errors, cores, partitions, what is asked for and the count of free values: what a
translation may change. -/
structure SameRest (s s' : State) : Prop where
  blocks : s'.blocks = s.blocks
  grids : s'.grids = s.grids
  draws : s'.draws = s.draws
  qspindles : s'.qspindles = s.qspindles
  issue : s'.issue = s.issue
  poison : s'.poison = s.poison
  pkg : s'.pkg = s.pkg
  svc : s'.svc = s.svc

theorem SameRest.refl (s : State) : SameRest s s := ⟨rfl, rfl, rfl, rfl, rfl, rfl, rfl, rfl⟩

theorem SameRest.trans {a b c : State} (h : SameRest a b) (k : SameRest b c) : SameRest a c :=
  ⟨k.1.trans h.1, k.2.trans h.2, k.3.trans h.3, k.4.trans h.4, k.5.trans h.5, k.6.trans h.6, k.7.trans h.7, k.8.trans h.8⟩

theorem sameRest_modCore (s : State) (c : Nat) (f : Core → Core) : SameRest s (s.modCore c f) :=
  ⟨rfl, rfl, rfl, rfl, rfl, rfl, rfl, rfl⟩

theorem sameRest_choose (s : State) : SameRest s s.choose.2 := ⟨rfl, rfl, rfl, rfl, rfl, rfl, rfl, rfl⟩

theorem sameRest_writeEntry (s : State) (a : Nat) (e : Addr) : SameRest s (s.writeEntry a e) :=
  ⟨rfl, rfl, rfl, rfl, rfl, rfl, rfl, rfl⟩

theorem sameRest_mem (s : State) (m : List Host.Cell) : SameRest s { s with mem := m } :=
  ⟨rfl, rfl, rfl, rfl, rfl, rfl, rfl, rfl⟩

theorem sameRest_modPart (s : State) (p : Nat) (f : Part → Part) : SameRest s (s.modPart p f) :=
  ⟨rfl, rfl, rfl, rfl, rfl, rfl, rfl, rfl⟩

/-- Reading near memory corrects its single-bit errors and changes nothing else (R68). -/
theorem sameRest_correct (s : State) (pa n : Nat) : SameRest s (s.correct (.phys pa) n) := by
  unfold State.correct
  exact ⟨rfl, rfl, rfl, rfl, rfl, rfl, rfl, rfl⟩

theorem sameRest_want (s : State) (e : Event) : SameRest s (s.want e) := by
  unfold State.want; split <;> exact ⟨rfl, rfl, rfl, rfl, rfl, rfl, rfl, rfl⟩

theorem sameRest_cachedEntry (r s : State) (core part level pre : Nat) (now : Addr) :
    SameRest s (r.cachedEntry s core part level pre now).2 := by
  unfold State.cachedEntry
  split
  · exact .refl s
  · split
    · exact .refl s
    · exact sameRest_choose s

theorem sameRest_tlbHit (s : State) (core part : Nat) (k : Access) (va : Nat) : SameRest s (s.tlbHit core part k va).2 := by
  unfold State.tlbHit
  split
  · exact .refl s
  · split
    · exact .refl s
    · exact sameRest_choose s

/-- The state that a walk leaves. -/
def WalkR.after : WalkR → State
  | .leaf s .. => s
  | .fault s .. => s
  | .wait s => s

/-- The state that a translation leaves. -/
def Xl.after : Xl → State
  | .ok s _ => s
  | .fault s .. => s
  | .wait s => s
  | .exit s => s

/-- What a walk that ends in a choice, a fault, a leaf or a wait leaves. -/
theorem sameRest_ite {s : State} {c : Prop} [Decidable c] {a b : WalkR} (ha : SameRest s a.after) (hb : SameRest s b.after) :
    SameRest s (if c then a else b).after := by split <;> assumption

theorem sameRest_fault {s s0 : State} (h : SameRest s s0) (a b : Nat) : SameRest s (WalkR.fault s0 a b).after := h

theorem sameRest_leaf {s s0 : State} (h : SameRest s s0) (a : Addr) (b c : Nat) : SameRest s (WalkR.leaf s0 a b c).after := h

theorem sameRest_wait {s s0 : State} (h : SameRest s s0) : SameRest s (WalkR.wait s0).after := h

/-- A walk corrects single-bit errors, and changes the walk cache and the count of free values at most. -/
theorem sameRest_walkFrom (r : State) (core part va : Nat) (level : Nat) : ∀ (node : Nat) (s : State),
    SameRest s (r.walkFrom core part va level node s).after := by
  induction level with
  | zero =>
    intro node s
    rw [State.walkFrom]
    generalize va / 2 ^ (12 + levelShift 0) = pre
    generalize node + 8 * (pre % 512) = ent
    have h0 := sameRest_correct s (r.podPa ent) 8
    rw [if_pos rfl]
    dsimp only
    repeat' apply sameRest_ite
    all_goals first | exact sameRest_fault h0 _ _ | exact sameRest_leaf h0 _ _ _
  | succ n ih =>
    intro node s
    rw [State.walkFrom]
    generalize va / 2 ^ (12 + levelShift (n + 1)) = pre
    generalize node + 8 * (pre % 512) = ent
    rw [if_neg (Nat.succ_ne_zero n)]
    generalize hh : r.cachedEntry _ core part (n + 1) pre _ = h
    have h1 : SameRest s h.2 := (sameRest_correct s (r.podPa ent) 8).trans (hh ▸ sameRest_cachedEntry ..)
    obtain ⟨hit, s1⟩ := h
    dsimp only at h1 ⊢
    repeat' apply sameRest_ite
    all_goals first
      | exact sameRest_fault h1 _ _
      | exact sameRest_leaf h1 _ _ _
      | exact sameRest_wait h1
      | exact (SameRest.trans h1 (sameRest_modCore ..)).trans (ih _ _)

theorem sameRest_walk (s : State) (core part va : Nat) : SameRest s (s.walk core part va).after := by
  unfold State.walk
  dsimp only
  split
  · exact .refl s
  · exact sameRest_walkFrom ..

theorem sameRest_roomForAppend (s : State) (part : Nat) : SameRest s (s.roomForAppend part) := by
  unfold State.roomForAppend State.drainLog
  dsimp only
  split
  · exact sameRest_modPart ..
  · exact .refl s

theorem sameRest_setDirty {s s' : State} {part ent level : Nat} {pte : Addr} (h : s.setDirty part ent level pte = some s') :
    SameRest s s' := by
  unfold State.setDirty at h
  split at h
  · cases h; exact sameRest_writeEntry ..
  · have h0 := sameRest_roomForAppend s part
    dsimp only at h
    revert h h0
    generalize s.roomForAppend part = s0
    intro h h0
    split at h
    · cases h
    · injection h with h
      subst h
      refine h0.trans ?_
      have h1 := ((sameRest_writeEntry s0 ((s0.part part).dlBase.toNat * 32768 +
        8 * ((s0.part part).dlHead.truncate 12).toNat) (Addr.ofNat (logEntry (s0.part part).dlHead level pte))).trans
        (sameRest_modPart _ part fun q => { q with dlHead := q.dlHead + 1 })).trans
        (sameRest_writeEntry _ ent (pte ||| 0x40#64))
      revert h1
      generalize (State.writeEntry _ ent (pte ||| 0x40#64)) = s2
      intro h1
      split
      · exact h1.trans ((sameRest_modPart ..).trans (sameRest_want ..))
      · exact h1

/-- A TLB fill changes the caches and the count of free values. -/
theorem sameRest_fillTlb (s : State) (core part va level : Nat) (pte : Addr) (ent : Nat) :
    SameRest s (s.fillTlb core part va level pte ent) := by
  unfold State.fillTlb
  dsimp only
  split
  · exact ((sameRest_correct s _ _).trans (sameRest_choose _)).trans (sameRest_modCore ..)
  · exact sameRest_modCore ..

theorem sameRest_fillPoison (s : State) (core page : Nat) : SameRest s (s.fillPoison core page) := by
  unfold State.fillPoison
  split
  · exact sameRest_modCore ..
  · exact .refl s

/-- A translation that is checked against the poison cache. -/
theorem sameRest_lined {s s' : State} {core : Nat} {x : Xl} {l : Loc} (h : Xl.lined core x = .ok s' l)
    (k : ∀ s1 l1, x = .ok s1 l1 → SameRest s s1) : SameRest s s' := by
  cases x with
  | ok s1 l1 =>
    cases l1 with
    | win b o => simp only [Xl.lined, Xl.ok.injEq] at h; exact h.1 ▸ k _ _ rfl
    | phys pa => simp only [Xl.lined, Xl.ok.injEq] at h; exact h.1 ▸ (k _ _ rfl).trans (sameRest_fillPoison ..)
  | fault => simp [Xl.lined] at h
  | wait => simp [Xl.lined] at h
  | exit => simp [Xl.lined] at h

theorem sameRest_xlatWalk {s s' : State} {core part : Nat} {engine : Bool} {k : Access} {va : Nat} {l : Loc}
    (h : s.xlatWalk core part engine k va = .ok s' l) : SameRest s s' := by
  have hw := sameRest_walk s core part va
  unfold State.xlatWalk at h
  split at h
  · cases h
  · cases h
  · rename_i s1 pte level ent he
    rw [he] at hw
    have hw1 : SameRest s s1 := hw
    have h2 : SameRest s (if Pte.ac pte then s1 else s1.writeEntry ent (pte ||| 0x20#64)) := by
      split
      · exact hw1
      · exact hw1.trans (sameRest_writeEntry ..)
    dsimp only at h
    revert h
    generalize (if Pte.ac pte then s1 else s1.writeEntry ent (pte ||| 0x20#64)) = s2 at h2
    intro h
    split at h
    · cases h
    · split at h
      · cases h
      · split at h
        · split at h
          · cases h
          · rename_i _ _ hd
            injection h with h _
            subst h
            exact (h2.trans (sameRest_setDirty hd)).trans (sameRest_fillTlb ..)
        · injection h with h _
          subst h
          exact h2.trans (sameRest_fillTlb ..)

theorem sameRest_xlatPage {s s' : State} {core part : Nat} {engine : Bool} {k : Access} {va : Nat} {l : Loc}
    (h : s.xlatPage core part engine k va = .ok s' l) : SameRest s s' := by
  unfold State.xlatPage at h
  split at h
  · cases h
  · split at h
    · rename_i s1 ht
      have := sameRest_tlbHit s core part k va
      rw [ht] at this
      exact this.trans (sameRest_xlatWalk h)
    · rename_i e s1 ht
      have h1 := sameRest_tlbHit s core part k va
      rw [ht] at h1
      dsimp only at h
      split at h
      · cases h
      · split at h
        · exact SameRest.trans h1 (sameRest_xlatWalk h)
        · injection h with h _; subst h; exact h1

/-- A translation that gives a location changes memory (its accessed and dirty bits and the dirty log), the caches, the
head of the dirty log and the model's own counts at most. -/
theorem sameRest_xlat {s s' : State} {core blk : Nat} {engine : Bool} {k : Access} {ea : Addr} {l : Loc}
    (h : s.xlat core blk engine k ea = .ok s' l) : SameRest s s' := by
  unfold State.xlat at h
  dsimp only at h
  split at h
  · cases h
  · split at h
    · cases h
    · split at h
      · split at h
        · injection h with h _; subst h; exact .refl _
        · cases h
      · split at h
        · split at h
          · cases h
          · split at h
            · cases h
            · exact sameRest_lined h fun _ _ e => by cases e; exact .refl _
        · exact sameRest_lined h fun _ _ e => sameRest_xlatPage e

/-- The threads of a state that differs in nothing of the rest. -/
theorem SameRest.thread {s s' : State} (h : SameRest s s') (t : TRef) : s'.thread? t = s.thread? t := by
  simp [State.thread?, h.blocks]

theorem SameRest.isDoubled {s s' : State} (h : SameRest s s') (b : Nat) : s'.isDoubled b = s.isDoubled b := by
  simp [State.isDoubled, h.blocks]

/-- An access that reaches a location goes on there (R298). -/
theorem access_ok {s s' : State} {t : TRef} {k : Access} {ea : Addr} {n : Nat} {l : Loc} (f : State → Loc → Lane)
    (h1 : ea.toNat < 2 ^ 48) (h2 : ea.toNat % n = 0) (h3 : s.translate t k ea = .ok s' l) :
    s.access t k ea n f = f s' l := by
  unfold State.access
  rw [if_neg (by omega), if_neg (by omega), h3]

/-- The effective address in exact arithmetic, narrowed (R297, R28). -/
theorem effAddr_eq (th : Thread) (a : RegName) (imm : BitVec 7) (n : Nat) :
    effAddr th a imm n = BitVec.ofInt 64 ((th.pair a).toInt + imm.toInt * n) := by
  unfold effAddr
  rw [BitVec.ofInt_add]
  simp

end Sys2Proof.Machine
end

