-- ==== Sys2Proof/Laws/Coding.lean ====
section
/-! SUPPORT. Fields and codes of the instruction word: cutting and joining undo each other, and every code reads back as
what it stands for. -/

namespace Sys2Proof

/-- The fields of a joined word. -/
@[simp] theorem fieldsOf_pack (f : Fields) : fieldsOf (pack f) = f := by
  obtain ⟨o, d, a, b, w, st⟩ := f
  simp only [fieldsOf, pack, Fields.mk.injEq]
  refine ⟨?_, ?_, ?_, ?_, ?_, ?_⟩ <;> (ext i hi; simp only [BitVec.getElem_extractLsb', BitVec.getLsbD_append])
  all_goals repeat' split
  all_goals first | (exfalso; omega) | (rw [← BitVec.getLsbD_eq_getElem]; congr 1; omega)

/-- The word joined again from its fields. -/
@[simp] theorem pack_fieldsOf (w : Word) : pack (fieldsOf w) = w := by
  simp only [fieldsOf, pack]
  ext i hi
  simp only [BitVec.getElem_append, BitVec.getElem_extractLsb']
  repeat' split
  all_goals (simp [← BitVec.getLsbD_eq_getElem]; try congr 1; try omega)

/-- Two words with the same fields are one word. -/
theorem word_ext {v w : Word} (h : fieldsOf v = fieldsOf w) : v = w := by
  rw [← pack_fieldsOf v, ← pack_fieldsOf w, h]

@[simp] theorem Width.ofBits_bits (w : Width) : Width.ofBits w.bits = w := by cases w <;> rfl
@[simp] theorem Cond.ofBits_bits (w : Cond) : Cond.ofBits w.bits = w := by cases w <;> rfl
@[simp] theorem Rnd.ofBits_bits (w : Rnd) : Rnd.ofBits w.bits = w := by cases w <;> rfl
@[simp] theorem FunFmt.ofBits_bits (w : FunFmt) : FunFmt.ofBits w.bits = w := by cases w <;> rfl
@[simp] theorem FrameFmt.ofBits_bits (w : FrameFmt) : FrameFmt.ofBits w.bits = w := by cases w <;> rfl
@[simp] theorem RedType.ofBits_bits (w : RedType) : RedType.ofBits w.bits = some w := by cases w <;> rfl
@[simp] theorem NumFmt.ofBits_bits (w : NumFmt) : NumFmt.ofBits w.bits = some w := by cases w <;> rfl
@[simp] theorem BarLevel.ofBits_bits (w : BarLevel) : BarLevel.ofBits w.bits = some w := by cases w <;> rfl
@[simp] theorem Scope.ofCode_code (w : Scope) : Scope.ofCode w.code = some w := by cases w <;> rfl
@[simp] theorem AtomOp.ofBits_bits (w : AtomOp) : AtomOp.ofBits w.bits = some w := by cases w <;> rfl
@[simp] theorem AtomType.ofBits_bits (w : AtomType) : AtomType.ofBits w.bits = w := by cases w <;> rfl

@[simp] theorem Width.bits_ofBits (w : BitVec 2) : (Width.ofBits w).bits = w := by revert w; decide
@[simp] theorem Cond.bits_ofBits (w : BitVec 2) : (Cond.ofBits w).bits = w := by revert w; decide
@[simp] theorem Rnd.bits_ofBits (w : BitVec 2) : (Rnd.ofBits w).bits = w := by revert w; decide
@[simp] theorem FunFmt.bits_ofBits (w : BitVec 2) : (FunFmt.ofBits w).bits = w := by revert w; decide
@[simp] theorem FrameFmt.bits_ofBits (w : BitVec 2) : (FrameFmt.ofBits w).bits = w := by revert w; decide

/-- An imm9 joined again from its parts. -/
@[simp] theorem imm9_join (x : BitVec 9) : x.extractLsb' 2 7 ++ x.extractLsb' 0 2 = x := by
  ext i hi
  simp only [BitVec.getElem_append, BitVec.getElem_extractLsb']
  repeat' split
  all_goals (rw [← BitVec.getLsbD_eq_getElem]; congr 1; omega)

/-- An imm16 joined again from its parts. -/
@[simp] theorem imm16_join (x : BitVec 16) : x.extractLsb' 9 7 ++ x.extractLsb' 2 7 ++ x.extractLsb' 0 2 = x := by
  ext i hi
  simp only [BitVec.getElem_append, BitVec.getElem_extractLsb']
  repeat' split
  all_goals (rw [← BitVec.getLsbD_eq_getElem]; congr 1; omega)

/-- An off23 joined again from its parts. -/
@[simp] theorem off23_join (x : BitVec 23) :
    x.extractLsb' 16 7 ++ x.extractLsb' 9 7 ++ x.extractLsb' 2 7 ++ x.extractLsb' 0 2 = x := by
  ext i hi
  simp only [BitVec.getElem_append, BitVec.getElem_extractLsb']
  repeat' split
  all_goals (rw [← BitVec.getLsbD_eq_getElem]; congr 1; omega)

end Sys2Proof
end

