-- ==== Sys2Proof/Laws/Control.lean ====
section
/-! SUPPORT. Strand changes and thread changes (R137, R142, R223): what each leaves of the other, and the target of a
control transfer. -/

namespace Sys2Proof.Machine

/-- A thread that may issue is a thread of the state. -/
theorem issuable_thread {s : State} {t : TRef} {th : Thread} (h : s.issuable t = some th) : s.thread? t = some th := by
  unfold State.issuable at h
  split at h
  · rename_i b x hb hx
    split at h
    · rw [hx]; exact h
    · cases h
  · cases h

/-- A change of a thread that is known is the change to a fixed thread. -/
theorem modThread_known (s : State) {t : TRef} {th : Thread} (h : s.thread? t = some th) (f : Thread → Thread) :
    s.modThread t f = s.modThread t fun _ => f th := by
  simp only [State.thread?, Option.bind_eq_some_iff] at h
  obtain ⟨b, hb, ht⟩ := h
  have hm : (b.modThread t.tid f) = b.modThread t.tid fun _ => f th := by
    simp only [Block.modThread]
    congr 1
    apply List.ext_getElem?
    intro n
    simp only [List.getElem?_modify]
    by_cases hn : t.tid = n
    · subst hn; simp [ht]
    · simp [hn]
  simp only [State.modThread, State.modBlock]
  congr 1
  apply List.ext_getElem?
  intro n
  simp only [List.getElem?_modify]
  by_cases hn : t.blk = n
  · subst hn; simp [hb, hm]
  · simp [hn]

/-- What a fold of strand changes keeps. -/
theorem foldStrands_keeps {α : Type} (g : State → α) (h : ∀ (s : State) (b k : Nat) (f : Strand → Strand),
    g (s.modBlock b fun x => x.modStrand k f) = g s) (l : List (Nat × Nat)) (f : Strand → Strand) (s : State) :
    g (l.foldl (fun s p => s.modBlock p.1 fun b => b.modStrand p.2 f) s) = g s := by
  induction l generalizing s with
  | nil => rfl
  | cons p r ih => rw [List.foldl_cons, ih, h]

/-- What a change of a strand keeps, if a change of one of its parts does. -/
theorem modStrand_keeps {α : Type} (g : State → α) (h : ∀ (s : State) (b k : Nat) (f : Strand → Strand),
    g (s.modBlock b fun x => x.modStrand k f) = g s) (s : State) (blk k : Nat) (f : Strand → Strand) :
    g (s.modStrand blk k f) = g s := foldStrands_keeps g h _ f s


/-- A change of a strand leaves every thread as it is. -/
@[simp] theorem modStrand_thread (s : State) (blk k : Nat) (f : Strand → Strand) (u : TRef) :
    (s.modStrand blk k f).thread? u = s.thread? u := by
  refine modStrand_keeps (fun s => s.thread? u) (fun s b j f => ?_) s blk k f
  simp only [State.thread?, State.modBlock, List.getElem?_modify]
  split <;> cases s.blocks[u.blk]? <;> rfl

/-- A change of a thread leaves every strand as it is. -/
@[simp] theorem modThread_strand (s : State) (t : TRef) (f : Thread → Thread) (blk k : Nat) :
    (s.modThread t f).strand? blk k = s.strand? blk k := by
  simp only [State.strand?, modThread_block]
  split <;> cases s.blocks[blk]? <;> rfl

/-- The parts of a strand depend on the strands of the blocks alone. -/
theorem strandParts_congr {s s' : State} (h : s'.blocks.map (·.strands) = s.blocks.map (·.strands)) (blk k : Nat) :
    s'.strandParts blk k = s.strandParts blk k := by
  have hs : s'.strand? blk k = s.strand? blk k := by
    have hb : (s'.blocks[blk]?).map (·.strands) = (s.blocks[blk]?).map (·.strands) := by
      rw [← List.getElem?_map, ← List.getElem?_map, h]
    simp only [State.strand?]
    cases h1 : s'.blocks[blk]? <;> cases h2 : s.blocks[blk]? <;> simp_all
  have hz : ∀ (g : List Strand × Nat → List (Nat × Nat)) (l : List Block),
      (l.zipIdx.flatMap fun x => g (x.1.strands, x.2)) = (l.map (·.strands)).zipIdx.flatMap g := by
    intro g l
    rw [List.zipIdx_map, List.flatMap_map]
    rfl
  unfold State.strandParts
  rw [hs]
  split
  · rfl
  · rename_i j _
    have := hz (fun x => x.1.zipIdx.filterMap fun y => if y.1.joint = some j then some (x.2, y.2) else none)
    simp only at this
    rw [this, this, h]

/-- A change of a thread and a change of a strand may be done in either order. -/
theorem modStrand_modThread (s : State) (t : TRef) (f : Thread → Thread) (blk k : Nat) (g : Strand → Strand) :
    (s.modThread t f).modStrand blk k g = (s.modStrand blk k g).modThread t f := by
  have hp : (s.modThread t f).strandParts blk k = s.strandParts blk k := by
    apply strandParts_congr
    apply List.ext_getElem?
    intro n
    simp only [List.getElem?_map, modThread_block]
    split <;> cases s.blocks[n]? <;> rfl
  unfold State.modStrand
  rw [hp]
  clear hp
  generalize s.strandParts blk k = l
  induction l generalizing s with
  | nil => rfl
  | cons p r ih =>
    rw [List.foldl_cons, List.foldl_cons, ← ih]
    congr 1
    simp only [State.modThread, State.modBlock]
    congr 1
    apply List.ext_getElem?
    intro n
    simp only [List.getElem?_modify]
    by_cases h1 : p.1 = n <;> by_cases h2 : t.blk = n <;> simp [h1, h2] <;> cases s.blocks[n]? <;> rfl

/-- The target of a branch or jump in exact arithmetic, narrowed (R223). -/
theorem relTarget_eq {n : Nat} (pc : Addr) (off : BitVec n) (hn : n ≤ 62) :
    relTarget pc off = pc + 4 + BitVec.ofInt 64 (off.toInt * 4) := by
  unfold relTarget
  congr 1
  rw [BitVec.shiftLeft_eq_mul_twoPow]
  apply BitVec.eq_of_toInt_eq
  rw [BitVec.toInt_mul, BitVec.toInt_signExtend_of_le (by omega), BitVec.toInt_ofInt]
  rfl

end Sys2Proof.Machine
end

