-- ==== Sys2Proof/Laws/Registers.lean ====
section
/-! SUPPORT. Registers and results: register 0 (R230), what a write changes, and what a result leaves alone (R225, R227). -/

namespace Sys2Proof.Machine

@[simp] theorem reg_zero (t : Thread) : t.reg 0 = Reg.plain 0 := rfl
@[simp] theorem setReg_zero (t : Thread) (r : Reg) : t.setReg 0 r = t := rfl
@[simp] theorem result_zero (t : Thread) (r : Reg) (due : Due) : t.result 0 r due = t := rfl

/-- A register within the allocation reads as it was written. -/
theorem setReg_same (t : Thread) {a : Nat} (r : Reg) (h0 : a ≠ 0) (h : a < t.regs.length) : (t.setReg a r).reg a = r := by
  simp [Thread.setReg, Thread.reg, h0, h]

/-- A write leaves every other register alone. -/
theorem setReg_other (t : Thread) {a b : Nat} (r : Reg) (h : b ≠ a) : (t.setReg a r).reg b = t.reg b := by
  unfold Thread.setReg Thread.reg
  by_cases h0 : a = 0
  · simp [h0]
  · simp [h0, Ne.symm h]

/-- A write at or above the allocation changes nothing (R231). -/
theorem setReg_beyond (t : Thread) {a : Nat} (r : Reg) (h : t.regs.length ≤ a) : t.setReg a r = t := by
  unfold Thread.setReg
  split
  · rfl
  · rw [List.set_eq_of_length_le h]

@[simp] theorem setReg_length (t : Thread) (a : Nat) (r : Reg) : (t.setReg a r).regs.length = t.regs.length := by
  unfold Thread.setReg; split <;> simp

/-- A result on its way changes no register yet. -/
@[simp] theorem result_regs (t : Thread) (a : Nat) (r : Reg) (due : Due) : (t.result a r due).regs = t.regs := by
  unfold Thread.result; split <;> rfl
@[simp] theorem result_reg (t : Thread) (a b : Nat) (r : Reg) (due : Due) : (t.result a r due).reg b = t.reg b := by
  simp [Thread.reg]
@[simp] theorem result_pc (t : Thread) (a : Nat) (r : Reg) (due : Due) : (t.result a r due).pc = t.pc := by
  unfold Thread.result; split <;> rfl
@[simp] theorem result_wb (t : Thread) (a : Nat) (r : Reg) (due : Due) : (t.result a r due).wb = t.wb := by
  unfold Thread.result; split <;> rfl
@[simp] theorem result_trap (t : Thread) (a : Nat) (r : Reg) (due : Due) : (t.result a r due).trap = t.trap := by
  unfold Thread.result; split <;> rfl
@[simp] theorem result_fpctl (t : Thread) (a : Nat) (r : Reg) (due : Due) : (t.result a r due).fpctl = t.fpctl := by
  unfold Thread.result; split <;> rfl
@[simp] theorem result_fpflags (t : Thread) (a : Nat) (r : Reg) (due : Due) : (t.result a r due).fpflags = t.fpflags := by
  unfold Thread.result; split <;> rfl
@[simp] theorem result_spills (t : Thread) (a : Nat) (r : Reg) (due : Due) : (t.result a r due).spills = t.spills := by
  unfold Thread.result; split <;> rfl
@[simp] theorem result_lane (t : Thread) (a : Nat) (r : Reg) (due : Due) : (t.result a r due).lane = t.lane := by
  unfold Thread.result; split <;> rfl
@[simp] theorem result_live (t : Thread) (a : Nat) (r : Reg) (due : Due) : (t.result a r due).live = t.live := by
  unfold Thread.result; split <;> rfl
@[simp] theorem result_strand (t : Thread) (a : Nat) (r : Reg) (due : Due) : (t.result a r due).strand = t.strand := by
  unfold Thread.result; split <;> rfl

/-- The result that a register waits for is the last one. -/
theorem result_last (t : Thread) {a : Nat} (r : Reg) (due : Due) (h : a ≠ 0) :
    (t.result a r due).pend.getLast? = some ⟨a, r, due, false, false⟩ := by
  simp [Thread.result, h]

/-- A group of results, the first apart. -/
theorem results_cons (t : Thread) (d : RegName) (due : Due) (i : Nat) (x : Reg) (xs : List Reg) :
    t.results d due i (x :: xs) = (t.result (archOf t.wb (member d i)) x due).results d due (i + 1) xs := rfl

@[simp] theorem results_nil (t : Thread) (d : RegName) (due : Due) (i : Nat) : t.results d due i [] = t := rfl

@[simp] theorem results_regs (t : Thread) (d : RegName) (due : Due) (i : Nat) (l : List Reg) :
    (t.results d due i l).regs = t.regs := by
  induction l generalizing t i with
  | nil => rfl
  | cons x xs ih => rw [results_cons, ih, result_regs]

@[simp] theorem results_pc (t : Thread) (d : RegName) (due : Due) (i : Nat) (l : List Reg) :
    (t.results d due i l).pc = t.pc := by
  induction l generalizing t i with
  | nil => rfl
  | cons x xs ih => rw [results_cons, ih, result_pc]

@[simp] theorem results_trap (t : Thread) (d : RegName) (due : Due) (i : Nat) (l : List Reg) :
    (t.results d due i l).trap = t.trap := by
  induction l generalizing t i with
  | nil => rfl
  | cons x xs ih => rw [results_cons, ih, result_trap]

@[simp] theorem results_fpflags (t : Thread) (d : RegName) (due : Due) (i : Nat) (l : List Reg) :
    (t.results d due i l).fpflags = t.fpflags := by
  induction l generalizing t i with
  | nil => rfl
  | cons x xs ih => rw [results_cons, ih, result_fpflags]

/-- A width-1 name and its member 0 are one (R228). -/
@[simp] theorem member_zero (r : RegName) : member r 0 = r := by simp [member]

end Sys2Proof.Machine
end

