-- ==== Sys2Proof/Laws/Ending.lean ====
section
/-! SUPPORT. What the performing of queued writes and sent atomics leaves of the machine (R76, R104, R268, R304): grids,
cores but for their counts of corrected errors, partitions, and of each block everything but memory, quarantine, forwarded values, strands' queues and the
registers and waits of its threads. -/

namespace Sys2Proof.Machine

/-- A core without its count of corrected errors (R68). -/
def Core.uncounted (c : Core) : Core := { c with corrected := 0 }

/-- What the performing of writes and atomics keeps of a block. -/
def Block.shape (b : Block) : (Nat × Nat × CopyKind × Nat × Place × Nat × Nat × MatrixSave) × List Bool × List Nat :=
  ((b.grid, b.num, b.copy, b.group, b.place, b.homeCore, b.status, b.matrix), b.threads.map (·.live), b.threads.map (·.lane))

/-- Two states that differ at most in what the performing of writes and atomics may change. -/
structure SameShape (s s' : State) : Prop where
  grids : s'.grids = s.grids
  cores : s'.cores.map Core.uncounted = s.cores.map Core.uncounted
  parts : s'.parts = s.parts
  qspindles : s'.qspindles = s.qspindles
  shapes : s'.blocks.map Block.shape = s.blocks.map Block.shape

theorem SameShape.refl (s : State) : SameShape s s := ⟨rfl, rfl, rfl, rfl, rfl⟩

theorem SameShape.trans {a b c : State} (h : SameShape a b) (k : SameShape b c) : SameShape a c :=
  ⟨k.1.trans h.1, k.2.trans h.2, k.3.trans h.3, k.4.trans h.4, k.5.trans h.5⟩

/-- Each block of the later state has the shape of the same block of the earlier one. -/
theorem SameShape.block {s s' : State} (h : SameShape s s') {k : Nat} {b : Block} (hb : s.blocks[k]? = some b) :
    ∃ x, s'.blocks[k]? = some x ∧ x.shape = b.shape := by
  have := congrArg (fun l => l[k]?) h.shapes
  simp only [List.getElem?_map, hb, Option.map_some, Option.map_eq_some_iff] at this
  exact this

theorem sameShape_modBlock (s : State) (k : Nat) {f : Block → Block} (h : ∀ b, (f b).shape = b.shape) :
    SameShape s (s.modBlock k f) := by
  refine ⟨rfl, rfl, rfl, rfl, ?_⟩
  apply List.ext_getElem?
  intro n
  simp only [State.modBlock, List.getElem?_map, List.getElem?_modify]
  cases s.blocks[n]? with
  | none => rfl
  | some b => by_cases hn : k = n <;> simp [hn, h]

theorem sameShape_want (s : State) (e : Event) : SameShape s (s.want e) := by
  unfold State.want; split <;> exact ⟨rfl, rfl, rfl, rfl, rfl⟩

theorem sameShape_modStrand (s : State) (blk k : Nat) (f : Strand → Strand) : SameShape s (s.modStrand blk k f) := by
  unfold State.modStrand
  generalize s.strandParts blk k = l
  induction l generalizing s with
  | nil => exact .refl s
  | cons p r ih =>
    rw [List.foldl_cons]
    refine SameShape.trans ?_ (ih _)
    exact sameShape_modBlock s p.1 (fun _ => rfl)

theorem sameShape_homeWrite (s : State) (l : Loc) (bytes : List Byte) (fill : Bool) : SameShape s (s.homeWrite l bytes fill) := by
  cases l with
  | win b off => exact sameShape_modBlock s b fun _ => rfl
  | phys pa => exact ⟨rfl, rfl, rfl, rfl, rfl⟩

/-- A write that fills no granule keeps the shape; a fill wakes the loads that wait for its granules (R59). -/
theorem sameShape_performWrite (s : State) {w : QWrite} (h : w.fill = false) : SameShape s (s.performWrite w) := by
  unfold State.performWrite
  split
  · exact sameShape_modBlock s _ fun _ => rfl
  · rw [h]; exact sameShape_homeWrite s _ _ _

/-- A change of one core that keeps all but its count of corrected errors. -/
theorem sameShape_modCore (s : State) (c : Nat) {f : Core → Core} (h : ∀ x, (f x).uncounted = x.uncounted) :
    SameShape s (s.modCore c f) := by
  refine ⟨rfl, ?_, rfl, rfl, rfl⟩
  apply List.ext_getElem?
  intro n
  simp only [State.modCore, List.getElem?_map, List.getElem?_modify]
  cases s.cores[n]? with
  | none => rfl
  | some b => by_cases hn : c = n <;> simp [hn, h]

/-- The correction of single-bit errors keeps the shape (R68). -/
theorem sameShape_correct (s : State) (l : Loc) (n : Nat) : SameShape s (s.correct l n) := by
  cases l with
  | phys pa =>
    exact ⟨rfl, rfl, rfl, rfl, rfl⟩
  | win b off =>
    simp only [State.correct]
    split
    · exact .refl s
    · split
      · exact .refl s
      · split
        · refine SameShape.trans ?_ (sameShape_modCore _ _ fun _ => rfl)
          exact sameShape_modBlock s _ fun _ => rfl
        · exact sameShape_modBlock s _ fun _ => rfl

/-- A fold of steps that each keep the shape keeps it. -/
theorem sameShape_foldl {α : Type} {f : State → α → State} (h : ∀ s a, SameShape s (f s a)) (l : List α) (s : State) :
    SameShape s (l.foldl f s) := by
  induction l generalizing s with
  | nil => exact .refl s
  | cons a r ih => exact (h s a).trans (ih _)

/-- Performing the queued writes of a strand keeps the shape where none of them is a fill. -/
theorem sameShape_drainStrand (s : State) (blk k : Nat)
    (h : ∀ st, s.strand? blk k = some st → ∀ w ∈ st.queue, w.fill = false) : SameShape s (s.drainStrand blk k) := by
  unfold State.drainStrand
  split
  · rename_i ws hw
    simp only [Option.map_eq_some_iff] at hw
    obtain ⟨st, hst, rfl⟩ := hw
    have hf := h st hst
    have h1 := sameShape_modStrand s blk k fun st => { st with queue := [] }
    revert hf h1
    generalize st.queue = l
    generalize s.modStrand blk k _ = s1
    intro hf h1
    induction l generalizing s1 with
    | nil => exact h1
    | cons w r ih =>
      exact ih (s1.performWrite w) (fun x hx => hf x (by simp [hx])) (h1.trans (sameShape_performWrite s1 (hf w (by simp))))
  · exact .refl s

theorem Block.shape_modThread (b : Block) (tid : Nat) {f : Thread → Thread} (hl : ∀ t, (f t).live = t.live)
    (hn : ∀ t, (f t).lane = t.lane) : (b.modThread tid f).shape = b.shape := by
  have key : ∀ {α : Type} (g : Thread → α), (∀ t, g (f t) = g t) → (b.threads.modify tid f).map g = b.threads.map g := by
    intro α g h
    apply List.ext_getElem?
    intro n
    simp only [List.getElem?_map, List.getElem?_modify]
    cases b.threads[n]? with
    | none => rfl
    | some t => by_cases hn : tid = n <;> simp [hn, h]
  simp only [Block.shape, Block.modThread, key _ hl, key _ hn]

theorem sameShape_modThread (s : State) (t : TRef) {f : Thread → Thread} (hl : ∀ t, (f t).live = t.live)
    (hn : ∀ t, (f t).lane = t.lane) : SameShape s (s.modThread t f) :=
  sameShape_modBlock s t.blk fun b => b.shape_modThread t.tid hl hn

theorem sameShape_atomDone (s : State) (t : TRef) (r : Rmw) (old : Addr) : SameShape s (s.atomDone t r old) :=
  sameShape_modThread s t (fun x => by simp only [Thread.unpark, Thread.atomResult]; split <;> simp)
    (fun x => by simp only [Thread.unpark, Thread.atomResult]; split <;> simp)

theorem Block.shape_overtaken (b : Block) (l : Loc) (n : Nat) : (b.overtaken l n).shape = b.shape := by
  cases l <;> rfl

theorem sameShape_performFor (s : State) (blk : Nat) (r : Rmw) : SameShape s (s.performFor blk r).1 :=
  ((sameShape_correct s _ _).trans (sameShape_homeWrite _ _ _ _)).trans (sameShape_modBlock _ _ fun b => b.shape_overtaken _ _)

theorem sameShape_atomReturn (s : State) (t : TRef) (r : Rmw) (old : Addr) : SameShape s (s.atomReturn t r old) := by
  unfold State.atomReturn
  dsimp only
  split
  · refine SameShape.trans (SameShape.trans (sameShape_atomDone s t r old) ?_) (sameShape_want _ _)
    exact sameShape_modBlock _ _ (fun _ => rfl)
  · exact sameShape_atomDone s t r old

theorem sameShape_copyRmw (s : State) (blk : Nat) (r : Rmw) (old : Addr) : SameShape s (s.copyRmw blk r old) := by
  unfold State.copyRmw
  split
  · exact sameShape_homeWrite ..
  · exact sameShape_modBlock s _ fun b => b.shape_overtaken _ _

theorem sameShape_atomForwarded (s : State) (t : TRef) (r : Rmw) : SameShape s (s.atomForwarded t r) := by
  unfold State.atomForwarded
  split
  · split
    · refine SameShape.trans (SameShape.trans ?_ (sameShape_copyRmw _ _ _ _)) (sameShape_atomDone _ _ _ _)
      exact sameShape_modBlock s _ (fun _ => rfl)
    · exact .refl s
  · exact .refl s

theorem sameShape_wantForwarded (s : State) (blk : Nat) : SameShape s (s.wantForwarded blk) :=
  sameShape_foldl (fun _ _ => sameShape_want _ _) _ s

theorem sameShape_atomicPerform (s : State) (t : TRef) : SameShape s (s.atomicPerform t) := by
  unfold State.atomicPerform
  split
  · exact .refl s
  · split
    · exact .refl s
    · split
      · exact (sameShape_atomForwarded s t _).trans (sameShape_wantForwarded _ _)
      · split
        · exact .refl s
        · exact (sameShape_performFor s _ _).trans (sameShape_atomReturn _ t _ _)

/-- Performing every atomic that a block's threads have sent keeps the shape. -/
theorem sameShape_finishAtomics (s : State) (blk : Nat) : SameShape s (s.finishAtomics blk) :=
  sameShape_foldl (fun s t => sameShape_atomicPerform s t) _ s

end Sys2Proof.Machine
end

