-- ==== Sys2Proof/Laws/Issue.lean ====
section
/-! SUPPORT. What running one issue can do (R133, R134, R211, R244): the lemmas of `runLanes`, `run` and `runLocal` for an
issue of one lane. -/

namespace Sys2Proof.Machine

@[simp] theorem deliver_nil (s : State) (i : Option Instr) : s.deliver [] i = s := rfl

@[simp] theorem deliverIssued_nil (s : State) (st : Stall) (i : Option Instr) : s.deliverIssued st [] i = s := rfl

@[simp] theorem deliveredTraps_nil : deliveredTraps [] = [] := rfl

/-- One raised cause is the delivered one. -/
theorem deliveredTraps_one (x : LaneTrap) : deliveredTraps [x] = [x] := by
  simp [deliveredTraps, chosenTrap]

/-- A lane whose checks hold runs its body. -/
theorem lane_checked {i : Instr} {s : State} {t : TRef} {th : Thread} (h : Checked i s t th)
    (ht : s.issuable t = some th) (body : Body) : s.lane i body t = body s t th := by
  have hr : (((Instr.rangeGroups (s.laneWords t.blk) i).flatMap (Group.archs th.wb)).any fun a =>
      decide (max 1 th.regs.length ≤ a)) = false := by
    rw [List.any_eq_false]; intro a ha; simp only [decide_eq_true_eq, not_le]; exact h.inRange a ha
  have hc : (th.chk && th.early (s.core s.issue.core).cycles (Instr.archs (s.laneWords t.blk) th.wb i)) = false := by
    cases hk : th.chk
    · rfl
    · simpa [hk] using h.onTime hk
  simp only [State.lane, ht, hr, hc]; rfl

/-- What an issue of one lane leaves, by what its body did. -/
def afterLane (i : Instr) (t : TRef) (st : Stall) : Lane → State
  | .next s => s.modThread t fun th => (th.issued st s.issue.word).advance
  | .go s => s.modThread t (Thread.issued st s.issue.word)
  | .stay s => s
  | .trap s c sub aux => s.deliverIssued st [⟨t, c, sub, aux⟩] (some i)

/-- An issue of one lane whose checks hold. -/
theorem runLanes_one {i : Instr} {s : State} {t : TRef} {th : Thread} (h : OneLane i s t th) (st : Stall) (body : Body) :
    s.runLanes i st body = afterLane i t st (body s t th) := by
  have hl := lane_checked h.toChecked h.thread body
  unfold State.runLanes
  simp only [h.lanes, List.head?_cons, Option.map_some, Option.getD_some, h.aligned, List.foldl_cons, List.foldl_nil,
    laneStep, hl]
  cases body s t th <;> simp [afterLane]

/-- An instruction of one lane, run. -/
theorem run_one {i : Instr} {s : State} {t : TRef} {th : Thread} (h : OneLane i s t th) (st : Stall) (body : Body) :
    s.run i st body = .next (afterLane i t st (body s t th)) := by
  rw [State.run, runLanes_one h]

/-- Two changes of one thread, of which the later keeps nothing of the earlier. -/
theorem modThread_const (s : State) (t : TRef) (a : Thread) (f : Thread → Thread) :
    (s.modThread t fun _ => a).modThread t f = s.modThread t fun _ => f a := by
  have hb : ∀ b : Block, (b.modThread t.tid fun _ => a).modThread t.tid f = b.modThread t.tid fun _ => f a := by
    intro b; simp only [Block.modThread, List.modify_modify_eq]; rfl
  simp only [State.modThread, State.modBlock, List.modify_modify_eq]
  congr 2
  funext b
  exact hb b

/-- A thread-local instruction of one lane that goes on. -/
theorem runLocal_next {i : Instr} {s : State} {t : TRef} {th th' : Thread} (h : OneLane i s t th) (st : Stall)
    {f : TCtx → Thread → TLane} (hf : f (s.tctx t) th = .next th') : s.runLocal i st f = .next (s.goOn t st th') := by
  simp only [State.runLocal, runLanes_one h, localBody, hf, afterLane]
  rw [modThread_const]; rfl

/-- A thread-local instruction of one lane that sets the pc itself. -/
theorem runLocal_go {i : Instr} {s : State} {t : TRef} {th th' : Thread} (h : OneLane i s t th) (st : Stall)
    {f : TCtx → Thread → TLane} (hf : f (s.tctx t) th = .go th') : s.runLocal i st f = .next (s.goThere t st th') := by
  simp only [State.runLocal, runLanes_one h, localBody, hf, afterLane]
  rw [modThread_const]; rfl

/-- A thread-local instruction of one lane that raises a cause. -/
theorem runLocal_trap {i : Instr} {s : State} {t : TRef} {th th' : Thread} {c sub : Nat} (h : OneLane i s t th) (st : Stall)
    {f : TCtx → Thread → TLane} (hf : f (s.tctx t) th = .trap th' c sub) :
    s.runLocal i st f = .next ((s.modThread t fun _ => th').deliverIssued st [⟨t, c, sub, 0⟩] (some i)) := by
  simp only [State.runLocal, runLanes_one h, localBody, hf, afterLane]

/-- Every instruction that runs lane by lane goes on. -/
theorem run_goes (s : State) (i : Instr) (st : Stall) (body : Body) : Goes (s.run i st body) := ⟨_, rfl⟩

/-- Every thread-local instruction goes on. -/
theorem runLocal_goes (s : State) (i : Instr) (st : Stall) (f : TCtx → Thread → TLane) : Goes (s.runLocal i st f) := ⟨_, rfl⟩

end Sys2Proof.Machine
end

