-- ==== Sys2Proof/Laws/Memory.lean ====
section
/-! SUPPORT. Memory as a list of cells: every operation keeps the canonical form, a read after a write gives the byte
written, and a write leaves every other address alone. -/

namespace Sys2Proof.Machine

/-! ### The canonical form -/

/-- The canonical form of a list with a head. -/
theorem Mem.wfFrom_cons {lo : Option Nat} {k : Nat} {v : Byte} {r : List Host.Cell} :
    Mem.wfFrom lo ((k, v) :: r) = true ↔ (∀ l, lo = some l → l < k) ∧ v ≠ Mem.blank ∧ Mem.wfFrom (some k) r = true := by
  cases lo <;> simp [Mem.wfFrom, and_assoc]

/-- A list in canonical form above a bound is so above any lower one. -/
theorem Mem.wfFrom_mono {lo lo' : Option Nat} {m : List Host.Cell} (h : Mem.wfFrom lo m = true)
    (hl : ∀ l', lo' = some l' → ∃ l, lo = some l ∧ l' ≤ l) : Mem.wfFrom lo' m = true := by
  cases m with
  | nil => rfl
  | cons c r =>
    obtain ⟨k, v⟩ := c
    rw [Mem.wfFrom_cons] at h ⊢
    refine ⟨fun l' e => ?_, h.2⟩
    obtain ⟨l, hl1, hl2⟩ := hl l' e
    exact lt_of_le_of_lt hl2 (h.1 l hl1)

/-- A write keeps the form and the bound below. -/
theorem Mem.wfFrom_put {lo : Option Nat} {m : List Host.Cell} {a : Nat} (b : Byte) (h : Mem.wfFrom lo m = true)
    (hlo : ∀ l, lo = some l → l < a) : Mem.wfFrom lo (Mem.put m a b) = true := by
  induction m generalizing lo with
  | nil =>
    rw [Mem.put]
    split
    · rfl
    · rename_i hb; exact Mem.wfFrom_cons.mpr ⟨hlo, hb, rfl⟩
  | cons c r ih =>
    obtain ⟨k, v⟩ := c
    have h' := Mem.wfFrom_cons.mp h
    obtain ⟨h1, h2, h3⟩ := h'
    rw [Mem.put]
    by_cases hk : k = a
    · subst hk
      rw [if_pos rfl]
      by_cases hb : b = Mem.blank
      · rw [if_pos hb]
        exact Mem.wfFrom_mono h3 fun l e => ⟨k, rfl, le_of_lt (h1 l e)⟩
      · rw [if_neg hb]
        exact Mem.wfFrom_cons.mpr ⟨hlo, hb, h3⟩
    · rw [if_neg hk]
      by_cases ha : a < k
      · rw [if_pos ha]
        by_cases hb : b = Mem.blank
        · rw [if_pos hb]; exact h
        · rw [if_neg hb]
          exact Mem.wfFrom_cons.mpr ⟨hlo, hb, Mem.wfFrom_cons.mpr ⟨fun l e => by cases e; exact ha, h2, h3⟩⟩
      · rw [if_neg ha]
        exact Mem.wfFrom_cons.mpr ⟨h1, h2, ih h3 fun l e => by cases e; omega⟩

/-- A write of one byte keeps the canonical form. -/
theorem Mem.wf_put {m : List Host.Cell} (a : Nat) (b : Byte) (h : Mem.wf m = true) : Mem.wf (Mem.put m a b) = true :=
  Mem.wfFrom_put b h fun _ e => by cases e

/-- A write of bytes keeps the canonical form. -/
theorem Mem.wf_putN {m : List Host.Cell} (a : Nat) (bs : List Byte) (h : Mem.wf m = true) : Mem.wf (Mem.putN m a bs) = true := by
  induction bs generalizing m a with
  | nil => exact h
  | cons b r ih => exact ih (a + 1) (Mem.wf_put a b h)

/-- A write of a list of cells keeps the canonical form. -/
theorem Mem.wf_putAll {m : List Host.Cell} (l : List Host.Cell) (h : Mem.wf m = true) : Mem.wf (Mem.putAll m l) = true := by
  induction l generalizing m with
  | nil => exact h
  | cons c r ih => exact ih (Mem.wf_put c.1 c.2 h)

/-- A part of a list in canonical form is so. -/
theorem Mem.wfFrom_filter {lo : Option Nat} {m : List Host.Cell} (p : Host.Cell → Bool) (h : Mem.wfFrom lo m = true) :
    Mem.wfFrom lo (m.filter p) = true := by
  induction m generalizing lo with
  | nil => rfl
  | cons c r ih =>
    obtain ⟨k, v⟩ := c
    obtain ⟨h1, h2, h3⟩ := Mem.wfFrom_cons.mp h
    by_cases hp : p (k, v) = true
    · rw [List.filter_cons_of_pos hp]
      exact Mem.wfFrom_cons.mpr ⟨h1, h2, ih h3⟩
    · rw [List.filter_cons_of_neg hp]
      exact Mem.wfFrom_mono (ih h3) fun l e => ⟨k, rfl, le_of_lt (h1 l e)⟩

/-- Making bytes blank keeps the canonical form. -/
theorem Mem.wf_erase {m : List Host.Cell} (a n : Nat) (h : Mem.wf m = true) : Mem.wf (Mem.erase m a n) = true :=
  Mem.wfFrom_filter _ h

/-- A copy keeps the canonical form. -/
theorem Mem.wf_move {m : List Host.Cell} (src dst n : Nat) (h : Mem.wf m = true) : Mem.wf (Mem.move m src dst n) = true :=
  Mem.wf_putAll _ (Mem.wf_erase dst n h)

/-- The memories after reset are in canonical form. -/
theorem reset_memOk : State.reset.memOk = true := by decide

/-! ### Reading and writing -/

/-- The read of a list with a head. -/
theorem Mem.get_cons (k : Nat) (v : Byte) (r : List Host.Cell) (a : Nat) :
    Mem.get ((k, v) :: r) a = if k = a then v else if a < k then Mem.blank else Mem.get r a := rfl

/-- Below its lowest address a list in canonical form reads as blank. -/
theorem Mem.get_below {k a : Nat} {m : List Host.Cell} (h : Mem.wfFrom (some k) m = true) (ha : a ≤ k) :
    Mem.get m a = Mem.blank := by
  cases m with
  | nil => rfl
  | cons c r =>
    obtain ⟨j, v⟩ := c
    have hj : k < j := (Mem.wfFrom_cons.mp h).1 k rfl
    rw [Mem.get_cons, if_neg (by omega), if_pos (by omega)]

/-- What a read gives after a write to one address. -/
theorem Mem.get_put {lo : Option Nat} {m : List Host.Cell} (h : Mem.wfFrom lo m = true) (a c : Nat) (b : Byte) :
    Mem.get (Mem.put m a b) c = if c = a then b else Mem.get m c := by
  induction m generalizing lo with
  | nil =>
    rw [Mem.put]
    by_cases hb : b = Mem.blank
    · by_cases hc : c = a <;> simp [hb, Mem.get, hc]
    · rw [if_neg hb, Mem.get_cons]
      by_cases hc : c = a
      · simp [hc]
      · rw [if_neg (fun e => hc e.symm), if_neg hc]; simp [Mem.get]
  | cons d r ih =>
    obtain ⟨k, v⟩ := d
    have ht : Mem.wfFrom (some k) r = true := (Mem.wfFrom_cons.mp h).2.2
    rw [Mem.put]
    by_cases hk : k = a
    · subst hk
      rw [if_pos rfl]
      by_cases hb : b = Mem.blank
      · rw [if_pos hb]
        by_cases hc : c = k
        · rw [if_pos hc, hb, hc]; exact Mem.get_below ht le_rfl
        · rw [if_neg hc, Mem.get_cons, if_neg (fun e => hc e.symm)]
          by_cases hck : c < k
          · rw [if_pos hck]; exact Mem.get_below ht (le_of_lt hck)
          · rw [if_neg hck]
      · rw [if_neg hb, Mem.get_cons]
        by_cases hc : c = k
        · rw [if_pos hc, if_pos hc.symm]
        · have hkc : ¬ k = c := fun e => hc e.symm
          simp only [Mem.get_cons, if_neg hc, if_neg hkc]
    · rw [if_neg hk]
      by_cases hak : a < k
      · rw [if_pos hak]
        by_cases hb : b = Mem.blank
        · rw [if_pos hb]
          by_cases hc : c = a
          · rw [if_pos hc, hb, hc, Mem.get_cons, if_neg hk, if_pos hak]
          · rw [if_neg hc]
        · rw [if_neg hb, Mem.get_cons a]
          by_cases hc : c = a
          · rw [if_pos hc, if_pos hc.symm]
          · rw [if_neg hc, if_neg (fun e => hc e.symm)]
            by_cases hca : c < a
            · rw [if_pos hca, Mem.get_cons, if_neg (by omega), if_pos (by omega)]
            · rw [if_neg hca]
      · rw [if_neg hak, Mem.get_cons, Mem.get_cons]
        by_cases hkc : k = c
        · have hca : ¬ c = a := fun e => hk (hkc.trans e)
          rw [if_pos hkc, if_pos hkc, if_neg hca]
        · rw [if_neg hkc, if_neg hkc]
          by_cases hck : c < k
          · have hca : ¬ c = a := by omega
            rw [if_pos hck, if_pos hck, if_neg hca]
          · rw [if_neg hck, if_neg hck]; exact ih ht

/-- What a read gives after a write of bytes. -/
theorem Mem.get_putN {m : List Host.Cell} (h : Mem.wf m = true) (a c : Nat) (bs : List Byte) :
    Mem.get (Mem.putN m a bs) c = if a ≤ c ∧ c < a + bs.length then bs.getD (c - a) 0 else Mem.get m c := by
  induction bs generalizing m a with
  | nil => simp [Mem.putN]
  | cons b r ih =>
    rw [Mem.putN, ih (Mem.wf_put a b h) (a + 1), Mem.get_put h]
    simp only [List.length_cons]
    by_cases hc : c = a
    · subst hc; simp
    · by_cases hr : a + 1 ≤ c ∧ c < a + 1 + r.length
      · have : a ≤ c ∧ c < a + (r.length + 1) := by omega
        have he : c - a = (c - (a + 1)) + 1 := by omega
        rw [if_pos hr, if_pos this, he, List.getD_cons_succ]
      · have : ¬ (a ≤ c ∧ c < a + (r.length + 1)) := by omega
        rw [if_neg hr, if_neg hc, if_neg this]

/-- A list of bytes read. -/
@[simp] theorem Mem.getN_length (m : List Host.Cell) (a n : Nat) : (Mem.getN m a n).length = n := by
  induction n generalizing a with
  | zero => rfl
  | succ n ih => simp [Mem.getN, ih]

/-- A span that a write does not meet reads as before. -/
theorem Mem.getN_putN_other {m : List Host.Cell} (h : Mem.wf m = true) (a c n : Nat) (bs : List Byte)
    (hd : c + n ≤ a ∨ a + bs.length ≤ c) : Mem.getN (Mem.putN m a bs) c n = Mem.getN m c n := by
  induction n generalizing c with
  | zero => rfl
  | succ n ih =>
    simp only [Mem.getN]
    rw [Mem.get_putN h, if_neg (by omega), ih (c + 1) (by omega)]

/-- The span of a write reads as written. -/
theorem Mem.getN_putN_same {m : List Host.Cell} (h : Mem.wf m = true) (a : Nat) (bs : List Byte) :
    Mem.getN (Mem.putN m a bs) a bs.length = bs := by
  have key : ∀ (n : Nat) (l : List Byte) (c : Nat), (∀ i, i < n → Mem.get (Mem.putN m a bs) (c + i) = l.getD i 0) → l.length = n →
      Mem.getN (Mem.putN m a bs) c n = l := by
    intro n
    induction n with
    | zero => intro l c _ hl; exact (List.length_eq_zero_iff.mp hl).symm ▸ rfl
    | succ n ih =>
      intro l c hi hl
      cases l with
      | nil => simp at hl
      | cons x r =>
        simp only [Mem.getN]
        have h0 := hi 0 (Nat.succ_pos n)
        simp only [Nat.add_zero, List.getD_cons_zero] at h0
        rw [h0, ih r (c + 1) (fun i hin => by have := hi (i + 1) (by omega); rw [List.getD_cons_succ] at this; rw [← this]; congr 1; omega)
          (by simpa using hl)]
  refine key bs.length bs a (fun i hi => ?_) rfl
  rw [Mem.get_putN h, if_pos (by omega)]
  congr 1; omega

/-! ### Bytes and numbers (R9) -/

@[simp] theorem leBytes_length (n v : Nat) : (leBytes n v).length = n := by
  induction n generalizing v with
  | zero => rfl
  | succ n ih => simp [leBytes, ih]

/-- The number that n little-endian bytes of a number hold. -/
theorem leNat_leBytes (n v : Nat) : leNat (leBytes n v) = v % 256 ^ n := by
  induction n generalizing v with
  | zero => simp [leBytes, leNat, Nat.mod_one]
  | succ n ih =>
    simp only [leBytes, leNat, ih, BitVec.toNat_ofNat]
    have h : v % 256 ^ (n + 1) = v % 256 + 256 * (v / 256 % 256 ^ n) := by
      rw [pow_succ, Nat.mul_comm (256 ^ n) 256, Nat.mod_mul]
    exact h.symm

/-- The word that the bytes of a word hold. -/
theorem wordOf_wordBytes (w : Word) : wordOf (wordBytes w) = w := by
  have hl : (wordBytes w).take 4 = wordBytes w := by
    apply List.take_of_length_le; simp [wordBytes]
  rw [wordOf, hl, wordBytes, leNat_leBytes, Word.ofNat]
  apply BitVec.eq_of_toNat_eq
  have := w.isLt
  simp only [BitVec.toNat_ofNat]
  omega

end Sys2Proof.Machine
end

