-- ==== Sys2Proof/Laws/Steps.lean ====
section
/-! SUPPORT. The step: an agent's own step is the meaning of its row of the opcode table, and what `step` runs. -/

namespace Sys2Proof.Machine

@[simp] theorem runEvent_walkMigReread (blk tid : Nat) (s : State) :
    runEvent (.walkMigReread blk tid) s = exec (.walkMigReread blk tid) s := rfl
@[simp] theorem runEvent_variableResultArrive (blk tid reg : Nat) (s : State) :
    runEvent (.variableResultArrive blk tid reg) s = exec (.variableResultArrive blk tid reg) s := rfl
@[simp] theorem runEvent_fixedLatencyResult (blk tid reg : Nat) (s : State) :
    runEvent (.fixedLatencyResult blk tid reg) s = exec (.fixedLatencyResult blk tid reg) s := rfl
@[simp] theorem runEvent_storeQueueDrain (blk strand : Nat) (s : State) :
    runEvent (.storeQueueDrain blk strand) s = exec (.storeQueueDrain blk strand) s := rfl
@[simp] theorem runEvent_atomicRmwPerform (blk tid : Nat) (s : State) :
    runEvent (.atomicRmwPerform blk tid) s = exec (.atomicRmwPerform blk tid) s := rfl
@[simp] theorem runEvent_hangTimeout (blk tid : Nat) (s : State) :
    runEvent (.hangTimeout blk tid) s = exec (.hangTimeout blk tid) s := rfl
@[simp] theorem runEvent_starvationTimeout (blk tid : Nat) (s : State) :
    runEvent (.starvationTimeout blk tid) s = exec (.starvationTimeout blk tid) s := rfl
@[simp] theorem runEvent_yieldExpiry (blk tid : Nat) (s : State) :
    runEvent (.yieldExpiry blk tid) s = exec (.yieldExpiry blk tid) s := rfl
@[simp] theorem runEvent_bobbinDraw (core bob : Nat) (s : State) :
    runEvent (.bobbinDraw core bob) s = exec (.bobbinDraw core bob) s := rfl
@[simp] theorem runEvent_deal (part : Nat) (s : State) :
    runEvent (.deal part) s = exec (.deal part) s := rfl
@[simp] theorem runEvent_blockEnd (blk : Nat) (s : State) :
    runEvent (.blockEnd blk) s = exec (.blockEnd blk) s := rfl
@[simp] theorem runEvent_blockSave (blk : Nat) (s : State) :
    runEvent (.blockSave blk) s = exec (.blockSave blk) s := rfl
@[simp] theorem runEvent_blockRestore (blk : Nat) (s : State) :
    runEvent (.blockRestore blk) s = exec (.blockRestore blk) s := rfl
@[simp] theorem runEvent_migration (part : Nat) (va : Addr) (toNear : Bool) (s : State) :
    runEvent (.migration part va toNear) s = exec (.migration part va toNear) s := rfl
@[simp] theorem runEvent_shootdown (core part : Nat) (va : Addr) (len : Nat) (fetched : Bool) (s : State) :
    runEvent (.shootdown core part va len fetched) s = exec (.shootdown core part va len fetched) s := rfl
@[simp] theorem runEvent_shootdownAck (core : Nat) (s : State) :
    runEvent (.shootdownAck core) s = exec (.shootdownAck core) s := rfl
@[simp] theorem runEvent_dirtyLogDrain (part : Nat) (s : State) :
    runEvent (.dirtyLogDrain part) s = exec (.dirtyLogDrain part) s := rfl
@[simp] theorem runEvent_poisonClear (part page : Nat) (s : State) :
    runEvent (.poisonClear part page) s = exec (.poisonClear part page) s := rfl
@[simp] theorem runEvent_engineCommandStart (core q : Nat) (s : State) :
    runEvent (.engineCommandStart core q) s = exec (.engineCommandStart core q) s := rfl
@[simp] theorem runEvent_engineChunk (core q : Nat) (granules : List Nat) (s : State) :
    runEvent (.engineChunk core q granules) s = exec (.engineChunk core q granules) s := rfl
@[simp] theorem runEvent_tokenDeposit (core q : Nat) (s : State) :
    runEvent (.tokenDeposit core q) s = exec (.tokenDeposit core q) s := rfl
@[simp] theorem runEvent_streamElement (core blk strand q : Nat) (s : State) :
    runEvent (.streamElement core blk strand q) s = exec (.streamElement core blk strand q) s := rfl
@[simp] theorem runEvent_collCombine (core : Nat) (remote : List CollShare) (s : State) :
    runEvent (.collCombine core remote) s = exec (.collCombine core remote) s := rfl
@[simp] theorem runEvent_collPeerTimeout (core : Nat) (s : State) :
    runEvent (.collPeerTimeout core) s = exec (.collPeerTimeout core) s := rfl
@[simp] theorem runEvent_launchQueueAdvance (core : Nat) (s : State) :
    runEvent (.launchQueueAdvance core) s = exec (.launchQueueAdvance core) s := rfl
@[simp] theorem runEvent_drawQueueAdvance (core : Nat) (s : State) :
    runEvent (.drawQueueAdvance core) s = exec (.drawQueueAdvance core) s := rfl
@[simp] theorem runEvent_queueRefill (ofPart : Bool) (idx q : Nat) (s : State) :
    runEvent (.queueRefill ofPart idx q) s = exec (.queueRefill ofPart idx q) s := rfl
@[simp] theorem runEvent_queueQuotaRestore (blk : Nat) (s : State) :
    runEvent (.queueQuotaRestore blk) s = exec (.queueQuotaRestore blk) s := rfl
@[simp] theorem runEvent_replayNodeReady (part rep node : Nat) (s : State) :
    runEvent (.replayNodeReady part rep node) s = exec (.replayNodeReady part rep node) s := rfl
@[simp] theorem runEvent_replayNodeComplete (part rep node : Nat) (s : State) :
    runEvent (.replayNodeComplete part rep node) s = exec (.replayNodeComplete part rep node) s := rfl
@[simp] theorem runEvent_completionRecord (part rep : Nat) (s : State) :
    runEvent (.completionRecord part rep) s = exec (.completionRecord part rep) s := rfl
@[simp] theorem runEvent_mmaArray (core : Nat) (s : State) :
    runEvent (.mmaArray core) s = exec (.mmaArray core) s := rfl
@[simp] theorem runEvent_mdrainArray (core : Nat) (s : State) :
    runEvent (.mdrainArray core) s = exec (.mdrainArray core) s := rfl
@[simp] theorem runEvent_mzeroExec (core : Nat) (s : State) :
    runEvent (.mzeroExec core) s = exec (.mzeroExec core) s := rfl
@[simp] theorem runEvent_mloadcExec (core : Nat) (s : State) :
    runEvent (.mloadcExec core) s = exec (.mloadcExec core) s := rfl
@[simp] theorem runEvent_mhistExec (core : Nat) (s : State) :
    runEvent (.mhistExec core) s = exec (.mhistExec core) s := rfl
@[simp] theorem runEvent_mhclrExec (core : Nat) (s : State) :
    runEvent (.mhclrExec core) s = exec (.mhclrExec core) s := rfl
@[simp] theorem runEvent_mwaitDeposit (core : Nat) (s : State) :
    runEvent (.mwaitDeposit core) s = exec (.mwaitDeposit core) s := rfl
@[simp] theorem runEvent_mcJoinTimeout (core : Nat) (s : State) :
    runEvent (.mcJoinTimeout core) s = exec (.mcJoinTimeout core) s := rfl
@[simp] theorem runEvent_msignReleaseComplete (blk tid : Nat) (s : State) :
    runEvent (.msignReleaseComplete blk tid) s = exec (.msignReleaseComplete blk tid) s := rfl
@[simp] theorem runEvent_rasteriseTile (draw tile : Nat) (s : State) :
    runEvent (.rasteriseTile draw tile) s = exec (.rasteriseTile draw tile) s := rfl
@[simp] theorem runEvent_layerInsert (blk tid : Nat) (s : State) :
    runEvent (.layerInsert blk tid) s = exec (.layerInsert blk tid) s := rfl
@[simp] theorem runEvent_layerPoolGrow (part : Nat) (target : Addr) (s : State) :
    runEvent (.layerPoolGrow part target) s = exec (.layerPoolGrow part target) s := rfl
@[simp] theorem runEvent_lclrExec (core : Nat) (s : State) :
    runEvent (.lclrExec core) s = exec (.lclrExec core) s := rfl
@[simp] theorem runEvent_seal (blk tid : Nat) (s : State) :
    runEvent (.seal blk tid) s = exec (.seal blk tid) s := rfl
@[simp] theorem runEvent_serviceCallPerform (blk tid : Nat) (s : State) :
    runEvent (.serviceCallPerform blk tid) s = exec (.serviceCallPerform blk tid) s := rfl
@[simp] theorem runEvent_retiredEmulation (blk tid : Nat) (s : State) :
    runEvent (.retiredEmulation blk tid) s = exec (.retiredEmulation blk tid) s := rfl
@[simp] theorem runEvent_preemptRequest (part : Nat) (cores : List Nat) (s : State) :
    runEvent (.preemptRequest part cores) s = exec (.preemptRequest part cores) s := rfl
@[simp] theorem runEvent_drawGraceExpiry (core : Nat) (s : State) :
    runEvent (.drawGraceExpiry core) s = exec (.drawGraceExpiry core) s := rfl

/-- With the dies without power only POWER_UP runs. -/
theorem step_dark (s : State) (h : s.power = false) :
    step s = match s.agenda with
      | .event (.powerUp fw) :: r => exec (.powerUp fw) { s with agenda := r }
      | _ => .fault .poweredOff := by
  unfold step
  rw [h]
  rcases s.agenda with _ | ⟨⟨i⟩ | ⟨c, i⟩ | ⟨c⟩, r⟩ <;> try rfl
  cases i <;> rfl

/-- An event that is due runs first. -/
theorem step_due (s : State) (e : Event) (r : List Event) (hp : s.power = true) (hd : s.due = e :: r) :
    step s = runEvent e { s with due := r } := by
  unfold step; rw [hp, hd]

/-- An event given from outside runs next, unless it is one of the host link that waits for an earlier one (R377). -/
theorem step_event (s : State) (i : Instr) (r : List Turn) (hp : s.power = true) (hd : s.due = [])
    (ha : s.agenda = .event i :: r) (hw : s.hostWaits i = false) : step s = exec i { s with agenda := r } := by
  have h : step s = stepEvent none i r s := by unfold step; rw [hp, hd, ha]
  simp [h, stepEvent, hw]

/-- A request of a source, which is the host's own only where none waits before it (R377), acts where it may (R376). -/
theorem step_request (s : State) (src : Nat) (i : Instr) (r : List Turn) (hp : s.power = true) (hd : s.due = [])
    (ha : s.agenda = .request src i :: r) (hw : src ≠ hostSource ∨ s.hostWaits i = false) :
    step s = if manages i = true ∧ s.svc.owner ≠ some src then .next { s with agenda := r } else exec i { s with agenda := r } := by
  have h : step s = stepEvent (some src) i r s := by unfold step; rw [hp, hd, ha]
  have hf : (s.hostWaits i && src == hostSource) = false := by
    rcases hw with hw | hw
    · simp [hw]
    · simp [hw]
  rw [h, stepEvent, Option.getD_some, hf]
  by_cases hm : manages i = true <;> by_cases ho : s.svc.owner = some src <;> simp [hm, ho]

/-- A turn given to a core from outside. -/
theorem step_core (s : State) (c : Nat) (r : List Turn) (hp : s.power = true) (hd : s.due = [])
    (ha : s.agenda = .core c :: r) : step s = stepCore c { s with agenda := r } := by
  unfold step; rw [hp, hd, ha]

/-- Without either, the agents and the cores act. -/
theorem step_quiet (s : State) (hp : s.power = true) (hd : s.due = []) (ha : s.agenda = []) : step s = stepQuiet s := by
  unfold step; rw [hp, hd, ha]

end Sys2Proof.Machine
end

