-- ==== Sys2Proof/Tests/Slice0.lean ====
section
/-! SUPPORT. Tests on fixed values: an ill-formed term for each check, words of the spec's encodings, single steps with results
worked out from the rules by hand, and for each statement with hypotheses a state and operands that meet them. -/

namespace Sys2Proof.Tests

open Sys2Proof Sys2Proof.Machine

/-! ### Ill-formed terms -/

/-- R232: 0x0009 is not a special register. -/
theorem test_wf_movs : Instr.wf (.movs 0 0x0009 0) = false := by decide
/-- R232. -/
theorem test_wf_movts : Instr.wf (.movts 0 0x0422 0) = false := by decide
/-- R230: a window base is a multiple of 32 up to 128. -/
theorem test_wf_winb : Instr.wf (.winb 33 0) = false := by decide
/-- R235: src = dst. -/
theorem test_wf_cvt : Instr.wf (.cvt 0 0 .f16 .f16 false .rne 0) = false := by decide
/-- R267: n from 1 to 16. -/
theorem test_wf_brkn : (Instr.wf (.brkn 0 0), Instr.wf (.brkn 17 0)) = (false, false) := by decide
/-- R237: the exact operations have no v1 form. -/
theorem test_wf_exact : [Instr.fabs 0 0 .v1 0, .fneg 0 0 .v1 0, .ffloor 0 0 .v1 0, .fceil 0 0 .v1 0, .fround 0 0 .v1 0,
    .ftrunc 0 0 .v1 0, .ffrac 0 0 .v1 0].all (fun i => !i.wf) = true := by decide
/-- R238. -/
theorem test_wf_rediadd : Instr.wf (.rediadd 0 0 .f32 0) = false := by decide
/-- R241: FADD of n32, and a group that is not that of the kind. -/
theorem test_wf_atomic : [Instr.atomc 0 0 ⟨.fadd, .n32, false⟩ .w1 0, .atomq 0 0 ⟨.add, .f32, false⟩ .w1 0,
    .atomd 0 0 ⟨.cas, .n32, false⟩ .w1 0, .atomp 0 0 ⟨.add, .n64, false⟩ .w1 0, .atomx 0 0 ⟨.min, .f32, false⟩ false 0].all
    (fun i => !i.wf) = true := by decide
/-- R242: 32 core spindles, 16 quad spindles. -/
theorem test_wf_spindle : [Instr.qacq false 32 0, .qfill 0 true 16 0, .qtake 0 false 32 0, .qdone true 16 0, .qtry 0 false 511 0].all
    (fun i => !i.wf) = true := by decide
/-- R242: 16, 8, 8, 4 and 4 barriers. -/
theorem test_wf_barrier : [Instr.bararr 0 .core 16 0, .barwait .quad 8 0, .bar 0 .die 8 0, .bar 0 .pkg 4 0, .bar 0 .pod 4 0].all
    (fun i => !i.wf) = true := by decide
/-- R311: an empty mask. -/
theorem test_wf_qfence : Instr.wf (.qfence 0 0) = false := by decide
/-- R319: 16 convergence registers. -/
theorem test_wf_msign : (Instr.wf (.msignBind 16 0 0), Instr.wf (.msignRelease 16 0)) = (false, false) := by decide
/-- R2: 24 partitions. -/
theorem test_wf_partition : [Instr.deal 24, .migration 24 0 true, .shootdown 0 24 0 0 false, .dirtyLogDrain 24, .poisonClear 24 0,
    .kick 24 0, .resume 24, .hostackContinue 24 0, .hostackPoolgrow 24 0 0, .hostackPoolmerge 24 0, .controlWindowWrite 24 0 0,
    .graphUpload 24 [], .codeObjectLoad 24 [] [], .codeObjectUnload 24 0, .keyRegister 24 [] false].all (fun i => !i.wf) = true := by
  decide
/-- R3: 72 cores with nine queues. -/
theorem test_wf_core : [Instr.shootdown 72 0 0 0 false, .shootdownAck 72, .engineCommandStart 0 9, .engineChunk 72 0 [],
    .tokenDeposit 0 9, .withheldCycle 72].all (fun i => !i.wf) = true := by decide
/-- R3: 128 slices. -/
theorem test_wf_slice : [Instr.patrolScrub 128 0, .retentionEntry 128, .retentionExit 128 []].all (fun i => !i.wf) = true := by decide
/-- R373: the registers are 8 bytes wide, in a window of 32 KiB. -/
theorem test_wf_window : (Instr.wf (.controlWindowWrite 0 4 0), Instr.wf (.controlWindowWrite 0 0x8000 0)) = (false, false) := by
  decide
/-- R376: 8 ports. -/
theorem test_wf_port : Instr.wf (.portFailure 8) = false := by decide

/-! ### Words of the spec -/

/-- The words of integer, control and system instructions that the spec writes out. -/
theorem test_words_integer : [decode 0x022050C4, decode 0x56000100, decode 0x52180000, decode 0x5A1C3100, decode 0x7C000000,
    decode 0x5C102820] = [some (.iadd 8 10 12 .w2 0), some (.winb 64 0), some (.movs 6 0 0), some (.cvt 7 6 .f16 .f32 false .rne 0),
    some (.nop 0), some (.ballot 4 5 0)] := by decide
/-- The floating and ply words. -/
theorem test_words_float : [decode 0x928CDA23, decode 0xA08D18D0, decode 0xAE44A100] =
    [some (.fmul 35 27 34 .w1 3), some (.fexp 35 35 .f32 0), some (.plyset 17 20 0 0)] := by decide
/-- The memory words. -/
theorem test_words_memory : [decode 0xBC105020, decode 0xC2105020, decode 0xFA105020, decode 0xC8606008, decode 0xCE605034,
    decode 0xD0505034, decode 0xD2000130, decode 0xDA2053D8, decode 0xDE00A00C, decode 0xE050000C] =
    [some (.ldw 4 10 2 .w1 0), some (.stw 4 10 2 .w1 0), some (.ldwv 4 10 2 .w1 0), some (.ldfe 24 12 0 .w4 0),
     some (.lda 24 10 .pkg true 0), some (.stl 20 10 .pkg true 0), some (.fenceRel .pkg 0),
     some (.atomp 8 10 ⟨.cas, .n64, true⟩ .w4 0), some (.spl 20 3 0), some (.fil 20 3 0)] := by decide
/-- The words of queues, engines, matrix, graphics and traversal. -/
theorem test_words_engine : [decode 0xE220800C, decode 0xE4008000, decode 0xE6008000, decode 0xEA008000, decode 0xEC002000,
    decode 0xEE1840A0, decode 0xF01C6000, decode 0xF2380040, decode 0xF6C12020, decode 0xF8604000] =
    [some (.qtake 8 false 3 0), some (.bcopy 16 0), some (.stream 16 0), some (.coll 16 0), some (.msignBind 0 4 0),
     some (.mma 6 8 10 0), some (.mdrain 7 12 0 0), some (.mwait 14 0), some (.lres 48 36 0), some (.trvbox 24 8 0)] := by decide
/-- The majors 0x00 and 0x7F, and a reserved width code. -/
theorem test_words_refused : [decode 0, decode 0xFFFFFFFF, decode 0x56000104] = [none, none, none] := by decide

/-! ### Helpers of the witnesses -/

/-- The checks of `OneLane`, as a Bool. -/
def oneLane (i : Instr) (s : State) (t : TRef) (th : Thread) : Bool :=
  (misalignedSub (Instr.groups (s.laneWords t.blk) i)).isNone &&
  ((Instr.rangeGroups (s.laneWords t.blk) i).flatMap (Group.archs th.wb)).all (fun a => a < max 1 th.regs.length) &&
  !(th.chk && th.early (s.core s.issue.core).cycles (Instr.archs (s.laneWords t.blk) th.wb i)) &&
  s.issue.lanes == [t] && s.issuable t == some th

theorem oneLane_spec {i s t th} (h : oneLane i s t th = true) : OneLane i s t th := by
  simp only [oneLane, Bool.and_eq_true, Option.isNone_iff_eq_none, List.all_eq_true, decide_eq_true_eq, Bool.not_eq_true',
    Bool.and_eq_false_imp, beq_iff_eq] at h
  exact ⟨⟨h.1.1.1.1, h.1.1.1.2, h.1.1.2⟩, h.1.2, h.2⟩

theorem lanes_ok {l : List Instr} {s t th} (h : l.all (fun i => oneLane i s t th) = true) : ∀ i ∈ l, OneLane i s t th :=
  fun i hi => oneLane_spec (List.all_eq_true.1 h i hi)

/-- The thread of the tests, with a handler and given registers. -/
def thr (regs : List (Nat × Word)) : Thread :=
  { Thread.start placeKernel .main 0 0 128 with
    trap := ⟨false, 0, 0, 0, 0, 0, 0, 0x2000⟩
    regs := regs.foldl (fun l x => l.set x.1 (Reg.plain x.2)) (List.replicate 128 (Reg.plain 0)) }

/-- A kernel with two plies, spill slots, a traversal stack, a spindle and barriers. -/
def ker : Kernel := { placeKernel with d := 2, spill := 8, trvBase := 64, trvN := 4, cspin := 1, barriers := [1, 1, 1, 1, 1] }

/-- The block of one thread on core 0, with an extent that maps the page at 0x10000 to the frame 0x200. -/
def blk (th : Thread) : Block :=
  { placeBlock 0 with threads := [th], memSize := 4096, spindles := [(0, Spindle.fresh)], extents := [⟨16, 1, 0x200, 0, true, true⟩] }

/-- The machine with one block, about to issue its first thread. -/
def mach (b : Block) : State :=
  { State.reset with
    blocks := [b]
    grids := [{ placeGrid 1 with kernel := ker }]
    issue := ⟨0, 0, [⟨0, 0⟩], 0x1000, 0⟩
    parts := { Part.reset with tbEn := true, cores := [0] } :: List.replicate 23 Part.reset }

/-- Registers: v8:2 is the own window, v10:2 the page of the extent, v12:2 lies beyond 48 bits, v14:2 = 2, v16 = 0x80000000,
v18:2 is the window's offset 4096, v20 holds a signalling NaN, v21 is -1.0, v22 = 3. -/
def th0 : Thread := thr [(9, 0xFF00), (10, 0x10000), (13, 0x10000), (14, 2), (16, 0x80000000), (18, 0x1000), (19, 0xFF00),
  (20, 0x7FA00000), (21, 0xBF800000), (22, 3)]

/-- The machine of that thread. -/
def s0 : State := mach (blk th0)

/-- Its one thread. -/
def t0 : TRef := ⟨0, 0⟩

set_option maxRecDepth 100000

/-! ### Witnesses: registers and control -/

theorem witness_IntegerSums : ∀ i ∈ [Instr.iadd 4 8 12 .w4 0, .isub 1 2 3 .w1 0, .imul 8 16 24 .w8 0, .imulh 2 4 6 .w2 0,
    .imulhn 1 1 1 .w1 0, .imad 1 2 3 .w1 0, .add64 4 8 12 0, .sub64 4 4 4 0, .mul64 2 4 6 0, .madw 4 1 2 0, .addpi 4 8 511 0,
    .addi 1 2 256 0, .andi 1 2 511 0, .ori 1 2 511 0, .xori 1 2 511 0, .shli 1 2 31 0, .shri 1 2 31 0, .sari 1 16 31 0,
    .isetlti 1 16 0 0, .muli 1 2 256 0, .lui 1 0xFFFF 0, .orlo 1 0xFFFF 0, .movi 1 0x8000 0], OneLane i s0 t0 th0 :=
  lanes_ok (by decide)

theorem witness_IntegerBitsAndChoices : ∀ i ∈ [Instr.and 1 2 3 .w1 0, .or 1 2 3 .w1 0, .xor 1 2 3 .w1 0, .andn 4 8 12 .w4 0,
    .shl 1 16 22 .w1 0, .shr 1 16 22 .w1 0, .sar 1 16 22 .w1 0, .shfr 1 8 22 0, .imin 1 16 22 .w1 0, .imax 1 16 22 .w1 0,
    .iminn 1 16 22 .w1 0, .imaxn 1 16 22 .w1 0, .iset 1 16 22 .lt 0, .isetn 1 16 22 .ne 0, .sel 1 2 3 .w1 0, .bfx 1 16 22 .w1 0,
    .bfi 1 16 22 .w1 0], OneLane i s0 t0 th0 := lanes_ok (by decide)

theorem witness_IntegerUnaryAndDivision : ∀ i ∈ [Instr.mov 8 16 .w8 0, .not 1 2 0, .ineg 1 16 0, .iabs 1 16 0, .popc 1 16 0,
    .clz 1 0 0, .ctz 1 16 0, .brev 1 16 0, .sext8 1 16 0, .sext16 1 16 0, .zext8 1 16 0, .zext16 1 16 0, .idiv 16 0 0,
    .idivn 16 22 0, .irem 16 0 0, .iremn 16 22 0], OneLane i s0 t0 th0 := lanes_ok (by decide)

/-- The thread with the invalid operation enabled. -/
def thNv : Thread := { th0 with fpctl := 1 }

/-- The machine of that thread. -/
def sNv : State := mach (blk thNv)

/-- Both cases of FADD, FSUB, FMUL, FFMA, FMIN, FMAX, FCMP, FCMPM and FDIV: on 0 without a trap, on a signalling NaN with. -/
theorem witness_FloatArithmetic :
    (∀ i ∈ [Instr.fadd 1 2 3 .w1 0, .fsub 1 2 3 .w1 0, .fmul 1 2 3 .w1 0, .ffma 1 2 3 .w1 0, .fmin 1 2 3 .w1 0, .fmax 1 2 3 .w1 0,
      .fcmp 1 2 3 .lt 0, .fcmpm 2 2 3 .lt 0, .fdiv 1 2 3 .w1 0], OneLane i sNv t0 thNv) ∧
    (∀ i ∈ [Instr.fadd 1 20 3 .w1 0, .fcmp 1 20 3 .eq 0], OneLane i sNv t0 thNv) ∧
    enabledCause thNv.fpctl (flagsOf (fpEach 1 2 3 1 (fun n x y _ => faddReg n x y) sNv t0 thNv)) = none ∧
    enabledCause thNv.fpctl (flagsOf (fpEach 1 20 3 1 (fun n x y _ => faddReg n x y) sNv t0 thNv)) = some 0x10 :=
  ⟨lanes_ok (by decide), lanes_ok (by decide), by decide, by decide⟩

theorem witness_FloatFunctions :
    (∀ i ∈ [Instr.fabs 1 2 .f32 0, .fneg 1 2 .f16 0, .ffloor 1 2 .bf16 0, .fceil 1 2 .f32 0, .fround 1 2 .f32 0, .ftrunc 1 2 .f32 0,
      .ffrac 1 2 .f32 0, .fsqrt 1 21 .f32 0, .frcp 1 2 .v1 0, .frsq 1 2 .f32 0, .fexp2 1 2 .f32 0, .flog2 1 2 .f32 0,
      .fexp 1 2 .f32 0, .flog 1 2 .f32 0, .fsinpi 1 2 .f32 0, .fcospi 1 2 .f32 0, .ftanh 1 2 .f32 0, .fsigm 1 2 .f32 0,
      .fgelu 1 2 .f32 0, .ferf 1 2 .f32 0, .cvt 1 2 .f32 .i32 true .rz 0], OneLane i sNv t0 thNv) ∧
    enabledCause thNv.fpctl (flagsOf (fpOne 2 (funReg .sqrt .f32) sNv t0 thNv)) = none ∧
    enabledCause thNv.fpctl (flagsOf (fpOne 21 (funReg .sqrt .f32) sNv t0 thNv)) = some 0x10 :=
  ⟨lanes_ok (by decide), by decide, by decide⟩

theorem witness_PackedAndDerivatives :
    (∀ i ∈ [Instr.padd2 1 2 3 false 0, .pmul2 1 2 3 true 0, .pfma2 1 2 3 false 0, .pmax2 1 2 3 false 0, .pmin2 1 2 3 true 0,
      .drev 1 2 4 .w2 0, .dflip 1 2 4 .w2 0], OneLane i sNv t0 thNv) ∧
    enabledCause thNv.fpctl (flagsOf (fpEach 1 2 3 1 (packed2 false Fmt.addOp) sNv t0 thNv)) = none ∧
    enabledCause thNv.fpctl (flagsOf (fpEach 1 23 3 1 (packed2 false Fmt.addOp) sNv t0
      { thNv with regs := thNv.regs.set 23 (Reg.plain 0x7D007D00) })) = some 0x10 :=
  ⟨lanes_ok (by decide), by decide, by decide⟩

/-- Plies 0 and 1 lie below D = 2, ply 2 does not. -/
theorem witness_PlyGroup :
    (∀ i ∈ [Instr.plyget 1 2 1 0, .plyset 1 2 1 0, .plyzero 1 1 0, .plylose 1 0, .plytag 1 2 0, .plyclrk 1 0, .plyget 1 2 2 0,
      .plyset 1 2 2 0, .plyzero 1 2 0], OneLane i s0 t0 th0) ∧
    (1#4).toNat < s0.plyN 0 ∧ s0.plyN 0 ≤ (2#4).toNat := ⟨lanes_ok (by decide), by decide, by decide⟩

theorem witness_SpecialRegisters :
    (∀ i ∈ [Instr.movs 1 0x0300 0, .movts 1 0x0300 0, .movts 1 0x0500 0, .winb 128 0, .cycles 2 0], OneLane i s0 t0 th0) ∧
    (0x0300#16 ≠ 0x0500#16) := ⟨lanes_ok (by decide), by decide⟩

/-- The number that the last clause about the thread speaks of is any but those of a thread's registers. -/
theorem witness_SpecialRegisterWrites : 0x0000 ∉ [0x0101, 0x0102, 0x0107, 0x0108, 0x0201, 0x0300, 0x0301, 0x0503] := by decide

/-- Slot 7 lies below the depth of 8, slot 8 does not. -/
theorem witness_SpillSlots :
    (∀ i ∈ [Instr.spl 1 7 0, .fil 1 7 0, .spl 1 8 0, .fil 1 8 0], OneLane i s0 t0 th0) ∧
    (7#9).toNat < (s0.kernel 0).spill ∧ (s0.kernel 0).spill ≤ (8#9).toNat := ⟨lanes_ok (by decide), by decide, by decide⟩

theorem witness_Branches :
    (∀ i ∈ [Instr.brz 1 0xFFFF 0, .brnz 16 1 0, .brltz 16 1 0, .brgez 1 1 0], OneLane i s0 t0 th0) ∧
    th0.val 1 = 0 ∧ th0.val 16 ≠ 0 ∧ (th0.val 16).toInt < 0 ∧ 0 ≤ (th0.val 1).toInt :=
  ⟨lanes_ok (by decide), by decide, by decide, by decide, by decide⟩

theorem witness_JumpsAndCalls :
    (∀ i ∈ [Instr.jmp 0x400000 0, .call 1 0, .jmpi 1 false 0, .calli 1 false 0, .jmpi 8 true 0, .calli 8 true 0, .jmpi 12 true 0,
      .calli 12 true 0], OneLane i s0 t0 th0) ∧ (th0.pair 8).toNat < 2 ^ 48 ∧ 2 ^ 48 ≤ (th0.pair 12).toNat :=
  ⟨lanes_ok (by decide), by decide, by decide⟩

/-- The thread with an entry on its overflow stack, one at a depth of 64, the machine with an entry of the thread in the rejoin file, and
the machine with its strand in serial mode. -/
def thOv : Thread := { th0 with overflow := [(0x1100, 0x1000)] }
def thDeep : Thread := { th0 with overflow := List.replicate 64 (0x1100, 0x1000) }
def sRj : State := mach { blk th0 with strands := [{ Strand.start .main 0 0 with rejoin := [⟨0x1014, 0x1000, [t0], [], false⟩] }] }
def sSer : State := mach { blk th0 with strands := [{ Strand.start .main 0 0 with serial := true }] }

/-- JPUSH into the empty file, of the top's label, in serial mode and at a depth of 64; REJOIN with an overflow entry, without any, and
with an entry. -/
theorem witness_RejoinFile :
    (∀ i ∈ [Instr.jpush 4 0, .rejoin 0, .brkn 16 0], OneLane i s0 t0 th0) ∧ (s0.strandOf t0 th0).serial = false ∧
    (s0.strandOf t0 th0).depth t0 + th0.overflow.length < 64 ∧ (s0.strandOf t0 th0).rejoin.length < 16 ∧
    OneLane (.rejoin 0) (mach (blk thOv)) t0 thOv ∧ thOv.overflow = (0x1100, 0x1000) :: [] ∧
    th0.overflow = [] ∧ (s0.strandOf t0 th0).depth t0 = 0 ∧
    (∀ i ∈ [Instr.jpush 4 0, .rejoin 0], OneLane i sRj t0 th0) ∧ (sRj.strandOf t0 th0).depth t0 ≠ 0 ∧
    ((sRj.strandOf t0 th0).rejoin.head?.map fun e => decide (e.pc = th0.pc + 4 + BitVec.ofInt 64 ((4#23).toInt * 4) ∧ e.at_ = th0.pc)) =
      some true ∧
    OneLane (.jpush 4 0) sSer t0 th0 ∧ (sSer.strandOf t0 th0).serial = true ∧
    OneLane (.jpush 4 0) (mach (blk thDeep)) t0 thDeep ∧ 64 ≤ thDeep.overflow.length :=
  ⟨lanes_ok (by decide), by decide, by decide, by decide, oneLane_spec (by decide), by decide, by decide, by decide,
    lanes_ok (by decide), by decide, by decide, oneLane_spec (by decide), by decide, oneLane_spec (by decide), by decide⟩

/-- A thread that yields. -/
def thYield : Thread := { th0 with yield := 16 }

theorem witness_ThreadControl :
    (∀ i ∈ [Instr.nop 0, .yield 0, .isync 0], OneLane i s0 t0 th0) ∧ (mach (blk thYield)).thread? t0 = some thYield ∧
    1 < thYield.yield := ⟨lanes_ok (by decide), rfl, by decide⟩

/-- A thread with a result on its way; a bound thread, with a machine in which its register has an open round that it signed; the two copies
of a doubled block; and a core without a free bobbin. -/
def thPend : Thread := { th0 with pend := [⟨1, Reg.plain 0, none, false, false⟩] }
def thBound : Thread := { th0 with cv := some (0, 0) }
def sOpen : State := (mach (blk thBound)).modCore 0 fun c => { c with cvs := [⟨2, 0, some 0, 2, 1, [⟨0, .mzero 0, [t0]⟩]⟩] }
def sDb : State :=
  { s0 with blocks := [{ blk th0 with copy := .leading 1 }, { blk th0 with copy := .trailing 0, place := .onCore 1 }] }
def sNoBob : State := s0.modCore 0 fun c => { c with bobbins := [] }

theorem witness_ExitAndReform :
    (∀ i ∈ [Instr.exit 0, .reform 0], OneLane i s0 t0 th0) ∧ s0.exitWaits 0 t0 th0 = false ∧ s0.isDoubled 0 = false ∧
    OneLane (.exit 0) sOpen t0 thBound ∧ sOpen.exitWaits 0 t0 thBound = true ∧
    OneLane (.exit 0) sDb t0 th0 ∧ sDb.exitWaits 0 t0 th0 = false ∧ sDb.isDoubled 0 = true ∧ th0.sealed = false ∧
    OneLane (.reform 0) (mach (blk thPend)) t0 thPend ∧ thPend.pend ≠ [] ∧ th0.pend = [] ∧
    (s0.drainStrand 0 th0.strand).thread? t0 = some th0 ∧ 0 < (s0.drainStrand 0 th0.strand).cores.length ∧
    pickBobbin ((s0.drainStrand 0 th0.strand).core 0).bobbins (s0.bobbinKey t0 th0) = some 0 ∧
    OneLane (.reform 0) sNoBob t0 th0 ∧ pickBobbin ((sNoBob.drainStrand 0 th0.strand).core 0).bobbins (sNoBob.bobbinKey t0 th0) = none :=
  ⟨lanes_ok (by decide), by decide, by decide, oneLane_spec (by decide), by decide, oneLane_spec (by decide), by decide, by decide,
    by decide, oneLane_spec (by decide), by decide, by decide, by decide, by decide, by decide, oneLane_spec (by decide), by decide⟩

/-! ### Witnesses: memory -/

/-- The state of a translation. -/
def Xl.state : Xl → State
  | .ok s _ => s
  | .fault s _ _ _ => s
  | .wait s => s
  | .exit s => s

/-- Loads from the own window, and from the page of the extent. -/
theorem witness_Loads :
    (∀ i ∈ [Instr.ldb 1 8 0 0, .ldbs 1 8 0 0, .ldh 1 8 0 0, .ldhs 1 8 0 0, .ldw 24 8 0 .w8 0], OneLane i s0 t0 th0) ∧
    Reaches s0 t0 .load (mAddr th0 8 0 1) 1 s0 (.win 0 0) ∧ Reaches s0 t0 .load (mAddr th0 8 63 2) 2 s0 (.win 0 126) ∧
    Reaches s0 t0 .load (mAddr th0 8 0 32) 32 s0 (.win 0 0) ∧ Reaches s0 t0 .load (mAddr th0 10 1 32) 32 (Xl.state (s0.translate t0 .load (mAddr th0 10 1 32))) (.phys 0x200020) ∧
    s0.homeBad (.win 0 0) 32 = false ∧ (Xl.state (s0.translate t0 .load (mAddr th0 10 1 32))).homeBad (.phys 0x200020) 32 = false :=
  ⟨lanes_ok (by decide), ⟨by decide, by decide, rfl⟩, ⟨by decide, by decide, rfl⟩, ⟨by decide, by decide, rfl⟩,
    ⟨by decide, by decide, rfl⟩, by decide, by decide⟩

theorem witness_Stores :
    (∀ i ∈ [Instr.stb 22 8 0 0, .sth 22 8 0 0, .stw 24 8 0 .w4 0], OneLane i s0 t0 th0) ∧
    Reaches s0 t0 .store (mAddr th0 8 0 1) 1 s0 (.win 0 0) ∧ Reaches s0 t0 .store (mAddr th0 8 0 2) 2 s0 (.win 0 0) ∧
    Reaches s0 t0 .store (mAddr th0 10 1 16) 16 (Xl.state (s0.translate t0 .store (mAddr th0 10 1 16))) (.phys 0x200010) ∧ s0.isDoubled 0 = false ∧
    OneLane (.stw 22 10 0 .w1 0) sDb t0 th0 ∧ Reaches sDb t0 .store (mAddr th0 10 0 4) 4 (Xl.state (sDb.translate t0 .store (mAddr th0 10 0 4))) (.phys 0x200000) ∧
    sDb.isDoubled 0 = true :=
  ⟨lanes_ok (by decide), ⟨by decide, by decide, rfl⟩, ⟨by decide, by decide, rfl⟩, ⟨by decide, by decide, rfl⟩, by decide,
    oneLane_spec (by decide), ⟨by decide, by decide, rfl⟩, by decide⟩

theorem witness_Forwarding : s0.strand? 0 0 = some (Strand.start .main 0 0) ∧ (Strand.start .main 0 0).joint = none ∧
    (Strand.start .main 0 0).queue = [] ∧ ((s0.blocks[t0.blk]?).map (·.quarantine)).getD [] = [] ∧
    (∃ b o, Loc.win 0 4 = .win b o) ∧ ∃ p, Loc.phys 0x200000 = .phys p :=
  ⟨rfl, rfl, rfl, rfl, ⟨0, 4, rfl⟩, 0x200000, rfl⟩

/-- The machine with one write queued. -/
def sQ (l : Loc) : State := mach { blk th0 with strands := [{ Strand.start .main 0 0 with queue := [⟨t0, l, [1, 2, 3, 4], false⟩] }] }

theorem witness_StoreQueueDrain : ∀ l ∈ [Loc.phys 0x200000, .win 0 16], ∃ st w, (sQ l).strand? 0 0 = some st ∧ st.joint = none ∧
    st.queue = w :: [] ∧ w.loc = l ∧ w.fill = false ∧ (sQ l).memOk = true ∧
    ((sQ l).blocks[w.t.blk]?).map Block.doubled ≠ some true ∧
    ∀ b, (sQ l).blocks[0]? = some b → ∀ x ∈ b.threads, ∀ i, x.park ≠ some (.granule i) := by
  intro l hl
  refine ⟨_, _, rfl, rfl, rfl, rfl, rfl, ?_, ?_, ?_⟩
  · revert l; decide
  · revert l; decide
  · intro b hb x hx i
    obtain rfl : b = _ := (Option.some.inj hb).symm
    obtain rfl := List.mem_singleton.1 hx
    exact nofun

/-- R58: the offset 4096 lies beyond the allocation of 4096 bytes. -/
theorem fault_beyond : s0.xlat 0 0 false .load 0xFF0000001000#64 = .fault s0 0x21 0x0A (0xFF0000001000#64).toNat := by
  have h : s0.aperture 0 (0xFF0000001000#64).toNat = .error 0x0A := by rfl
  rw [State.xlat, if_neg (by decide), if_neg (by decide), if_pos (by decide), h]

/-- Each outcome of the checks: beyond 48 bits, misaligned, a fault; and each of an aperture address. -/
theorem witness_AccessChecks :
    (∀ i ∈ [Instr.ldw 1 12 0 .w1 0, .stw 1 14 0 .w1 0, .ldw 1 18 0 .w1 0], OneLane i s0 t0 th0) ∧
    2 ^ 48 ≤ (mAddr th0 12 0 4).toNat ∧ (mAddr th0 14 0 4).toNat < 2 ^ 48 ∧ (mAddr th0 14 0 4).toNat % 4 ≠ 0 ∧
    (mAddr th0 18 0 4).toNat % 4 = 0 ∧ (mAddr th0 18 0 4) = 0xFF0000001000#64 ∧
    s0.xlat 0 0 false .load 0xFF0000001000#64 = .fault s0 0x21 0x0A (0xFF0000001000#64).toNat ∧
    s0.blocks[t0.blk]? = some (blk th0) ∧ (blk th0).group = 0 ∧ (mAddr th0 18 0 4).extractLsb' 32 32 = 0xFF00 ∧
    [0xFF0000000FFC#64, 0xFF0000001000#64, 0xFF0000080000#64, 0xFF0000200000#64, 0xFF0000400000#64].all
      (fun ea => ea.extractLsb' 32 32 == 0xFF00) = true :=
  ⟨lanes_ok (by decide), by decide, by decide, by decide, by decide, by decide, fault_beyond, rfl, rfl, by decide, by decide⟩

/-- The machine with the granule at offset 0 full. -/
def sFull : State := mach { blk th0 with full := [0] }

theorem witness_FullEmpty : mAddr th0 8 0 4 = BitVec.ofNat 64 (0xFF0000000000 + 0) ∧
    (∀ i ∈ [Instr.stfe 22 8 0 .w1 0, .ldfe 1 8 0 .w1 0, .ldfec 1 8 0 .w1 0], OneLane i sFull t0 th0 ∧ OneLane i s0 t0 th0) ∧
    (∃ b k, sFull.blocks[t0.blk]? = some b ∧ sFull.strand? 0 0 = some k ∧ k.joint = none ∧ k.queue = [] ∧
      (∀ x ∈ b.threads, x.park = none) ∧ 0 < b.memSize ∧ b.spanFull 0 4 = true ∧ sFull.homeBad (.win 0 0) 4 = false) ∧
    ∃ b, s0.blocks[t0.blk]? = some b ∧ b.spanFull 0 4 = false := by
  refine ⟨by decide, fun i hi => ⟨?_, ?_⟩, ⟨_, _, rfl, rfl, rfl, rfl, ?_, by decide, by decide, by decide⟩, _, rfl, by decide⟩
  · revert i; exact lanes_ok (by decide)
  · revert i; exact lanes_ok (by decide)
  · intro x hx
    obtain rfl := List.mem_singleton.1 hx
    rfl

theorem witness_AcquireRelease :
    (∀ i ∈ [Instr.lda 2 8 .core true 0, .stl 2 8 .pod false 0, .fenceAcq .sys 0, .fenceRel .pkg 0, .fenceAcqrel .quad 0,
      .fenceSc .pod 0, .fenceTable .die 0, .fenceIfetch .core 0], OneLane i s0 t0 th0) ∧
    Reaches s0 t0 .load (th0.pair 8) 8 s0 (.win 0 0) ∧ s0.homeBad (.win 0 0) 8 = false ∧
    Reaches s0 t0 .store (th0.pair 8) 4 s0 (.win 0 0) ∧ th0.sealed = false ∧ s0.isDoubled 0 = false :=
  ⟨lanes_ok (by decide), ⟨by decide, by decide, rfl⟩, by decide, ⟨by decide, by decide, rfl⟩, rfl, by decide⟩

/-- A frame of one f32 value and two partials in the own window, with the stride of 4 of reset. -/
theorem witness_TangentFrames :
    let es := (mAddr th0 8 0 4, 4) :: (List.range 2).map fun i => (mAddr th0 8 0 4 + Addr.ofNat ((i + 1) * 4), 4)
    (∀ i ∈ [Instr.ldt 1 8 0 .f32 0, .stt 22 8 0 .f32 0], OneLane i s0 t0 th0) ∧ th0.plystride.toNat = 4 ∧ (s0.kernel 0).d = 2 ∧
    (s0.kernel 0).partBytes = 4 ∧ frameBytes .f32 = 4 ∧ (∀ e ∈ es, e.1.toNat < 2 ^ 48 ∧ e.1.toNat % e.2 = 0) ∧
    (s0.elems t0 .load es).stop = none ∧ (s0.elems t0 .load es).poison = none ∧
    (s0.elems t0 .load es).s.firstError ((s0.elems t0 .load es).locs.zip (es.map (·.2))) = none ∧
    (s0.elems t0 .plan es).stop = none ∧ (s0.elems t0 .plan es).poison = none ∧
    enabledCause th0.fpctl (cvtFloat (frameFmt .f32) .rne false (th0.get 22).v).2.1 = none ∧
    ((s0.elems t0 .plan es).s.elems t0 .store es).stop = none ∧ ((s0.elems t0 .plan es).s.elems t0 .store es).poison = none ∧
    ((s0.elems t0 .plan es).s.elems t0 .store es).s.isDoubled 0 = false :=
  ⟨lanes_ok (by decide), by decide, by decide, by decide, by decide, by decide, rfl, rfl, rfl, rfl, rfl, by decide, rfl, rfl, by decide⟩

/-- ATOMC reaches its own window; ATOMD does not reach it, and reaches the page of the extent. -/
theorem witness_AtomicsIssue :
    (∀ i ∈ [Instr.atomc 1 8 ⟨.add, .n32, false⟩ .w1 0, .atomq 1 8 ⟨.xchg, .f32, true⟩ .w1 0, .atomd 1 10 ⟨.add, .n32, false⟩ .w1 0,
      .atomp 2 10 ⟨.add, .n64, false⟩ .w2 0, .atomx 1 10 ⟨.fadd, .f32, false⟩ false 0], OneLane i s0 t0 th0) ∧
    Reaches s0 t0 .probe (th0.pair 8) 4 s0 (.win 0 0) ∧ Reaches s0 t0 .rmw (th0.pair 8) 4 s0 (.win 0 0) ∧
    Reaches s0 t0 .probe (th0.pair 10) 4 (Xl.state (s0.translate t0 .probe (th0.pair 10))) (.phys 0x200000) ∧
    Reaches s0 t0 .rmw (th0.pair 10) 8 (Xl.state (s0.translate t0 .rmw (th0.pair 10))) (.phys 0x200000) ∧
    0x200000 / 2 ^ 46 = s0.pkg.toNat ∧ th0.sealed = false ∧ s0.isDoubled 0 = false ∧ s0.thread? t0 = some th0 ∧
    s0.homeBad (.win 0 0) 4 = false ∧ s0.homeBad (.phys 0x200000) 8 = false :=
  ⟨lanes_ok (by decide), ⟨by decide, by decide, rfl⟩, ⟨by decide, by decide, rfl⟩, ⟨by decide, by decide, rfl⟩,
    ⟨by decide, by decide, rfl⟩, by decide, rfl, by decide, rfl, by decide, by decide⟩

/-- A thread that waits for its compare and swap. -/
def rmw0 : Rmw := ⟨.cas, .n64, .phys 0x200000, 5, 0, 2, (0, 0, 0), 0⟩
def thA : Thread := { th0 with park := some (.atomic rmw0) }

theorem witness_AtomicPerformed : (mach (blk thA)).thread? t0 = some thA ∧ thA.park = some (.atomic rmw0) ∧
    rmw0.loc = .phys 0x200000 ∧ ((mach (blk thA)).blocks[t0.blk]?).map (·.copy) = some .single ∧
    (mach (blk thA)).lowerLaneWaits rmw0 = false ∧ (mach (blk thA)).memOk = true :=
  ⟨rfl, rfl, rfl, rfl, by decide, by decide⟩

/-! ### Witnesses: traps -/

/-- The thread in its handler, and one without a handler. -/
def thIn : Thread := { th0 with trap := ⟨true, 0x18, 0x1000, 1, 0, 0, 0x022050C4, 0x2000⟩ }
def thNo : Thread := { th0 with trap := { th0.trap with vec := 0 } }

theorem witness_TrapEntry : s0.thread? t0 = some th0 ∧ th0.trap.inHandler = false ∧ th0.trap.vec ≠ 0 ∧
    (mach (blk thIn)).thread? t0 = some thIn ∧ thIn.trap.inHandler = true ∧ (mach (blk thNo)).thread? t0 = some thNo ∧
    thNo.trap.vec = 0 ∧ s0.blocks[t0.blk]? = some (blk th0) ∧
    ∀ y ∈ [(⟨t0, 0x22, 0x01, 0⟩ : LaneTrap)], y.cause = 0x22 :=
  ⟨rfl, rfl, by decide, rfl, rfl, rfl, rfl, rfl, by decide⟩

/-- Two threads of one strand, of which the second reads a signalling NaN with the invalid operation enabled. -/
def thX : Thread := { thNv with regs := th0.regs.set 2 (Reg.plain 0x7FA00000), lane := 1 }
def s2 : State := { mach { blk th0 with threads := [thNv, thX] } with issue := ⟨0, 0, [t0, ⟨0, 1⟩], 0x1000, 0⟩ }

theorem witness_CauseSelection :
    (∀ x ∈ [(⟨t0, 0x10, 0, 0⟩ : LaneTrap), ⟨⟨0, 1⟩, 0x20, 0x02, 7⟩], x.cause ∈ causeOrder) ∧
    (∀ s, exec (.fadd 1 2 3 .w1 0) s = s.runLocal (.fadd 1 2 3 .w1 0) 0 (fp3 1 2 3 1 TCtx.dueB fun n x y _ => faddReg n x y)) ∧
    s2.issue.lanes = [⟨0, 1⟩, t0].reverse ∧ s2.issuable t0 = some thNv ∧ s2.issuable ⟨0, 1⟩ = some thX ∧
    (∃ a, fp3 1 2 3 1 TCtx.dueB (fun n x y _ => faddReg n x y) (s2.tctx ⟨0, 1⟩) thX = .trap a 0x10 0) ∧
    ∃ b, fp3 1 2 3 1 TCtx.dueB (fun n x y _ => faddReg n x y) (s2.tctx t0) thNv = .next b :=
  ⟨by decide, fun _ => rfl, rfl, rfl, rfl, ⟨_, rfl⟩, _, rfl⟩

/-- The thread with the early-access check on and a result on its way to v1, and one with 16 registers. -/
def thChk : Thread := { th0 with chk := true, pend := [⟨1, Reg.plain 0, some (2, false), false, false⟩] }
def thFew : Thread := { th0 with regs := List.replicate 16 (Reg.plain 0) }

/-- A misaligned d group, a register beyond the allocation, and a register read too early. -/
theorem witness_IssueChecks :
    (∀ s, exec (.iadd 1 4 8 .w2 0) s = s.run (.iadd 1 4 8 .w2 0) 0 (localBody fun c th =>
      .next (th.results 1 c.dueA 0 ((List.range 2).map fun i => intReg [th.get (member 4 i), th.get (member 8 i)]
        (th.valAt 4 i + th.valAt 8 i))))) ∧ s0.issue.lanes = [t0] ∧ s0.issuable t0 = some th0 ∧
    (∃ g ∈ Instr.groups (s0.laneWords 0) (.iadd 1 4 8 .w2 0), g.base.toNat % g.size ≠ 0) ∧
    (mach (blk thFew)).issuable t0 = some thFew ∧
    (∃ a ∈ (Instr.rangeGroups 1 (.iadd 16 4 8 .w1 0)).flatMap (Group.archs thFew.wb), max 1 thFew.regs.length ≤ a) ∧
    (mach (blk thChk)).issuable t0 = some thChk ∧
    thChk.early ((mach (blk thChk)).core 0).cycles (Instr.archs 1 thChk.wb (.iadd 2 1 8 .w1 0)) = true :=
  ⟨fun _ => rfl, rfl, rfl, by decide, rfl, by decide, rfl, by decide⟩

theorem witness_TrapsAndReturns :
    (∀ i ∈ [Instr.trap 7 0, .brk 255 0, .svc 1 0, .eretRetry 0, .eretSkip 0, .eretSubst 22 0], OneLane i s0 t0 th0) ∧
    th0.lane < 64 ∧ th0.trap.inHandler = false ∧ th0.trap.vec ≠ 0 ∧
    (∀ i ∈ [Instr.eretRetry 0, .eretSkip 0, .eretSubst 22 0], OneLane i (mach (blk thIn)) t0 thIn) ∧ thIn.trap.inHandler = true ∧
    (decode ({ thIn with trap := { thIn.trap with inst := 0x7C000000 } } : Thread).trap.inst).bind (Instr.dest 1) = none ∧
    (decode 0x02043010).bind (Instr.dest 1) = some (1, 1) :=
  ⟨lanes_ok (by decide), by decide, rfl, by decide, lanes_ok (by decide), rfl, by decide, by decide⟩

/-- A thread parked at the word 0xFA105020, the LDWV of R246. -/
def thRet : Thread := { th0 with park := some (.retired 0xFA105020) }

theorem witness_RetiredWords : s0.issue.lanes = [t0] ∧ s0.issuable t0 = some th0 ∧ (mach (blk thRet)).thread? t0 = some thRet ∧
    (mach (blk thRet)).coreOf t0.blk = some 0 ∧ thRet.park = some (.retired 0xFA105020) ∧
    decode 0xFA105020 = some (.ldwv 4 10 2 .w1 0) := ⟨rfl, rfl, rfl, rfl, rfl, by decide⟩

/-- A thread parked at a retired word, and the machine as the duty runs the native form. -/
def thAt (w : Word) : Thread := { th0 with park := some (.retired w) }
def sAt (w : Word) : State :=
  { (mach (blk (thAt w))).modThread t0 fun x => { x with park := none, hang := 0 } with issue := ⟨0, 0, [t0], 0x1000, w⟩ }

/-- The words of R246 and R286 in the retired range: LDWV, STWV, and the eight functions of v22. -/
theorem witness_RetiredWords_completes :
    [0xFA105020, 0xFC105020, 0xA010B300, 0xA010B310, 0xA010B320, 0xA010B330, 0xA010B340, 0xA010B350, 0xA010B360, 0xA010B370].map
      (fun w => decode (BitVec.ofNat 32 w)) = [some (.ldwv 4 10 2 .w1 0), some (.stwv 4 10 2 .w1 0), some (.fsqrtx 4 22 0), some (.frcpx 4 22 0),
        some (.frsqx 4 22 0), some (.fexp2x 4 22 0), some (.flog2x 4 22 0), some (.fsinpix 4 22 0), some (.fcospix 4 22 0),
        some (.ftanhx 4 22 0)] ∧
    OneLane (.ldw 4 10 2 .w1 0) (sAt 0xFA105020) t0 th0 ∧ OneLane (.stw 4 10 2 .w1 0) (sAt 0xFC105020) t0 th0 ∧
    Reaches (sAt 0xFA105020) t0 .load (mAddr th0 10 2 4) 4 (Xl.state ((sAt 0xFA105020).translate t0 .load (mAddr th0 10 2 4))) (.phys 0x200008) ∧
    Reaches (sAt 0xFC105020) t0 .store (mAddr th0 10 2 4) 4 (Xl.state ((sAt 0xFC105020).translate t0 .store (mAddr th0 10 2 4))) (.phys 0x200008) ∧
    (Xl.state ((sAt 0xFA105020).translate t0 .load (mAddr th0 10 2 4))).homeBad (.phys 0x200008) 4 = false ∧ th0.fpctl = 0 :=
  ⟨by decide, oneLane_spec (by decide), oneLane_spec (by decide),
    ⟨by decide, by decide, rfl⟩, ⟨by decide, by decide, rfl⟩,
    by decide, rfl⟩

/-- The native forms of the eight functions, each at its retired word; no exception is enabled. -/
def natives : List (Word × Instr) :=
  [(0xA010B300, .fsqrt 4 22 .v1 0), (0xA010B310, .frcp 4 22 .v1 0), (0xA010B320, .frsq 4 22 .v1 0), (0xA010B330, .fexp2 4 22 .v1 0),
   (0xA010B340, .flog2 4 22 .v1 0), (0xA010B350, .fsinpi 4 22 .v1 0), (0xA010B360, .fcospi 4 22 .v1 0), (0xA010B370, .ftanh 4 22 .v1 0)]

theorem natives_ok : natives.all (fun x => oneLane x.2 (sAt x.1) t0 th0) = true := by decide

theorem witness_RetiredWords_functions :
    (∀ x ∈ natives, OneLane x.2 (sAt x.1) t0 th0) ∧ ∀ fl : Flags, enabledCause th0.fpctl fl = none :=
  ⟨fun x hx => oneLane_spec (List.all_eq_true.1 natives_ok x hx), fun fl => by
    have h : th0.fpctl = 0 := rfl
    simp [h, enabledCause]⟩

theorem witness_FetchTraps : s0.issue.lanes = [t0] ∧ s0.issuable t0 = some th0 ∧ th0.trap.inHandler = false ∧ th0.trap.vec ≠ 0 ∧
    th0.lane < 64 := ⟨rfl, rfl, rfl, by decide, by decide⟩

/-- Does a translation answer a physical address? -/
def isPhys : Xl → Bool
  | .ok _ (.phys _) => true
  | _ => false

theorem isPhys_spec {x : Xl} (h : isPhys x = true) : ∃ s pa, x = .ok s (.phys pa) := by
  unfold isPhys at h
  split at h
  · exact ⟨_, _, rfl⟩
  · cases h

/-- The thread of the placed program, with 16 bytes from 0x1000 to invalidate. -/
def thInv : Thread := thr [(8, 0x1000), (1, 16)]
def sInv : State :=
  { State.reset.withFetchWord 32 0 with blocks := [blk thInv], issue := ⟨0, 0, [t0], 0x1000, 0⟩ }

theorem witness_InstructionCache :
    (∀ i ∈ [Instr.icinv 1 8 false 0, .icinv 2 8 false 0], OneLane i sInv t0 thInv) ∧ (thInv.val 2).toNat = 0 ∧ (thInv.val 1).toNat = 16 ∧
    (thInv.pair 8).toNat / 4096 = ((thInv.pair 8).toNat + 16 - 1) / 4096 ∧
    (∃ s1 pa, sInv.xlat 0 0 false .fetch (BitVec.ofNat 64 (4096 * 1)) = .ok s1 (.phys pa)) :=
  ⟨lanes_ok (by decide), by decide, by decide, by decide, isPhys_spec (by decide)⟩

/-! ### Witnesses: collectives, queues -/

/-- Two threads at one BALLOT, of which the second has parked. -/
def thP : Thread := { th0 with lane := 1, park := some (.collective (.ballot 4 5 0)) }
def sWait : State := mach { blk th0 with threads := [th0, { th0 with lane := 1 }] }
def sLast : State := mach { blk th0 with threads := [th0, thP] }

theorem witness_CollectivesWait :
    (∀ i ∈ valueCollectives 4 5 6 .i32 0, OneLane i sWait t0 th0) ∧ sWait.collSet t0 = [t0, ⟨0, 1⟩] ∧ (sWait.collSet t0).Nodup ∧
    t0 ∈ sWait.collSet t0 ∧ (∃ x, sWait.thread? ⟨0, 1⟩ = some x ∧ x.atCollective.isSome = false) ∧
    OneLane (.ballot 4 5 0) sLast t0 th0 ∧ sLast.collSet t0 = [t0, ⟨0, 1⟩] ∧ sLast.thread? ⟨0, 1⟩ = some thP ∧
    thP.atCollective.isSome = true ∧ thP.pc = th0.pc ∧
    (sLast.membersAt t0 th0 (.ballot 4 5 0) 0).all (fun x => match collectiveOut (.ballot 4 5 0) (sLast.kernel 0).width (sLast.kernel 0).d
      (sLast.membersAt t0 th0 (.ballot 4 5 0) 0) x.2 with | some r => enabledCause x.2.fpctl r.2.2 == none | none => false) = true :=
  ⟨lanes_ok (by decide), by decide, by decide, by decide, ⟨_, rfl, rfl⟩, oneLane_spec (by decide), by decide, rfl, rfl, rfl, by decide⟩

theorem witness_CollectiveResults :
    let m : Members := [(t0, th0), (⟨0, 1⟩, { th0 with lane := 63 })]
    (m.map fun x => x.2.lane).Pairwise (· < ·) ∧ (∀ x ∈ m, x.2.lane < 64) ∧ m ≠ [] ∧
    (∃ x ∈ m, x.2.val 16 = 0x80000000) ∧ (∀ x ∈ m, (x.2.val 16).toInt ≤ (0x80000000 : Word).toInt) ∧
    (∀ x ∈ m, ((0x80000000 : Word)).toInt ≤ (x.2.val 16).toInt) ∧ (∀ x ∈ m, (x.2.val 16).toNat ≤ (0x80000000 : Word).toNat) :=
  ⟨by decide, by decide, nofun, by decide, by decide, by decide, by decide⟩

/-- A machine whose spindle 0 is as given. -/
def sSp (x : Spindle) : State := mach { blk th0 with spindles := [(0, x)] }

theorem sSp_lanes (x : Spindle) : ∀ i ∈ [Instr.qacq false 0 0, .qfill 22 false 0 0, .qtake 2 false 0 0, .qdone false 0 0, .qtry 2 false 0 0,
    .qacq false 5 0], OneLane i (sSp x) t0 th0 := by
  intro i hi
  have h := lanes_ok (l := [Instr.qacq false 0 0, .qfill 22 false 0 0, .qtake 2 false 0 0, .qdone false 0 0, .qtry 2 false 0 0,
    .qacq false 5 0]) (s := s0) (t := t0) (th := th0) (by decide) i hi
  exact ⟨⟨h.aligned, h.inRange, fun c => h.onTime c⟩, rfl, rfl⟩

/-- Spindles with free, acquired, filled and taken slots, and with none of each; spindle 5 is not claimed. -/
theorem witness_Spindles : (∀ x ∈ [Spindle.fresh, ⟨0, 1, [7], 1, []⟩, ⟨3, 0, [], 0, []⟩, ⟨0, 0, [], 0, []⟩], (sSp x).collSet t0 = [t0] ∧
      (sSp x).spindle? 0 false 0 = some x ∧ x.waiters = [] ∧ (sSp x).spindle? 0 false 5 = none ∧
      ((sSp x).strandOf t0 th0).queue = []) ∧
    0 < Spindle.fresh.free ∧ Spindle.fresh.acq = 0 ∧ (⟨0, 1, [7], 1, []⟩ : Spindle).free = 0 ∧ th0.lane < 64 ∧
    th0.trap.inHandler = false ∧ th0.trap.vec ≠ 0 := by
  refine ⟨?_, by decide, rfl, rfl, by decide, rfl, by decide⟩
  decide

/-- A thread that has arrived once at barrier 0, and one that has not. -/
def thBar : Thread := { th0 with phases := [(.core, 0, 1)] }
/-- Its block with a second thread that has not arrived, and alone. -/
def sBar : State := mach { blk thBar with threads := [thBar, { th0 with lane := 1 }] }

theorem witness_Barriers :
    (∀ i ∈ [Instr.bararr 1 .core 0 0, .barwait .core 0 0, .bar 1 .core 0 0, .bar 1 .core 1 0, .bar 1 .pod 0 0], OneLane i s0 t0 th0) ∧
    s0.claimed 0 .core 0 = true ∧ s0.claimed 0 .core 1 = false ∧ s0.illegalBarWait 0 .core = false ∧ s0.isDoubled 0 = false ∧
    th0.sealed = false ∧ th0.phase .core 0 = 0 ∧ OneLane (.barwait .core 0 0) sBar t0 thBar ∧ 0 < thBar.phase .core 0 ∧
    sBar.phaseDone 0 .core 0 (thBar.phase .core 0 - 1) = false ∧ sBar.claimed 0 .core 0 = true ∧ th0.barAt ≠ some th0.pc ∧
    (s0.modThread t0 fun _ => { th0 with phases := [(.core, 0, 1)], barAt := some th0.pc }).phaseDone 0 .core 0 0 = true ∧
    (sBar.modThread t0 fun _ => { thBar with phases := [(.core, 0, 2)] }).phaseDone 0 .core 0 1 = false :=
  ⟨lanes_ok (by decide), by decide, by decide, by decide, by decide, rfl, by decide, oneLane_spec (by decide), by decide, by decide,
    by decide, by decide, by decide, by decide⟩

/-- A wait on a pod barrier in a kernel of class W is illegal (R146). -/
def sW : State := { s0 with grids := [{ placeGrid 1 with kernel := { ker with cls := .w } }] }
theorem witness_Barriers_class : OneLane (.bar 1 .pod 0 0) sW t0 th0 ∧ sW.claimed 0 .pod 0 = true ∧ sW.illegalBarWait 0 .pod = true :=
  ⟨oneLane_spec (by decide), by decide, by decide⟩

/-- An image of a code object with one kernel of one thread and 16 registers, and one word of code (R355 to R357). -/
def img : List Byte :=
  [0x56, 0x5A, 0x43, 0x4F, 1, 0, 2, 0, 0, 0, 0, 0, 0x10, 0, 0, 0, 68, 0, 0, 0, 0, 0, 0, 0, 0, 0, 0, 0, 0x20, 0, 0, 0, 1, 0, 0, 0] ++
  List.replicate 28 0 ++
  [1, 0, 8, 1, 16, 0] ++ List.replicate 42 0 ++ [0xFF, 0xFF, 0xFF, 0xFF] ++ List.replicate 12 0 ++ [0, 0, 0, 0x7C] ++
  [0x6D, 0x61, 0x69, 0x6E, 0, 0, 0, 0, 0, 0, 0, 0, 1, 0, 0, 0]

/-- The image passes the checks of R393. -/
theorem test_img : Image.bad img = false := by decide

/-- The machine with that object loaded for partition 0. -/
def withImg (s : State) : State := { s with svc := { s.svc with objects := [⟨[1], img, [(0, 1)], [], [], [], [], [0]⟩] } }

/-- An octet for each engine in v32 to v39: kernel at 0x1000000000, one block, spindle 0, tag 3. -/
def thOct : Thread := thr [(33, 0x10), (34, 1), (38, 0x30000)]
def sOct : State := withImg (mach (blk thOct))
/-- The same with spindle 1, which is not claimed. -/
def thOct1 : Thread := thr [(33, 0x10), (34, 1), (38, 0x30001)]
def sOct1 : State := withImg (mach (blk thOct1))

theorem witness_EngineIssue :
    (∀ i ∈ [Instr.bcopy 32 0, .stream 32 0, .coll 32 0, .launch 1 32 0], OneLane i sOct t0 thOct) ∧ sOct.isDoubled 0 = false ∧
    (sOct.spindle? 0 false (((thOct.vals 32 8).getD 6 0).extractLsb' 0 5).toNat).isSome = true ∧
    (∀ q ∈ [0, 4, 5, 6], sOct.hasRoom 0 q) ∧ (∃ k, (sOct.drainStrand 0 thOct.strand).launchCheck 0 (thOct.vals 32 8) = (0, some k)) ∧
    (∀ i ∈ [Instr.bcopy 32 0, .stream 32 0, .coll 32 0, .launch 1 32 0], OneLane i sOct1 t0 thOct1) ∧
    (sOct1.spindle? 0 false (((thOct1.vals 32 8).getD 6 0).extractLsb' 0 5).toNat).isSome = false ∧
    (sOct1.drainStrand 0 thOct1.strand).launchCheck 0 (thOct1.vals 32 8) = (7, none) :=
  ⟨lanes_ok (by decide), by decide, by decide, by unfold State.hasRoom; decide, ⟨_, rfl⟩, lanes_ok (by decide), by decide, rfl⟩

/-- A core whose copy queue 0 holds a command, and an operand queue with an element; and empty operand queues, with a stream of the strand
that fills queue 0 or without. -/
def sFen : State :=
  { mach { blk th0 with strands := [{ Strand.start .main 0 0 with opq := [[9, 8]] :: List.replicate 7 [] }] } with
    cores := { Core.reset with queues := ⟨[Cmd.fresh (.copy []) 0 0], []⟩ :: List.replicate 8 ⟨[], []⟩ } :: List.replicate 71 Core.reset }
def sStr : State :=
  { mach (blk th0) with
    cores := { Core.reset with queues := List.replicate 4 ⟨[], []⟩ ++ ⟨[Cmd.fresh (.stream [] 0) 0 0], []⟩ :: List.replicate 4 ⟨[], []⟩ } ::
      List.replicate 71 Core.reset }

theorem witness_QueueFenceAndQld : OneLane (.qfence 1 0) sFen t0 th0 ∧ OneLane (.qld 4 0 .w4 0) sFen t0 th0 ∧ sFen.collSet t0 = [t0] ∧
    sFen.isDoubled 0 = false ∧ (sFen.core 0).queues.length = 9 ∧
    ((List.range 9).all fun k => (sFen.queue 0 k).all.all fun c => match c.op with | .join _ => false | _ => true) = true ∧
    sFen.hasRoom 0 0 ∧ (sFen.queue 0 0).q ≠ [] ∧
    (∃ k, sFen.strand? 0 0 = some k ∧ k.joint = none ∧ k.opQueue 0 = [9, 8] :: []) ∧
    (∀ s ∈ [sStr, s0], OneLane (.qld 4 0 .w4 0) s t0 th0 ∧ s.collSet t0 = [t0] ∧
      (s.strand? 0 0).map (fun k => (k.joint, k.opQueue 0)) = some (none, [])) ∧
    sStr.streamLive 0 0 0 0 = true ∧ s0.streamLive 0 0 0 0 = false :=
  ⟨oneLane_spec (by decide), oneLane_spec (by decide), by decide, by decide, by decide, by decide, by unfold State.hasRoom; decide,
    by decide, ⟨_, rfl, rfl, rfl⟩, by
      intro s hs
      fin_cases hs <;> exact ⟨oneLane_spec (by decide), by decide, by decide⟩, by decide, by decide⟩

/-! ### Witnesses: matrix, graphics, traversal -/

/-- A block with 128 KiB, whose thread holds the own window in v8:2, the binding word for n = 2 in v24, for n = 1 in v25, a
slot number in v26, one beyond 15 in v27, a wait word with a reserved bit in v28, one of an unclaimed spindle in v29. -/
def thM : Thread := thr [(9, 0xFF00), (24, 2), (25, 1), (26, 15), (27, 16), (28, 32), (29, 1)]
def mat (th : Thread) : Block := { blk th with memSize := 0x20000 }
def sM : State := mach (mat thM)

/-- The core 0 with a convergence register 3 as given. -/
def withCv (s : State) (c : CvReg) : State :=
  { s with cores := { Core.reset with cvs := (List.replicate 16 CvReg.free).set 3 c } :: List.replicate 71 Core.reset }

/-- The thread bound to register 3, whose next round is 1. -/
def thBd : Thread := { thM with cv := some (3, 0) }
/-- Register 3 as bound by two threads of the block, and by one; without rounds, and with a round of another MMA. -/
def sBd (n : Nat) (l : List Round) : State := withCv (mach (mat thBd)) ⟨n, 0, some 0, n, l.length, l⟩

theorem witness_MatrixIssue :
    (∀ i ∈ [Instr.msignBind 3 24 0, .mhist 26 8 0, .mhist 27 8 0, .mhclr 26 0, .mhclr 27 0, .mwait 0 0, .mwait 28 0, .mwait 29 0],
      OneLane i sM t0 thM) ∧ 0 < sM.cores.length ∧ 3 < (sM.core 0).cvs.length ∧ thM.cv = none ∧ (sM.cvReg 0 3).holder = none ∧
    sM.accTaken 0 0 0 = false ∧ sM.hasRoom 0 7 ∧ (sM.drainStrand 0 thM.strand).opFault 0 (.mhist 15 (thM.pair 8)) = none ∧
    (sM.spindle? 0 false 0).isSome = true ∧ sM.spindle? 0 false 1 = none ∧ (thM.val 28).extractLsb' 5 11 ≠ 0 ∧
    OneLane (.msignBind 3 24 0) (withCv sM ⟨2, 0, some 0, 1, 0, []⟩) t0 thM ∧
    ((withCv sM ⟨2, 0, some 0, 1, 0, []⟩).cvReg 0 3).holder = some 0 ∧
    OneLane (.msignRelease 3 0) (sBd 2 []) t0 thBd ∧ ((sBd 2 []).cvReg 0 3).signedBy t0 = false ∧
    OneLane (.msignRelease 3 0) (sBd 2 [⟨0, .mzero 0, [t0]⟩]) t0 thBd ∧ ((sBd 2 [⟨0, .mzero 0, [t0]⟩]).cvReg 0 3).signedBy t0 = true :=
  ⟨lanes_ok (by decide), by decide, by decide, rfl, by decide, by decide, by unfold State.hasRoom; decide, by decide, by decide, by decide,
    by decide, oneLane_spec (by decide), by decide, oneLane_spec (by decide), by decide, oneLane_spec (by decide), by decide⟩

/-- The first signature of a round, one that closes it, and one that differs from its round. -/
theorem witness_MatrixSignatures :
    (∀ x ∈ signedOps 2 8 8 0 thM 0, OneLane x.1 sM t0 thM) ∧ thM.cv = none ∧
    (∀ x ∈ drainArchs thM (thM.val 2) 8, x < max 1 thM.regs.length) ∧ thM.pend = [] ∧
    (∀ n ∈ [1, 2], (∀ x ∈ signedOps 2 8 8 0 thBd ((sBd n []).cvReg 0 3).acc, OneLane x.1 (sBd n []) t0 thBd ∧
      ((sBd n []).drainStrand 0 thBd.strand).opFault 0 x.2 = none) ∧ ((sBd n []).cvReg 0 3).rounds = [] ∧ ((sBd n []).cvReg 0 3).n = n) ∧
    (sBd 1 []).hasRoom 0 7 ∧
    (∀ n ∈ [2, 3], ∀ op, ((sBd n [⟨0, op, [⟨0, 1⟩]⟩]).cvReg 0 3) = ⟨n, 0, some 0, n, 1, [⟨0, op, [⟨0, 1⟩]⟩]⟩) ∧
    (∀ n ∈ [2, 3], ∀ x ∈ signedOps 2 8 8 0 thBd 0, OneLane x.1 (sBd n [⟨0, x.2, [⟨0, 1⟩]⟩]) t0 thBd) ∧
    (0x100 : Word) ≠ thBd.val 2 ∧ (0 : Word) = thBd.val 2 ∧ (0 : Addr) ≠ thBd.pair 8 := by
  refine ⟨?_, rfl, by decide, rfl, ?_, by unfold State.hasRoom; decide, ?_, ?_, by decide, by decide, by decide⟩
  · intro x hx
    fin_cases hx <;> exact oneLane_spec (by decide)
  · intro n hn
    fin_cases hn <;> refine ⟨fun x hx => ?_, by decide, by decide⟩ <;>
      (fin_cases hx <;> exact ⟨oneLane_spec (by decide), by decide⟩)
  · intro n hn op
    fin_cases hn <;> rfl
  · intro n hn x hx
    fin_cases hn <;> (fin_cases hx <;> exact oneLane_spec (by decide))

/-- The bytes of the own window from an offset. -/
def withBytes (l : List (Nat × List Byte)) (th : Thread) : State :=
  mach { blk th with mem := l.foldl (fun m x => Mem.putN m x.1 x.2) [] }

/-- A binding entry at offset 0 that names the descriptor at offset 64: a texture of 2 × 2 texels of four bytes at offset 256,
one level, nearest, clamped. v26:2 is the window, v27 of the second thread is texel (2, 0). -/
def thT : Thread := thr [(11, 0xFF00), (27, 0xFF00), (24, 2)]
def sT (ok : Bool) : State := withBytes [(8, [64, 0, 0, 0, 0, 0xFF]), (64, [0, 1, 0, 0, 0, 0xFF, 0, 0, 1, 1, if ok then 1 else 0, 0, 0, 0, 0, 0])] thT

/-- A target of 2 × 2 pixels with two layers at offset 0, no node in use, and one that is invalid. -/
def thL : Thread := thr [(9, 0xFF00), (25, 0xFF00), (26, 4)]
def sL (ok : Bool) : State :=
  withBytes [(0, [0x40, 0, 0, 0, 0, 0xFF, 0, 0, 0x80, 0, 0, 0, 0, 0xFF, 0, 0, 2, 0, 2, 0, if ok then 2 else 0, 0, 0, 0, 0, 0, 0, 0, 1, 0, 0, 0]),
    (0x80, List.replicate 16 0xFF)] thL

/-- Did a read succeed with this answer? -/
def okB {α : Type} (x : Except Lane (State × α)) (p : α → Bool) : Bool :=
  match x with
  | .ok r => p r.2
  | .error _ => false

theorem okB_spec {α : Type} {x : Except Lane (State × α)} {p : α → Bool} (h : okB x p = true) : ∃ s a, x = .ok (s, a) ∧ p a = true := by
  unfold okB at h
  split at h
  · exact ⟨_, _, rfl, h⟩
  · cases h

/-- An invalid descriptor, and a valid one with a texel inside, one outside, and a filtered read. -/
theorem witness_Textures :
    (∀ ok, ∀ i ∈ [Instr.tex 4 8 false false 0, .tex 4 8 true false 0, .tex 4 8 true true 0, .texf 4 8 false 0, .texf 4 8 true 0,
      .texf 4 24 false 0], OneLane i (sT ok) t0 thT) ∧ thT.pair (member 8 2) = thT.pair (member 24 2) ∧
    (∃ s a, (sT false).texDescAt t0 thT (thT.pair (member 8 2)) = .ok (s, a) ∧ a.isNone = true) ∧
    (∃ s a, (sT true).texDescAt t0 thT (thT.pair (member 8 2)) = .ok (s, a) ∧ (a == some ⟨0xFF0000000100, 1, 1, 1, 0, 0, 0, 0, 0⟩) = true) ∧
    (∃ s a, (sT true).texel t0 thT ⟨0xFF0000000100, 1, 1, 1, 0, 0, 0, 0, 0⟩ 0 0 0 = .ok (s, a) ∧ (a == [0, 0, 0, 0]) = true) ∧
    (((thT.val 24).extractLsb' 0 16).toNat = 2) ∧
    ∃ s a, (sT true).texChannels t0 thT ker ⟨0xFF0000000100, 1, 1, 1, 0, 0, 0, 0, 0⟩ false (thT.get 8) (thT.get 9) = .ok (s, a) ∧
      (a.length == 4) = true := by
  refine ⟨?_, by decide, okB_spec (by decide), okB_spec (by decide), okB_spec (by decide), by decide, okB_spec (by decide)⟩
  intro ok
  cases ok
  · exact lanes_ok (by decide)
  · exact lanes_ok (by decide)

/-- An invalid target, and a valid one with an empty pixel. -/
theorem witness_LayerAccesses :
    (∀ ok, ∀ i ∈ [Instr.lins 1 24 0, .lres 4 8 0, .lcnt 1 8 0, .lcomp 2 8 0, .lclr 8 0], OneLane i (sL ok) t0 thL) ∧
    (∀ ok, ((sL ok).drainStrand 0 thL.strand).insertWaits t0 thL 24 none = false ∧ (sL ok).isDoubled 0 = false ∧
      ((sL ok).drainStrand 0 thL.strand).layerWaits thL 0 = false) ∧
    (∃ s a, ((sL false).drainStrand 0 0).targetAt t0 thL (thL.pair 8).toNat (thL.valAt 8 2).toNat = .ok (s, a) ∧ a.isNone = true) ∧
    (∃ s a, ((sL true).drainStrand 0 0).targetAt t0 thL (thL.pair 8).toNat (thL.valAt 8 2).toNat = .ok (s, a) ∧ a.isSome = true) ∧
    (∃ s a, ((sL true).drainStrand 0 0).seenList t0 thL ⟨0xFF0000000000, 0xFF0000000040, 0xFF0000000080, 2, 2, 2, 0, 0, 0, 1⟩ 0 = .ok (s, a) ∧
      (a == []) = true) ∧
    (thL.valAt 8 2).extractLsb' 5 11 = 0 ∧ ((sL true).spindle? 0 false 0).isSome = true ∧ (sL true).hasRoom 0 8 := by
  refine ⟨?_, by decide, okB_spec (by decide), okB_spec (by decide), okB_spec (by decide), by decide, by decide,
    by unfold State.hasRoom; decide⟩
  intro ok
  cases ok
  · exact lanes_ok (by decide)
  · exact lanes_ok (by decide)

/-- An octet of a draw in v32 to v39, its record at the start of the own window: both kernels are that of the image. v26 = 7 is
an index, v40 to v43 name vertices. -/
def thD (at_ : Word) : Thread :=
  thr [(32, at_), (33, 0xFF00), (34, 1), (36, 0x00040004), (38, 0x30000), (26, 7), (40, 7), (41, 7), (42, 7), (44, 1)]
def sD (at_ : Word) (rec : List Byte) : State :=
  withImg (mach { blk (thD at_) with mem := Mem.putN [] 0 rec })
/-- The record with both kernels, and one without. -/
def recOk : List Byte := [0, 0, 0, 0, 0x10, 0, 0, 0, 0, 0, 0, 0, 0x10, 0, 0, 0]

/-- A draw of 4 × 4 pixels without targets, in its vertex stage with vertex 7 emitted, or in its fragment stage. -/
def draw0 : Draw :=
  { part := 0, core := 0, oct := (thD 0).vals 32 8, record := [0x1000000000, 0x1000000000, 0, 0, 0xFF0000000000, 0, 0, 0],
    vgrid := 0, fkernel := ker, prio := 0, verts := [⟨0, 7, List.replicate 8 (Reg.plain 0)⟩], prims := [], numbered := false,
    tilesDone := [], frags := [], from_ := [], spills := [], snaps := [], done := .none, finished := false, status := 0 }
def sStage (frag : Bool) (th : Thread) : State :=
  { mach (blk th) with draws := [draw0], grids := [{ placeGrid 1 with kernel := ker, draw := some (0, frag) }] }
/-- A fragment thread that covers sample 0. -/
def thF : Thread := { thD 0 with frag := some ⟨0, 1, 1, 0, 1, []⟩ }

theorem witness_DrawStages :
    OneLane (.draw 1 32 0) (sD 32 recOk) t0 (thD 32) ∧ (pairVal (((thD 32).vals 32 8).getD 0 0) (((thD 32).vals 32 8).getD 1 0)).toNat % 64 ≠ 0 ∧
    OneLane (.draw 1 32 0) (sD 0 recOk) t0 (thD 0) ∧ (sD 0 recOk).isDoubled 0 = false ∧
    okB (((sD 0 recOk).drainStrand 0 0).gread t0 (thD 0) 0xFF0000000000 64 64) (fun b => b == recOk ++ List.replicate 48 0) = true ∧
    (∃ ks, (sD 0 recOk).drawIssue 0 ((thD 0).vals 32 8) [0x1000000000, 0x1000000000, 0, 0, 0, 0, 0, 0] = (0, some ks)) ∧
    (sD 0 []).drawIssue 0 ((thD 0).vals 32 8) [0, 0, 0, 0, 0, 0, 0, 0] = (7, none) ∧ (sD 0 recOk).hasRoom 0 8 ∧
    (∀ i ∈ [Instr.vemit 26 32 0, .pemit 40 0, .ztest 1 44 0, .omerge 32 0], OneLane i s0 t0 th0) ∧ s0.drawOf 0 false = none ∧
    s0.drawOf 0 true = none ∧
    (∀ i ∈ [Instr.vemit 26 32 0, .pemit 40 0], OneLane i (sStage false (thD 0)) t0 (thD 0)) ∧
    (sStage false (thD 0)).drawOf 0 false = some (0, draw0) ∧ ((thD 0).val 26).toNat ≤ 65535 ∧
    (∃ x, draw0.vertex 0 ((thD 0).val 40).toNat = some x) ∧ draw0.vertex 0 ((thD 0).valAt 40 3).toNat = none ∧
    (∀ i ∈ [Instr.ztest 1 44 0, .omerge 32 0], OneLane i (sStage true thF) t0 thF) ∧
    (sStage true thF).drawOf 0 true = some (0, draw0) ∧ ((sStage true thF).drainStrand 0 0).earlierPending thF 1 = false ∧
    ((sStage true thF).drainStrand 0 0).earlierPending thF 2 = false ∧ (octW draw0.oct 3).getLsbD 5 = false ∧
    ((octW draw0.oct 3).extractLsb' 6 2).toNat = 0 ∧
    okB (State.readSamples t0 thF 4 ((draw0.samplesOf ((thF.valAt 44 1).toNat &&& 1)).map fun i =>
      (i, 0xFF0000000000 + 4 * ((1 * draw0.width + 1) * 2 ^ draw0.log2Samples + i))) ((sStage true thF).drainStrand 0 0)) (fun _ => true) = true :=
  ⟨oneLane_spec (by decide), by decide, oneLane_spec (by decide), by decide, by decide, ⟨_, rfl⟩, rfl,
    by unfold State.hasRoom; decide, lanes_ok (by decide), by decide, by decide, lanes_ok (by decide), rfl, by decide, ⟨_, rfl⟩, by decide,
    lanes_ok (by decide), rfl, by decide, by decide, by decide, by decide, by decide⟩

/-- A fragment thread of primitive 1, in a machine where a grid of primitive 0 in its tile is still to be dealt: every access waits. -/
def thWait : Thread := { thD 0 with frag := some ⟨0, 1, 1, 1, 1, []⟩ }
def sPend : State :=
  { sStage true thWait with
    draws := [{ draw0 with frags := [(1, 0, 0)] }]
    grids := [{ placeGrid 1 with kernel := ker, draw := some (0, true) }, { placeGrid 2 with next := 0 }] }

theorem witness_LayerAccesses_waits :
    (∀ i ∈ [Instr.lins 1 24 0, .lres 4 8 0, .lcnt 1 8 0, .lcomp 2 8 0, .ztest 1 44 0, .omerge 32 0], OneLane i sPend t0 thWait) ∧
    (sPend.drainStrand 0 0).insertWaits t0 thWait 24 none = true ∧ (sPend.drainStrand 0 0).layerWaits thWait 0 = true ∧
    (sPend.drainStrand 0 0).earlierPending thWait 1 = true ∧ (sPend.drainStrand 0 0).earlierPending thWait 2 = true ∧
    (sPend.drainStrand 0 0).thread? t0 = some thWait ∧ (sPend.drawOf 0 true).map (·.1) = some 0 :=
  ⟨lanes_ok (by decide), by decide, by decide, by decide, by decide, by decide, by decide⟩

/-- The draw with its depth and colour in the own window, that writes depth and merges as a mode says. -/
def drawW (w3 : Word) : Draw :=
  { draw0 with oct := draw0.oct.set 3 w3, record := [0x1000000000, 0x1000000000, 0, 0xFF0000000000, 0xFF0000000800, 0, 0, 0] }
def sDrawW (w3 : Word) : State := { sStage true thF with draws := [drawW w3] }

/-- Did a write succeed? -/
def okS (x : Except Lane State) : Bool := match x with | .ok _ => true | .error _ => false

/-- ZTEST that writes depth, and OMERGE in modes 1 and 2. -/
theorem witness_DrawStages_writes :
    (∀ w ∈ [(0x20 : Word), 0x40, 0x80], ∀ i ∈ [Instr.ztest 1 44 0, .omerge 32 0], OneLane i (sDrawW w) t0 thF) ∧
    (octW (drawW 0x20).oct 3).getLsbD 5 = true ∧ ((octW (drawW 0x40).oct 3).extractLsb' 6 2).toNat = 1 ∧
    ((octW (drawW 0x80).oct 3).extractLsb' 6 2).toNat = 2 ∧
    okS (((sDrawW 0x20).drainStrand 0 0).gwrite t0 [(0xFF0000000814, wordBytes (thF.val 44))]) = true ∧
    okS (((sDrawW 0x40).drainStrand 0 0).gwrite t0 [(0xFF0000000028, List.replicate 8 0)]) = true ∧
    okB (State.readSamples t0 thF 8 [(0, 0xFF0000000028)] ((sDrawW 0x80).drainStrand 0 0)) (fun _ => true) = true := by
  refine ⟨?_, by decide, by decide, by decide, by decide, by decide, by decide⟩
  intro w hw
  fin_cases hw <;> exact lanes_ok (by decide)

/-- Nodes in the own window: v6:2 and v10:2 name it; v50 holds the end marker, v51 a word. -/
def thV (n : Nat) : Thread := { thr [(7, 0xFF00), (11, 0xFF00), (50, 0xFFFFFFFF), (51, 5)] with trvCount := n }
/-- The first 44 bytes of a triangle, with its flags. -/
def sV (n : Nat) (flags : List Byte) : State := mach { blk (thV n) with mem := Mem.putN [] 40 flags }
/-- A table whose first entry names its own node, 64 bytes into the window, in v56:2 with node 0 in v58. -/
def thStep : Thread := thr [(57, 0xFF00)]
def sStep : State := mach { blk thStep with mem := Mem.putN [] 8 [64, 0, 0, 0, 0, 0xFF] }
/-- A kernel without a traversal stack. -/
def sV0 : State := { sV 0 [] with grids := [placeGrid 1] }

theorem witness_Traversal :
    (∀ i ∈ [Instr.trvbox 4 8 0, .trvtri 4 8 0, .trvomm 1 8 0, .trvstep 48 8 0, .trvpush 51 0, .trvpop 1 0], OneLane i (sV 0 []) t0 (thV 0)) ∧
    okB ((sV 0 []).readNode t0 (thV 0) ((thV 0).pair (member 4 2)).toNat 128 64) (fun _ => true) = true ∧
    okB ((sV 0 []).readNode t0 (thV 0) ((thV 0).pair (member 4 2)).toNat 48 16) (fun _ => true) = true ∧
    ([[1, 0], [0, 0], [0x90, 1]].all fun f => okB ((sV 0 f).readNode t0 (thV 0) ((thV 0).pair (member 8 2)).toNat 48 16)
      fun b => fieldAt b 40 4 == leNat f) = true ∧
    (thV 0).valAt 48 2 = 0xFFFFFFFF ∧ (∀ i ∈ [Instr.trvpush 51 0, .trvpop 1 0], OneLane i sV0 t0 (thV 0)) ∧ (sV0.kernel 0).trvN = 0 ∧
    ((sV 0 []).kernel 0).trvBase = 64 ∧ ((sV 0 []).kernel 0).trvN = 4 ∧ 64 + 4 ≤ (thV 0).regs.length ∧ (thV 0).pend = [] ∧
    (∀ i ∈ [Instr.trvpush 51 0, .trvpop 1 0], OneLane i (sV 4 []) t0 (thV 4)) ∧ (thV 4).trvCount = 4 ∧ (thV 0).trvCount = 0 :=
  ⟨lanes_ok (by decide), by decide, by decide, by decide, by decide, lanes_ok (by decide), rfl, rfl, rfl, by decide, rfl,
    lanes_ok (by decide), rfl, rfl⟩

/-- A step to a node without a hit; the base of a micro-map is a free value (log 34), so no state can be shown in which it is read. -/
theorem witness_Traversal_step : OneLane (.trvstep 56 8 0) sStep t0 thStep ∧ thStep.valAt 56 2 ≠ 0xFFFFFFFF ∧
    okB ((sStep.lookup t0 (thStep.pair 56).toNat).map fun x => (x.1, x.2)) (fun x => x == (0, 0xFF0000000040)) = true ∧
    okB (sStep.readNode t0 thStep 0xFF0000000040 128 64) (fun b =>
      decide (((stepChildren (thStep.vals 8 8) b 1).map (·.2)).length ≤ 1)) = true :=
  ⟨oneLane_spec (by decide), by decide, by decide, by decide⟩

/-! ### Witnesses: events -/

/-- The machine with the placed page table, whose walk of 0x1000 ends in a leaf, and the same with MIG set in the root entry. -/
def sTab : State := State.reset.withFetchWord 32 0
def sMig : State := sTab.writeEntry (placeNode 0) (placeEntry 1 false ||| 0x800)

/-- Does a walk end in a leaf, or wait? -/
def walkB (w : WalkR) (wait : Bool) : Bool :=
  match w with
  | .leaf .. => !wait
  | .wait _ => wait
  | .fault .. => false

/-- A thread with a variable-latency result and a fixed-latency one, whose walk waits. -/
def thE : Thread :=
  { th0 with pend := [⟨1, Reg.plain 7, none, false, false⟩, ⟨2, Reg.plain 8, some (0, false), false, false⟩], walk := some 0x1000 }
/-- Threads at their hang and starvation thresholds, and at a service call. -/
def thHang : Thread := { th0 with park := some .rejoin, hang := 2 ^ 24 }
def thStarve : Thread := { th0 with starve := 2 ^ 20 }
def thSvc (code : Nat) : Thread := { th0 with park := some (.service code) }

theorem witness_ThreadEvents :
    (∀ th ∈ [thE, thHang, thStarve, thSvc 0, thSvc 1, thSvc 2, thSvc 3], (mach (blk th)).thread? t0 = some th ∧
      (mach (blk th)).coreOf t0.blk = some 0 ∧ th.live = true ∧ th.lane < 64 ∧ th.trap.inHandler = false ∧ th.trap.vec ≠ 0 ∧
      4 < th.regs.length) ∧
    thE.pend = [] ++ (⟨1, Reg.plain 7, none, false, false⟩ : Pending) :: [⟨2, Reg.plain 8, some (0, false), false, false⟩] ∧
    thE.pend = [(⟨1, Reg.plain 7, none, false, false⟩ : Pending)] ++ ⟨2, Reg.plain 8, some (0, false), false, false⟩ :: [] ∧
    thE.reads = false ∧ thE.walk = some 0x1000 ∧ walkB (sTab.walk 0 0 0x1000) false = true ∧ walkB (sMig.walk 0 0 0x1000) true = true ∧
    (∃ p, thHang.park = some p ∧ p.checked = true) ∧ 2 ^ max 14 ((mach (blk thHang)).core 0).hangExp ≤ thHang.hang ∧
    thStarve.park = none ∧ thStarve.filed = false ∧ 2 ^ max 14 ((mach (blk thStarve)).core 0).starveExp ≤ thStarve.starve ∧
    ((mach (blk (thSvc 1))).allocScratch 0 0 ((thSvc 1).reg 2).val.toNat).isNone = true ∧
    ((mach (blk (thSvc 2))).freeScratch 0 0).isNone = true ∧
    (({ mach (blk (thSvc 2)) with parts := [{ Part.reset with scratch := [(0, 0)] }] } : State).freeScratch 0 0).isSome = true ∧
    (s0.core 0).urgent = false ∧
    (({ s0 with cores := [{ Core.reset with shoots := [⟨0, 0, 4096, false, 0⟩] }] } : State).core 0).urgent = true :=
  ⟨by decide, rfl, rfl, by decide, rfl, by decide, by decide, ⟨_, rfl, rfl⟩, by decide, rfl, rfl, by decide, by decide, by decide, by decide, by decide,
    by decide⟩

/-- A partition with core 0 and a grid of class P to deal. -/
def sDeal : State :=
  { s0 with
    blocks := []
    grids := [{ placeGrid 1 with kernel := { ker with cls := .p }, next := 0 }]
    parts := [{ Part.reset with cores := [0], dispatch := ⟨[0], []⟩ :: List.replicate 7 ⟨[], []⟩ }] }
/-- A block whose thread has exited, one to be saved, one that is saved and ready. -/
def blkEnd : Block := { blk th0 with threads := [{ th0 with live := false }] }
def blkSave : Block := { blk th0 with saving := some SaveWhy.pause }
def blkReady : Block := { blk th0 with place := .saved true SaveWhy.pause }
/-- A block of a draw, on a core with a pre-emption request whose grace ends at cycle 2048, or at cycle 0. -/
def sPre (e : Nat) (d : Bool) : State :=
  { s0 with
    grids := [{ placeGrid 1 with kernel := ker, draw := if d then some (0, false) else none }]
    cores := { Core.reset with preempt := some ⟨0, e⟩ } :: List.replicate 71 Core.reset }

theorem witness_BlockEvents :
    ((sDeal.part 0).exited = false ∧ (sDeal.part 0).dealGrid = some 0 ∧ ∃ g p, sDeal.grids[0]? = some g ∧ sDeal.dealUnits g = [p] ∧
      ∃ s1 ext, State.buildTables g.part g.ranges p.cores sDeal = .ok (s1, ext) ∧ s1.blocks = sDeal.blocks ∧ s1.grids = sDeal.grids) ∧
    ((mach blkEnd).blocks[0]? = some blkEnd ∧ blkEnd.place = .onCore 0 ∧ blkEnd.done = true ∧ blkEnd.held = [] ∧ (mach blkEnd).busyBlock 0 0 = false) ∧
    (blkSave.saving = some SaveWhy.pause ∧ blkSave.partner = none ∧ (∀ k ∈ blkSave.strands, k.queue = [] ∧ k.joint = none) ∧
      blkSave.threads.all (fun x => x.park.isNone) = true ∧ ((mach blkSave).core 0).queues.all (fun q => q.all.isEmpty) = true ∧ ((mach blkSave).part 0).pool ++ ((mach blkSave).part 0).freeNear = []) ∧
    ((mach blkReady).blocks[0]? = some blkReady ∧ blkReady.ready = true ∧ ((mach blkReady).part 0).exited = false ∧
      blkReady.homeCore < 72 ∧ ∃ g, (mach blkReady).grids[0]? = some g ∧ (mach blkReady).restoreTo 0 g = some [(0, 0)] ∧
      (mach blkReady).restoreTurn 0 blkReady g = true ∧ ((mach blkReady).correctFrame 0).frameLost 0 = false ∧
      ∃ s1 ext, State.buildTables g.part g.ranges [0] ((mach blkReady).correctFrame 0) = .ok (s1, ext) ∧ s1.blocks = (mach blkReady).blocks ∧
        s1.grids = (mach blkReady).grids) ∧
    ((sPre 2048 true).runsDraw 0 0 = true ∧ 0 < ((sPre 2048 true).part 0).grace.toNat ∧ (sPre 2048 false).runsDraw 0 0 = false ∧
      ((sPre 2048 true).core 0).cycles < 2048 ∧ ((sPre 0 true).core 0).preempt = some ⟨0, 0⟩ ∧ 0 ≤ ((sPre 0 true).core 0).cycles ∧
      0 < (sPre 0 true).cores.length ∧ ((sPre 0 true).core 5).preempt = none) :=
  ⟨⟨by decide, by decide, _, _, rfl, rfl, _, _, rfl, rfl, rfl⟩, ⟨rfl, rfl, by decide, rfl, by decide⟩, ⟨rfl, by decide, by decide, by decide, by decide, rfl⟩,
    ⟨rfl, by decide, by decide, by decide, _, rfl, by decide, by decide, by decide, _, _, rfl, rfl, rfl⟩, by decide⟩

/-- A bobbin of one thread in a kernel of width 1, filed under its key. -/
def thFiled : Thread := { th0 with filed := true }
def bob0 : Bobbin := ⟨some (0, 0, .main, 0x1000), [(t0, 3)]⟩
def sBob : State :=
  { mach (blk thFiled) with
    grids := [{ placeGrid 1 with kernel := { ker with width := 1 } }]
    cores := { Core.reset with bobbins := bob0 :: List.replicate 63 ⟨none, []⟩ } :: List.replicate 71 Core.reset }
/-- The two copies at one seal, with these signatures of the trailing thread, issued again or not. -/
def thSeal (g : BitVec 64) : Thread := { th0 with park := some (.seal true), sig := g }
def sSeal (g : BitVec 64) (r : Bool) : State :=
  { s0 with blocks := [{ blk (thSeal 0) with copy := .leading 1, reissued := r },
                       { blk (thSeal g) with copy := .trailing 0, place := .onCore 4, reissued := r }] }

theorem witness_BobbinsAndSeals :
    ((sBob.core 0).bobbins[0]? = some bob0 ∧ 0 < sBob.cores.length ∧ sBob.bobbinK bob0 = 1 ∧ 1 ≤ bob0.threads.length ∧
      (bob0.threads.map (·.1)).Nodup ∧ sBob.thread? t0 = some thFiled ∧ (sBob.strand? 0 thFiled.strand).isSome = true) ∧
    (∀ r, ∀ g ∈ [(0 : BitVec 64).toNat, 1], ∃ bl bt, (sSeal (BitVec.ofNat 64 g) r).blocks[0]? = some bl ∧
      (sSeal (BitVec.ofNat 64 g) r).blocks[1]? = some bt ∧ bl.copy = .leading 1 ∧ bt.copy = .trailing 0 ∧
      bl.threads[0]? = some (thSeal 0) ∧ bt.threads[0]? = some (thSeal (BitVec.ofNat 64 g)) ∧ bl.place = .onCore 0 ∧ bt.place = .onCore 4 ∧
      ((sSeal (BitVec.ofNat 64 g) r).grids[bl.grid]?).isSome = true ∧ ((sSeal (BitVec.ofNat 64 g) r).grids[bt.grid]?).isSome = true ∧
      bl.held = [] ∧ bt.held = [] ∧ (sSeal (BitVec.ofNat 64 g) r).blocks = [bl, bt] ∧ bl.reissued = r ∧ bl.status = 0 ∧ bt.status = 0) ∧
    (thSeal 0).atSeal = some (true, 0x1000, 0) ∧ (thSeal 1).atSeal = some (true, 0x1000, 0) ∧ (thSeal 0).sig ≠ (thSeal 1).sig :=
  ⟨⟨rfl, by decide, by decide, by decide, by decide, rfl, by decide⟩,
    fun _ _ _ => ⟨_, _, rfl, rfl, rfl, rfl, rfl, rfl, rfl, rfl, rfl, rfl, rfl, rfl, rfl, rfl, rfl, rfl⟩, rfl, rfl, by decide⟩

/-- The placed table, with a far frame free in which the page at 0x1000 keeps its place. -/
def sMove : State := sTab.modPart 0 fun p => { p with freeFar := [0x10000001] }
/-- The same with that migration acknowledged. -/
def sEnd : State := { sMove with svc := { sMove.svc with moves := [⟨0, [(1, 1, 0x10000001)], false, ⟨0, false, []⟩⟩] } }
/-- A partition whose ring in far channel 0 holds 2,048 entries. -/
def sLog : State := { s0 with parts := [{ Part.reset with dlBase := 0x2000000, dlHead := 2048, logRoom := 5, channels := [0] }] }

theorem witness_MemoryEvents :
    0 < s0.cores.length ∧ sMove.svc.nodes = [] ∧ sEnd.svc.nodes = [] ∧ (sMove.moveOf 0 ((0x1000 : Addr).toNat / 4096) = none ∧ sMove.moveSet 0 0x1000 false ≠ [] ∧
      placeMoves (sMove.freeFrames 0 false) (sMove.moveSet 0 0x1000 false) = some [(1, 1, 0x10000001)]) ∧
    (sEnd.memOk = true ∧ sEnd.moveOf 0 ((0x1000 : Addr).toNat / 4096) = some ⟨0, [(1, 1, 0x10000001)], false, ⟨0, false, []⟩⟩ ∧
      sEnd.moveHeld ⟨0, [(1, 1, 0x10000001)], false, ⟨0, false, []⟩⟩ = false ∧ 0x10000001 < 2 ^ 34 ∧
      sEnd.leafOf 0 (4096 * 1) = some ⟨0, placeNode 3 + 8, placeEntry 4 true⟩ ∧
      sEnd.podPage 0x10000001 ≠ sEnd.podPage (Pte.frame (placeEntry 4 true)) ∧
      sEnd.podPa (placeNode 3 + 8) + 8 ≤ 4096 * sEnd.podPage 0x10000001) ∧
    (0 < sLog.parts.length ∧ sLog.hostDuty 0 1 = false ∧ (sLog.part 0).ringOk = true ∧
      2048 ≤ ((sLog.part 0).dlHead - (sLog.part 0).dlTail).toNat) ∧ ((s0.part 0).dlHead - (s0.part 0).dlTail).toNat < 2048 :=
  ⟨by decide, rfl, rfl, by decide, by decide, by decide, by decide⟩

/-- A partition with a free near frame 0x300, slices 0 and 1, and an export of frames 0x200 to 0x20F to package 1. -/
def sPg : State :=
  { s0 with
    poison := [0x201, 0x300]
    badNear := [0x50000]
    parts := [{ Part.reset with freeNear := [0x300], slices := [0, 1], exports := [(1, 0, 0x200, 16)] }]
    svc := { s0.svc with retention := [5] } }

theorem witness_PageEvents :
    sPg.memOk = true ∧ (0x300 / 2 ^ 34 = sPg.pkg.toNat ∧ sPg.isFree 0 (0x300 % 2 ^ 34) = true) ∧ sPg.isFree 0 0x200 = false ∧
    RemoteOp.sizeBad 4 (.atom .add .n32 1 0) = false ∧ RemoteOp.sizeBad 8 (.atom .add .n32 1 0) = true ∧
    sPg.svc.retention.contains 0 = false ∧ sPg.homeBad (.phys (sPg.podPa (0 * 0x02000000 + 0x28000 * 16))) 16 = true ∧
    sPg.homeBad (.phys (sPg.podPa (0 * 0x02000000 + 0 * 16))) 16 = false ∧
    (∃ p, sPg.parts[0]? = some p ∧ 1 ∈ p.slices ∧ p.exited = false) ∧ sPg.parts.all (fun p => !p.slices.contains 127) = true ∧
    5 ∈ sPg.svc.retention ∧ sPg.svc.retention.Nodup ∧ sPg.exported 1 0 (0x200040 / 4096) = true ∧ 0x200040 % 64 = 0 ∧
    0x200040 % 4096 + 64 ≤ 4096 ∧ sPg.podPage (0x200040 / 4096) ∉ sPg.poison ∧ sPg.exported 1 0 (0x201000 / 4096) = true ∧
    sPg.podPage (0x201000 / 4096) ∈ sPg.poison ∧ sPg.exported 2 0 0x200 = false ∧ sPg.homeBad (.phys (sPg.podPa 0x200040)) 64 = false := by
  refine ⟨?_, ⟨?_, ?_⟩, ?_, ?_, ?_, ?_, ?_, ?_, ⟨_, rfl, ?_, ?_⟩, ?_, ?_, ?_, ?_, ?_, ?_, ?_, ?_, ?_, ?_, ?_⟩ <;> decide

/-! ### Witnesses: engine, matrix and draw events -/

/-- A command of block 0. -/
def cmd (op : CmdOp) (started : Bool) (fin : Option Nat) : Cmd := ⟨op, 0, started, 0, [], fin, 0, ChunkWork.none⟩

/-- The machine whose core 0 holds one command in one queue. -/
def withCmd (s : State) (q : Nat) (c : Cmd) : State :=
  { s with cores := { Core.reset with queues := (List.replicate 9 ⟨[], []⟩).set q ⟨[c], []⟩ } :: List.replicate 71 Core.reset }

/-- What the head of a queue is, and that no queue of core 0 holds a join entry. -/
def headIs (s : State) (q : Nat) (c : Cmd) : Bool :=
  decide (0 < s.cores.length) && decide ((s.queue 0 q).q = c :: []) &&
    ((s.core 0).queues.flatMap EQueue.all).all fun e => match e.op with | .join _ => false | _ => true

/-- Which answer a chunk gave, with the head of queue 0 still there. -/
def chunkIs (x : CopyR) (kind : Nat) (c : Cmd) : Bool :=
  match x with
  | .wait _ => kind == 0
  | .fail s _ => kind == 1 && (s.queue 0 0).q.head? == some c
  | .ok s => kind == 2 && (s.queue 0 0).q.head? == some c && decide (0 < s.cores.length)

/-- A copy of 32 bytes within the own window, one to beyond it, and one from 0x1000. -/
def octCopy : List Word := [0, 0xFF00, 256, 0xFF00, 32, 0, 0x30000, 0]
def octBeyond : List Word := [0, 0xFF00, 0x2000, 0xFF00, 32, 0, 0x30000, 0]
def octMig : List Word := [0x1000, 0, 256, 0xFF00, 32, 0, 0x30000, 0]
/-- A stream of one word from the own window, and a collective of one participant over four bytes; one of two; one of rank 1. -/
def octStream : List Word := [0, 0xFF00, 0x10001, 4, 4, 0, 0x30000, 0]
def octColl (w7 : Word) : List Word := [0, 0xFF00, 256, 0xFF00, 1, 0, 0x30000, w7]

/-- A grid enters its dispatch queue while the spill ring has room (R155). -/
theorem enter_ok (s : State) (g : Grid) (h : s.spillFits g.part 1 = true) : ∃ s1, s.enterGrid g = some s1 := by
  unfold State.enterGrid
  simp [h]

/-- It does not, behind a spilled entry, without room. -/
theorem enter_none (s : State) (g : Grid) (h : s.spillFits g.part 1 = false)
    (hs : (((s.part g.part).dispatch[g.prio]?).getD ⟨[], []⟩).spill.isEmpty = false) : s.enterGrid g = none := by
  unfold State.enterGrid
  simp [h, hs]

/-- A partition without quota whose dispatch queue 0 has spilled. -/
def noRoom (s : State) : State := { s with parts := [{ Part.reset with quota := 0, dispatch := ⟨[0], [0]⟩ :: List.replicate 7 ⟨[], []⟩ }] }

/-- A block that waits for the quota, and a grid whose token is due. -/
def blkQuota : Block := { blk th0 with place := .saved false ⟨0x40, 1, [], [], false⟩ }
def sTok : State := { s0 with grids := [{ placeGrid 1 with kernel := ker, done := .token 0 0 3, ended := [(0, 0)], core := 0 }] }

/-- Heads of every queue, chunks of each outcome, free and full spindles. -/
theorem witness_EngineEvents_copy :
    headIs (withCmd s0 0 (cmd (.copy octCopy) false none)) 0 (cmd (.copy octCopy) false none) = true ∧
    headIs (withCmd s0 0 (cmd (.copy octCopy) true none)) 0 (cmd (.copy octCopy) true none) = true ∧
    chunkIs ((withCmd s0 0 (cmd (.copy octCopy) true none)).chunkStep (blockXl 0 0) (some 0) octCopy ⟨0, [], ChunkWork.none⟩ []).1 2
      (cmd (.copy octCopy) true none) = true ∧
    chunkIs ((withCmd s0 0 (cmd (.copy octBeyond) true none)).chunkStep (blockXl 0 0) (some 0) octBeyond ⟨0, [], ChunkWork.none⟩ []).1 1
      (cmd (.copy octBeyond) true none) = true ∧
    chunkIs ((withCmd sMig 0 (cmd (.copy octMig) true none)).chunkStep (blockXl 0 0) (some 0) octMig ⟨0, [], ChunkWork.none⟩ []).1 0
      (cmd (.copy octMig) true none) = true ∧
    headIs (withCmd s0 0 (cmd (.copy octCopy) true (some 0))) 0 (cmd (.copy octCopy) true (some 0)) = true ∧
    (withCmd s0 0 (cmd (.copy octCopy) true (some 0))).spindle? 0 false ((octCopy.getD 6 0).extractLsb' 0 5).toNat = some Spindle.fresh ∧
    (withCmd (sSp ⟨0, 1, [7], 1, []⟩) 0 (cmd (.copy octCopy) true (some 0))).spindle? 0 false 0 = some ⟨0, 1, [7], 1, []⟩ ∧
    (blk th0).place ≠ .ended ∧ (blk th0).copy = .single ∧ ((withCmd s0 0 (cmd (.copy octCopy) true (some 0))).core 0).turn = [] ∧
    ((s0.modCore 0 fun c => { c with turn := [s0.issue] }).core 0).turn ≠ [] :=
  ⟨by decide, by decide, by decide, by decide, by decide, by decide, rfl, rfl, by decide, rfl, rfl, by decide⟩

theorem witness_EngineEvents_stream :
    headIs (withCmd s0 4 (cmd (.stream octStream 0) true none)) 4 (cmd (.stream octStream 0) true none) = true ∧
    headIs (withCmd s0 4 (cmd (.stream octStream 0) false none)) 4 (cmd (.stream octStream 0) false none) = true ∧
    (withCmd s0 4 (cmd (.stream octStream 0) false none)).contextsUsed 0 < 64 ∧
    (∃ st, (withCmd s0 4 (cmd (.stream octStream 0) true none)).strand? 0 0 = some st ∧ st.joint = none ∧ (st.opQueue 0).length < 16 ∧
      0 < st.opq.length) ∧ ((octStream.getD 5 0).extractLsb' 0 3).toNat = 0 ∧ (streamAddr octStream 0).toNat % streamSize octStream = 0 ∧
    (∃ s1 b, (withCmd s0 4 (cmd (.stream octStream 0) true none)).readPiece (blockXl 0 0) (streamAddr octStream 0).toNat
      (streamSize octStream) = .ok (s1, b) ∧ s1.blocks = s0.blocks ∧
      s1.queue 0 4 = (withCmd s0 4 (cmd (.stream octStream 0) true none)).queue 0 4 ∧ 0 < s1.cores.length) ∧
    ((withCmd s0 4 (cmd (.stream octStream 0) true none)).blocks[0]?).bind Block.partner = none :=
  ⟨by decide, by decide, by decide, ⟨_, rfl, rfl, by decide, by decide⟩, by decide, by decide, ⟨_, _, rfl, rfl, rfl, by decide⟩, by decide⟩

/-- The party of a collective at the head of core 0's queue, alone, of two participants, and with a rank beyond n. -/
def sColl (w7 : Word) : State := withCmd s0 5 (cmd (.coll (octColl w7) 0) true none)
def party (w7 : Word) : Party := ⟨0, some 0, none, 0, octColl w7, 0, []⟩

theorem witness_EngineEvents_coll :
    [0x10000, 0x20000, 0x10001].all (fun n => headIs (sColl (BitVec.ofNat 32 n)) 5 (cmd (.coll (octColl (BitVec.ofNat 32 n)) 0) true none)
      && decide ((sColl (BitVec.ofNat 32 n)).collHead 0 = some (party (BitVec.ofNat 32 n)))
      && decide ((sColl (BitVec.ofNat 32 n)).parties.filter (Party.joins (party (BitVec.ofNat 32 n))) = [party (BitVec.ofNat 32 n)])) = true ∧
    ((octW (octColl 0x20000) 7).extractLsb' 16 16).toNat ≠ 1 ∧ ((octW (octColl 0x10000) 7).extractLsb' 16 16).toNat = 1 ∧
    collAgree [party 0x10001] [] (octColl 0x10001) = false ∧ collAgree [party 0x10000] [] (octColl 0x10000) = true ∧
    modeBad (octColl 0x10000) = false ∧
    (∃ s1 data hs, (sColl 0x10000).collData (collSize 0 * 1) [party 0x10000] = .ok (s1, [data], [hs])) ∧
    (withCmd s0 5 { cmd (.coll (octColl 0x10000) 0) true none with work := ⟨[], [], true, [(.phys 0x200000, [0])], 0, [], []⟩ }).collBusy 0 =
      some ⟨[], [], true, [(.phys 0x200000, [0])], 0, [], []⟩ ∧
    collWrong (octColl 0x10001) = true ∧ collWrong (octColl 0x20000) = false :=
  ⟨by decide, by decide, by decide, by decide, by decide, by decide, ⟨_, _, _, rfl⟩, by decide, by decide, by decide⟩

/-- The same party once it has read its source. -/
def sCollR : State :=
  withCmd s0 5 { cmd (.coll (octColl 0x10000) 0) true none with work := { ChunkWork.none with early := [(0xFF0000000000, [1, 2, 3, 4])] } }
def partyR : Party := { party 0x10000 with early := [(0xFF0000000000, [1, 2, 3, 4])] }

theorem witness_EngineEvents_coll_read : sCollR.collHead 0 = some partyR ∧ sCollR.parties.filter partyR.joins = [partyR] ∧
    collAgree [partyR] [] partyR.oct = true ∧ modeBad partyR.oct = false ∧ collSize 0 * 1 ≠ 0 ∧ partyR.early ≠ [] ∧ (party 0x10000).early = [] ∧
    ∃ s1 data hs, sCollR.collData (collSize 0 * 1) [partyR] = .ok (s1, [data], [hs]) :=
  ⟨by decide, by decide, by decide, by decide, by decide, by decide, by decide, ⟨_, _, _, rfl⟩⟩

theorem witness_EngineEvents_launch :
    headIs (withCmd s0 6 (cmd (.launch ker octCopy) false none)) 6 (cmd (.launch ker octCopy) false none) = true ∧
    ((withCmd s0 6 (cmd (.launch ker octCopy) false none)).part 0).exited = false ∧
    (∀ g : Grid, g.part = 0 → ∃ s1, (withCmd s0 6 (cmd (.launch ker octCopy) false none)).enterGrid g = some s1) ∧
    (∀ g : Grid, g.part = 0 → g.prio = 0 → (noRoom (withCmd s0 6 (cmd (.launch ker octCopy) false none))).enterGrid g = none) ∧
    ((sTok.grids[0]?).map fun g => (g.done, g.isDone, g.core)) = some (.token 0 0 3, true, 0) ∧ sTok.spindle? 0 false 0 = some Spindle.fresh ∧
    (∃ d, ((noRoom s0).part 0).dispatch[0]? = some d ∧ d.spill = 0 :: []) ∧
    (∃ e l, (({ s0 with cores := [{ Core.reset with queues := [⟨[], [cmd (.mzero 0) false none]⟩] }] } : State).queue 0 0).spill = e :: l) ∧
    (blkQuota.place = .saved false ⟨0x40, 1, [], [], false⟩ ∧ ((mach blkQuota).grids[blkQuota.grid]?).isSome = true ∧
      (mach blkQuota).spillFits 0 1 = true ∧ (noRoom (mach blkQuota)).spillFits 0 1 = false) :=
  ⟨by decide, by decide, fun g h => enter_ok _ _ (by rw [h]; decide), fun g h k => enter_none _ _ (by rw [h]; decide) (by rw [h, k]; decide),
    by decide, by decide, ⟨_, rfl, rfl⟩, ⟨_, _, rfl⟩, rfl, by decide, by decide, by decide⟩

/-- No uncorrectable word stands in the own window. -/
theorem homeBad_win {s : State} {b : Nat} (h : ((s.blocks[b]?).map (·.badMem)).getD [] = []) (off n : Nat) :
    s.homeBad (.win b off) n = false := by
  simp [State.homeBad, h]

/-- A machine with 128 KiB of block memory and an operation at the head of its matrix queue. -/
def sMat (op : CmdOp) : State := withCmd (mach (mat thM)) 7 (cmd op true none)

theorem tile_ok (op : CmdOp) (n : Nat) : (sMat op).readTile 0 0 0xFF0000000000 n = .ok ((sMat op).homeRead (.win 0 0) n) := by
  have h : (sMat op).aperture 0 (0xFF0000000000 : Addr).toNat = .ok (.win 0 0) := rfl
  rw [State.readTile, h]
  simp only [homeBad_win (s := sMat op) (b := 0) rfl]
  rfl

/-- The head's operation with its operands in the own window, and one with its operand beyond it. -/
theorem witness_MatrixEvents :
    (∀ op ∈ [CmdOp.mma 0 0xFF0000000000 0xFF0000000000 0, .mma 0x400 0xFF0000000000 0xFF0000000000 0, .mdrain 0 0xFF0000000000 0 0 0, .mzero 0,
      .mloadc 0xFF0000000000 0, .mhist 0 0xFF0000000000, .mhclr 0, .mwait 0], (sMat op).queue 0 7 = ⟨cmd op true none :: [], []⟩ ∧
      headIs (sMat op) 7 (cmd op true none) = true ∧ (sMat op).blocks[0]? = some (mat thM)) ∧
    (∃ fa, (sMat (.mma 0 0xFF0000000000 0xFF0000000000 0)).mmaA 0 0 0 0xFF0000000000 = .ok fa) ∧
    (∃ fb sc, (sMat (.mma 0 0xFF0000000000 0xFF0000000000 0)).mmaB 0 0 0 0xFF0000000000 = .ok (fb, sc)) ∧
    (sMat (.mma 0 0xFF0000080000 0xFF0000000000 0)).mmaA 0 0 0 0xFF0000200000 = .error 0x0003 ∧
    (∃ d, (sMat (.mloadc 0xFF0000000000 0)).readTile 0 0 0xFF0000000000 65536 = .ok d) ∧
    (∃ s1 ws, (sMat (.mdrain 0 0xFF0000000000 0 0 0)).drain 0 0 0 0xFF0000000000 0 0 0 = .ok (s1, ws)) ∧
    (∃ ws, (sMat (.mhist 0 0xFF0000000000)).tileWrites 0 0xFF0000000000 [] = some ws) ∧ (Core.reset.hist[0]?).map (·.holder) = some none ∧
    ((sMat (.mwait 0)).core 0).turn = [] ∧
    ((sMat (.mhclr 0)).core 0).hist[0]? = some ⟨[], none⟩ ∧ (sMat (.mhist 0 0xFF0000000000)).aperture 0 (0xFF0000000000 : Addr).toNat = .ok (.win 0 0) ∧
    (mat thM).place ≠ .ended ∧ (sMat (.mwait 0)).spindle? 0 false 0 = some Spindle.fresh ∧
    (sMat (.mma 0 0xFF0000000000 0xFF0000000000 0)).mcWaits 0 (cmd (.mma 0 0xFF0000000000 0xFF0000000000 0) true none) = false := by
  refine ⟨?_, ?_, ?_, ?_, ⟨_, tile_ok _ _⟩, ⟨_, _, rfl⟩, ⟨_, rfl⟩, rfl, rfl, rfl, rfl, by decide, rfl, by decide⟩
  · intro op hop
    fin_cases hop <;> exact ⟨rfl, by decide, rfl⟩
  · unfold State.mmaA
    rw [tile_ok]
    exact ⟨_, rfl⟩
  · unfold State.mmaB
    rw [tile_ok]
    exact ⟨_, _, rfl⟩
  · rfl

/-- A member of a quad group that waits for its three partners, and a release that waits. -/
def sMc : State :=
  { sMat (.mma 0x400 0xFF0000000000 0xFF0000000000 0) with
    blocks := [{ mat thM with group := 1 }, { mat thM with group := 1, num := 1, place := .onCore 1 }] }
def thRel : Thread := { thM with cv := some (3, 0), park := some (.unbind 3) }
def sRel (l : List Round) : State := withCv (mach (mat thRel)) ⟨2, 0, some 0, 1, 0, l⟩

theorem witness_MatrixEvents_waits :
    sMc.mcWaits 0 (cmd (.mma 0x400 0xFF0000000000 0xFF0000000000 0) true none) = true ∧ (sRel []).thread? t0 = some thRel ∧
    (sRel []).coreOf 0 = some 0 ∧ ((sRel []).core 0).cvs[3]? = some ⟨2, 0, some 0, 1, 0, []⟩ ∧
    ((sRel [⟨0, .mzero 0, [t0]⟩]).core 0).cvs[3]? = some ⟨2, 0, some 0, 1, 0, [⟨0, .mzero 0, [t0]⟩]⟩ :=
  ⟨by decide, rfl, rfl, rfl, rfl⟩

/-- A draw with a triangle that covers no sample, numbered. -/
def vtx (x y : Word) : List Reg := [x, y, 0, 0x3F800000, 0, 0, 0, 0].map Reg.plain
def draw1 : Draw :=
  { draw0 with
    prims := [⟨0, [vtx 0xBF800000 0xBF800000, vtx 0xBF7D70A4 0xBF800000, vtx 0xBF800000 0xBF7D70A4], 0, some 0⟩]
    numbered := true }
def sRas : State := { s0 with draws := [draw1] }
def sDrawQ : State := withImg (withCmd (mach (blk th0)) 8 (cmd (.draw draw0.oct draw0.record) false none))
/-- A page table with one writable near leaf of 1 GiB at 0, in a machine without cores that keep translations. -/
def sWr : State :=
  { State.reset with
    cores := []
    parts := [{ Part.reset with root := 0x100, tbEn := true, slices := [0, 32] }]
    svc := { Service.reset with enabled := true }
    mem := Mem.putN (Mem.putN [] 0x100000 (leBytes 8 0x101401)) 0x101000 (leBytes 8 0x400000ED) }
/-- A target of one pixel with its heads at 0x10100 and no pages, in the page of the extent. -/
def desc0 : List Byte := [0, 1, 1, 0, 0, 0, 0, 0, 0, 2, 1, 0, 0, 0, 0, 0, 1, 0, 1, 0, 2, 0, 0, 0, 0, 0, 0, 0, 0, 0, 0, 0]
def sLclr (tgt : Addr) : State := { withCmd s0 8 (cmd (.lclr tgt 0) false none) with mem := Mem.putN [] 0x200000 desc0 }
/-- A thread parked at LINS on an invalid target, and one on the pool. -/
def thLay : Thread := { thL with park := some (.layer (.lins 1 24 0) 0) }

/-- What the plan of a chunk of a clear is: whether it is the last, a failure with a status, or a wait. -/
def planIs (x : Except CopyR (State × List (Loc × List Byte) × Bool)) (r : Option Bool) (st : Nat) : Bool :=
  match x with
  | .ok y => r == some y.2.2
  | .error (.fail _ v) => r == none && v == st
  | .error _ => false

/-- A clear with a write left, the last of its chunk; and one behind a draw of its block. -/
def sBusy (left : List Nat) : State :=
  withCmd s0 8 { cmd (.lclr 0x10000 0) true none with left := left, work := ⟨[], [], true, [(.phys 0x200000, [0])], 0, [], []⟩ }
def sOut : State := { sLclr 0x10000 with draws := [{ draw0 with done := .token 0 0 3 }] }

theorem witness_DrawEvents :
    (sDrawQ.queue 0 8 = ⟨cmd (.draw draw0.oct draw0.record) false none :: [], []⟩ ∧ (sDrawQ.part 0).exited = false ∧
      (s0.drawCheck 0 draw0.oct draw0.record = (7, none)) ∧ ∃ v f s1, sDrawQ.drawCheck 0 draw0.oct draw0.record = (0, some (v, f)) ∧
        sDrawQ.startDraw 0 0 0 v f draw0.oct draw0.record (.token 0 0 3) = some s1) ∧
    ((sLclr 0x10000).queue 0 8 = ⟨cmd (.lclr 0x10000 0) false none :: [], []⟩ ∧ (0x10001 : Addr).toNat % 32 ≠ 0 ∧ (0x10000 : Addr).toNat % 32 = 0 ∧
      (match (sLclr 0x10000).engineRead (blockXl 0 0) 0x10000 32 with | .ok x => x.2 == desc0 | .error _ => false) = true ∧
      (match s0.engineRead (blockXl 0 0) 0x400000 32 with | .ok _ => false | .error (.fail _ v) => v == 3 | .error _ => false) = true ∧
      targetOf 0x10000 (desc0.set 20 1) = none ∧ (sLclr 0x10000).outstanding 0 8 = false ∧
      planIs ((sLclr 0x10000).clearPlan (blockXl 0 0) 0 0x10000 0) (some false) 0 = true ∧
      planIs ((sLclr 0x10000).clearPlan (blockXl 0 0) 0 0x10000 1) (some true) 0 = true ∧
      planIs ((sLclr 0x10001).clearPlan (blockXl 0 0) 0 0x10001 0) none 7 = true ∧
      planIs ((sLclr 0x400000).clearPlan (blockXl 0 0) 0 0x400000 0) none 3 = true ∧ sOut.outstanding 0 8 = true ∧
      (sBusy [0]).outstanding 0 8 = false ∧ ((sBusy []).writeOne [(.phys 0x200000, [0])]).2 = []) ∧
    (sRas.draws[0]? = some draw1 ∧ 0 ∈ draw1.tilesLeft ∧ 1 ∉ draw1.tilesLeft ∧ draw1.finished = false ∧ sRas.drawWaits 0 = false ∧
      (sRas.part 0).exited = false ∧ draw1.spilling 0 = false ∧
      (State.launchFrags 0 0 (draw1.bin 0) (sRas.reloadTile 0 0)).2 = true) ∧
    ((mach (blk thLay)).thread? t0 = some thLay ∧ (mach (blk thLay)).coreOf 0 = some 0 ∧ (mach (blk thLay)).insertWaits t0 thLay 24 (some 0) = false ∧
      (∃ s1 v, State.insertOne { mach (blk thLay) with issue := ⟨0, 0, [t0], 0x1000, 0⟩ } t0 thLay 24 = .ok (s1, v)) ∧
      ({ mach (blk thLay) with draws := [{ draw0 with frags := [(0, 0, 0)] }] } : State).insertWaits t0
        { thLay with frag := some ⟨0, 0, 0, 1, 1, []⟩ } 24 (some 0) = true) ∧
    ({ s0 with svc := { s0.svc with mailbox := [⟨0, 3, 1, [], some (.pool 0x2000)⟩] } } : State).waitingEvent 0 1 = some (.pool 0x2000) ∧
    s0.waitingEvent 0 1 = none := by
  refine ⟨⟨rfl, by decide, rfl, ?_⟩, ⟨rfl, by decide, by decide, by decide, by decide, by decide, by decide, by decide, by decide, by decide,
      by decide, by decide, by decide, ?_⟩, ⟨rfl, by decide, by decide, rfl, by decide, by decide, by decide, by decide⟩, ⟨rfl, rfl, by decide, ⟨_, _, rfl⟩, by decide⟩, by decide, by decide⟩
  rotate_left
  · show (State.writeOne (sBusy []) [(.phys 0x200000, [0])]).2 = []
    simp [State.writeOne, Nat.mod_one]
  obtain ⟨s1, h⟩ := enter_ok { sDrawQ with draws := sDrawQ.draws ++ [{ draw0 with vgrid := 1, fkernel := Image.kernel img 0, verts := [], done := .token 0 0 3 }] }
    { part := 0, num := 0, kernel := Image.kernel img 0, prio := 0, count := 1, next := 0, quad := 0, doubled := false, param := 0,
      done := .draw 0, ranges := [], ended := [], draw := some (0, false), joined := [], core := 72 } (by decide)
  exact ⟨_, _, s1, rfl, h⟩

/-- Bins that hold no more than the least space are not beyond it, and then nothing is flushed. -/
theorem binsFull_small {d : Draw} (h : (d.tiles.map fun t => (d.bin t).length).sum ≤ 1) : d.binsFull = false := by
  unfold Draw.binsFull
  simp only [decide_eq_false_iff_not]
  omega

theorem relieve_idle {s : State} {di : Nat} {d : Draw} (h : s.draws[di]? = some d) (hb : d.binsFull = false) : s.relieve di = s := by
  unfold State.relieve
  rw [h]
  dsimp only
  split
  · rfl
  · simp [hb]

theorem witness_DrawEvents_bins : (sRas.relieve 0).writeSpills 0 = sRas ∧ draw1.binsFull = false ∧ draw1.spills = [] := by
  have hb : draw1.binsFull = false := binsFull_small (by decide)
  refine ⟨?_, hb, rfl⟩
  rw [relieve_idle (d := draw1) rfl hb]
  rfl

theorem witness_DrawEvents_target : sWr.svc.enabled = true ∧ desc0.length = 32 ∧ 0 < sWr.parts.length ∧ ∃ d, targetOf 0x2000 desc0 = some d ∧
    (match sWr.createWrites 0 d desc0 with | .ok _ => true | _ => false) = true := ⟨rfl, rfl, by decide, _, rfl, by decide +kernel⟩

/-! ### Witnesses: graphs, the service, whole steps -/

/-- A graph of one node of a kind, with its octet's words and its record of completion at 0x2000 (R148, R149). -/
def gImg (kind : Byte) (oct : List Word) : List Byte :=
  [0x56, 0x5A, 0x47, 0x52, 1, 0, 1, 0, 0, 0x20, 0, 0, 0, 0, 0, 0] ++ List.replicate 16 0 ++ [kind] ++ List.replicate 15 0 ++
    (oct ++ List.replicate (8 - oct.length) 0).flatMap wordBytes ++ List.replicate 16 0
/-- A launch of the image's kernel. -/
def octL : List Word := [0, 0x10, 1, 0, 0, 0, 0x30000, 0]

/-- The service enabled, with the object loaded and graph 1 of that kind, with the replays given. -/
def sG (kind : Byte) (oct : List Word) (rs : List Replay) : State :=
  withImg { s0 with
    svc := { s0.svc with enabled := true }
    parts := [{ Part.reset with cores := [0], graphs := [⟨1, gImg kind oct⟩], replays := rs }] }
def rep (kind : Byte) (oct : List Word) (n : NodeState) : Replay := ⟨1, 1, 0, gImg kind oct, [n], false⟩
/-- The same with one replay whose node is in a state. -/
def sR (kind : Byte) (oct : List Word) (n : NodeState) : State := sG kind oct [rep kind oct n]

theorem witness_GraphEvents_upload :
    (sG 4 [] []).svc.enabled = true ∧ (sG 4 [] []).hostDuty 0 2 = false ∧ graphHeaderBad [] = true ∧ graphHeaderBad (gImg 4 []) = false ∧ graphNodes (gImg 4 []) = 1 ∧
    (sG 4 [] []).nodeStatus 0 (gImg 4 []) 0 = 0 ∧ (sG 4 [] []).nodeStatus 0 (gImg 4 [1]) 0 ≠ 0 ∧
    (sG 0 octL []).nodeStatus 0 (gImg 0 octL) 0 = 0 ∧ 2 ∉ ((sG 4 [] []).part 0).graphs.map (·.handle) ∧
    (∀ k, 1 ≤ k → k < 2 → k ∈ ((sG 4 [] []).part 0).graphs.map (·.handle)) :=
  ⟨rfl, by decide, by decide, by decide, by decide, by decide, by decide, by decide, by decide, fun k h1 h2 => by
    obtain rfl : k = 1 := by omega
    decide⟩

theorem witness_GraphEvents_kick :
    0 < (sG 4 [] []).parts.length ∧ ((sG 4 [] []).part 0).kicks = [] ∧
    (∀ g ∈ ((sG 4 [] []).part 0).graphs, g.handle ≠ ((0x0002000000000000 : Addr).extractLsb' 48 16).toNat) ∧
    ((sG 4 [] []).part 0).graphs.find? (fun g => g.handle == ((0x0001000000000003 : Addr).extractLsb' 48 16).toNat) = some ⟨1, gImg 4 []⟩ ∧
    ((sG 4 [] []).part 0).openReplays 1 < 9 ∧ (0x0001000000000003 : Addr).extractLsb' 3 45 = 0 ∧
    9 ≤ ((sG 4 [] (List.replicate 9 (rep 4 [] .waiting))).part 0).openReplays 1 :=
  ⟨by decide, rfl, by decide, by decide, by decide, by decide, by decide⟩

theorem witness_GraphEvents_nodes :
    [((4 : Byte), ([] : List Word)), (1, octCopy), (0, octL), (0, [])].all (fun x => decide (((sR x.1 x.2 .waiting).part 0).replays[0]? =
      some (rep x.1 x.2 .waiting)) && ((sR x.1 x.2 .waiting).part 0).nodeReady 0 0 && decide (nodeKind (gImg x.1 x.2) 0 = x.1.toNat)) = true ∧
    ((sR 4 [] (.complete 0)).part 0).nodeReady 0 0 = false ∧ (sR 0 [] .waiting).kernelAt 0 (nodeKernelAt (gImg 0 []) 0) = none ∧
    (∃ k s1 rs s2, (sR 0 octL .waiting).kernelAt 0 (nodeKernelAt (gImg 0 octL) 0) = some k ∧ launchBad (launchOct (gImg 0 octL) 0) = false ∧
      zeroAt (nodeRecord (gImg 0 octL) 0) 58 6 = true ∧ k.tooLarge = false ∧
      (sR 0 octL .waiting).notCoResident 0 k ((octW (launchOct (gImg 0 octL) 0) 3).extractLsb' 0 4).toNat
        (octW (launchOct (gImg 0 octL) 0) 2).toNat ((octW (launchOct (gImg 0 octL) 0) 3).getLsbD 5) = false ∧
      (sR 0 octL .waiting).rangeList 0 (nodeRanges (gImg 0 octL) 0).1 (nodeRanges (gImg 0 octL) 0).2 = .ok (s1, rs) ∧
      (s1.attach 0 (coalescing (gImg 0 octL) 0 s1.grids.length k fun j =>
        (((rep 0 octL .waiting).nodes[j]?).map NodeState.isComplete).getD false)).enterGrid
          (gridOf 0 k (launchOct (gImg 0 octL) 0) 0 (.node 0 0 0) rs) = some s2) := by
  refine ⟨by decide, by decide, by decide, ?_⟩
  obtain ⟨s2, h⟩ := enter_ok ((sR 0 octL .waiting).attach 0 (coalescing (gImg 0 octL) 0 (sR 0 octL .waiting).grids.length
    (Image.kernel img 0) fun j => (((rep 0 octL .waiting).nodes[j]?).map NodeState.isComplete).getD false))
    (gridOf 0 (Image.kernel img 0) (launchOct (gImg 0 octL) 0) 0 (.node 0 0 0) []) (by decide)
  exact ⟨Image.kernel img 0, sR 0 octL .waiting, [], s2, rfl, by decide, by decide, by decide, by decide, rfl, h⟩

/-- The partition's table with a writable page for the record, in a machine without cores. -/
def sRec : State := { sWr with parts := [{ sWr.part 0 with replays := [rep 4 [] (.complete 0)] }] }

theorem witness_GraphEvents_completion :
    (rep 0 octL (.running 0 [] ChunkWork.none 0)).nodes[0]? = some (.running 0 [] ChunkWork.none 0) ∧ nodeKind (gImg 3 []) 0 = 3 ∧
    (({ s0 with grids := [{ placeGrid 1 with done := .node 0 0 0 }] } : State).grids.find? fun g => g.done == .node 0 0 0).isSome = true ∧
    (({ s0 with draws := [{ draw0 with done := .node 0 0 0 }] } : State).draws.find? fun d => d.done == .node 0 0 0).isSome = true ∧
    ((sR 4 [] .waiting).part 0).running 0 = true ∧ (∃ n ∈ (rep 4 [] .waiting).nodes, n.isComplete = false) ∧
    (sRec.part 0).running 0 = true ∧ (∀ n ∈ (rep 4 [] (.complete 0)).nodes, n.isComplete = true) ∧
    (match sRec.writeGranule (replayXl 0) none [] (graphDone (gImg 4 [])) (leBytes 8 (recordOfReplay (rep 4 [] (.complete 0)))) with
      | .ok _ => true | _ => false) = true :=
  ⟨rfl, by decide, by decide, by decide, by decide, by decide, by decide, by decide, by decide +kernel⟩

/-- A block whose event waits in the mailbox, and two objects' handles. -/
def blkWait : Block := { blk th0 with place := .saved false ⟨0x22, 1, [], [], false⟩ }
def sSvc : State :=
  withImg { mach blkWait with svc := { (mach blkWait).svc with enabled := true, mailbox := [⟨0, 0, 1, [], some (.repair 0)⟩] } }

theorem witness_ServiceEvents :
    0 < sSvc.parts.length ∧ sSvc.svc.enabled = true ∧ s0.svc.enabled = false ∧ (0x80000000 : Addr).getLsbD 31 = true ∧
    (1 : Addr).getLsbD 0 = true ∧ (0x100000001 : Addr).extractLsb' 0 8 = 1 ∧
    (({ s0 with parts := [{ Part.reset with exited := true }] } : State).part 0).exited = true ∧ (s0.part 0).exited = false ∧
    sSvc.waitingEvent 0 2 = none ∧ sSvc.waitingEvent 0 1 = some (.repair 0) ∧ sSvc.blocks[0]? = some blkWait ∧
    blkWait.place = .saved false ⟨0x22, 1, [], [], false⟩ ∧ (sSvc.grids[blkWait.grid]?).isSome = true ∧ sSvc.imageOf [] [9] = none ∧
    (sSvc.imageOf [] [1] = some img ∧ Image.bad img = false ∧ (sSvc.part 0).sigBad img = false ∧
      freeHandle (sSvc.loadHandles 0) = some 2 ∧ ∃ s0 s1, State.loadImports 0 [] 2 (Image.deps img).zipIdx sSvc = .ok s0 ∧
      State.loadObject 0 [] s0 ([1], img) = .ok s1) ∧
    sSvc.svc.objects.all (fun o => !o.handles.contains (0, 9) && o.draining.isEmpty && !o.handles.isEmpty && o.imports.isEmpty) = true ∧
    (let o : CodeObj := ⟨[1], img, [(0, 1), (1, 1)], [], [], [], [], []⟩
     (0, 1) ∈ o.handles ∧ (0, 1) ∉ o.handles.erase (0, 1) ∧ o.handles.erase (0, 1) ≠ []) ∧
    s0.svc.verified = false ∧ ({ s0.svc with verified := true, booted := true } : Service).verified = true ∧
    (let p : Part := { Part.reset with exited := true, slices := [3] }
     (({ s0 with parts := [p] } : State).slicesHeld 0 = false ∧ p.ringFull = false) ∧
     ({ s0 with parts := [p], svc := { s0.svc with retention := [3] } } : State).slicesHeld 0 = true ∧
     ({ p with dlEn := true, dlHead := 4096 } : Part).ringFull = true) ∧
    (s0.part 0).cores ≠ [] ∧ sSvc.svc.owner = none ∧ ({ sSvc.svc with owner := some 3 } : Service).owner ≠ none ∧ s0.power = true ∧
    (∀ c ∈ s0.cores, c.preempt = none) ∧ ∀ k, ({ s0 with blocks := [] } : State).coreOf k = none := by
  refine ⟨by decide, rfl, rfl, by decide, by decide, by decide, by decide, by decide, by decide, by decide, rfl, rfl, by decide, by decide,
    ⟨by decide, by decide, by decide, by decide +kernel, ?_⟩, by decide, by decide, rfl, rfl, by decide, by decide, rfl, nofun, rfl, by decide,
    fun _ => rfl⟩
  exact ⟨_, _, rfl, rfl⟩

/-- Two threads of one strand that issue together. -/
theorem witness_EveryLane :
    (∀ s, exec (.iadd 1 16 22 .w1 0) s = s.runLocal (.iadd 1 16 22 .w1 0) 0 (fun c th => .next (th.results 1 c.dueA 0 ((List.range 1).map
      fun i => intReg [th.get (member 16 i), th.get (member 22 i)] (th.valAt 16 i + th.valAt 22 i))))) ∧
    s2.issue.lanes.Nodup ∧ (∀ x ∈ [(t0, thNv), (⟨0, 1⟩, thX)], s2.issuable x.1 = some x.2) ∧ s2.issue.lanes = [t0, ⟨0, 1⟩] ∧
    misalignedSub (Instr.groups (s2.laneWords 0) (.iadd 1 16 22 .w1 0)) = none ∧ thNv.chk = false ∧ thX.chk = false ∧
    (∀ a ∈ (Instr.rangeGroups (s2.laneWords 0) (.iadd 1 16 22 .w1 0)).flatMap (Group.archs 0), a < max 1 thX.regs.length) :=
  ⟨fun _ => rfl, by decide, by decide, rfl, by decide, rfl, rfl, by decide⟩

theorem witness_EncodeRoundTrip : Instr.wf (.mma 6 8 10 0) = true ∧ encode (.mma 6 8 10 0) = some 0xEE1840A0 ∧
    decode 0xEE1840A0 = some (.mma 6 8 10 0) := ⟨by decide, by decide, by decide⟩

/-- Did a fetch give this word? -/
def fetched (x : Fetched) (w : Word) : Bool := match x with | .word _ v => v == w | _ => false

/-- The placed NOP as the next step, the same without an agenda, and an event from outside. -/
def sNop : State := State.reset.withFetchWord 32 0x7C000000
def sQuiet : State := { sNop with agenda := [], quiet := true, rr := 0 }

theorem witness_StepRunsDecoded :
    (sNop.power = true ∧ sNop.due = [] ∧ sNop.agenda = .core 0 :: [] ∧ ∃ x, (sNop.core 0).turn = x :: [] ∧
      fetched (State.begin { sNop with agenda := [] } 0 x []).fetch 0x7C000000 = true) ∧
    (sQuiet.power = true ∧ sQuiet.due = [] ∧ sQuiet.agenda = [] ∧ sQuiet.quiet = true ∧ sQuiet.batch = 0 ∧ sQuiet.rr = 0 ∧
      ∃ x, (sQuiet.core 0).turn = x :: [] ∧ fetched (State.begin { sQuiet with quiet := false } 0 x []).fetch 0x7C000000 = true) ∧
    decode 0x7C000000 = some (.nop 0) ∧ decode 0 = none ∧
    (∃ s : State, s.power = true ∧ s.due = [] ∧ s.agenda = .event (.linkLoss 0) :: [] ∧ s.hostWaits (.linkLoss 0) = false) ∧
    (∃ s : State, s.power = true ∧ s.due = [] ∧ s.agenda = .request 3 (.resume 0) :: [] ∧ 3 ≠ hostSource ∧ manages (.resume 0) = true ∧
      s.svc.owner ≠ some 3) ∧
    ∃ s : State, s.power = true ∧ s.due = [] ∧ s.agenda = .request 0 (.resume 0) :: [] ∧ s.hostWaits (.resume 0) = false ∧ s.svc.owner = some 0 :=
  ⟨⟨rfl, rfl, rfl, _, rfl, by decide⟩, ⟨rfl, rfl, rfl, rfl, rfl, rfl, _, rfl, by decide⟩, by decide, by decide,
    ⟨{ sNop with agenda := [.event (.linkLoss 0)] }, rfl, rfl, rfl, by decide⟩,
    ⟨{ sNop with agenda := [.request 3 (.resume 0)] }, rfl, rfl, rfl, by decide, rfl, by decide⟩,
    { sNop with agenda := [.request 0 (.resume 0)], svc := { sNop.svc with owner := some 0 } }, rfl, rfl, rfl, by decide, rfl⟩

theorem witness_MemoryStaysCanonical : sNop.memOk = true ∧ ∃ s', step { sNop with agenda := [.event (.linkLoss 0)] } = .next s' :=
  ⟨by decide, _, rfl⟩

/-! ### Single steps, with the results that the rules give by hand -/

/-- The machine after an instruction of the one thread with these registers. -/
def after (i : Instr) (regs : List (Nat × Word)) : State :=
  match exec i (mach (blk (thr regs))) with
  | .next s => s
  | _ => s0

/-- The thread after an instruction. -/
def thAfter (i : Instr) (regs : List (Nat × Word)) : Thread := ((after i regs).thread? t0).getD th0

/-- The value on its way to a register, and the exceptions raised. -/
def out (i : Instr) (regs : List (Nat × Word)) (r : Nat) : Option Nat × Nat :=
  (((thAfter i regs).pend.find? fun p => p.reg == r).map fun p => p.res.val.toNat, (thAfter i regs).fpflags.toNat)

/-- R248: 0x80000000 + 0x80000000 wraps to 0. -/
theorem test_iadd_wraps : out (.iadd 1 2 3 .w1 0) [(2, 0x80000000), (3, 0x80000000)] 1 = (some 0, 0) := by decide
/-- R250: (−2^31)² has the high half 2^30; unsigned the same. -/
theorem test_imulh : (out (.imulh 1 2 2 .w1 0) [(2, 0x80000000)] 1, out (.imulhn 1 2 3 .w1 0) [(2, 0xFFFFFFFF), (3, 0xFFFFFFFF)] 1) =
    ((some 0x40000000, 0), (some 0xFFFFFFFE, 0)) := by decide
/-- R250: a shift count is b[4:0], so 33 shifts by 1; SAR keeps the sign. -/
theorem test_shifts : (out (.shl 1 2 3 .w1 0) [(2, 1), (3, 33)] 1, out (.sar 1 2 3 .w1 0) [(2, 0x80000000), (3, 31)] 1) =
    ((some 2, 0), (some 0xFFFFFFFF, 0)) := by decide
/-- R252: the pair shifted right by 36 gives bits [67:36], of which the top four are 0. -/
theorem test_shfr : out (.shfr 1 2 4 0) [(2, 0xFFFFFFFF), (3, 0x12345678), (4, 36)] 1 = (some 0x01234567, 0) := by decide
/-- R257: the overflow of IDIV, and division by 0. -/
theorem test_idiv : [out (.idiv 1 2 0) [(1, 0x80000000), (2, 0xFFFFFFFF)] 1, out (.irem 1 2 0) [(1, 0x80000000), (2, 0xFFFFFFFF)] 1,
    out (.idiv 1 2 0) [(1, 7)] 1, out (.irem 1 2 0) [(1, 7)] 1, out (.irem 1 2 0) [(1, 0xFFFFFFF9), (2, 2)] 1] =
    [(some 0x80000000, 0), (some 0, 0), (some 0xFFFFFFFF, 0), (some 7, 0), (some 0xFFFFFFFF, 0)] := by decide
/-- R257. -/
theorem test_counts : [out (.clz 1 2 0) [] 1, out (.ctz 1 2 0) [] 1, out (.popc 1 2 0) [(2, 0xF0F0F0F0)] 1, out (.clz 1 2 0) [(2, 1)] 1,
    out (.ctz 1 2 0) [(2, 0x80000000)] 1, out (.brev 1 2 0) [(2, 1)] 1] =
    [(some 32, 0), (some 32, 0), (some 16, 0), (some 31, 0), (some 31, 0), (some 0x80000000, 0)] := by decide
/-- R253, R254: the immediates of ADDI and ISETLTI are signed, that of ORI is not. -/
theorem test_immediates : [out (.addi 1 2 0x1FF 0) [(2, 5)] 1, out (.ori 1 2 0x1FF 0) [] 1, out (.isetlti 1 2 0 0) [(2, 0x80000000)] 1,
    out (.movi 1 0x8000 0) [] 1, out (.lui 1 0x8000 0) [] 1] =
    [(some 4, 0), (some 0x1FF, 0), (some 1, 0), (some 0xFFFF8000, 0), (some 0x80000000, 0)] := by decide
/-- R248: 0xFFFFFFFF:00000001 plus 0xFFFFFFFF carries into the high word. -/
theorem test_add64 : (out (.add64 4 2 6 0) [(2, 1), (6, 0xFFFFFFFF)] 4, out (.add64 4 2 6 0) [(2, 1), (6, 0xFFFFFFFF)] 5) =
    ((some 0, 0), (some 1, 0)) := by decide
/-- R279: 1.0 + 2.0, and 2^24 + 1 rounded to even with NX. -/
theorem test_fadd : (out (.fadd 1 2 3 .w1 0) [(2, 0x3F800000), (3, 0x40000000)] 1, out (.fadd 1 2 3 .w1 0) [(2, 0x4B800000), (3, 0x3F800000)] 1) =
    ((some 0x40400000, 0), (some 0x4B800000, 16)) := by decide
/-- R279, R170: the largest number times 2 overflows; 0 × ∞ is invalid. -/
theorem test_fmul : (out (.fmul 1 2 3 .w1 0) [(2, 0x7F7FFFFF), (3, 0x40000000)] 1, out (.fmul 1 2 3 .w1 0) [(2, 0), (3, 0x7F800000)] 1) =
    ((some 0x7F800000, 20), (some 0x7FC00000, 1)) := by decide
/-- R285: 1 / 0 raises DZ, and 1 / 3 is 0x3EAAAAAB. -/
theorem test_fdiv : (out (.fdiv 1 2 3 .w1 0) [(2, 0x3F800000)] 1, out (.fdiv 1 2 3 .w1 0) [(2, 0x3F800000), (3, 0x40400000)] 1) =
    ((some 0x7F800000, 2), (some 0x3EAAAAAB, 16)) := by decide
/-- R287: FTRUNC(−0.5) is −0, and FFRAC(−2^−30) is 1.0 with NX. -/
theorem test_integral : (out (.ftrunc 1 2 .f32 0) [(2, 0xBF000000)] 1).1 = some 0x80000000 ∧
    out (.ffrac 1 2 .f32 0) [(2, 0xB0800000)] 1 = (some 0x3F800000, 16) := by decide
/-- R290: FEXP.v1 of 3.0 × 10^38 is +∞ with OF and NX, and of its opposite +0 with UF and NX. -/
theorem test_fexp_v1 : (out (.fexp 1 2 .v1 0) [(2, 0x7F61B1E6)] 1, out (.fexp 1 2 .v1 0) [(2, 0xFF61B1E6)] 1) =
    ((some 0x7F800000, 20), (some 0, 24)) := by decide
/-- R286: the square root of 4.0, and of −1.0. -/
theorem test_fsqrt : (out (.fsqrt 1 2 .f32 0) [(2, 0x40800000)] 1, out (.fsqrt 1 2 .f32 0) [(2, 0xBF800000)] 1) =
    ((some 0x40000000, 0), (some 0x7FC00000, 1)) := by decide +kernel
/-- R258: cvt.e4m3.f32.rz.sat has minor7 0x07 and w 1; −1.5 toward zero is −1; 3.0 × 10^9 does not fit. -/
theorem test_cvt : decode (0x2D#7 ++ 4#7 ++ 5#7 ++ 0x07#7 ++ 1#2 ++ 0#2) = some (.cvt 4 5 .f32 .e4m3 true .rz 0) ∧
    (out (.cvt 1 2 .f32 .i32 false .rz 0) [(2, 0xBFC00000)] 1).1 = some 0xFFFFFFFF := by decide
/-- R291: (1.0, 2.0) + (1.0, 1.0) in f16. -/
theorem test_padd2 : (out (.padd2 1 2 3 false 0) [(2, 0x40003C00), (3, 0x3C003C00)] 1).1 = some 0x42004000 := by decide
/-- R295: PLYTAG of a register with ZERO plies, and of one whose plies were lost. -/
theorem test_plytag : (out (.plytag 1 2 0) [] 1).1 = some PlyTag.zero.code ∧
    (((thAfter (.plylose 1 0) []).pend.head?).map fun p => p.res.tag) = some PlyTag.lost := by decide
/-- R262: a branch taken backwards, and one not taken. -/
theorem test_branch : (thAfter (.brz 1 0xFFFF 0) []).pc = 0x1000 ∧ (thAfter (.brz 1 0xFFFF 0) [(1, 5)]).pc = 0x1004 := by decide
/-- R263, R264: CALL links PC + 4 in v1; CALLI reads a before it writes v1. -/
theorem test_call : (thAfter (.call 4 0) []).pc = 0x1014 ∧ ((thAfter (.call 4 0) []).reg 1).val = 0x1004 ∧
    (thAfter (.calli 1 false 0) [(1, 0x2003)]).pc = 0x2000 ∧ ((thAfter (.calli 1 false 0) [(1, 0x2003)]).reg 1).val = 0x1004 := by decide
/-- R255, R171: %fpctl keeps five bits. -/
theorem test_movts : (thAfter (.movts 1 0x0300 0) [(1, 0xFFFFFFFF)]).fpctl = 31 ∧
    (out (.movs 1 0x0008 0) [(1, 3)] 1).1.isSome = true := by decide
/-- R271, R215: TRAP 7 saves the pc and the word and goes to the handler at 0x2000. -/
theorem test_trap : (thAfter (.trap 7 0) []).pc = 0x2000 ∧ (thAfter (.trap 7 0) []).trap.inHandler = true ∧
    (thAfter (.trap 7 0) []).trap.cause = 0x18 ∧ (thAfter (.trap 7 0) []).trap.sub = 7 ∧ (thAfter (.trap 7 0) []).trap.epc = 0x1000 := by
  decide
/-- R228: a pair at an odd register is IllegalEncoding 0x01. -/
theorem test_misaligned : (thAfter (.iadd 1 2 4 .w2 0) []).trap.cause = 0x02 ∧ (thAfter (.iadd 1 2 4 .w2 0) []).trap.sub = 0x01 := by decide
/-- R298: an address beyond 48 bits, and one that is not aligned. -/
theorem test_ldw_traps : ((thAfter (.ldw 1 2 0 .w1 0) [(3, 0x10000)]).trap.cause, (thAfter (.ldw 1 2 0 .w1 0) [(3, 0x10000)]).trap.sub) = (0x20, 0x01) ∧
    ((thAfter (.ldw 1 2 0 .w1 0) [(2, 2)]).trap.cause, (thAfter (.ldw 1 2 0 .w1 0) [(2, 2)]).trap.sub) = (0x20, 0x02) := by decide
/-- R297: LDBS of the byte 0x80 of the own window. -/
theorem test_ldbs : (match exec (.ldbs 1 8 0 0) (withBytes [(0, [0x80])] th0) with
    | .next s => ((s.thread? t0).bind fun th => th.pend.head?.map fun p => p.res.val) | _ => none) = some 0xFFFFFF80 := by decide
/-- R297, R104: STB queues one byte and changes no home byte. -/
theorem test_stb : ((after (.stb 1 8 0 0) [(1, 0x1234), (9, 0xFF00)]).strand? 0 0).map (fun k => k.queue.map fun w => (w.loc, w.bytes)) =
    some [(.win 0 0, [0x34])] := by decide
/-- R306, R307: QFILL of a fresh spindle takes a free slot. -/
theorem test_qfill : (after (.qfill 1 false 0 0) [(1, 9)]).spindle? 0 false 0 = some ⟨15, 0, [9], 0, []⟩ := by decide
/-- R260: BALLOT of one thread of lane 0. -/
theorem test_ballot : (out (.ballot 1 2 0) [(2, 4)] 1).1 = some 1 := by decide
/-- R245: a word of major 0x00 is IllegalInstruction, another one ReservedEncoding. -/
theorem test_no_instruction : (thAfter (.wordNotInstruction 0) []).trap.cause = 0x01 ∧
    (thAfter (.wordNotInstruction 0x56000104) []).trap.cause = 0x03 := by decide
/-- R305: a slot beyond the depth of 8 is RegRange 0x04. -/
theorem test_spl : ((thAfter (.spl 1 7 0) [(1, 9)]).slot 7).val = 9 ∧ (thAfter (.spl 1 8 0) [(1, 9)]).trap.cause = 0x05 := by decide
/-- R216: ERET.skip with IN = 0 is IllegalInstruction 0x01. -/
theorem test_eret : (thAfter (.eretSkip 0) []).trap.cause = 0x01 ∧ (thAfter (.eretSkip 0) []).trap.sub = 0x01 := by decide
/-- R301: the atomic of a thread is asked for and the thread parks at PC + 4. -/
theorem test_atomc : (thAfter (.atomc 1 8 ⟨.add, .n32, false⟩ .w1 0) [(1, 3), (9, 0xFF00)]).pc = 0x1004 ∧
    (after (.atomc 1 8 ⟨.add, .n32, false⟩ .w1 0) [(1, 3), (9, 0xFF00)]).work = [.atomicRmwPerform 0 0] := by decide
/-- R33: TBCTL. -/
theorem test_control_window : (match exec (.controlWindowWrite 0 0 0x100001) { s0 with svc := { s0.svc with enabled := true } } with
    | .next s => ((s.part 0).root, (s.part 0).tbEn) | _ => (0, false)) = (0x100, true) := by decide
/-- R133, R134: the placed word is the next step's. -/
theorem test_step_runs : (match step (State.reset.withFetchWord 32 0x7C000000) with
    | .next s => (s.thread? ⟨0, 0⟩).map (·.pc) | _ => none) = some 0x1004 := by decide

end Sys2Proof.Tests
end

section
namespace Sys2Proof.Machine

/-! ### O60: what "canonical" means for a state and for each kind of result

A state is canonical when its memory and the memory of each of its blocks is (`State.memOk`). An operation of the model
answers a state alone or inside a result (`Lane`, `Xl`, an `Option`, an `Except`, …); such a result is canonical when the
state inside it is. -/

abbrev State.Canon (s : State) : Prop := s.memOk = true

theorem State.canon_iff {s : State} : s.Canon ↔ Mem.wf s.mem = true ∧ ∀ b ∈ s.blocks, Mem.wf b.mem = true := by
  unfold State.Canon State.memOk
  rw [Bool.and_eq_true, List.all_eq_true]

/-- Of the state's fields only the memory and the blocks count, so a record update of any other field changes nothing. -/
theorem State.canon_mk (mem pkg pod hv lpct poison badNear softNear sliceErrs cores blocks grids parts qspindles draws svc power nextJoin free
    due agenda work batch quiet rr issue) :
    State.memOk ⟨mem, pkg, pod, hv, lpct, poison, badNear, softNear, sliceErrs, cores, blocks, grids, parts, qspindles, draws, svc, power,
      nextJoin, free, due, agenda, work, batch, quiet, rr, issue⟩ = (Mem.wf mem && blocks.all fun b => Mem.wf b.mem) := rfl

theorem State.canon_of_fields {mem pkg pod hv lpct poison badNear softNear sliceErrs cores blocks grids parts qspindles draws svc power nextJoin
    free due agenda work batch quiet rr issue} (hm : Mem.wf mem = true) (hb : (blocks.all fun b => Mem.wf b.mem) = true) :
    State.Canon ⟨mem, pkg, pod, hv, lpct, poison, badNear, softNear, sliceErrs, cores, blocks, grids, parts, qspindles, draws, svc, power,
      nextJoin, free, due, agenda, work, batch, quiet, rr, issue⟩ := by
  rw [State.Canon, State.canon_mk, hm, hb]
  rfl

theorem State.Canon.wf_mem {s : State} (h : s.Canon) : Mem.wf s.mem = true := (State.canon_iff.mp h).1

theorem State.Canon.wf_blocks {s : State} (h : s.Canon) : (s.blocks.all fun b => Mem.wf b.mem) = true := by
  simpa using (State.canon_iff.mp h).2

def Lane.Canon : Lane → Prop
  | .next s | .go s | .stay s | .trap s _ _ _ => s.Canon
def Xl.Canon : Xl → Prop
  | .ok s _ | .fault s _ _ _ | .wait s | .exit s => s.Canon
def WalkR.Canon : WalkR → Prop
  | .leaf s _ _ _ | .fault s _ _ | .wait s => s.Canon
def Fetched.Canon : Fetched → Prop
  | .word s _ | .fault s _ _ _ | .wait s => s.Canon
def PageR.Canon : PageR → Prop
  | .extent s _ | .out s | .wait s => s.Canon
def Once.Canon : Once → Prop
  | .done s _ | .trap s _ _ | .fault s _ _ _ | .stay s => s.Canon
def CopyR.Canon : CopyR → Prop
  | .wait s | .fail s _ | .ok s => s.Canon
def Added.Canon : Added → Prop
  | .page s _ => s.Canon
  | _ => True
def Elems.Canon (r : Elems) : Prop := r.s.Canon
def PairCanon {α : Type} (r : State × α) : Prop := r.1.Canon
def OnSome {α : Type} (P : α → Prop) : Option α → Prop
  | none => True
  | some x => P x
def OnBoth {ε α : Type} (P : ε → Prop) (Q : α → Prop) : Except ε α → Prop
  | .error e => P e
  | .ok x => Q x
/-- What a lane of an issue does, from every canonical state. -/
def Body.Canon (b : Body) : Prop := ∀ s t th, s.Canon → (b s t th).Canon
/-- The translation that an engine or a service call uses, from every canonical state. -/
def Translate.Canon (tr : Translate) : Prop := ∀ s k ea, s.Canon → (tr s k ea).Canon
/-- A step's outcome: its next state, where it answers one. -/
def NextCanon (o : Host.Outcome State Fault Refusal) : Prop := ∀ s, o = .next s → s.Canon

/-! #### Results taken apart

Where the model matches on a result, its equation `e : f s = .ok s'` carries the result's canonicity to `s'`. -/

section
variable {ε α β : Type} {P : α → Prop} {Q : β → Prop} {R : ε → Prop}

theorem Lane.Canon.of_eq {a b : Lane} (h : a.Canon) (e : a = b) : b.Canon := e ▸ h
theorem Xl.Canon.of_eq {a b : Xl} (h : a.Canon) (e : a = b) : b.Canon := e ▸ h
theorem WalkR.Canon.of_eq {a b : WalkR} (h : a.Canon) (e : a = b) : b.Canon := e ▸ h
theorem Fetched.Canon.of_eq {a b : Fetched} (h : a.Canon) (e : a = b) : b.Canon := e ▸ h
theorem PageR.Canon.of_eq {a b : PageR} (h : a.Canon) (e : a = b) : b.Canon := e ▸ h
theorem CopyR.Canon.of_eq {a b : CopyR} (h : a.Canon) (e : a = b) : b.Canon := e ▸ h
theorem OnSome.of_eq {a b : Option α} (h : OnSome P a) (e : a = b) : OnSome P b := e ▸ h
theorem OnBoth.of_eq {a b : Except ε α} (h : OnBoth R P a) (e : a = b) : OnBoth R P b := e ▸ h

theorem OnBoth.bind {x : Except ε α} {f : α → Except ε β} (hx : OnBoth R P x) (hf : ∀ a, P a → OnBoth R Q (f a)) :
    OnBoth R Q (x >>= f) := by
  cases x with
  | error e => exact hx
  | ok a => exact hf a hx

theorem OnBoth.map {x : Except ε α} {f : α → β} (hf : ∀ a, P a → Q (f a)) (hx : OnBoth R P x) : OnBoth R Q (x.map f) := by
  cases x with
  | error e => exact hx
  | ok a => exact hf a hx

theorem OnSome.map {f : α → β} {o : Option α} (hf : ∀ a, P a → Q (f a)) (ho : OnSome P o) : OnSome Q (o.map f) := by
  cases o with
  | none => trivial
  | some a => exact hf a ho

theorem OnSome.bind {f : α → Option β} {o : Option α} (hf : ∀ a, P a → OnSome Q (f a)) (ho : OnSome P o) : OnSome Q (o.bind f) := by
  cases o with
  | none => trivial
  | some a => exact hf a ho

theorem OnSome.getD {o : Option State} {s : State} (ho : OnSome State.Canon o) (h : s.Canon) : (o.getD s).Canon := by
  cases o with
  | none => exact h
  | some a => exact ho

theorem ite_canon {c : Prop} [Decidable c] {s s' : State} (h : s.Canon) (h' : s'.Canon) : (if c then s else s').Canon := by
  split
  · exact h
  · exact h'

theorem nextCanon_next {s : State} (h : s.Canon) : NextCanon (.next s) := by
  intro s' e
  cases e
  exact h

/-! #### Folds and searches -/
theorem foldl_keeps {f : α → β → α} (hf : ∀ a x, P a → P (f a x)) (l : List β) {a : α} (h : P a) : P (l.foldl f a) := by
  induction l generalizing a with
  | nil => exact h
  | cons x r ih => exact ih (hf a x h)

theorem foldl_canon {f : State → α → State} (hf : ∀ s x, s.Canon → (f s x).Canon) {l : List α} {s : State} (h : s.Canon) :
    (l.foldl f s).Canon := foldl_keeps hf l h

theorem firstFrom_holds {f : Nat → Option α} (hf : ∀ n, OnSome P (f n)) {n i : Nat} : OnSome P (firstFrom f n i) := by
  induction n generalizing i with
  | zero => trivial
  | succ n ih =>
    unfold firstFrom
    split
    · next e => exact (hf i).of_eq e
    · exact ih

theorem scratchAt_holds {s : State} {f : Nat → Option α} (hf : ∀ n, OnSome P (f n)) : OnSome P (s.scratchAt f) := by
  have hp := hf s.scratchPage
  unfold State.scratchAt
  cases e : f s.scratchPage with
  | none => exact firstFrom_holds hf
  | some a => exact hp.of_eq e

end

/-! #### The memory and the blocks of a state -/
theorem Block.overtaken_mem (b : Block) (l : Loc) (n : Nat) : (b.overtaken l n).mem = b.mem := by cases l <;> rfl

section
variable {s : State}

theorem modBlock_canon {b : Nat} {f : Block → Block} (hf : ∀ k, Mem.wf k.mem = true → Mem.wf (f k).mem = true) (h : s.Canon) :
    (s.modBlock b f).Canon := by
  obtain ⟨hm, hb⟩ := State.canon_iff.mp h
  refine State.canon_iff.mpr ⟨hm, fun k hk => ?_⟩
  obtain ⟨i, hi⟩ := List.mem_iff_getElem?.mp hk
  simp only [State.modBlock, List.getElem?_modify] at hi
  obtain ⟨a, ha, rfl⟩ := Option.map_eq_some_iff.mp hi
  have hw := hb a (List.mem_of_getElem? ha)
  split
  · exact hf a hw
  · exact hw

theorem State.Canon.mapBlocks {f : Block → Block} (hf : ∀ b, Mem.wf b.mem = true → Mem.wf (f b).mem = true) (h : s.Canon) :
    State.Canon { s with blocks := s.blocks.map f } := by
  obtain ⟨hm, hb⟩ := State.canon_iff.mp h
  refine State.canon_iff.mpr ⟨hm, fun k hk => ?_⟩
  obtain ⟨b, hb', rfl⟩ := List.mem_map.mp hk
  exact hf b (hb b hb')

theorem State.Canon.mapZipBlocks {f : Block × Nat → Block} (hf : ∀ x, Mem.wf x.1.mem = true → Mem.wf (f x).mem = true) (h : s.Canon) :
    State.Canon { s with blocks := s.blocks.zipIdx.map f } := by
  obtain ⟨hm, hb⟩ := State.canon_iff.mp h
  refine State.canon_iff.mpr ⟨hm, fun k hk => ?_⟩
  obtain ⟨⟨b, i⟩, hx, rfl⟩ := List.mem_map.mp hk
  exact hf (b, i) (hb b (List.fst_mem_of_mem_zipIdx hx))

theorem State.Canon.addBlock {b : Block} (hb : Mem.wf b.mem = true) (h : s.Canon) :
    State.Canon { s with blocks := s.blocks ++ [b] } := by
  obtain ⟨hm, hs⟩ := State.canon_iff.mp h
  refine State.canon_iff.mpr ⟨hm, fun k hk => ?_⟩
  rcases List.mem_append.mp hk with hk | hk
  · exact hs k hk
  · rw [List.mem_singleton.mp hk]
    exact hb

end

section
variable {s : State}

/-! #### Shared operations: writes, waiting, traps, the lanes of an issue (`Ops`) -/

theorem modThread_canon {t f} (h : s.Canon) : (s.modThread t f).Canon := modBlock_canon (fun _ hk => hk) h

theorem modCore_canon {c f} (h : s.Canon) : (s.modCore c f).Canon := h

theorem modPart_canon {p f} (h : s.Canon) : (s.modPart p f).Canon := h

theorem modGrid_canon {g f} (h : s.Canon) : (s.modGrid g f).Canon := h

theorem modDraw_canon {d f} (h : s.Canon) : (s.modDraw d f).Canon := h

theorem modStrand_canon {blk k f} (h : s.Canon) : (s.modStrand blk k f).Canon := by
  unfold State.modStrand
  exact foldl_canon (fun _ p hs => modBlock_canon (f := fun b => b.modStrand p.2 f) (fun _ hk => hk) hs) h

theorem want_canon {e} (h : s.Canon) : (s.want e).Canon := by
  unfold State.want
  split <;> exact h

theorem wantAll_canon {l} (h : s.Canon) : (s.wantAll l).Canon := foldl_canon (fun _ _ hs => want_canon hs) h

theorem mustNow_canon {e} (h : s.Canon) : (s.mustNow e).Canon := h

theorem notify_canon {p duty args waiting} (h : s.Canon) : (s.notify p duty args waiting).Canon := h

theorem poisonPage_canon {page} (h : s.Canon) : (s.poisonPage page).Canon := h

theorem correct_canon {l n} (h : s.Canon) : (s.correct l n).Canon := by
  unfold State.correct
  split
  · split
    · exact h
    · dsimp only
      split
      · exact h
      · split
        · exact modCore_canon (modBlock_canon (fun _ hs => hs) h)
        · exact modBlock_canon (fun _ hs => hs) h
  · exact h

theorem homeWrite_canon {l bytes fill} (h : s.Canon) : (s.homeWrite l bytes fill).Canon := by
  unfold State.homeWrite
  split
  · exact modBlock_canon (fun _ hk => Mem.wf_putN _ _ hk) h
  · exact State.canon_of_fields (Mem.wf_putN _ _ h.wf_mem) h.wf_blocks

theorem splitBlock_canon {blk} (h : s.Canon) : (s.splitBlock blk).Canon := by
  unfold State.splitBlock
  dsimp only
  split
  · exact h
  · exact h.mapZipBlocks fun _ hx => hx

theorem requestSave_canon {blk why} (h : s.Canon) : (s.requestSave blk why).Canon := by
  unfold State.requestSave
  refine foldl_canon (fun _ _ hs => ?_) h
  split
  · exact hs
  · split
    · exact mustNow_canon (modBlock_canon (fun _ hk => hk) hs)
    · exact hs

theorem unfile_canon {blk} (h : s.Canon) : (s.unfile blk).Canon := h

theorem forgetLanes_canon {blk} (h : s.Canon) : (s.forgetLanes blk).Canon := by
  unfold State.forgetLanes
  refine h.mapZipBlocks fun x hx => ?_
  split <;> exact hx

theorem stopBlock_canon {blk status} (h : s.Canon) : (s.stopBlock blk status).Canon := by
  have one : ∀ (s : State) (k : Nat), s.Canon → (((((s.splitBlock k).unfile k).forgetLanes k).modBlock k fun b =>
      { b with status := if b.status = 0 then status else b.status,
               threads := b.threads.map fun t => { t with live := false, park := t.park.bind Park.afterStop, filed := false } }).want
      (.blockEnd k)).Canon :=
    fun _ _ hs => want_canon (modBlock_canon (fun _ hk => hk) (forgetLanes_canon (unfile_canon (splitBlock_canon hs))))
  unfold State.stopBlock
  dsimp only
  split
  · exact one _ _ (one _ _ h)
  · exact one _ _ h

theorem takeTrap_canon {t cause sub mask first word} (h : s.Canon) : (s.takeTrap t cause sub mask first word).Canon := by
  unfold State.takeTrap
  split
  · exact h
  · split
    · exact stopBlock_canon h
    · exact modStrand_canon (modThread_canon h)

theorem parkAt_canon {t p} (h : s.Canon) : (s.parkAt t p).Canon := modThread_canon h

theorem waitFetch_canon {t pc} (h : s.Canon) : (s.waitFetch t pc).Canon := modThread_canon h

theorem waitWalk_canon {t ea} (h : s.Canon) : (s.waitWalk t ea).Canon := modThread_canon h

theorem recordPoison_canon {p frame} (h : s.Canon) : (s.recordPoison p frame).Canon := h

theorem completeEarlier_canon {l} (h : s.Canon) : (s.completeEarlier l).Canon := foldl_canon (fun _ _ hs => modThread_canon hs) h

theorem deliver_canon {l i} (h : s.Canon) : (s.deliver l i).Canon := by
  unfold State.deliver
  grind only [completeEarlier_canon, requestSave_canon, parkAt_canon, want_canon, notify_canon, recordPoison_canon, takeTrap_canon,
    foldl_canon]

theorem feDone_canon {t x} (h : s.Canon) : (s.feDone t x).Canon := by
  unfold State.feDone
  dsimp only
  refine modThread_canon ?_
  split
  · exact modBlock_canon (fun _ hs => hs) (correct_canon h)
  · exact correct_canon h

theorem wakeGranule_canon {x} (h : s.Canon) : (s.wakeGranule x).Canon := by
  unfold State.wakeGranule
  split
  · exact h
  · dsimp only
    split_ifs
    · exact h
    · exact deliver_canon (modThread_canon (t := x.1) (f := Thread.unpark) h)
    · exact modThread_canon (feDone_canon h)

theorem wakeGranules_canon {blk} (h : s.Canon) : (s.wakeGranules blk).Canon := foldl_canon (fun _ _ hs => wakeGranule_canon hs) h

theorem homeFill_canon {l bytes} (h : s.Canon) : (s.homeFill l bytes).Canon := by
  unfold State.homeFill
  split
  · exact wakeGranules_canon (homeWrite_canon h)
  · exact homeWrite_canon h

theorem performWrite_canon {w} (h : s.Canon) : (s.performWrite w).Canon := by
  unfold State.performWrite
  split
  · exact modBlock_canon (fun _ hs => hs) h
  · split
    · exact homeFill_canon h
    · exact homeWrite_canon h

theorem drainOne_canon {blk k} (h : s.Canon) : (s.drainOne blk k).Canon := by
  unfold State.drainOne
  split
  · exact performWrite_canon (modStrand_canon h)
  · exact h

theorem drainStrand_canon {blk k} (h : s.Canon) : (s.drainStrand blk k).Canon := by
  unfold State.drainStrand
  split
  · exact foldl_canon (fun _ _ hs => performWrite_canon hs) (modStrand_canon h)
  · exact h

theorem drainBlock_canon {blk} (h : s.Canon) : (s.drainBlock blk).Canon := foldl_canon (fun _ _ hs => drainStrand_canon hs) h

theorem enqueueWrite_canon {t th w} (h : s.Canon) : (s.enqueueWrite t th w).Canon := want_canon (modStrand_canon h)

theorem lane_canon {i t} {body : Body} (hb : body.Canon) (h : s.Canon) : (s.lane i body t).Canon := by
  unfold State.lane
  split
  · exact h
  · dsimp only
    split_ifs
    · exact h
    · exact h
    · exact hb _ _ _ h

theorem laneStep_canon {i st t} {body : Body} {acc : State × List LaneTrap} (hb : body.Canon) (hacc : acc.1.Canon) :
    (laneStep i st body acc t).1.Canon := by
  have hl := lane_canon (i := i) (t := t) hb hacc
  unfold laneStep
  split
  · next e => exact modThread_canon (hl.of_eq e)
  · next e => exact modThread_canon (hl.of_eq e)
  · next e => exact hl.of_eq e
  · next e => exact hl.of_eq e

theorem markErrors_canon {l} (h : s.Canon) : (s.markErrors l).Canon := by
  unfold State.markErrors
  refine foldl_canon (fun _ _ hs => ?_) h
  split
  · exact poisonPage_canon hs
  · exact hs

theorem deliverIssued_canon {st l i} (h : s.Canon) : (s.deliverIssued st l i).Canon :=
  deliver_canon (markErrors_canon (foldl_canon (fun _ _ hs => modThread_canon hs) h))

theorem runLanes_canon {i st} {body : Body} (hb : body.Canon) (h : s.Canon) : (s.runLanes i st body).Canon := by
  have hl : (s.issue.lanes.foldl (laneStep i st body) (s, [])).1.Canon :=
    foldl_keeps (P := fun r : State × List LaneTrap => r.1.Canon) (fun _ _ hr => laneStep_canon hb hr) _ h
  unfold State.runLanes
  dsimp only
  split
  · exact deliverIssued_canon h
  · exact deliverIssued_canon hl

theorem localBody_canon {f} : Body.Canon (localBody f) := by
  intro s t th h
  unfold localBody
  split <;> exact modThread_canon h

theorem runLocal_canon {i st f} (h : s.Canon) : NextCanon (s.runLocal i st f) := nextCanon_next (runLanes_canon localBody_canon h)

theorem run_canon {i st} {body : Body} (hb : body.Canon) (h : s.Canon) : NextCanon (s.run i st body) :=
  nextCanon_next (runLanes_canon hb h)

/-! #### Translation (`Xlat`) -/

theorem fillPoison_canon {core page} (h : s.Canon) : (s.fillPoison core page).Canon := by
  unfold State.fillPoison
  split
  · exact modCore_canon h
  · exact h

theorem writeEntry_canon {pa e} (h : s.Canon) : (s.writeEntry pa e).Canon := homeWrite_canon h

theorem choose_canon (h : s.Canon) : (s.choose).2.Canon := h

theorem cachedEntry_canon {core part level pre now} {r : State} (h : s.Canon) : (r.cachedEntry s core part level pre now).2.Canon := by
  unfold State.cachedEntry
  grind only [choose_canon]

theorem walkFrom_canon {core part va level node} {r : State} (h : s.Canon) : (r.walkFrom core part va level node s).Canon := by
  induction level generalizing s node with
  | zero => unfold State.walkFrom; grind only [WalkR.Canon, correct_canon]
  | succ n ih => unfold State.walkFrom; grind only [WalkR.Canon, correct_canon, cachedEntry_canon, modCore_canon]

theorem walk_canon {core part va} (h : s.Canon) : (s.walk core part va).Canon := by
  unfold State.walk
  dsimp only
  split
  · exact h
  · exact walkFrom_canon h

theorem exitPart_canon {p reason} (h : s.Canon) : (s.exitPart p reason).Canon := by
  unfold State.exitPart
  split
  · exact h
  · exact notify_canon (foldl_canon (fun _ _ hs => requestSave_canon hs) (modPart_canon h))

theorem drainLog_canon {part} (h : s.Canon) : (s.drainLog part).Canon := modPart_canon h

theorem roomForAppend_canon {part} (h : s.Canon) : (s.roomForAppend part).Canon := by
  unfold State.roomForAppend
  dsimp only
  split
  · exact drainLog_canon h
  · exact h

theorem setDirty_canon {part ent level pte} (h : s.Canon) : OnSome State.Canon (s.setDirty part ent level pte) := by
  unfold State.setDirty
  split
  · exact writeEntry_canon h
  · dsimp only
    split
    · trivial
    · split
      · exact want_canon (modPart_canon (writeEntry_canon (modPart_canon (writeEntry_canon (roomForAppend_canon h)))))
      · exact writeEntry_canon (modPart_canon (writeEntry_canon (roomForAppend_canon h)))

theorem fillTlb_canon {core part va level pte ent} (h : s.Canon) : (s.fillTlb core part va level pte ent).Canon := by
  unfold State.fillTlb
  dsimp only
  split
  · exact modCore_canon (choose_canon (correct_canon h))
  · exact modCore_canon h

theorem xlatWalk_canon {core part engine k va} (h : s.Canon) : (s.xlatWalk core part engine k va).Canon := by
  unfold State.xlatWalk
  grind only [Xl.Canon, WalkR.Canon, OnSome, walk_canon, writeEntry_canon, setDirty_canon, exitPart_canon, fillTlb_canon]

theorem tlbHit_canon {core part k va} (h : s.Canon) : (s.tlbHit core part k va).2.Canon := by
  unfold State.tlbHit
  grind only [choose_canon]

theorem xlatPage_canon {core part engine k va} (h : s.Canon) : (s.xlatPage core part engine k va).Canon := by
  unfold State.xlatPage
  grind only [Xl.Canon, tlbHit_canon, xlatWalk_canon]

theorem lined_canon {core} {a : Xl} (ha : a.Canon) : (Xl.lined core a).Canon := by
  unfold Xl.lined
  split
  · exact fillPoison_canon ha
  · exact ha

theorem xlat_canon {core blk engine k ea} (h : s.Canon) : (s.xlat core blk engine k ea).Canon := by
  unfold State.xlat
  dsimp only
  split
  · exact h
  · split
    · exact h
    · split
      · split <;> exact h
      · split
        · split
          · exact h
          · split
            · exact h
            · exact lined_canon h
        · exact lined_canon (xlatPage_canon h)

theorem translate_canon {t k ea} (h : s.Canon) : (s.translate t k ea).Canon := by
  unfold State.translate
  dsimp only
  split
  · refine xlat_canon ?_
    split
    · exact drainStrand_canon h
    · exact h
  · exact xlat_canon h

/-! #### Fetch (`Fetch`) -/

theorem fetchMem_canon {core blk pc} (h : s.Canon) : (s.fetchMem core blk pc).Canon := by
  unfold State.fetchMem
  grind only [Fetched.Canon, Xl.Canon, xlat_canon, choose_canon, poisonPage_canon, correct_canon, modCore_canon]

theorem keepFor_canon {pc w t} (h : s.Canon) : (State.keepFor pc w s t).Canon := by
  unfold State.keepFor
  split
  · exact modStrand_canon h
  · exact h

theorem issueWith_canon {w lanes} (h : s.Canon) : (s.issueWith w lanes).Canon := foldl_canon (fun _ _ hs => keepFor_canon hs) h

theorem fetchLanes_canon {lanes} (h : s.Canon) : (s.fetchLanes lanes).Canon := by
  unfold State.fetchLanes
  dsimp only
  split
  · exact h
  · refine fetchMem_canon ?_
    split
    · refine foldl_canon (fun _ _ hs => ?_) h
      split
      · exact drainStrand_canon hs
      · exact hs
    · exact h

theorem fetch_canon (h : s.Canon) : s.fetch.Canon := by
  unfold State.fetch
  dsimp only
  split
  · exact h
  · split
    · exact issueWith_canon h
    · split
      · next e => exact issueWith_canon ((fetchLanes_canon h).of_eq e)
      · next e => exact issueWith_canon ((fetchLanes_canon h).of_eq e)
      · next e => exact issueWith_canon ((fetchLanes_canon h).of_eq e)
    · split
      · next e => exact issueWith_canon ((fetchLanes_canon h).of_eq e)
      · exact fetchLanes_canon h

theorem fetchFault_canon {cause sub} (h : s.Canon) : (s.fetchFault cause sub).Canon := deliver_canon h

theorem execInstructionFetchFault_canon {cause sub} (h : s.Canon) : NextCanon (execInstructionFetchFault cause sub s) :=
  nextCanon_next (fetchFault_canon h)

theorem execWordNotInstruction_canon {word} (h : s.Canon) : NextCanon (execWordNotInstruction word s) :=
  nextCanon_next (deliver_canon h)

/-! #### Control flow (`Control`) -/

theorem branch_canon {a off test} : Body.Canon (branch a off test) := by
  intro s t th h
  unfold branch
  split
  · exact modStrand_canon (modThread_canon h)
  · exact modStrand_canon h

theorem transferOut_canon {t th f} (h : s.Canon) : (transferOut s t th f).Canon := modStrand_canon (modThread_canon h)

theorem indirect_canon {a pair f} : Body.Canon (indirect a pair f) := by
  intro s t th h
  unfold indirect
  split
  · split
    · exact h
    · exact transferOut_canon h
  · exact transferOut_canon h

theorem sealGate_canon {t th} {k : State → Lane} (hk : ∀ s, s.Canon → (k s).Canon) (h : s.Canon) : (s.sealGate t th k).Canon := by
  have hs := hk s h
  have hset := hk _ (modThread_canon (t := t) (f := fun th => { th with sealed := false }) h)
  unfold State.sealGate
  grind only [Lane.Canon, modThread_canon, parkAt_canon, want_canon]

theorem unbind_canon {core t th} (h : s.Canon) : (s.unbind core t th).Canon := by
  unfold State.unbind
  split
  · exact h
  · exact modThread_canon (modCore_canon h)

theorem closeStrand_canon {blk k} (h : s.Canon) : (s.closeStrand blk k).Canon := by
  unfold State.closeStrand
  split
  · exact h
  · exact modStrand_canon h

theorem exitThread_canon {core t th} (h : s.Canon) : (s.exitThread core t th).Canon := by
  unfold State.exitThread
  dsimp only
  split
  · exact want_canon (closeStrand_canon (modThread_canon (modStrand_canon (unbind_canon h))))
  · exact closeStrand_canon (modThread_canon (modStrand_canon (unbind_canon h)))

theorem settleExit_canon {core t th} (h : s.Canon) : (State.settleExit core s t th).Canon := by
  unfold State.settleExit
  split
  · exact h
  · split
    · exact want_canon (parkAt_canon h)
    · exact exitThread_canon h

theorem reformThread_canon {core t th} (h : s.Canon) : (s.reformThread core t th).Canon := by
  unfold State.reformThread
  dsimp only
  split
  · exact closeStrand_canon (modCore_canon (modThread_canon (modStrand_canon (drainStrand_canon h))))
  · exact closeStrand_canon (modThread_canon (modBlock_canon (fun _ hs => hs) (modStrand_canon (drainStrand_canon h))))

theorem eretForm_canon {f} : Body.Canon (eretForm f) := by
  intro s t th h
  unfold eretForm
  split
  · exact transferOut_canon h
  · exact h

theorem discardAll_canon {core} (h : s.Canon) : (s.discardAll core).Canon := by
  unfold State.discardAll
  refine h.mapBlocks fun b hb => ?_
  split <;> exact hb

theorem icinvPage_canon {core blk lo len page} (h : s.Canon) : OnSome State.Canon (s.icinvPage core blk lo len page) := by
  unfold State.icinvPage
  split
  · next e => exact modCore_canon ((xlat_canon h).of_eq e)
  · next e => exact (xlat_canon h).of_eq e
  · next e => exact (xlat_canon h).of_eq e
  · trivial
  · next e => exact (xlat_canon h).of_eq e

/-! #### Spindles and engine queues (`Queue`) -/

theorem modSpindle_canon {blk quad id f} (h : s.Canon) : (s.modSpindle blk quad id f).Canon := by
  unfold State.modSpindle
  split
  · exact h
  · split
    · exact h
    · exact modBlock_canon (fun _ hs => hs) h

theorem deposit_canon {blk id t} (h : s.Canon) : OnSome State.Canon (s.deposit blk id t) := by
  unfold State.deposit
  split
  · exact h
  · exact h
  · split
    · trivial
    · exact modSpindle_canon h

theorem depositBoth_canon {blk id both t} (h : s.Canon) : OnSome State.Canon (s.depositBoth blk id both t) := by
  unfold State.depositBoth
  split
  · next e _ => exact deposit_canon ((deposit_canon h).of_eq e)
  · exact deposit_canon h

theorem modQueue_canon {core q f} (h : s.Canon) : (s.modQueue core q f).Canon := modCore_canon h

theorem enterQueues_canon {core blk qs op} (h : s.Canon) : OnSome State.Canon (s.enterQueues core blk qs op) := by
  unfold State.enterQueues
  dsimp only
  split
  · exact foldl_canon (fun _ _ hs => modQueue_canon hs) h
  · trivial

theorem enterQueue_canon {core blk q op} (h : s.Canon) : OnSome State.Canon (s.enterQueue core blk q op) := enterQueues_canon h

theorem passJoin_canon {core id} (h : s.Canon) : (State.passJoin core s id).Canon := by
  unfold State.passJoin
  dsimp only
  split
  · exact modCore_canon h
  · exact h

theorem passJoins_canon {core} (h : s.Canon) : (s.passJoins core).Canon := foldl_canon (fun _ _ hs => passJoin_canon hs) h

theorem popQueue_canon {core q} (h : s.Canon) : (s.popQueue core q).Canon := passJoins_canon (modQueue_canon h)

theorem modHead_canon {core q f} (h : s.Canon) : (s.modHead core q f).Canon := modQueue_canon h

theorem hold_canon {blk lanes x} (h : s.Canon) : (s.hold blk lanes x).Canon := by
  unfold State.hold
  exact modBlock_canon (fun _ hk => hk) h

theorem issueCmd_canon {core lanes t q op} (h : s.Canon) : OnSome State.Canon (s.issueCmd core lanes t q op) := by
  unfold State.issueCmd
  split
  · exact hold_canon h
  · exact enterQueue_canon h

theorem enterFence_canon {core blk mask} (h : s.Canon) : OnSome State.Canon (s.enterFence core blk mask) := by
  unfold State.enterFence
  split
  · next s' e =>
    have hs : s'.Canon := (enterQueues_canon h).of_eq e
    exact passJoins_canon (s := { s' with nextJoin := s.nextJoin + 1 }) hs
  · trivial

/-! #### Collectives (`Collective`) -/

theorem release_canon {t f} (h : s.Canon) : (s.release t f).Canon := modThread_canon h

theorem releaseAll_canon {m f} (h : s.Canon) : (s.releaseAll m f).Canon := foldl_canon (fun _ _ hs => release_canon hs) h

theorem trapMembers_canon {l} (h : s.Canon) : (s.trapMembers l).Canon := by
  unfold State.trapMembers
  split
  · exact h
  · exact deliver_canon (foldl_canon (fun _ _ hs => modThread_canon hs) h)

theorem trapAll_canon {m cause sub} (h : s.Canon) : (s.trapAll m cause sub).Canon := trapMembers_canon h

theorem valueMember_canon {i w n m x} {acc : State × List LaneTrap} (hacc : acc.1.Canon) : (valueMember i w n m acc x).1.Canon := by
  unfold valueMember
  grind only [modThread_canon, release_canon]

theorem performValue_canon {blk i m} (h : s.Canon) : (s.performValue blk i m).Canon :=
  trapMembers_canon (foldl_keeps (P := fun r : State × List LaneTrap => r.1.Canon) (fun _ _ hr => valueMember_canon hr) _ h)

theorem waitReady_canon {i m} (h : s.Canon) : (s.waitReady i m).Canon := foldl_canon (fun _ _ hs => modThread_canon hs) h

theorem echo_canon {blk m quad id vs trap} (h : s.Canon) : (s.echo blk m quad id vs trap).Canon := by
  unfold State.echo
  split
  · exact modBlock_canon (fun _ hs => hs) h
  · exact h

theorem spun_canon {blk i m quad id vs} (h : s.Canon) : (s.spun blk i m quad id vs).Canon := releaseAll_canon (echo_canon h)

theorem followLead_canon {blk i m id} (h : s.Canon) : (s.followLead blk i m id).Canon := by
  unfold State.followLead
  split
  · exact waitReady_canon h
  · dsimp only
    split
    · exact trapAll_canon (modBlock_canon (fun _ hs => hs) h)
    · exact releaseAll_canon (modBlock_canon (fun _ hs => hs) h)

theorem waitSpindle_canon {blk i m quad id f} (h : s.Canon) : (s.waitSpindle blk i m quad id f).Canon := by
  unfold State.waitSpindle
  dsimp only
  split
  · exact h
  · split
    · exact spun_canon (modSpindle_canon h)
    · exact waitReady_canon (modSpindle_canon h)

theorem performQld_canon {core blk i m d q k} (h : s.Canon) : (s.performQld core blk i m d q k).Canon := by
  unfold State.performQld
  dsimp only
  split
  · exact waitReady_canon h
  · split
    · split
      · exact trapAll_canon h
      · exact foldl_canon (fun _ _ hs => release_canon hs) (modStrand_canon h)
    · split
      · exact trapAll_canon h
      · exact foldl_canon (fun _ _ hs => release_canon hs) (modStrand_canon h)

theorem performQfence_canon {core blk m mask} (h : s.Canon) : (s.performQfence core blk m mask).Canon := by
  unfold State.performQfence
  split
  · exact releaseAll_canon (hold_canon h)
  · split
    · next e => exact releaseAll_canon ((enterFence_canon h).of_eq e)
    · exact trapAll_canon h

theorem releaseSide_canon {t th} (h : s.Canon) : (s.releaseSide t th).Canon := drainStrand_canon h

theorem releaseSet_canon {m} (h : s.Canon) : (s.releaseSet m).Canon := by
  unfold State.releaseSet
  split
  · exact h
  · exact releaseSide_canon h

theorem performSpindle_canon {blk i m q n} (h : s.Canon) : (s.performSpindle blk i m q n).Canon := by
  unfold State.performSpindle
  split
  · exact waitSpindle_canon h
  · exact waitSpindle_canon h
  · split
    · exact spun_canon (modSpindle_canon (releaseSet_canon h))
    · exact trapAll_canon (echo_canon h)
  · exact spun_canon (modSpindle_canon (releaseSet_canon h))
  · split
    · exact spun_canon (modSpindle_canon h)
    · exact spun_canon h
  · exact h

theorem perform_canon {core blk i m} (h : s.Canon) : (s.perform core blk i m).Canon := by
  unfold State.perform
  split
  · split
    · exact followLead_canon h
    · exact performSpindle_canon h
  · split
    · exact performQfence_canon h
    · exact performQld_canon h
    · exact performValue_canon h

theorem tryCollective_canon {core t} (h : s.Canon) : (s.tryCollective core t).Canon := by
  unfold State.tryCollective
  split
  · split
    · exact perform_canon h
    · exact h
  · exact h

theorem settleIssue_canon (h : s.Canon) : s.settleIssue.Canon := foldl_canon (fun _ _ hs => tryCollective_canon hs) h

theorem parkCollective_canon {i} : Body.Canon (parkCollective i) := by
  intro s t th h
  unfold parkCollective
  split
  · split
    · exact h
    · exact parkAt_canon h
  · exact parkAt_canon h

theorem collective_canon {i st} (h : s.Canon) : NextCanon (s.collective i st) :=
  nextCanon_next (settleIssue_canon (runLanes_canon parkCollective_canon h))

/-! #### Loads, stores and fences (`LoadStore`) -/

theorem access_canon {t k ea n} {f : State → Loc → Lane} (hf : ∀ s l, s.Canon → (f s l).Canon) (h : s.Canon) :
    (s.access t k ea n f).Canon := by
  have ht := translate_canon (t := t) (k := k) (ea := ea) h
  unfold State.access
  grind only [Lane.Canon, Xl.Canon, waitWalk_canon]

theorem loadBody_canon {d a imm n ext} : Body.Canon (loadBody d a imm n ext) := by
  intro s t th h
  refine access_canon (fun s l hs => ?_) h
  grind only [Lane.Canon, correct_canon, modThread_canon]

theorem storeAt_canon {t th ea l bytes fill} (h : s.Canon) : (s.storeAt t th ea l bytes fill).Canon := by
  unfold State.storeAt
  dsimp only
  split
  · split
    · exact want_canon (modThread_canon (modThread_canon (enqueueWrite_canon h)))
    · exact modThread_canon (enqueueWrite_canon h)
  · exact enqueueWrite_canon h

theorem storeBody_canon {a imm n bytes} : Body.Canon (storeBody a imm n bytes) :=
  fun _ _ _ h => access_canon (fun _ _ hs => storeAt_canon hs) h

theorem elems_step_canon {t k e} {r : Elems} (hr : r.Canon) : (Elems.step t k r e).Canon := by
  unfold Elems.step
  grind only [Elems.Canon, Xl.Canon, translate_canon]

theorem elems_canon {t k es} (h : s.Canon) : (s.elems t k es).Canon :=
  foldl_keeps (P := Elems.Canon) (fun _ _ hr => elems_step_canon hr) _ h

theorem frame_canon {t k stride vb pb es} {f : State → List Loc → Lane} (hf : ∀ s ls, s.Canon → (f s ls).Canon) (h : s.Canon) :
    (s.frame t k stride vb pb es f).Canon := by
  have hr : (s.elems t k es).s.Canon := elems_canon h
  have := hf _ (s.elems t k es).locs hr
  unfold State.frame
  grind only [Lane.Canon, waitWalk_canon]

theorem storeElems_canon {t th l} (h : s.Canon) : (s.storeElems t th l).Canon := by
  induction l generalizing s th with
  | nil => exact h
  | cons x r ih =>
    have hx := storeAt_canon (t := t) (th := th) (ea := x.1) (l := x.2.1) (bytes := x.2.2) (fill := false) h
    cases r with
    | nil => exact hx
    | cons y r =>
      unfold State.storeElems
      grind only [Lane.Canon, modThread_canon]

theorem ownAccess_canon {t ea n} {f : Nat → Lane} (hf : ∀ off, (f off).Canon) (h : s.Canon) : (s.ownAccess t ea n f).Canon := by
  have := hf (ea.toNat % 2 ^ 19)
  unfold State.ownAccess
  grind only [Lane.Canon]

theorem feBody_canon {d a imm k empties} : Body.Canon (feBody d a imm k empties) := by
  intro s t th h
  refine ownAccess_canon (fun off => ?_) h
  have hd := drainStrand_canon (blk := t.blk) (k := th.strand) h
  dsimp only
  split
  · split
    · exact hd
    · exact feDone_canon hd
  · exact parkAt_canon hd

theorem sealIf_canon {c t th} {k : State → Lane} (hk : ∀ s, s.Canon → (k s).Canon) (h : s.Canon) : (s.sealIf c t th k).Canon := by
  unfold State.sealIf
  split
  · exact sealGate_canon hk h
  · exact hk s h

theorem fenceBody_canon {sc} {f : State → State} (hf : ∀ s, s.Canon → (f s).Canon) : Body.Canon (fenceBody sc f) :=
  fun _ _ _ h => sealIf_canon (fun _ hs => hf _ (drainStrand_canon hs)) h

/-! #### Atomics (`Atomic`) -/

theorem sendAtomic_canon {t th d k l} (h : s.Canon) : (s.sendAtomic t th d k l).Canon :=
  want_canon (modThread_canon (drainStrand_canon h))

theorem atomBody_canon {g d a k} : Body.Canon (atomBody g d a k) := by
  intro s t th h
  refine access_canon (fun s l hs => ?_) h
  split
  · exact hs
  · refine sealIf_canon (fun s hs => access_canon (fun s l hs => ?_) hs) hs
    split
    · exact hs
    · exact sendAtomic_canon hs

theorem atomDone_canon {t r old} (h : s.Canon) : (s.atomDone t r old).Canon := modThread_canon h

theorem performRmw_canon {r} (h : s.Canon) : (s.performRmw r).1.Canon := homeWrite_canon (correct_canon h)

theorem performFor_canon {blk r} (h : s.Canon) : (s.performFor blk r).1.Canon := by
  unfold State.performFor
  exact modBlock_canon (fun b hb => by rwa [Block.overtaken_mem]) (homeWrite_canon (correct_canon h))

theorem atomReturn_canon {t r old} (h : s.Canon) : (s.atomReturn t r old).Canon := by
  unfold State.atomReturn
  dsimp only
  split
  · exact want_canon (modBlock_canon (fun _ hs => hs) (atomDone_canon h))
  · exact atomDone_canon h

theorem copyRmw_canon {blk r old} (h : s.Canon) : (s.copyRmw blk r old).Canon := by
  unfold State.copyRmw
  split
  · exact homeWrite_canon h
  · exact modBlock_canon (fun b hb => by rwa [Block.overtaken_mem]) h

theorem atomForwarded_canon {t r} (h : s.Canon) : (s.atomForwarded t r).Canon := by
  unfold State.atomForwarded
  split
  · split
    · exact atomDone_canon (copyRmw_canon (modBlock_canon (fun _ hs => hs) h))
    · exact h
  · exact h

theorem wantForwarded_canon {blk} (h : s.Canon) : (s.wantForwarded blk).Canon := foldl_canon (fun _ _ hs => want_canon hs) h

theorem atomicPerform_canon {t} (h : s.Canon) : (s.atomicPerform t).Canon := by
  unfold State.atomicPerform
  split
  · exact h
  · split
    · exact h
    · split
      · exact wantForwarded_canon (atomForwarded_canon h)
      · split
        · exact h
        · exact atomReturn_canon (performFor_canon h)

theorem finishAtomics_canon {blk} (h : s.Canon) : (s.finishAtomics blk).Canon := foldl_canon (fun _ _ hs => atomicPerform_canon hs) h

theorem execAtomicRmwPerform_canon {blk tid} (h : s.Canon) : NextCanon (execAtomicRmwPerform blk tid s) :=
  nextCanon_next (atomicPerform_canon h)

/-! #### Barriers (`Barrier`) -/

theorem barWait_canon {t th l id p} (h : s.Canon) : (s.barWait t th l id p).Canon := by
  unfold State.barWait
  refine sealGate_canon (fun _ hs => ?_) h
  split
  · exact modThread_canon hs
  · exact parkAt_canon hs

theorem settleBarriers_canon {t} (h : s.Canon) : (s.settleBarriers t).Canon := by
  unfold State.settleBarriers
  split
  · split
    · exact modThread_canon h
    · exact h
  · exact h

/-! #### Grids and their blocks (`Grid`) -/

theorem takePool_canon {part die n} (h : s.Canon) : (s.takePool part die n).1.Canon := by
  unfold State.takePool
  dsimp only
  split
  · exact h
  · exact modPart_canon h

theorem givePool_canon {part fs} (h : s.Canon) : (s.givePool part fs).Canon := by
  unfold State.givePool
  split
  · exact h
  · exact wantAll_canon (modPart_canon h)

theorem reserveSpill_canon {part core k} (h : s.Canon) : (s.reserveSpill part core k).1.Canon := takePool_canon h

theorem extentPage_canon {core part rs page room} (h : s.Canon) : (s.extentPage core part rs page room).Canon := by
  unfold State.extentPage
  grind only [PageR.Canon, WalkR.Canon, OnSome, walk_canon, writeEntry_canon, setDirty_canon]

theorem addExtent_canon {core part page rs} {a : Except State Building} (h : OnBoth State.Canon PairCanon a) :
    OnBoth State.Canon PairCanon (addExtent core part rs a page) := by
  unfold addExtent
  split
  · exact h
  · split
    · next e => exact (extentPage_canon h).of_eq e
    · next e => exact (extentPage_canon h).of_eq e
    · next e => exact (extentPage_canon h).of_eq e

theorem buildExtents_canon {core part rs} (h : s.Canon) : OnBoth State.Canon PairCanon (s.buildExtents core part rs) := by
  have hb : ∀ (a : Except State Building) (iv : Nat × Nat), OnBoth State.Canon PairCanon a → OnBoth State.Canon PairCanon
      ((List.range (iv.2 - iv.1 + 1)).foldl (fun a i => addExtent core part rs a (iv.1 + i)) (match a with
        | .ok (s, l, _) => .ok (s, l, true)
        | .error s => .error s)) := fun a iv ha =>
    foldl_keeps (fun _ _ ha => addExtent_canon ha) _ (by cases a <;> exact ha)
  have hl := foldl_keeps (P := OnBoth State.Canon PairCanon) hb (rs.foldl (fun l r => mergePages l (rangePages r)) [])
    (a := .ok (s, [], true)) h
  unfold State.buildExtents
  grind only [OnBoth, PairCanon]

theorem buildTables_canon {part rs cores} (h : s.Canon) : OnBoth State.Canon PairCanon (State.buildTables part rs cores s) := by
  induction cores generalizing s with
  | nil => exact h
  | cons x r ih =>
    unfold State.buildTables
    grind only [OnBoth, PairCanon, buildExtents_canon]

theorem spawn_canon {gi num core group copy ext} (h : s.Canon) : (s.spawn gi num core group copy ext).Canon := by
  unfold State.spawn
  split
  · exact h
  · exact State.Canon.addBlock rfl (reserveSpill_canon h)

theorem spawnUnit_canon {gi quad p ext} (h : s.Canon) : (s.spawnUnit gi quad p ext).Canon := by
  unfold State.spawnUnit
  dsimp only
  split <;> exact foldl_canon (fun _ _ hs => spawn_canon hs) (foldl_canon (fun _ _ hs => spawn_canon hs) h)

theorem spawnUnits_canon {gi quad us ext} (h : s.Canon) : (State.spawnUnits gi quad us ext s).Canon := by
  induction us generalizing ext s with
  | nil => exact h
  | cons x r ih =>
    unfold State.spawnUnits
    grind only [spawnUnit_canon]

theorem claimBarriers_canon {gi first} (h : s.Canon) : (s.claimBarriers gi first).Canon := by
  unfold State.claimBarriers
  refine h.mapZipBlocks fun x hx => ?_
  split <;> exact hx

theorem joinPod_canon {gi} (h : s.Canon) : (s.joinPod gi).Canon := by
  unfold State.joinPod
  split
  · exact h
  · split
    · exact h
    · exact foldl_canon (fun _ _ hs => modGrid_canon hs) h

theorem enterGrid_canon {g} (h : s.Canon) : OnSome State.Canon (s.enterGrid g) := by
  unfold State.enterGrid
  dsimp only
  split
  · trivial
  · exact want_canon (modPart_canon h)

theorem leaveDispatch_canon {gi g} (h : s.Canon) : (s.leaveDispatch gi g).Canon := modPart_canon h

/-! #### Engines and collective commands (`Engine`) -/

theorem drainLanes_canon {l} (h : s.Canon) : (s.drainLanes l).Canon := by
  unfold State.drainLanes
  refine foldl_canon (fun _ _ hs => ?_) h
  split
  · exact drainStrand_canon hs
  · exact hs

theorem runOnce_canon {i st} {f : State → List TRef → TRef → Thread → Once}
    (hf : ∀ s ls t th, s.Canon → (f s ls t th).Canon) (h : s.Canon) :
    NextCanon (s.runOnce i st f) := by
  unfold State.runOnce
  dsimp only
  split
  · exact nextCanon_next (deliverIssued_canon h)
  · split
    · exact nextCanon_next (deliverIssued_canon h)
    · have hr := fun t th => hf _ (s.issue.lanes.foldl (fun acc t => checkLane i acc s t) ([], [])).1 t th
        (drainLanes_canon (l := (s.issue.lanes.foldl (fun acc t => checkLane i acc s t) ([], [])).1) h)
      grind only [Once.Canon, nextCanon_next, deliverIssued_canon, modThread_canon, foldl_canon]

theorem issueOctet_canon {lanes t oct q op} (h : s.Canon) : (s.issueOctet lanes t oct q op).Canon := by
  unfold State.issueOctet
  split
  · exact h
  · split
    · next e => exact (issueCmd_canon h).of_eq e
    · exact h

theorem holdStatus_canon {lanes t d isDraw oct} (h : s.Canon) : (s.holdStatus lanes t d isDraw oct).Canon := hold_canon h

theorem execLaunchQueueAdvance_canon {core} (h : s.Canon) : NextCanon (execLaunchQueueAdvance core s) := by
  unfold execLaunchQueueAdvance
  split
  · dsimp only
    split
    · exact nextCanon_next h
    · split
      · next e => exact nextCanon_next (popQueue_canon ((enterGrid_canon h).of_eq e))
      · exact nextCanon_next (exitPart_canon h)
  · exact nextCanon_next (passJoins_canon h)

theorem execQueueRefill_canon {ofPart idx q} (h : s.Canon) : NextCanon (execQueueRefill ofPart idx q s) := by
  unfold execQueueRefill
  split
  · exact nextCanon_next (modPart_canon h)
  · exact nextCanon_next (modQueue_canon h)

theorem heldXl_canon {a : Xl} (ha : a.Canon) : (heldXl a).Canon := by
  unfold heldXl
  split
  · split <;> exact ha
  · exact ha

theorem blockXl_canon {core blk} : (blockXl core blk).Canon := fun _ _ _ h => heldXl_canon (xlat_canon h)

theorem replayXl_canon {part} : (replayXl part).Canon := by
  intro s k ea h
  unfold replayXl
  grind only [Xl.Canon, heldXl_canon, xlatPage_canon]

theorem poisonHome_canon {l} (h : s.Canon) : (s.poisonHome l).Canon := by
  unfold State.poisonHome
  split
  · exact poisonPage_canon h
  · exact h

theorem readPiece_canon {ea n} {tr : Translate} (ht : tr.Canon) (h : s.Canon) : OnBoth CopyR.Canon PairCanon (s.readPiece tr ea n) := by
  have := ht s .load (Addr.ofNat ea) h
  unfold State.readPiece
  grind only [OnBoth, CopyR.Canon, PairCanon, Xl.Canon, poisonHome_canon, correct_canon]

theorem readSpan_canon {fuel ea n} {tr : Translate} (ht : tr.Canon) (h : s.Canon) :
    OnBoth CopyR.Canon PairCanon (State.readSpan tr fuel s ea n) := by
  induction fuel generalizing s ea n with
  | zero => exact h
  | succ fuel ih =>
    unfold State.readSpan
    grind only [OnBoth, PairCanon, readPiece_canon]

theorem writeAt_canon {ls bytes} (h : s.Canon) : (s.writeAt ls bytes).Canon := by
  unfold State.writeAt
  split
  · refine foldl_canon (fun _ _ hs => ?_) h
    split
    · exact poisonHome_canon hs
    · exact hs
  · exact foldl_canon (fun _ _ hs => homeFill_canon hs) h

theorem targets_canon {k blk oct ea n} {tr : Translate} (ht : tr.Canon) (h : s.Canon) :
    OnBoth CopyR.Canon PairCanon (s.targets tr k blk oct ea n) := by
  have := ht s k (Addr.ofNat ea) h
  unfold State.targets
  grind only [OnBoth, CopyR.Canon, PairCanon, Xl.Canon]

theorem writeGranule_canon {blk oct ea bytes} {tr : Translate} (ht : tr.Canon) (h : s.Canon) :
    (s.writeGranule tr blk oct ea bytes).Canon := by
  unfold State.writeGranule
  split
  · next e => exact (targets_canon ht h).of_eq e
  · next e => exact writeAt_canon ((targets_canon ht h).of_eq e)

theorem emptyAt_canon {ls n} (h : s.Canon) : (s.emptyAt ls n).Canon := by
  unfold State.emptyAt
  refine foldl_canon (fun _ _ hs => ?_) h
  split
  · exact modBlock_canon (fun _ hk => hk) hs
  · exact hs

theorem sourceHomes_canon {fuel ea n} {tr : Translate} (ht : tr.Canon) (h : s.Canon) :
    OnBoth CopyR.Canon PairCanon (State.sourceHomes tr fuel s ea n) := by
  induction fuel generalizing s ea n with
  | zero => exact h
  | succ fuel ih =>
    have := ht s .load (Addr.ofNat ea) h
    unfold State.sourceHomes
    grind only [OnBoth, CopyR.Canon, PairCanon, Xl.Canon, poisonHome_canon]

theorem readHomes_canon {srcs ea n} (h : s.Canon) : (s.readHomes srcs ea n).1.Canon := by
  refine foldl_keeps (P := fun r : State × List Byte => r.1.Canon) (fun a x ha => ?_) _ h
  dsimp only
  split
  · exact ha
  · exact correct_canon ha

theorem moveGranule_canon {w oct base g} (h : s.Canon) : (s.moveGranule w oct base g).Canon := by
  unfold State.moveGranule
  dsimp only
  split
  · split
    · exact emptyAt_canon h
    · exact writeAt_canon h
  · exact writeAt_canon (readHomes_canon h)

theorem moveGranules_canon {w oct base gs} (h : s.Canon) : (State.moveGranules w oct base gs s).Canon := by
  induction gs generalizing s with
  | nil => exact h
  | cons x r ih =>
    unfold State.moveGranules
    grind only [CopyR.Canon, moveGranule_canon]

theorem checkChunk_canon {blk oct done} {tr : Translate} (ht : tr.Canon) (h : s.Canon) :
    OnBoth CopyR.Canon PairCanon (s.checkChunk tr blk oct done) := by
  unfold State.checkChunk
  grind only [OnBoth, PairCanon, sourceHomes_canon, targets_canon]

theorem chunkStep_canon {blk oct p sel} {tr : Translate} (ht : tr.Canon) (h : s.Canon) : (s.chunkStep tr blk oct p sel).1.Canon := by
  unfold State.chunkStep
  grind only [OnBoth, PairCanon, checkChunk_canon, moveGranules_canon]

theorem mixedMuch_canon {n bytes} (h : s.Canon) : (s.mixedMuch n bytes).Canon := h

theorem execEngineChunk_canon {core q granules} (h : s.Canon) : NextCanon (execEngineChunk core q granules s) := by
  unfold execEngineChunk
  grind only [NextCanon, CopyR.Canon, chunkStep_canon, blockXl_canon, modHead_canon]

theorem tokenGone_canon {core q i} (h : s.Canon) : (s.tokenGone core q i).Canon := by
  unfold State.tokenGone
  split
  · exact popQueue_canon h
  · refine passJoins_canon ?_
    split
    · exact modGrid_canon h
    · exact modDraw_canon h

theorem execTokenDeposit_canon {core q} (h : s.Canon) : NextCanon (execTokenDeposit core q s) := by
  unfold execTokenDeposit
  split
  · exact nextCanon_next (want_canon h)
  · split
    · exact nextCanon_next h
    · split
      · exact nextCanon_next (want_canon h)
      · split
        · next e => exact nextCanon_next (tokenGone_canon ((depositBoth_canon h).of_eq e))
        · exact nextCanon_next h

theorem endStream_canon {blk strand q} (h : s.Canon) : (State.endStream blk strand q s).Canon := by
  unfold State.endStream
  dsimp only
  split
  · split
    · exact modStrand_canon h
    · exact h
  · split
    · exact modStrand_canon h
    · exact h

theorem endStreams_canon {blk strand q} (h : s.Canon) : (s.endStreams blk strand q).Canon := by
  unfold State.endStreams
  split
  · exact endStream_canon (endStream_canon h)
  · exact endStream_canon h

theorem execStreamElement_canon {core blk strand q} (h : s.Canon) : NextCanon (execStreamElement core blk strand q s) := by
  unfold execStreamElement
  dsimp only
  split
  · exact nextCanon_next h
  · split
    · split
      · exact nextCanon_next h
      · split
        · exact nextCanon_next (endStreams_canon (modQueue_canon h))
        · have hb : (blockXl core blk).Canon := blockXl_canon
          split
          · next e => exact nextCanon_next (endStreams_canon (modQueue_canon ((readPiece_canon hb h).of_eq e)))
          · next e => exact nextCanon_next ((readPiece_canon hb h).of_eq e)
          · next e => exact nextCanon_next ((readPiece_canon hb h).of_eq e)
          · next e =>
            have h := (readPiece_canon hb h).of_eq e
            grind only [nextCanon_next, OnBoth, PairCanon, endStreams_canon, modQueue_canon, modStrand_canon]
    · exact nextCanon_next h

theorem setNode_canon {p r i st} (h : s.Canon) : (s.setNode p r i st).Canon := modPart_canon h

theorem party_xl_canon {x} : (Party.xl x).Canon := by
  unfold Party.xl
  split
  · exact blockXl_canon
  · exact replayXl_canon

theorem collEnd_canon {l st} (h : s.Canon) : (s.collEnd l st).Canon := by
  unfold State.collEnd
  refine foldl_canon (fun _ _ hs => ?_) h
  split
  · exact setNode_canon hs
  · exact modHead_canon hs

theorem setWork_canon {x w} (h : s.Canon) : (s.setWork x w).Canon := by
  unfold State.setWork
  split
  · exact modPart_canon h
  · exact modHead_canon h

theorem collBegun_canon {l} (h : s.Canon) : (s.collBegun l).Canon := foldl_canon (fun _ _ hs => setWork_canon hs) h

theorem collReady_canon {x outs st} (h : s.Canon) : (s.collReady x outs st).Canon := by
  unfold State.collReady
  split
  · exact collEnd_canon h
  · exact setWork_canon h

theorem writeOne_canon {outs} (h : s.Canon) : (s.writeOne outs).1.Canon := by
  unfold State.writeOne
  dsimp only
  split
  · exact homeFill_canon h
  · exact h

theorem writeOuts_canon {outs} (h : s.Canon) : (s.writeOuts outs).Canon := foldl_canon (fun _ _ hs => homeFill_canon hs) h

theorem writeSpan_canon {blk ea bytes} {tr : Translate} (ht : tr.Canon) (h : s.Canon) : (s.writeSpan tr blk ea bytes).Canon := by
  refine foldl_keeps (P := CopyR.Canon) (fun r g hr => ?_) _ h
  cases r with
  | ok s => exact writeGranule_canon ht hr
  | wait s => exact hr
  | fail s st => exact hr

theorem planSpan_canon {k blk ea n} {tr : Translate} (ht : tr.Canon) (h : s.Canon) :
    OnBoth CopyR.Canon PairCanon (s.planSpan tr k blk ea n) := by
  refine foldl_keeps (P := OnBoth CopyR.Canon PairCanon) (fun r g hr => ?_) _ h
  grind only [OnBoth, CopyR.Canon, PairCanon, targets_canon, poisonHome_canon, foldl_canon]

theorem collSources_canon {bytes ps} (h : s.Canon) : OnBoth CopyR.Canon PairCanon (State.collSources bytes ps s) := by
  induction ps generalizing s with
  | nil => exact h
  | cons x r ih =>
    unfold State.collSources
    grind only [OnBoth, PairCanon, readSpan_canon, planSpan_canon, party_xl_canon]

theorem collHomes_canon {bytes ps} (h : s.Canon) : OnBoth CopyR.Canon PairCanon (State.collHomes bytes ps s) := by
  induction ps generalizing s with
  | nil => exact h
  | cons x r ih =>
    unfold State.collHomes
    grind only [OnBoth, PairCanon, planSpan_canon, party_xl_canon]

theorem collData_canon {bytes l} (h : s.Canon) : OnBoth CopyR.Canon PairCanon (s.collData bytes l) := by
  unfold State.collData
  grind only [OnBoth, PairCanon, collSources_canon, collHomes_canon]

theorem collPerform_canon {locals remote oct} (h : s.Canon) : (s.collPerform locals remote oct).Canon := by
  unfold State.collPerform
  dsimp only
  split
  · exact collEnd_canon h
  · split
    · next e => exact (collData_canon h).of_eq e
    · next e => exact collEnd_canon ((collData_canon h).of_eq e)
    · next e => exact (collData_canon h).of_eq e
    · split
      · next e _ => exact collBegun_canon ((collData_canon h).of_eq e)
      · next e _ => exact foldl_canon (fun _ _ hs => collReady_canon hs) (mixedMuch_canon ((collData_canon h).of_eq e))

theorem collTry_canon {x remote} (h : s.Canon) : (s.collTry x remote).Canon := by
  unfold State.collTry
  dsimp only
  split
  · exact collPerform_canon h
  · exact h

theorem execCollCombine_canon {core remote} (h : s.Canon) : NextCanon (execCollCombine core remote s) := by
  unfold execCollCombine
  split
  · exact nextCanon_next (modHead_canon (writeOne_canon h))
  · exact nextCanon_next (collTry_canon h)
  · exact nextCanon_next h

theorem execCollPeerTimeout_canon {core} (h : s.Canon) : NextCanon (execCollPeerTimeout core s) := by
  unfold execCollPeerTimeout
  split
  · exact nextCanon_next (collEnd_canon h)
  · exact nextCanon_next h

/-! #### Residency: frames, migration, shootdowns, scrubbing (`Residency`) -/

theorem takeFrames_canon {part fs} (h : s.Canon) : (s.takeFrames part fs).Canon := modPart_canon h

theorem returnFrame_canon {part f} (h : s.Canon) : (State.returnFrame part s f).Canon := by
  unfold State.returnFrame
  dsimp only
  split
  · split
    · exact modPart_canon h
    · exact want_canon (modPart_canon h)
  · split
    · exact modPart_canon h
    · exact want_canon (modPart_canon h)

theorem fillFrames_canon {fs bytes} (h : s.Canon) : (s.fillFrames fs bytes).Canon := by
  refine foldl_canon (fun s x hs => ?_) h
  exact State.canon_of_fields (Mem.wf_putN _ _ (Mem.wf_erase _ _ hs.wf_mem)) hs.wf_blocks

theorem enqueueReady_canon {blk} (h : s.Canon) : (s.enqueueReady blk).Canon := by
  unfold State.enqueueReady
  split
  · dsimp only
    split
    · exact h
    · split
      · exact want_canon h
      · split
        · exact h
        · exact wantAll_canon (modPart_canon h)
  · exact h

theorem makeReady_canon {blk} (h : s.Canon) : (s.makeReady blk).Canon := by
  unfold State.makeReady
  split
  · exact enqueueReady_canon (modBlock_canon (fun _ hs => hs) h)
  · exact h

theorem noticeRepair_canon {part blk why} (h : s.Canon) : (s.noticeRepair part blk why).Canon := by
  unfold State.noticeRepair
  split
  · exact h
  · exact notify_canon h

theorem modLeaf_canon {part vpn f} (h : s.Canon) : (s.modLeaf part vpn f).Canon := by
  unfold State.modLeaf
  split
  · exact writeEntry_canon h
  · exact h

theorem sendShootdown_canon {part vpn pages exec} (h : s.Canon) : (s.sendShootdown part vpn pages exec).Canon := wantAll_canon h

theorem startMove_canon {part l toNear} (h : s.Canon) : (s.startMove part l toNear).Canon := by
  unfold State.startMove
  dsimp only
  split
  · exact want_canon (foldl_canon (fun _ _ hs => sendShootdown_canon hs) (foldl_canon (fun _ _ hs => modLeaf_canon hs)
      (takeFrames_canon h)))
  · exact foldl_canon (fun _ _ hs => sendShootdown_canon hs) (foldl_canon (fun _ _ hs => modLeaf_canon hs) (takeFrames_canon h))

theorem passToHost_canon {part va} (h : s.Canon) : (s.passToHost part va).Canon := foldl_canon (fun _ _ hs => noticeRepair_canon hs) h

theorem beginMove_canon {part va toNear} (h : s.Canon) : (s.beginMove part va toNear).Canon := by
  unfold State.beginMove
  split
  · split
    · exact passToHost_canon h
    · exact h
  · split
    · exact startMove_canon h
    · split
      · exact h
      · split
        · exact h
        · split
          · exact passToHost_canon h
          · split
            · exact passToHost_canon h
            · split
              · exact passToHost_canon h
              · split
                · exact startMove_canon h
                · exact passToHost_canon h

theorem movePage_canon {src dst} (h : s.Canon) : (s.movePage src dst).Canon := by
  unfold State.movePage
  extract_lets a b s1 s2 s3
  have h1 : s1.Canon := correct_canon h
  have h2 : s2.Canon := ite_canon (poisonPage_canon h1) h1
  have h3 : s3.Canon := State.canon_of_fields (Mem.wf_move _ _ _ h2.wf_mem) h2.wf_blocks
  exact ite_canon (poisonPage_canon h3) h3

theorem followPage_canon {src dst} (h : s.Canon) : (s.followPage src dst).Canon := h.mapBlocks fun _ hb => hb

theorem moveLeaf_canon {part toNear x} (h : s.Canon) : (State.moveLeaf part toNear s x).Canon := by
  unfold State.moveLeaf
  split
  · exact h
  · exact foldl_canon (fun _ _ hs => returnFrame_canon hs) (writeEntry_canon (foldl_canon (fun _ _ hs => followPage_canon
      (movePage_canon hs)) h))

theorem settleWaiting_canon {part} (h : s.Canon) : (s.settleWaiting part).Canon := by
  unfold State.settleWaiting
  refine foldl_canon (fun _ _ hs => ?_) h
  split
  · exact hs
  · split
    · split
      · exact hs
      · exact makeReady_canon hs
    · split
      · exact makeReady_canon hs
      · exact wantAll_canon hs

theorem endMove_canon {m} (h : s.Canon) : (s.endMove m).Canon :=
  settleWaiting_canon (modPart_canon (foldl_canon (fun _ _ hs => moveLeaf_canon hs) h))

theorem afterAck_canon {c} (h : s.Canon) : (s.afterAck c).Canon := by
  unfold State.afterAck
  split
  · exact modLeaf_canon h
  · exact returnFrame_canon h

theorem settleChanges_canon (h : s.Canon) : s.settleChanges.Canon := foldl_canon (fun _ _ hs => afterAck_canon hs) h

theorem startNode_canon {part va level} (h : s.Canon) : (s.startNode part va level).Canon := by
  unfold State.startNode
  dsimp only
  split
  · exact h
  · split
    · exact h
    · split
      · exact h
      · split
        · exact h
        · exact want_canon (writeEntry_canon (takeFrames_canon h))

theorem endNode_canon {n} (h : s.Canon) : (s.endNode n).Canon := by
  unfold State.endNode
  grind only [movePage_canon, followPage_canon, writeEntry_canon, sendShootdown_canon, settleChanges_canon, State.canon_mk,
    State.Canon.wf_mem, State.Canon.wf_blocks]

theorem execMigration_canon {part va toNear} (h : s.Canon) : NextCanon (execMigration part va toNear s) := by
  unfold execMigration
  split
  · exact nextCanon_next (want_canon (endNode_canon h))
  · split
    · split
      · exact nextCanon_next (endMove_canon h)
      · exact nextCanon_next h
    · exact nextCanon_next (beginMove_canon h)

theorem serveSaved_canon {part blk why} (h : s.Canon) : (s.serveSaved part blk why).Canon := by
  unfold State.serveSaved
  split
  · exact makeReady_canon h
  · split
    · exact want_canon h
    · split
      · split
        · exact makeReady_canon h
        · refine foldl_canon (fun _ _ hs => ?_) h
          split
          · split
            · exact passToHost_canon hs
            · exact want_canon hs
          · exact hs
      · split
        · exact makeReady_canon h
        · split
          · exact h
          · exact noticeRepair_canon h

theorem execShootdown_canon {core part va len exec} (h : s.Canon) : NextCanon (execShootdown core part va len exec s) := by
  unfold execShootdown
  refine nextCanon_next (want_canon (State.Canon.mapZipBlocks (fun x hx => ?_) h))
  dsimp only
  split <;> exact hx

theorem settleHead_canon {core parts q} (h : s.Canon) : (State.settleHead core parts s q).Canon := by
  unfold State.settleHead
  grind only [CopyR.Canon, writeOuts_canon, modHead_canon, chunkStep_canon, blockXl_canon]

theorem settleNode_canon {part rep image x} (h : s.Canon) : (State.settleNode part rep image s x).Canon := by
  unfold State.settleNode
  grind only [CopyR.Canon, writeOuts_canon, setNode_canon, chunkStep_canon, replayXl_canon]

theorem settleReplays_canon {part} (h : s.Canon) : (s.settleReplays part).Canon :=
  foldl_canon (fun _ _ hs => foldl_canon (fun _ _ hk => settleNode_canon hk) hs) h

theorem settleWrites_canon {core parts} (h : s.Canon) : (s.settleWrites core parts).Canon :=
  foldl_canon (fun _ _ hs => settleReplays_canon hs) (foldl_canon (fun _ _ hs => settleHead_canon hs) (foldl_canon
    (fun _ _ hs => finishAtomics_canon (drainBlock_canon hs)) h))

theorem changeAccess_canon {part va toWrite} (h : s.Canon) : (s.changeAccess part va toWrite).Canon := by
  unfold State.changeAccess
  split
  · exact h
  · split
    · split
      · exact h
      · exact settleChanges_canon (sendShootdown_canon (writeEntry_canon h))
    · split
      · exact h
      · exact settleChanges_canon (sendShootdown_canon (writeEntry_canon h))

theorem execShootdownAck_canon {core} (h : s.Canon) : NextCanon (execShootdownAck core s) := by
  unfold execShootdownAck
  grind only [NextCanon, settleWrites_canon, modCore_canon, settleChanges_canon, wantAll_canon, State.canon_mk, State.Canon.wf_mem,
    State.Canon.wf_blocks]

theorem execDirtyLogDrain_canon {part} (h : s.Canon) : NextCanon (execDirtyLogDrain part s) := by
  unfold execDirtyLogDrain
  dsimp only
  split
  · exact nextCanon_next h
  · exact nextCanon_next (drainLog_canon h)

theorem execPatrolScrub_canon {slice row} (h : s.Canon) : NextCanon (execPatrolScrub slice row s) := by
  have h1 := correct_canon (l := .phys (s.rowPa slice row)) (n := 16) h
  unfold execPatrolScrub
  dsimp only
  split
  · exact nextCanon_next h
  · split
    · exact nextCanon_next (poisonPage_canon h1)
    · exact nextCanon_next h1

theorem execRetentionEntry_canon {slice} (h : s.Canon) : NextCanon (execRetentionEntry slice s) := by
  unfold execRetentionEntry
  split <;> exact nextCanon_next h

theorem resume_canon {part} (h : s.Canon) : (s.resume part).Canon := by
  unfold State.resume
  split
  · exact h
  · split
    · exact modPart_canon h
    · dsimp only
      split
      · exact exitPart_canon (roomForAppend_canon (modPart_canon h))
      · exact wantAll_canon (roomForAppend_canon (modPart_canon h))

theorem resumeWaiting_canon (h : s.Canon) : s.resumeWaiting.Canon := by
  unfold State.resumeWaiting
  refine foldl_canon (fun _ _ hs => ?_) h
  split
  · exact resume_canon hs
  · exact hs

theorem execRetentionExit_canon {slice triple} (h : s.Canon) : NextCanon (execRetentionExit slice triple s) := by
  unfold execRetentionExit
  split
  · exact nextCanon_next (resumeWaiting_canon (foldl_canon (fun _ _ hs => poisonPage_canon hs) h))
  · exact nextCanon_next h

theorem execPoisonClear_canon {part page} (h : s.Canon) : NextCanon (execPoisonClear part page s) := by
  unfold execPoisonClear
  split
  · exact nextCanon_next (State.canon_of_fields (Mem.wf_erase _ _ h.wf_mem) h.wf_blocks)
  · exact nextCanon_next h

/-! #### Code objects (`CodeObject`) -/

theorem mapFrom_canon {part va frame flags n node} (h : s.Canon) : OnSome State.Canon (mapFrom part va frame flags n node s) := by
  induction n generalizing node s with
  | zero => exact writeEntry_canon h
  | succ n ih =>
    unfold mapFrom
    split
    · trivial
    · next f _ _ =>
      have hs := takeFrames_canon (part := part) (fs := [f]) h
      exact ih (writeEntry_canon (State.canon_of_fields (Mem.wf_erase _ _ hs.wf_mem) hs.wf_blocks))

theorem mapPage_canon {part va frame flags} (h : s.Canon) : OnSome State.Canon (s.mapPage part va frame flags) := by
  unfold State.mapPage
  dsimp only
  split
  · split
    · exact mapFrom_canon h
    · trivial
  · trivial

theorem mapPages_canon {part flags l} (h : s.Canon) : OnSome State.Canon (State.mapPages part flags l s) := by
  induction l generalizing s with
  | nil => exact h
  | cons x r ih =>
    unfold State.mapPages
    grind only [OnSome, mapPage_canon]

theorem nearCopy_canon {x l} (h : s.Canon) : OnSome PairCanon (s.nearCopy x l) := by
  unfold State.nearCopy
  split
  · exact h
  · dsimp only
    split
    · trivial
    · exact fillFrames_canon (fillFrames_canon h)

theorem unmapPage_canon {p va own} (h : s.Canon) : (s.unmapPage p va own).Canon := by
  unfold State.unmapPage
  split
  · exact h
  · dsimp only
    split
    · exact returnFrame_canon (foldl_canon (fun _ _ hs => modCore_canon hs) (writeEntry_canon h))
    · exact foldl_canon (fun _ _ hs => modCore_canon hs) (writeEntry_canon h)

theorem modMapped_canon {x f} (h : s.Canon) : (s.modMapped x f).Canon := h

theorem unmapObject_canon {o p} (h : s.Canon) : (State.unmapObject o s p).Canon :=
  modMapped_canon (foldl_canon (fun _ _ hs => unmapPage_canon hs) (foldl_canon (fun _ _ hs => unmapPage_canon hs) h))

theorem mapObject_canon {p delivered o} (h : s.Canon) : OnSome State.Canon (s.mapObject p delivered o) := by
  have h1 : (State.modMapped (if o.mapped.contains p then State.unmapObject o s p else s) o.hash (insertUp p)).Canon := by
    refine modMapped_canon ?_
    split
    · exact unmapObject_canon h
    · exact h
  unfold State.mapObject
  dsimp only
  generalize State.modMapped (if o.mapped.contains p then State.unmapObject o s p else s) o.hash (insertUp p) = s1 at h1 ⊢
  split
  · trivial
  · split
    · next e =>
      refine mapPages_canon ((mapPages_canon ?_).of_eq e)
      exact fillFrames_canon (takeFrames_canon h1)
    · trivial

theorem loadObject_canon {p delivered x} (h : s.Canon) : OnBoth (fun _ => True) State.Canon (State.loadObject p delivered s x) := by
  unfold State.loadObject
  grind only [OnBoth, OnSome, PairCanon, nearCopy_canon, mapObject_canon]

theorem loadObjects_canon {p delivered l} (h : s.Canon) : OnBoth (fun _ => True) State.Canon (State.loadObjects p delivered l s) := by
  induction l generalizing s with
  | nil => exact h
  | cons x r ih =>
    unfold State.loadObjects
    grind only [OnBoth, loadObject_canon]

theorem loadImports_canon {p n delivered l} (h : s.Canon) : OnBoth (fun _ => True) State.Canon (State.loadImports p delivered n l s) := by
  induction l generalizing s with
  | nil => exact h
  | cons x r ih =>
    unfold State.loadImports
    grind only [OnBoth, loadObjects_canon]

theorem report_canon {part r} (h : s.Canon) : (s.report part r).Canon := h

theorem fenceIfetchAll_canon (h : s.Canon) : s.fenceIfetchAll.Canon := h

theorem execCodeObjectLoad_canon {p hash delivered} (h : s.Canon) : NextCanon (execCodeObjectLoad p hash delivered s) := by
  unfold execCodeObjectLoad
  dsimp only
  split
  · exact nextCanon_next h
  · split
    · exact nextCanon_next h
    · next l _ =>
      have hi := loadImports_canon (p := p) (n := s.svc.objects.length + delivered.length + 1) (delivered := delivered)
        (l := (Image.deps l).zipIdx) h
      grind only [nextCanon_next, OnBoth, report_canon, loadObject_canon, fenceIfetchAll_canon, State.canon_mk, State.Canon.wf_mem,
        State.Canon.wf_blocks]

theorem endDrains_canon (h : s.Canon) : s.endDrains.Canon := h

theorem freeObject_canon {o} (h : s.Canon) : (s.freeObject o).Canon :=
  wantAll_canon (foldl_canon (fun _ _ hs => unmapObject_canon hs) h)

theorem freeObjects_canon {n} (h : s.Canon) : (State.freeObjects n s).Canon := by
  induction n generalizing s with
  | zero => exact h
  | succ n ih =>
    unfold State.freeObjects
    grind only [freeObject_canon]

theorem sweepCode_canon (h : s.Canon) : s.sweepCode.Canon := by
  unfold State.sweepCode
  split
  · exact freeObjects_canon (endDrains_canon h)
  · exact h

theorem execCodeObjectUnload_canon {p handle} (h : s.Canon) : NextCanon (execCodeObjectUnload p handle s) := by
  unfold execCodeObjectUnload
  dsimp only
  split
  · exact nextCanon_next h
  · exact nextCanon_next (sweepCode_canon h)

theorem execKeyRegister_canon {p key required} (h : s.Canon) : NextCanon (execKeyRegister p key required s) := by
  unfold execKeyRegister
  split
  · exact nextCanon_next h
  · exact nextCanon_next (modPart_canon h)

/-! #### The matrix unit (`Matrix`) -/

theorem bind_canon {t th cv w} (h : s.Canon) : (s.bind t th cv w).Canon := by
  unfold State.bind
  dsimp only
  split
  · exact h
  · split
    · exact h
    · split
      · split
        · exact h
        · split
          · exact h
          · exact modThread_canon (modCore_canon h)
      · split
        · exact h
        · exact modThread_canon (modCore_canon (modCore_canon h))

theorem execMsignReleaseComplete_canon {blk tid} (h : s.Canon) : NextCanon (execMsignReleaseComplete blk tid s) := by
  unfold execMsignReleaseComplete
  split
  · split
    · split
      · exact nextCanon_next h
      · exact nextCanon_next (modThread_canon (unbind_canon h))
    · exact nextCanon_next h
  · exact nextCanon_next h

theorem countSignature_canon {t cv c rd} (h : s.Canon) : (s.countSignature t cv c rd).Canon := by
  unfold State.countSignature
  dsimp only
  split
  · split
    · next e => exact modThread_canon (modCore_canon ((enterQueue_canon h).of_eq e))
    · exact h
  · split <;> exact modThread_canon (modCore_canon h)

theorem sign_canon {t th mk} (h : s.Canon) : (s.sign t th mk).Canon := by
  unfold State.sign
  split
  · exact h
  · dsimp only
    split
    · split
      · exact drainStrand_canon h
      · exact countSignature_canon (drainStrand_canon h)
    · split
      · exact parkAt_canon (drainStrand_canon h)
      · split
        · exact drainStrand_canon h
        · exact countSignature_canon (drainStrand_canon h)

theorem issueMatrix_canon {t op} (h : s.Canon) : (s.issueMatrix t op).Canon := by
  unfold State.issueMatrix
  split
  · exact h
  · split
    · next e => exact (enterQueue_canon h).of_eq e
    · exact h

theorem execEngineCommandStart_canon {core q} (h : s.Canon) : NextCanon (execEngineCommandStart core q s) := by
  unfold execEngineCommandStart
  dsimp only
  split
  · exact nextCanon_next (passJoins_canon h)
  · split
    · exact nextCanon_next (passJoins_canon h)
    · split
      · exact nextCanon_next (passJoins_canon h)
      · refine nextCanon_next ?_
        split
        · split
          · exact endStreams_canon (modQueue_canon (passJoins_canon h))
          · exact modQueue_canon (passJoins_canon h)
        · exact modQueue_canon (passJoins_canon h)

theorem mixedHead_canon {core} (h : s.Canon) : (s.mixedHead core).Canon := by
  unfold State.mixedHead
  split
  · exact mixedMuch_canon h
  · exact h

theorem correctTiles_canon {blk op} (h : s.Canon) : (s.correctTiles blk op).Canon := by
  unfold State.correctTiles
  refine foldl_canon (fun _ _ hs => ?_) h
  split
  · exact hs
  · exact correct_canon hs

theorem setAcc_canon {core i v} (h : s.Canon) : (s.setAcc core i v).Canon := modCore_canon h

theorem matrixDone_canon {core blk st} (h : s.Canon) : (s.matrixDone core blk st).Canon :=
  popQueue_canon (modBlock_canon (fun _ hs => hs) h)

theorem mmaPerform_canon {core} (h : s.Canon) : (s.mmaPerform core).Canon := by
  unfold State.mmaPerform
  split
  · dsimp only
    split
    · refine matrixDone_canon ?_
      refine setAcc_canon ?_
      refine mixedHead_canon ?_
      split <;> exact correctTiles_canon h
    · exact matrixDone_canon (correctTiles_canon h)
    · exact matrixDone_canon (correctTiles_canon h)
  · exact h

theorem execMmaArray_canon {core} (h : s.Canon) : NextCanon (execMmaArray core s) := by
  unfold execMmaArray
  split
  · split
    · split
      · exact nextCanon_next h
      · exact nextCanon_next (foldl_canon (fun _ _ hs => mmaPerform_canon hs) (mmaPerform_canon h))
    · exact nextCanon_next h
  · exact nextCanon_next h

theorem execMcJoinTimeout_canon {core} (h : s.Canon) : NextCanon (execMcJoinTimeout core s) := by
  unfold execMcJoinTimeout
  split
  · split
    · exact nextCanon_next (modHead_canon h)
    · exact nextCanon_next h
  · exact nextCanon_next h

theorem holdSlot_canon {core slot blk} (h : s.Canon) : OnSome PairCanon (s.holdSlot core slot blk) := by
  unfold State.holdSlot
  split
  · trivial
  · split
    · split
      · exact h
      · trivial
    · exact modCore_canon h

theorem setSlot_canon {core slot v} (h : s.Canon) : (s.setSlot core slot v).Canon := modCore_canon h

theorem drain_canon {core blk o d r c acc} (h : s.Canon) : OnBoth (fun _ => True) PairCanon (s.drain core blk o d r c acc) := by
  unfold State.drain
  grind only [OnBoth, PairCanon, OnSome, holdSlot_canon, mixedHead_canon, setSlot_canon, modCore_canon, setAcc_canon, correctTiles_canon]

theorem matrixReady_canon {core ws} (h : s.Canon) : (s.matrixReady core ws).Canon := modHead_canon h

theorem matrixWrite_canon {core blk w} (h : s.Canon) : (s.matrixWrite core blk w).Canon := by
  unfold State.matrixWrite
  dsimp only
  split
  · exact matrixDone_canon (writeOne_canon h)
  · exact modHead_canon (writeOne_canon h)

theorem execMdrainArray_canon {core} (h : s.Canon) : NextCanon (execMdrainArray core s) := by
  unfold execMdrainArray
  split
  · split
    · exact nextCanon_next (matrixWrite_canon h)
    · split
      · next e => exact nextCanon_next (matrixReady_canon ((drain_canon h).of_eq e))
      · exact nextCanon_next (matrixDone_canon h)
  · exact nextCanon_next h

theorem execMzeroExec_canon {core} (h : s.Canon) : NextCanon (execMzeroExec core s) := by
  unfold execMzeroExec
  split
  · exact nextCanon_next (matrixDone_canon (setAcc_canon h))
  · exact nextCanon_next h

theorem execMloadcExec_canon {core} (h : s.Canon) : NextCanon (execMloadcExec core s) := by
  unfold execMloadcExec
  split
  · split
    · exact nextCanon_next (matrixDone_canon (setAcc_canon (correctTiles_canon (mixedHead_canon h))))
    · exact nextCanon_next (matrixDone_canon h)
  · exact nextCanon_next h

theorem execMhistExec_canon {core} (h : s.Canon) : NextCanon (execMhistExec core s) := by
  unfold execMhistExec
  grind only [NextCanon, OnSome, PairCanon, matrixWrite_canon, holdSlot_canon, matrixDone_canon, matrixReady_canon]

theorem execMhclrExec_canon {core} (h : s.Canon) : NextCanon (execMhclrExec core s) := by
  unfold execMhclrExec
  split
  · split
    · exact nextCanon_next (matrixDone_canon h)
    · next e => exact nextCanon_next (matrixDone_canon (setSlot_canon ((holdSlot_canon h).of_eq e)))
  · exact nextCanon_next h

theorem execMwaitDeposit_canon {core} (h : s.Canon) : NextCanon (execMwaitDeposit core s) := by
  unfold execMwaitDeposit
  split
  · exact nextCanon_next (want_canon h)
  · split
    · dsimp only
      split
      · next e => exact nextCanon_next (popQueue_canon (modBlock_canon (fun _ hs => hs) ((deposit_canon h).of_eq e)))
      · exact nextCanon_next h
    · exact nextCanon_next h

/-! #### Reads and writes of the graphics units (`Gfx`) -/

theorem greadPage_canon {t th ea n} (h : s.Canon) : OnBoth Lane.Canon PairCanon (s.greadPage t th ea n) := by
  unfold State.greadPage
  grind only [Lane.Canon, OnBoth, PairCanon, Xl.Canon, translate_canon, waitWalk_canon, correct_canon]

theorem greadFrom_canon {t th fuel ea n} (h : s.Canon) : OnBoth Lane.Canon PairCanon (State.greadFrom t th fuel s ea n) := by
  induction fuel generalizing s ea n with
  | zero => exact h
  | succ fuel ih =>
    unfold State.greadFrom
    grind only [OnBoth, PairCanon, greadPage_canon]

theorem gread_canon {t th addr n al} (h : s.Canon) : OnBoth Lane.Canon PairCanon (s.gread t th addr n al) := by
  unfold State.gread
  dsimp only
  split
  · exact h
  · split
    · exact h
    · exact greadFrom_canon h

theorem tableEntry_canon {t l} (h : s.Canon) : (s.tableEntry t l).1.Canon := by
  unfold State.tableEntry
  dsimp only
  split
  · exact h
  · split
    · exact h
    · exact choose_canon h

theorem lookup_canon {t ea} (h : s.Canon) : OnBoth Lane.Canon PairCanon (s.lookup t ea) := by
  unfold State.lookup
  grind only [Lane.Canon, OnBoth, PairCanon, Xl.Canon, translate_canon, waitWalk_canon, correct_canon, tableEntry_canon]

theorem gplan_canon {t k l} (h : s.Canon) : OnBoth Lane.Canon PairCanon (State.gplan t k l s) := by
  induction l generalizing s with
  | nil => exact h
  | cons x r ih =>
    unfold State.gplan
    grind only [OnBoth, Lane.Canon, PairCanon, Xl.Canon, translate_canon, waitWalk_canon]

theorem gput_canon {t w} (h : s.Canon) : (State.gput t s w).Canon := by
  unfold State.gput
  split
  · exact modBlock_canon (fun _ hs => hs) (modThread_canon h)
  · exact homeWrite_canon h

theorem gwrite_canon {t ws} (h : s.Canon) : OnBoth Lane.Canon State.Canon (s.gwrite t ws) := by
  unfold State.gwrite
  grind only [OnBoth, PairCanon, gplan_canon, gput_canon, foldl_canon]

theorem orLane_canon {e : Except Lane Lane} (h : OnBoth Lane.Canon Lane.Canon e) : (orLane e).Canon := by
  cases e <;> exact h

theorem gdone_canon {t d rs} (h : s.Canon) : (s.gdone t d rs).Canon := modThread_canon h

/-! #### Textures (`Texture`) -/

theorem texDescAt_canon {t th entry} (h : s.Canon) : OnBoth Lane.Canon PairCanon (s.texDescAt t th entry) := by
  unfold State.texDescAt
  grind only [OnBoth, PairCanon, lookup_canon, gread_canon]

theorem texel_canon {t th d l i j} (h : s.Canon) : OnBoth Lane.Canon PairCanon (s.texel t th d l i j) := by
  unfold State.texel
  grind only [OnBoth, PairCanon, gread_canon]

theorem sample_canon {t th d u v l} (h : s.Canon) : OnBoth Lane.Canon PairCanon (s.sample t th d u v l) := by
  unfold State.sample
  dsimp only
  split
  · next e => exact (texel_canon h).of_eq e
  · next e =>
    have h := (texel_canon h).of_eq e
    split
    · next e => exact (texel_canon h).of_eq e
    · next e =>
      have h := (texel_canon h).of_eq e
      split
      · next e => exact (texel_canon h).of_eq e
      · next e =>
        have h := (texel_canon h).of_eq e
        split
        · next e => exact (texel_canon h).of_eq e
        · next e => exact (texel_canon h).of_eq e

theorem texFree_canon {n} (h : s.Canon) : (s.texFree n).Canon := h

theorem texChannels_canon {t th k d ply u v} (h : s.Canon) : OnBoth Lane.Canon PairCanon (s.texChannels t th k d ply u v) := by
  unfold State.texChannels
  grind only [OnBoth, PairCanon, texel_canon, sample_canon]

/-! #### Layers (`Layer`) -/

theorem targetAt_canon {t th va pixel} (h : s.Canon) : OnBoth Lane.Canon PairCanon (s.targetAt t th va pixel) := by
  unfold State.targetAt
  grind only [OnBoth, PairCanon, gread_canon]

theorem nodeAddr_canon {t th d n} (h : s.Canon) : OnBoth Lane.Canon PairCanon (s.nodeAddr t th d n) := by
  unfold State.nodeAddr
  grind only [OnBoth, PairCanon, gread_canon]

theorem nodesFrom_canon {t th d fuel n} (h : s.Canon) : OnBoth Lane.Canon PairCanon (State.nodesFrom t th d fuel s n) := by
  induction fuel generalizing s n with
  | zero => exact h
  | succ fuel ih =>
    unfold State.nodesFrom
    grind only [OnBoth, PairCanon, nodeAddr_canon, gread_canon]

theorem pixelList_canon {t th d pixel} (h : s.Canon) : OnBoth Lane.Canon PairCanon (s.pixelList t th d pixel) := by
  unfold State.pixelList
  grind only [OnBoth, PairCanon, gread_canon, nodesFrom_canon]

theorem noteDid_canon {t kind} (h : s.Canon) : (s.noteDid t kind).Canon := modThread_canon h

theorem noteInsert_canon {t th va pixel l} (h : s.Canon) : (s.noteInsert t th va pixel l).Canon := by
  unfold State.noteInsert
  split
  · exact h
  · exact noteDid_canon (modDraw_canon h)

theorem insertOne_canon {t th a} (h : s.Canon) : OnBoth Lane.Canon PairCanon (s.insertOne t th a) := by
  refine OnBoth.bind (targetAt_canon h) fun r hr => ?_
  obtain ⟨s, desc⟩ := r
  cases desc with
  | none => exact noteDid_canon hr
  | some d =>
    dsimp only
    split
    · exact noteDid_canon hr
    · refine OnBoth.bind (pixelList_canon hr) fun r hr => ?_
      obtain ⟨s, l⟩ := r
      dsimp only
      split
      · exact OnBoth.bind (gwrite_canon hr) fun s hs => noteInsert_canon hs
      · split
        · exact OnBoth.bind (gwrite_canon hr) fun s hs => noteInsert_canon hs
        · refine OnBoth.bind (nodeAddr_canon hr) fun r hr => ?_
          obtain ⟨s, slot⟩ := r
          cases slot with
          | none => exact hr
          | some ea =>
            refine OnBoth.bind (gread_canon hr) fun r hr => ?_
            exact OnBoth.bind (gwrite_canon hr) fun s hs => noteInsert_canon hs

theorem linsDone_canon {t d v} (h : s.Canon) : (s.linsDone t d v).Canon := by
  unfold State.linsDone
  dsimp only
  split
  · exact want_canon (modThread_canon (modThread_canon h))
  · exact modThread_canon h

theorem execLayerInsert_canon {blk tid} (h : s.Canon) : NextCanon (execLayerInsert blk tid s) := by
  unfold execLayerInsert
  dsimp only
  split
  · next th core _ _ =>
    split
    · next d a st n _ =>
      split
      · exact nextCanon_next h
      · have ho := orLane_canon (OnBoth.map (f := fun r : State × Nat => State.linsDone r.1 ⟨blk, tid⟩ d r.2)
          (fun r hr => linsDone_canon hr)
          (insertOne_canon (s := { s with issue := ⟨core, 0, [⟨blk, tid⟩], th.pc, th.word⟩ }) (t := ⟨blk, tid⟩) (th := th) (a := a) h))
        grind only [Lane.Canon, nextCanon_next, modThread_canon, markErrors_canon, deliver_canon]
    · exact nextCanon_next h
  · exact nextCanon_next h

theorem seenList_canon {t th d pixel} (h : s.Canon) : OnBoth Lane.Canon PairCanon (s.seenList t th d pixel) := by
  unfold State.seenList
  grind only [OnBoth, PairCanon, pixelList_canon]

theorem pixelBody_canon {i d a n f} : Body.Canon (pixelBody i d a n f) := by
  intro s t th h
  have hd := drainStrand_canon (blk := t.blk) (k := th.strand) h
  unfold pixelBody
  dsimp only
  split
  · exact parkAt_canon hd
  · refine orLane_canon (OnBoth.bind (targetAt_canon hd) fun r hr => ?_)
    obtain ⟨s, desc⟩ := r
    cases desc with
    | none => exact gdone_canon hr
    | some tg => exact OnBoth.bind (seenList_canon hr) fun r hr => gdone_canon hr

theorem engineRead_canon {ea n} {tr : Translate} (ht : tr.Canon) (h : s.Canon) : OnBoth CopyR.Canon PairCanon (s.engineRead tr ea n) :=
  readSpan_canon ht h

theorem writeSpans_canon {blk ws} {tr : Translate} (ht : tr.Canon) (h : s.Canon) : (State.writeSpans tr blk ws s).Canon := by
  refine foldl_keeps (P := CopyR.Canon) (fun r w hr => ?_) _ h
  cases r with
  | ok s => exact writeSpan_canon ht hr
  | wait s => exact hr
  | fail s st => exact hr

theorem clearWrites_canon {d i} {tr : Translate} (ht : tr.Canon) (h : s.Canon) : OnBoth CopyR.Canon PairCanon (s.clearWrites tr d i) := by
  unfold State.clearWrites
  grind only [OnBoth, PairCanon, engineRead_canon]

theorem clearChunk_canon {d i} {tr : Translate} (ht : tr.Canon) (h : s.Canon) : (s.clearChunk tr d i).Canon := by
  unfold State.clearChunk
  split
  · next e => exact (clearWrites_canon ht h).of_eq e
  · next e => exact writeSpans_canon ht ((clearWrites_canon ht h).of_eq e)

theorem planWrites_canon {blk l} {tr : Translate} (ht : tr.Canon) (h : s.Canon) :
    OnBoth CopyR.Canon PairCanon (State.planWrites tr blk l s) := by
  induction l generalizing s with
  | nil => exact h
  | cons x r ih =>
    unfold State.planWrites
    grind only [OnBoth, PairCanon, planSpan_canon]

theorem clearPlan_canon {blk tgt i} {tr : Translate} (ht : tr.Canon) (h : s.Canon) :
    OnBoth CopyR.Canon PairCanon (s.clearPlan tr blk tgt i) := by
  unfold State.clearPlan
  split
  · exact h
  · split
    · next e => exact (engineRead_canon ht h).of_eq e
    · next e =>
      have h := (engineRead_canon ht h).of_eq e
      split
      · exact h
      · split
        · next e => exact (clearWrites_canon ht h).of_eq e
        · next e =>
          have h := (clearWrites_canon ht h).of_eq e
          split
          · next e => exact (planWrites_canon ht h).of_eq e
          · next e => exact (planWrites_canon ht h).of_eq e

theorem execLclrExec_canon {core} (h : s.Canon) : NextCanon (execLclrExec core s) := by
  unfold execLclrExec
  split
  · split
    · exact nextCanon_next h
    · split
      · exact nextCanon_next (modHead_canon (writeOne_canon h))
      · split
        · next e => exact nextCanon_next (modHead_canon ((clearPlan_canon blockXl_canon h).of_eq e))
        · next e => exact nextCanon_next ((clearPlan_canon blockXl_canon h).of_eq e)
        · next e => exact nextCanon_next ((clearPlan_canon blockXl_canon h).of_eq e)
        · next e => exact nextCanon_next (modHead_canon ((clearPlan_canon blockXl_canon h).of_eq e))
  · exact nextCanon_next h

theorem serviceXl_canon {part} : (serviceXl part).Canon := by
  intro s k ea h
  have := replayXl_canon (part := part) s k ea h
  unfold serviceXl
  grind only [Xl.Canon]

theorem retryPool_canon {p va} (h : s.Canon) : (s.retryPool p va).Canon := by
  unfold State.retryPool
  refine foldl_canon (fun _ _ hs => ?_) h
  split
  · refine foldl_canon (fun _ _ hk => ?_) hs
    split
    · split
      · split
        · exact want_canon (parkAt_canon hk)
        · exact hk
      · exact hk
    · exact hk
  · exact hs

theorem setMoi_canon {d} {tr : Translate} (ht : tr.Canon) (h : s.Canon) : OnSome State.Canon (s.setMoi tr d) := by
  unfold State.setMoi
  split
  · next e => exact (writeSpan_canon ht h).of_eq e
  · next e => exact (writeSpan_canon ht h).of_eq e
  · trivial

theorem addPage_canon {p d} {tr : Translate} (ht : tr.Canon) (h : s.Canon) : (s.addPage p tr d).Canon := by
  unfold State.addPage
  split
  · trivial
  · split
    · trivial
    · dsimp only
      split
      · next e => exact modPart_canon ((writeSpans_canon ht h).of_eq e)
      · trivial
      · trivial

theorem addPages_canon {p n d} {tr : Translate} (ht : tr.Canon) (h : s.Canon) : OnSome PairCanon (State.addPages p tr n s d) := by
  induction n generalizing s d with
  | zero => exact h
  | succ n ih =>
    have ha := addPage_canon (p := p) (d := d) ht h
    unfold State.addPages
    split
    · exact h
    · trivial
    · next e => rw [e] at ha; exact OnSome.map (fun _ hr => hr) (ih ha)

theorem growPool_canon {p n va} (h : s.Canon) : OnSome State.Canon (s.growPool p n va) := by
  have ht : (serviceXl p).Canon := serviceXl_canon
  have he := engineRead_canon (ea := va.toNat) (n := 32) ht h
  unfold State.growPool
  dsimp only
  split
  · next e =>
    rw [e] at he
    split
    · refine OnSome.bind (fun r hr => OnSome.map (fun _ hs => retryPool_canon hs) ?_) (addPages_canon ht he)
      split
      · exact setMoi_canon ht hr
      · exact hr
    · exact retryPool_canon he
  · trivial
  · exact retryPool_canon h

theorem execLayerPoolGrow_canon {p va} (h : s.Canon) : NextCanon (execLayerPoolGrow p va s) :=
  nextCanon_next (OnSome.getD (growPool_canon h) (want_canon h))

theorem execTargetCreate_canon {p va desc} (h : s.Canon) : NextCanon (execTargetCreate p va desc s) := by
  have ht : (serviceXl p).Canon := serviceXl_canon
  unfold execTargetCreate
  dsimp only
  split
  · exact nextCanon_next h
  · split
    · exact nextCanon_next h
    · next d _ =>
      have hr := foldl_keeps (P := CopyR.Canon) (f := fun (r : CopyR) i => match r with
          | .ok s => s.clearChunk (serviceXl p) d ((d.width * d.height + 511) / 512 + i)
          | r => r) (fun r i hr => by
            cases r with
            | ok s => exact clearChunk_canon ht hr
            | wait s => exact hr
            | fail s st => exact hr)
        (List.range (16 * d.npages + 1)) (writeSpan_canon (blk := none) (ea := va.toNat)
          (bytes := desc.take 22 ++ [0, 0] ++ (desc.drop 24).take 4 ++ leBytes 4 0) ht h)
      grind only [CopyR.Canon, nextCanon_next, modPart_canon]

/-! #### Draws (`Draw`) -/

theorem startDraw_canon {p core prio v f oct record done} (h : s.Canon) :
    OnSome State.Canon (s.startDraw p core prio v f oct record done) := by
  unfold State.startDraw
  dsimp only
  split
  · exact h
  · exact enterGrid_canon h

theorem execDrawQueueAdvance_canon {core} (h : s.Canon) : NextCanon (execDrawQueueAdvance core s) := by
  unfold execDrawQueueAdvance
  split
  · dsimp only
    split
    · exact nextCanon_next h
    · split
      · split
        · next e => exact nextCanon_next (popQueue_canon ((startDraw_canon h).of_eq e))
        · exact nextCanon_next (exitPart_canon h)
      · exact nextCanon_next (modHead_canon h)
  · exact nextCanon_next (passJoins_canon h)

theorem releasePrims_canon {di} (h : s.Canon) : (s.releasePrims di).Canon := by
  unfold State.releasePrims
  split
  · exact h
  · split
    · exact h
    · exact modDraw_canon h

theorem wantTiles_canon (h : s.Canon) : s.wantTiles.Canon := wantAll_canon h

theorem launchFrags_canon {di tile ps} (h : s.Canon) : (State.launchFrags di tile ps s).1.Canon := by
  induction ps generalizing s with
  | nil => exact h
  | cons x r ih =>
    unfold State.launchFrags
    grind only [OnSome, modDraw_canon, enterGrid_canon]

theorem reloadTile_canon {di tile} (h : s.Canon) : (s.reloadTile di tile).Canon := by
  unfold State.reloadTile
  split
  · exact h
  · exact modDraw_canon (givePool_canon h)

theorem relieve_canon {di} (h : s.Canon) : (s.relieve di).Canon := by
  unfold State.relieve
  grind only [launchFrags_canon, reloadTile_canon, modDraw_canon]

theorem writeSpills_canon {di} (h : s.Canon) : (s.writeSpills di).Canon := by
  unfold State.writeSpills
  split
  · exact h
  · refine foldl_canon (fun _ _ hs => ?_) h
    split
    · exact hs
    · dsimp only
      split
      · exact hs
      · exact modDraw_canon (fillFrames_canon (takePool_canon hs))

theorem closeVertices_canon {di} (h : s.Canon) : (s.closeVertices di).Canon := by
  unfold State.closeVertices
  split
  · split
    · exact modDraw_canon h
    · exact h
  · exact h

theorem finishDraw_canon {di} (h : s.Canon) : (s.finishDraw di).Canon := by
  unfold State.finishDraw
  split
  · exact h
  · split
    · exact want_canon (modDraw_canon (givePool_canon h))
    · exact h

theorem drawProgress_canon {di} (h : s.Canon) : (s.drawProgress di).Canon :=
  wantTiles_canon (finishDraw_canon (writeSpills_canon (relieve_canon (closeVertices_canon (releasePrims_canon h)))))

theorem execRasteriseTile_canon {di tile} (h : s.Canon) : NextCanon (execRasteriseTile di tile s) := by
  unfold execRasteriseTile
  grind only [NextCanon, relieve_canon, writeSpills_canon, launchFrags_canon, reloadTile_canon, modDraw_canon, drawProgress_canon]

theorem readSamples_canon {t th size l} (h : s.Canon) : OnBoth Lane.Canon PairCanon (State.readSamples t th size l s) := by
  induction l generalizing s with
  | nil => exact h
  | cons x r ih =>
    unfold State.readSamples
    grind only [OnBoth, PairCanon, gread_canon]

theorem fragBody_canon {i kind} {f : State → TRef → Thread → Nat → Draw → Frag → Except Lane Lane}
    (hf : ∀ s t th di d fr, s.Canon → OnBoth Lane.Canon Lane.Canon (f s t th di d fr)) :
    Body.Canon (fragBody i kind f) := by
  intro s t th h
  unfold fragBody
  split
  · dsimp only
    split
    · exact parkAt_canon (drainStrand_canon h)
    · exact orLane_canon (hf _ _ _ _ _ _ (drainStrand_canon h))
  · exact h

/-! #### Context frames (`Frame`) -/

theorem correctFrame_canon {blk} (h : s.Canon) : (s.correctFrame blk).Canon := foldl_canon (fun _ _ hs => correct_canon hs) h

theorem dropFrame_canon {blk} (h : s.Canon) : (s.dropFrame blk).Canon := by
  unfold State.dropFrame
  dsimp only
  split
  · exact h
  · exact givePool_canon (modBlock_canon (fun _ hs => hs) h)

theorem contextLost_canon {blk} (h : s.Canon) : (s.contextLost blk).Canon := by
  unfold State.contextLost
  grind only [modBlock_canon, dropFrame_canon, stopBlock_canon, foldl_canon]

theorem loseFrame_canon {blk fs} (h : s.Canon) : (s.loseFrame blk fs).Canon :=
  contextLost_canon (foldl_canon (fun _ _ hs => poisonPage_canon hs) h)

theorem writeFrame_canon {blk} (h : s.Canon) : (s.writeFrame blk).Canon := by
  have hm := modBlock_canon (b := blk) (f := fun b => { b with image := b.matrixImage }) (fun _ hk => hk) h
  unfold State.writeFrame
  dsimp only
  split
  · exact hm
  · split
    · exact hm
    · split
      · exact hm
      · split
        · exact loseFrame_canon (modBlock_canon (fun _ hk => hk) (takePool_canon hm))
        · exact fillFrames_canon (modBlock_canon (fun _ hk => hk) (takePool_canon hm))

/-! #### The life of a block (`Blocks`) -/

theorem execDeal_canon {part} (h : s.Canon) : NextCanon (execDeal part s) := by
  unfold execDeal
  split
  · exact nextCanon_next h
  · split
    · exact nextCanon_next h
    · split
      · exact nextCanon_next h
      · split
        · exact nextCanon_next h
        · split
          · next e => exact nextCanon_next ((buildTables_canon h).of_eq e)
          · dsimp only
            refine nextCanon_next ?_
            refine want_canon ?_
            split
            · next e _ => exact leaveDispatch_canon (modGrid_canon (claimBarriers_canon (spawnUnits_canon (joinPod_canon
                ((buildTables_canon h).of_eq e)))))
            · next e _ => exact modGrid_canon (claimBarriers_canon (spawnUnits_canon (joinPod_canon ((buildTables_canon h).of_eq e))))

theorem fillStatus_canon {v l} (h : s.Canon) : (State.fillStatus v s l).Canon :=
  foldl_canon (fun _ _ hs => foldl_canon (fun _ _ hk => modThread_canon hk) hs) h

theorem sealDraw_canon {t th core oct} (h : s.Canon) : OnSome PairCanon (s.sealDraw t th core oct) := by
  unfold State.sealDraw
  split
  · exact h
  · split
    · next e => exact (gread_canon h).of_eq e
    · trivial
    · next e =>
      have h := (gread_canon h).of_eq e
      split
      · exact OnSome.map (fun _ hs => hs) (enterQueue_canon h)
      · exact h

theorem sealLaunch_canon {t core oct} (h : s.Canon) : OnSome PairCanon (s.sealLaunch t core oct) := by
  unfold State.sealLaunch
  split
  · exact OnSome.map (fun _ hs => hs) (enterQueue_canon h)
  · exact h

theorem issueHeld_canon {x} (h : s.Canon) : OnSome State.Canon (s.issueHeld x) := by
  unfold State.issueHeld
  split
  · next t th core _ _ _ =>
    have hi : State.Canon { s with issue := ⟨core, 0, [t], th.pc, th.word⟩ } := h
    dsimp only
    split
    · exact enterQueue_canon hi
    · exact enterFence_canon hi
    · refine OnSome.map (fun _ hr => fillStatus_canon hr) ?_
      split
      · exact sealDraw_canon hi
      · exact sealLaunch_canon hi
  · trivial

theorem issueStep_canon {x} {acc : Option (State × List TRef)} (h : OnSome PairCanon acc) : OnSome PairCanon (State.issueStep acc x) := by
  refine OnSome.bind (fun a ha => ?_) h
  split
  · exact OnSome.map (fun s hs => hs.mapBlocks fun _ hb => hb) (issueHeld_canon ha)
  · exact ha

theorem issueReady_canon (h : s.Canon) : OnSome State.Canon (s.issueReady) :=
  OnSome.map (fun _ hr => hr) (foldl_keeps (P := OnSome PairCanon) (fun _ _ ha => issueStep_canon ha) _ h)

theorem gridEnded_canon {gi} (h : s.Canon) : (s.gridEnded gi).Canon := by
  unfold State.gridEnded
  split
  · exact h
  · split
    · exact want_canon h
    · exact want_canon h
    · exact drawProgress_canon h
    · exact h

theorem countEnd_canon {b} (h : s.Canon) : (s.countEnd b).Canon := by
  unfold State.countEnd
  dsimp only
  split
  · split
    · exact gridEnded_canon (modGrid_canon h)
    · exact h
  · split
    · exact gridEnded_canon (modGrid_canon h)
    · exact h

theorem freeQuad_canon {b} (h : s.Canon) : (s.freeQuad b).Canon := by
  unfold State.freeQuad
  split
  · exact h
  · split <;> exact h

theorem leaveRepaired_canon {part l} (h : s.Canon) : (s.leaveRepaired part l).Canon := modPart_canon h

theorem releaseRoom_canon {blk} (h : s.Canon) : (s.releaseRoom blk).Canon := by
  unfold State.releaseRoom
  split
  · exact h
  · refine modBlock_canon (fun _ hs => hs) ?_
    split
    · exact modCore_canon h
    · exact h

theorem endBlock_canon {blk b} (h : s.Canon) : (s.endBlock blk b).Canon := by
  unfold State.endBlock
  exact want_canon (sweepCode_canon (freeQuad_canon (countEnd_canon (modBlock_canon (fun _ _ => rfl)
    (forgetLanes_canon (givePool_canon (dropFrame_canon h)))))))

theorem execBlockEnd_canon {blk} (h : s.Canon) : NextCanon (execBlockEnd blk s) := by
  unfold execBlockEnd
  split
  · exact nextCanon_next h
  · split
    · exact nextCanon_next h
    · split
      · exact nextCanon_next (OnSome.getD (issueReady_canon h) h)
      · split
        · exact nextCanon_next h
        · split
          · exact nextCanon_next h
          · exact nextCanon_next (foldl_canon (fun _ _ hs => enqueueReady_canon hs)
              (leaveRepaired_canon (endBlock_canon (releaseRoom_canon h))))
        · split
          · exact nextCanon_next h
          · exact nextCanon_next (endBlock_canon (modCore_canon (drainBlock_canon (finishAtomics_canon h))))

theorem finishChunk_canon {core c} (h : s.Canon) : (s.finishChunk core c).1.Canon := by
  unfold State.finishChunk
  grind only [CopyR.Canon, chunkStep_canon, blockXl_canon, writeOuts_canon]

theorem saveQueue_canon {core blk q} {acc : State × List (Nat × Cmd)} (hacc : acc.1.Canon) :
    (State.saveQueue core blk acc q).1.Canon := by
  refine modQueue_canon (foldl_keeps (P := fun r : State × List (Nat × Cmd) => r.1.Canon) (fun a c ha => ?_) _ hacc)
  exact finishChunk_canon ha

theorem save_canon {blk core why} (h : s.Canon) : (s.save blk core why).Canon := by
  have h1 := splitBlock_canon (blk := blk) (drainBlock_canon (blk := blk) h)
  have h2 : (((((s.drainBlock blk).splitBlock blk).blocks[blk]?).bind Block.partner).elim ((s.drainBlock blk).splitBlock blk)
      fun p => ((s.drainBlock blk).splitBlock blk).finishAtomics p).Canon := by
    cases (((s.drainBlock blk).splitBlock blk).blocks[blk]?).bind Block.partner with
    | none => exact h1
    | some p => exact finishAtomics_canon h1
  have h3 := foldl_keeps (P := fun r : State × List (Nat × Cmd) => r.1.Canon)
    (fun _ q hr => saveQueue_canon (core := core) (blk := blk) (q := q) hr) (List.range 9) (a := (State.finishAtomics _ blk, [])) (finishAtomics_canon (blk := blk) h2)
  exact passJoins_canon (modCore_canon (modBlock_canon (fun _ hk => hk) h3))

theorem settleStop_canon (h : s.Canon) : s.settleStop.Canon := by
  unfold State.settleStop
  split <;> exact h

theorem settlePreempt_canon {core part} (h : s.Canon) : (s.settlePreempt core part).Canon := by
  unfold State.settlePreempt
  dsimp only
  split
  · split
    · exact modCore_canon h
    · exact settleStop_canon (modPart_canon (modCore_canon h))
  · split
    · exact h
    · exact settleStop_canon (modPart_canon h)

theorem execBlockSave_canon {blk} (h : s.Canon) : NextCanon (execBlockSave blk s) := by
  unfold execBlockSave
  split
  · exact nextCanon_next h
  · split
    · exact nextCanon_next (wantTiles_canon (want_canon (serveSaved_canon (settlePreempt_canon (writeFrame_canon (save_canon h))))))
    · exact nextCanon_next h

theorem refile_canon {core blk x} (h : s.Canon) : (State.refile core blk s x).Canon := by
  unfold State.refile
  split
  · exact h
  · dsimp only
    split
    · exact modCore_canon h
    · exact modThread_canon (modBlock_canon (fun _ hs => hs) h)

theorem moveSpill_canon {blk core g b} (h : s.Canon) : (s.moveSpill blk core g b).Canon :=
  modBlock_canon (fun _ hs => hs) (reserveSpill_canon (givePool_canon h))

theorem putBack_canon {x} (h : s.Canon) : (s.putBack x).Canon := by
  unfold State.putBack
  dsimp only
  split
  · exact passJoins_canon (foldl_canon (fun _ _ hs => refile_canon hs) (modCore_canon (foldl_canon
      (fun _ _ hs => modQueue_canon hs) (modBlock_canon (fun _ hs => hs) (moveSpill_canon (dropFrame_canon h))))))
  · exact h

theorem execBlockRestore_canon {blk} (h : s.Canon) : NextCanon (execBlockRestore blk s) := by
  unfold execBlockRestore
  split
  · split
    · exact nextCanon_next h
    · split
      · exact nextCanon_next h
      · dsimp only
        split
        · exact nextCanon_next (foldl_canon (fun _ _ hs => loseFrame_canon hs) (foldl_canon (fun _ _ hs => correctFrame_canon hs) h))
        · split
          · next e => exact nextCanon_next ((buildTables_canon (foldl_canon (fun _ _ hs => correctFrame_canon hs) h)).of_eq e)
          · next e => exact nextCanon_next (want_canon (leaveRepaired_canon (foldl_canon (fun _ _ hs => putBack_canon hs)
              ((buildTables_canon (foldl_canon (fun _ _ hs => correctFrame_canon hs) h)).of_eq e))))
  · exact nextCanon_next h

theorem execQueueQuotaRestore_canon {blk} (h : s.Canon) : NextCanon (execQueueQuotaRestore blk s) := by
  unfold execQueueQuotaRestore
  split
  · split
    · exact nextCanon_next (makeReady_canon h)
    · exact nextCanon_next h
  · exact nextCanon_next h

theorem haltCore_canon {core part} (h : s.Canon) : (s.haltCore core part).Canon :=
  settlePreempt_canon (foldl_canon (fun _ _ hs => requestSave_canon hs) (foldl_canon (fun _ _ hs => releaseRoom_canon hs) h))

theorem preempt_canon {part cores} (h : s.Canon) : (s.preempt part cores).Canon := by
  unfold State.preempt
  dsimp only
  refine foldl_canon (fun _ _ hs => ?_) (foldl_canon (fun _ _ hs => modCore_canon hs) h)
  split
  · exact hs
  · exact haltCore_canon hs

theorem execPreemptRequest_canon {part cores} (h : s.Canon) : NextCanon (execPreemptRequest part cores s) :=
  nextCanon_next (preempt_canon h)

theorem execDrawGraceExpiry_canon {core} (h : s.Canon) : NextCanon (execDrawGraceExpiry core s) := by
  unfold execDrawGraceExpiry
  split
  · split
    · exact nextCanon_next (haltCore_canon h)
    · exact nextCanon_next h
  · exact nextCanon_next h

theorem finishFrame_canon {t rest} (h : s.Canon) : (s.finishFrame t rest).Canon := by
  unfold State.finishFrame
  split
  · split
    · next e => exact modThread_canon ((storeElems_canon h).of_eq e)
    · next e => exact (storeElems_canon h).of_eq e
    · exact h
  · exact h

theorem releaseStep_canon {perform tid w} {acc : State × List QWrite} (hacc : acc.1.Canon) :
    (State.releaseStep perform tid acc w).1.Canon := by
  unfold State.releaseStep
  split
  · exact hacc
  · exact ite_canon (homeWrite_canon hacc) hacc

theorem unquarantine_canon {perform t} (h : s.Canon) : (State.unquarantine perform s t).Canon :=
  modBlock_canon (fun _ hk => hk)
    (foldl_keeps (P := fun r : State × List QWrite => r.1.Canon) (fun _ _ hr => releaseStep_canon hr) _ h)

theorem dropWords_canon {blks ws} (h : s.Canon) : (s.dropWords blks ws).Canon := h

theorem lanesSealed_canon {t l} (h : s.Canon) : (s.lanesSealed t l).Canon := h.mapBlocks fun _ hb => hb

theorem sealMatch_canon {t partner} (h : s.Canon) : (s.sealMatch t partner).Canon := by
  unfold State.sealMatch
  dsimp only
  split
  · exact h
  · next e => exact finishFrame_canon (finishFrame_canon (modThread_canon (modThread_canon ((issueReady_canon (lanesSealed_canon
      (dropWords_canon (unquarantine_canon (unquarantine_canon h))))).of_eq e))))

theorem dropCommands_canon {core blk} (h : s.Canon) : (s.dropCommands core blk).Canon := passJoins_canon (modCore_canon h)

theorem restartCopy_canon {blk} (h : s.Canon) : (s.restartCopy blk).Canon := by
  have h1 := forgetLanes_canon (blk := blk) (splitBlock_canon (blk := blk) h)
  unfold State.restartCopy
  dsimp only
  split
  · exact makeReady_canon (modBlock_canon (fun _ _ => rfl) (dropCommands_canon h1))
  · exact h1

theorem sealMismatch_canon {blk partner} (h : s.Canon) : (s.sealMismatch blk partner).Canon := by
  unfold State.sealMismatch
  dsimp only
  split
  · exact stopBlock_canon (modBlock_canon (fun _ hk => hk) (modBlock_canon (fun _ hk => hk) h))
  · have h1 := restartCopy_canon (blk := partner) (restartCopy_canon (blk := blk) h)
    have h2 := OnSome.getD (issueReady_canon h1) h1
    exact foldl_canon (fun _ _ hs => requestSave_canon (releaseRoom_canon hs)) h2

theorem execSeal_canon {blk tid} (h : s.Canon) : NextCanon (execSeal blk tid s) := by
  have drain : ∀ (s : State) (b : Nat), s.Canon → (match s.thread? ⟨b, tid⟩ with
      | some th => s.drainStrand b th.strand
      | none => s).Canon := fun s b hs => by
    split
    · exact drainStrand_canon hs
    · exact hs
  unfold execSeal
  split
  · exact nextCanon_next (modThread_canon h)
  · dsimp only
    split
    · split
      · split
        · exact nextCanon_next (sealMatch_canon (drain _ _ (drain _ _ h)))
        · exact nextCanon_next (sealMismatch_canon (drain _ _ (drain _ _ h)))
      · exact nextCanon_next h
    · exact nextCanon_next h

/-! #### Graphs and replays (`Graph`) -/

theorem noticeUpload_canon {p l} (h : s.Canon) : (s.noticeUpload p l).Canon := by
  unfold State.noticeUpload
  split
  · exact notify_canon h
  · exact h

theorem execGraphUpload_canon {p l} (h : s.Canon) : NextCanon (execGraphUpload p l s) := by
  unfold execGraphUpload
  split
  · exact nextCanon_next h
  · dsimp only
    split
    · exact nextCanon_next (report_canon (noticeUpload_canon h))
    · split
      · exact nextCanon_next (report_canon (noticeUpload_canon h))
      · split
        · exact nextCanon_next (report_canon (noticeUpload_canon h))
        · exact nextCanon_next (report_canon (modPart_canon (noticeUpload_canon h)))

theorem readEntry16_canon {p ea} (h : s.Canon) : OnBoth CopyR.Canon PairCanon (s.readEntry16 p ea) := by
  have hx := replayXl_canon (part := p) s .load (Addr.ofNat ea) h
  unfold State.readEntry16
  grind only [OnBoth, CopyR.Canon, Xl.Canon, readPiece_canon, replayXl_canon]

theorem readEntries_canon {p n ea} (h : s.Canon) : OnBoth CopyR.Canon PairCanon (State.readEntries p n ea s) := by
  induction n generalizing ea s with
  | zero => exact h
  | succ n ih =>
    unfold State.readEntries
    grind only [OnBoth, PairCanon, readEntry16_canon]

theorem readPatches_canon {p nodes n ea} (h : s.Canon) : OnBoth CopyR.Canon PairCanon (State.readPatches p nodes n ea s) := by
  induction n generalizing ea s with
  | zero => exact h
  | succ n ih =>
    unfold State.readPatches
    grind only [OnBoth, CopyR.Canon, PairCanon, readEntry16_canon]

theorem setKstat_canon {p status} (h : s.Canon) : (s.setKstat p status).Canon := modPart_canon h

theorem acceptKick_canon {p value g patches} (h : s.Canon) : (s.acceptKick p value g patches).Canon := by
  unfold State.acceptKick
  grind only [NextCanon, modPart_canon, execPreemptRequest_canon]

theorem takeKick_canon {p value} (h : s.Canon) : OnSome State.Canon (s.takeKick p value) := by
  unfold State.takeKick
  dsimp only
  split
  · exact setKstat_canon h
  · split
    · exact setKstat_canon h
    · split
      · exact acceptKick_canon h
      · split
        · next e => exact setKstat_canon ((readPatches_canon h).of_eq e)
        · trivial
        · next e => exact acceptKick_canon ((readPatches_canon h).of_eq e)

theorem takeKicks_canon {p n} (h : s.Canon) : (State.takeKicks p n s).Canon := by
  induction n generalizing s with
  | zero => exact h
  | succ n ih =>
    unfold State.takeKicks
    grind only [OnSome, takeKick_canon, modPart_canon]

theorem execKick_canon {p value} (h : s.Canon) : NextCanon (execKick p value s) := by
  unfold execKick
  split
  · exact nextCanon_next h
  · exact nextCanon_next (takeKicks_canon (modPart_canon h))

theorem rangeList_canon {p at_ n} (h : s.Canon) : OnBoth CopyR.Canon PairCanon (s.rangeList p at_ n) := by
  unfold State.rangeList
  grind only [CopyR.Canon, OnBoth, PairCanon, readEntries_canon]

theorem attach_canon {p l} (h : s.Canon) : (s.attach p l).Canon := modPart_canon h

theorem nodeDone_canon {p r i st} (h : s.Canon) : (s.nodeDone p r i st).Canon := setNode_canon h

theorem startLaunchNode_canon {p r i x} (h : s.Canon) : (s.startLaunchNode p r i x).Canon := by
  unfold State.startLaunchNode
  grind only [CopyR.Canon, OnBoth, PairCanon, OnSome, nodeDone_canon, rangeList_canon, attach_canon, enterGrid_canon,
    setNode_canon, exitPart_canon]

theorem startDrawNode_canon {p r i x} (h : s.Canon) : (s.startDrawNode p r i x).Canon := by
  unfold State.startDrawNode
  grind only [CopyR.Canon, OnBoth, PairCanon, OnSome, nodeDone_canon, readSpan_canon, replayXl_canon, startDraw_canon,
    setNode_canon, exitPart_canon]

theorem startCollNode_canon {p r i x} (h : s.Canon) : (s.startCollNode p r i x).Canon := by
  unfold State.startCollNode
  dsimp only
  split
  · exact nodeDone_canon h
  · exact setNode_canon (modPart_canon h)

theorem startCoalescing_canon {p r i x} (h : s.Canon) : (s.startCoalescing p r i x).Canon := by
  unfold State.startCoalescing
  dsimp only
  refine nodeDone_canon ?_
  split
  · exact attach_canon h
  · exact h

theorem execReplayNodeReady_canon {p r i} (h : s.Canon) : NextCanon (execReplayNodeReady p r i s) := by
  unfold execReplayNodeReady
  split
  · exact nextCanon_next h
  · split
    · exact nextCanon_next h
    · split
      · exact nextCanon_next (startLaunchNode_canon h)
      · split
        · exact nextCanon_next (nodeDone_canon h)
        · exact nextCanon_next (setNode_canon h)
      · exact nextCanon_next (startCollNode_canon h)
      · exact nextCanon_next (startDrawNode_canon h)
      · exact nextCanon_next (nodeDone_canon h)
      · exact nextCanon_next (startCoalescing_canon h)

theorem pickGranules_canon {oct x} (h : s.Canon) : (s.pickGranules oct x).1.Canon := h

theorem stepCopyNode_canon {p r i x oct} (h : s.Canon) : (s.stepCopyNode p r i x oct).Canon := by
  unfold State.stepCopyNode
  grind only [CopyR.Canon, pickGranules_canon, chunkStep_canon, replayXl_canon, nodeDone_canon, setNode_canon]

theorem execReplayNodeComplete_canon {p r i} (h : s.Canon) : NextCanon (execReplayNodeComplete p r i s) := by
  unfold execReplayNodeComplete
  grind only [NextCanon, nodeDone_canon, stepCopyNode_canon, writeOne_canon, setNode_canon, collTry_canon]

theorem recordDone_canon {p r} (h : s.Canon) : (s.recordDone p r).Canon := modPart_canon h

theorem execCompletionRecord_canon {p r} (h : s.Canon) : NextCanon (execCompletionRecord p r s) := by
  unfold execCompletionRecord
  split
  · exact nextCanon_next h
  · split
    · exact nextCanon_next h
    · split
      · next e => exact nextCanon_next ((writeGranule_canon replayXl_canon h).of_eq e)
      · next e => exact nextCanon_next (recordDone_canon ((writeGranule_canon replayXl_canon h).of_eq e))
      · next e => exact nextCanon_next (notify_canon (recordDone_canon ((writeGranule_canon replayXl_canon h).of_eq e)))

/-! #### Management and host requests (`Manage`) -/

theorem allocScratch_canon {part die n} (h : s.Canon) : OnSome PairCanon (s.allocScratch part die n) := by
  unfold State.allocScratch
  dsimp only
  split
  · trivial
  · have ht := takeFrames_canon (part := part) (fs := (s.dieFrames part die).take n) h
    refine scratchAt_holds fun page => ?_
    split
    · exact OnSome.map (fun _ hs => modPart_canon hs) (mapPages_canon (by exact ht))
    · trivial

theorem freeScratch_canon {part va} (h : s.Canon) : OnSome State.Canon (s.freeScratch part va) :=
  OnSome.map (P := fun _ => True) (fun _ _ => modPart_canon (foldl_canon (fun _ _ hs => unmapPage_canon hs) h))
    (by cases (s.part part).scratch.find? fun x => x.1 == va <;> trivial)

theorem execServiceCallPerform_canon {blk tid} (h : s.Canon) : NextCanon (execServiceCallPerform blk tid s) := by
  unfold execServiceCallPerform
  dsimp only
  split
  · split
    · exact nextCanon_next (modThread_canon h)
    · split
      · next e => exact nextCanon_next (modThread_canon ((allocScratch_canon h).of_eq e))
      · exact nextCanon_next (modThread_canon h)
    · split
      · next e => exact nextCanon_next (modThread_canon ((freeScratch_canon h).of_eq e))
      · exact nextCanon_next (modThread_canon h)
    · exact nextCanon_next (modThread_canon h)
    · exact nextCanon_next h
  · exact nextCanon_next h

theorem execResume_canon {part} (h : s.Canon) : NextCanon (execResume part s) := nextCanon_next (resume_canon h)

theorem answered_canon {part evseq} (h : s.Canon) : (s.answered part evseq).Canon := h

theorem deliverPoison_canon {t} (h : s.Canon) : (s.deliverPoison t).Canon := by
  unfold State.deliverPoison
  split
  · exact takeTrap_canon (modThread_canon h)
  · exact h

theorem ackContinue_canon {part evseq} (h : s.Canon) : (s.ackContinue part evseq).Canon := by
  unfold State.ackContinue
  split
  · exact makeReady_canon (answered_canon h)
  · exact deliverPoison_canon (answered_canon h)
  · exact h

theorem ackGrow_canon {part evseq count} (h : s.Canon) : (s.ackGrow part evseq count).Canon := by
  unfold State.ackGrow
  split
  · exact OnSome.getD (growPool_canon (answered_canon h)) h
  · exact h

theorem ackMerge_canon {part evseq} (h : s.Canon) : (s.ackMerge part evseq).Canon := ackGrow_canon h

theorem execHostackContinue_canon {part evseq} (h : s.Canon) : NextCanon (execHostackContinue part evseq s) :=
  nextCanon_next (ackContinue_canon h)

theorem execHostackPoolgrow_canon {part evseq count} (h : s.Canon) : NextCanon (execHostackPoolgrow part evseq count s) :=
  nextCanon_next (ackGrow_canon h)

theorem execHostackPoolmerge_canon {part evseq} (h : s.Canon) : NextCanon (execHostackPoolmerge part evseq s) :=
  nextCanon_next (ackMerge_canon h)

theorem writeHostack_canon {part v} (h : s.Canon) : (s.writeHostack part v).Canon := by
  unfold State.writeHostack
  dsimp only
  split
  · exact ackContinue_canon h
  · exact ackGrow_canon h
  · exact ackMerge_canon h
  · exact h

theorem writePrectl_canon {part v} (h : s.Canon) : (s.writePrectl part v).Canon := by
  unfold State.writePrectl
  dsimp only
  split
  · exact mustNow_canon (modPart_canon (modPart_canon h))
  · exact modPart_canon h

theorem execControlWindowWrite_canon {part offset v} (h : s.Canon) : NextCanon (execControlWindowWrite part offset v s) := by
  unfold execControlWindowWrite
  split
  · exact nextCanon_next h
  · split
    · exact nextCanon_next (modPart_canon h)
    · exact nextCanon_next (modPart_canon h)
    · exact nextCanon_next (modPart_canon h)
    · exact nextCanon_next (modPart_canon h)
    · exact nextCanon_next (modPart_canon h)
    · exact nextCanon_next (writePrectl_canon h)
    · refine nextCanon_next ?_
      split
      · exact resume_canon h
      · exact h
    · exact nextCanon_next (writeHostack_canon h)
    · exact nextCanon_next h

theorem execHostRepairRequest_canon {part r} (h : s.Canon) : NextCanon (execHostRepairRequest part r s) := by
  unfold execHostRepairRequest
  split
  · exact nextCanon_next h
  · split
    · split
      · exact nextCanon_next (settleWaiting_canon (writeEntry_canon h))
      · exact nextCanon_next h
    · split
      · exact nextCanon_next (fillFrames_canon h)
      · exact nextCanon_next h
    · exact execMigration_canon h
    · exact nextCanon_next (modPart_canon h)
    · exact nextCanon_next (changeAccess_canon h)
    · exact nextCanon_next (startNode_canon h)

theorem boot_canon {image} (h : s.Canon) : (s.boot image).Canon := by
  unfold State.boot
  dsimp only
  split <;> exact h

theorem execPowerUp_canon {firmware} (h : s.Canon) : NextCanon (execPowerUp firmware s) := nextCanon_next (boot_canon h)

theorem execFirmwareImage_canon {image} (h : s.Canon) : NextCanon (execFirmwareImage image s) := by
  unfold execFirmwareImage
  split
  · exact nextCanon_next (boot_canon h)
  · exact nextCanon_next h

theorem execOwnershipClaim_canon {source} (h : s.Canon) : NextCanon (execOwnershipClaim source s) := by
  unfold execOwnershipClaim
  split
  · exact nextCanon_next h
  · split <;> exact nextCanon_next h

theorem execOwnershipHandover_canon {source successor} (h : s.Canon) : NextCanon (execOwnershipHandover source successor s) := by
  unfold execOwnershipHandover
  split <;> exact nextCanon_next h

theorem execHandoverAccept_canon {source} (h : s.Canon) : NextCanon (execHandoverAccept source s) := by
  unfold execHandoverAccept
  split <;> exact nextCanon_next h

theorem execLinkLoss_canon {source} (h : s.Canon) : NextCanon (execLinkLoss source s) := by
  unfold execLinkLoss
  split <;> exact nextCanon_next h

theorem execPortFailure_canon {port} (h : s.Canon) : NextCanon (execPortFailure port s) := nextCanon_next h

theorem remotePerform_canon {home size op} (h : s.Canon) : (s.remotePerform home size op).Canon := by
  unfold State.remotePerform
  split
  · exact report_canon (correct_canon h)
  · exact report_canon (homeWrite_canon h)
  · exact report_canon (performRmw_canon h)

theorem execRemoteWindowAccess_canon {package part pa size op} (h : s.Canon) :
    NextCanon (execRemoteWindowAccess package part pa size op s) := by
  unfold execRemoteWindowAccess
  dsimp only
  split
  · exact nextCanon_next (report_canon h)
  · split
    · exact nextCanon_next (report_canon h)
    · split
      · exact nextCanon_next (report_canon (poisonPage_canon h))
      · exact nextCanon_next (remotePerform_canon h)

theorem thermalExit_canon {p} (h : s.Canon) : (s.thermalExit p).Canon := preempt_canon (notify_canon (modPart_canon h))

theorem execThermalStop_canon (h : s.Canon) : NextCanon (execThermalStop s) :=
  nextCanon_next (settleStop_canon (foldl_canon (fun _ _ hs => thermalExit_canon hs) h))

theorem retakeKicks_canon (h : s.Canon) : s.retakeKicks.Canon := foldl_canon (fun _ _ hs => takeKicks_canon hs) h

/-! #### Retired instructions (`Retired`) -/

theorem retire_canon {i st} (h : s.Canon) : NextCanon (s.retire i st) := nextCanon_next (deliverIssued_canon h)

theorem runV1_canon {i d a st op} (h : s.Canon) : (s.runV1 i d a st op).Canon := runLanes_canon localBody_canon h

theorem emulate_canon {word} (h : s.Canon) : (s.emulate word).Canon := by
  unfold State.emulate
  split
  · exact runLanes_canon loadBody_canon h
  · exact runLanes_canon storeBody_canon h
  · exact runV1_canon h
  · exact runV1_canon h
  · exact runV1_canon h
  · exact runV1_canon h
  · exact runV1_canon h
  · exact runV1_canon h
  · exact runV1_canon h
  · exact runV1_canon h
  · exact h

theorem execRetiredEmulation_canon {blk tid} (h : s.Canon) : NextCanon (execRetiredEmulation blk tid s) := by
  unfold execRetiredEmulation
  dsimp only
  split
  · split
    · exact nextCanon_next (emulate_canon (modThread_canon h))
    · exact nextCanon_next h
  · exact nextCanon_next h

/-! #### Scheduling (`Sched`) -/

theorem eachThread_canon {core} {f : State → TRef → Thread → State} (hf : ∀ s t th, s.Canon → (f s t th).Canon) (h : s.Canon) :
    (s.eachThread core f).Canon := by
  refine foldl_canon (fun s t hs => ?_) h
  split
  · split
    · exact hf _ _ _ hs
    · exact hs
  · exact hs

theorem settleRejoin_canon {blk k} (h : s.Canon) : (s.settleRejoin blk k).Canon := by
  unfold State.settleRejoin
  split
  · exact h
  · exact modStrand_canon (foldl_canon (fun _ _ hs => foldl_canon (fun _ _ hk => modThread_canon hk) hs) h)

theorem settleSerial_canon {blk k} (h : s.Canon) : (s.settleSerial blk k).Canon := by
  unfold State.settleSerial
  split
  · exact h
  · exact modStrand_canon h

theorem settleFile_canon {x} (h : s.Canon) : (s.settleFile x).Canon := settleSerial_canon (settleRejoin_canon h)

theorem settleReissue_canon {core t th} (h : s.Canon) : (State.settleReissue core s t th).Canon := by
  unfold State.settleReissue
  split
  · split
    · exact modThread_canon h
    · exact h
  · exact h
  · split
    · exact modThread_canon h
    · exact h
  · exact settleExit_canon h
  · split
    · exact reformThread_canon h
    · exact h
  · exact h

theorem settle_canon {core} (h : s.Canon) : (s.settle core).Canon :=
  eachThread_canon (fun _ _ _ hs => settleReissue_canon hs) (foldl_canon (fun _ _ hs => wakeGranules_canon hs) (eachThread_canon
    (fun _ _ _ hs => settleBarriers_canon hs) (eachThread_canon (fun _ _ _ hs => tryCollective_canon hs) (foldl_canon
      (fun _ _ hs => settleFile_canon hs) h))))

theorem ageStrand_canon {ready x} (h : s.Canon) : (State.ageStrand ready s x).Canon := modStrand_canon h

theorem opportunity_canon {core ready} (h : s.Canon) : (s.opportunity core ready).Canon :=
  eachThread_canon (fun _ _ _ hs => foldl_canon (fun _ _ hk => mustNow_canon hk) (modThread_canon hs)) (foldl_canon
    (fun _ _ hs => ageStrand_canon hs) h)

theorem noteIssued_canon (h : s.Canon) : s.noteIssued.Canon := by
  unfold State.noteIssued
  refine foldl_canon (fun _ _ hs => ?_) h
  split
  · exact modStrand_canon (modThread_canon hs)
  · exact hs

theorem ageBobbins_canon {core} (h : s.Canon) : (s.ageBobbins core).Canon := modCore_canon h

theorem addStrand_canon {st blk} (h : s.Canon) : (State.addStrand st s blk).Canon := modBlock_canon (fun _ hs => hs) h

theorem drawThread_canon {x} (h : s.Canon) : (s.drawThread x).Canon := modThread_canon h

theorem execBobbinDraw_canon {core bob} (h : s.Canon) : NextCanon (execBobbinDraw core bob s) := by
  unfold execBobbinDraw
  split
  · exact nextCanon_next h
  · split
    · exact nextCanon_next h
    · dsimp only
      split
      · exact nextCanon_next h
      · exact nextCanon_next (foldl_canon (fun _ _ hs => drawThread_canon hs) (foldl_canon (fun _ _ hs => addStrand_canon hs)
          (modCore_canon h)))

theorem countStalls_canon {core} (h : s.Canon) : (s.countStalls core).Canon := foldl_canon (fun _ _ hs => modThread_canon hs) h

theorem newCycle_canon {core} (h : s.Canon) : (s.newCycle core).Canon := foldl_canon (fun _ _ hs => mustNow_canon hs) (modCore_canon h)

theorem execWithheldCycle_canon {core} (h : s.Canon) : NextCanon (execWithheldCycle core s) := by
  unfold execWithheldCycle
  split
  · exact nextCanon_next h
  · exact nextCanon_next (countStalls_canon (newCycle_canon h))

theorem prefetchFrom_canon {core blk k l} (h : s.Canon) : (State.prefetchFrom core blk k l s).Canon := by
  induction l generalizing s with
  | nil => exact h
  | cons x r ih =>
    unfold State.prefetchFrom
    grind only [Fetched.Canon, fetchMem_canon, modStrand_canon]

theorem prefetch_canon {core x} (h : s.Canon) : (State.prefetch core s x).Canon := by
  unfold State.prefetch
  split
  · exact h
  · exact prefetchFrom_canon (modStrand_canon h)

theorem prefetchAll_canon {core} (h : s.Canon) : (s.prefetchAll core).Canon := foldl_canon (fun _ _ hs => prefetch_canon hs) h

theorem cycle_canon {core} (h : s.Canon) : (s.cycle core).Canon :=
  wantAll_canon (foldl_canon (fun _ _ hs => mustNow_canon hs) (modCore_canon (ageBobbins_canon (countStalls_canon
    (opportunity_canon (prefetchAll_canon (foldl_canon (fun _ _ hs => mustNow_canon hs) (newCycle_canon (settle_canon h)))))))))

theorem keepReady_canon {w} (h : s.Canon) : (s.keepReady w).Canon := h

theorem enterObject_canon (h : s.Canon) : s.enterObject.Canon := by
  unfold State.enterObject
  dsimp only
  split
  · exact h
  · refine foldl_canon (fun _ _ hs => ?_) h
    split
    · exact modStrand_canon hs
    · exact hs

theorem issueWord_canon {w} (h : s.Canon) : (s.issueWord w).Canon := enterObject_canon (noteIssued_canon (keepReady_canon h))

theorem fetchWaits_canon (h : s.Canon) : s.fetchWaits.Canon := foldl_canon (fun _ _ hs => waitFetch_canon hs) h

theorem execWalkMigReread_canon {blk tid} (h : s.Canon) : NextCanon (execWalkMigReread blk tid s) := by
  unfold execWalkMigReread
  split
  · split
    · exact nextCanon_next h
    · dsimp only
      split
      · next e => exact nextCanon_next ((walk_canon h).of_eq e)
      · next e => exact nextCanon_next (modThread_canon ((walk_canon h).of_eq e))
      · next e => exact nextCanon_next (modThread_canon ((walk_canon h).of_eq e))
  · exact nextCanon_next h

theorem execVariableResultArrive_canon {blk tid reg} (h : s.Canon) : NextCanon (execVariableResultArrive blk tid reg s) :=
  nextCanon_next (foldl_canon (fun _ _ hs => modThread_canon hs) h)

theorem execFixedLatencyResult_canon {blk tid reg} (h : s.Canon) : NextCanon (execFixedLatencyResult blk tid reg s) := by
  unfold execFixedLatencyResult
  split
  · exact nextCanon_next h
  · exact nextCanon_next (modThread_canon h)

theorem execStoreQueueDrain_canon {blk strand} (h : s.Canon) : NextCanon (execStoreQueueDrain blk strand s) :=
  nextCanon_next (drainOne_canon h)

theorem hang_canon {t sub word} (h : s.Canon) : (s.hang t sub word).Canon := by
  unfold State.hang
  split
  · exact deliver_canon (modThread_canon h)
  · exact h

theorem execHangTimeout_canon {blk tid} (h : s.Canon) : NextCanon (execHangTimeout blk tid s) := by
  unfold execHangTimeout
  split
  · split
    · exact nextCanon_next (hang_canon h)
    · exact nextCanon_next h
  · exact nextCanon_next h

theorem execStarvationTimeout_canon {blk tid} (h : s.Canon) : NextCanon (execStarvationTimeout blk tid s) := by
  unfold execStarvationTimeout
  split
  · split
    · exact nextCanon_next (hang_canon h)
    · exact nextCanon_next h
  · exact nextCanon_next h

theorem execYieldExpiry_canon {blk tid} (h : s.Canon) : NextCanon (execYieldExpiry blk tid s) := nextCanon_next (modThread_canon h)

/-! #### Traversal (`Traverse`) -/

theorem readNode_canon {t th ea n al} (h : s.Canon) : OnBoth Lane.Canon PairCanon (s.readNode t th ea n al) := by
  unfold State.readNode
  split
  · exact h
  · split
    · exact h
    · exact greadFrom_canon h

theorem withStack_canon {t th} {f : Nat × Nat → Lane} (hf : ∀ k, (f k).Canon) (h : s.Canon) : (withStack s t th f).Canon := by
  unfold withStack
  split
  · exact h
  · split_ifs
    · exact h
    · exact h
    · exact hf _

/-! #### A core's turn (`Turn`) -/

theorem poll_canon {core} (h : s.Canon) : (s.poll core).Canon := by
  unfold State.poll
  dsimp only
  split
  · exact foldl_canon (fun _ _ hs => wantAll_canon (takeKicks_canon hs)) (wantAll_canon (wantAll_canon (sweepCode_canon h)))
  · exact wantTiles_canon (foldl_canon (fun _ _ hs => wantAll_canon (takeKicks_canon hs)) (wantAll_canon (wantAll_canon
      (sweepCode_canon h))))

theorem moveOn_canon {core} (h : s.Canon) : (s.moveOn core).Canon := by
  unfold State.moveOn
  split <;> exact h

theorem coreCycle_canon {core} (h : s.Canon) : (s.coreCycle core).Canon := by
  unfold State.coreCycle
  dsimp only
  split
  · split
    · exact moveOn_canon (countStalls_canon (newCycle_canon h))
    · exact countStalls_canon (newCycle_canon h)
  · split
    · exact moveOn_canon (poll_canon (cycle_canon h))
    · exact poll_canon (cycle_canon h)

theorem learn_canon {t} (h : s.Canon) : (s.learn t).Canon := by
  unfold State.learn
  split
  · exact h
  · split
    · exact modThread_canon h
    · exact h

theorem begin_canon {core i rest} (h : s.Canon) : (s.begin core i rest).Canon := by
  unfold State.begin
  dsimp only
  split
  · exact moveOn_canon (modCore_canon (foldl_canon (fun _ _ hs => learn_canon hs) h))
  · exact modCore_canon (foldl_canon (fun _ _ hs => learn_canon hs) h)

/-! #### The bodies of the instructions (`Exec`) -/

theorem execJmp_canon {off st} (h : s.Canon) : NextCanon (execJmp off st s) :=
  run_canon (fun _ _ _ hs => modStrand_canon (modThread_canon hs)) h

theorem execCall_canon {off st} (h : s.Canon) : NextCanon (execCall off st s) :=
  run_canon (fun _ _ _ hs => transferOut_canon hs) h

theorem execJpush_canon {off st} (h : s.Canon) : NextCanon (execJpush off st s) := by
  refine run_canon (fun s t th hs => ?_) h
  grind only [Lane.Canon, modStrand_canon, modThread_canon]

theorem execRejoin_canon {st} (h : s.Canon) : NextCanon (execRejoin st s) := by
  refine run_canon (fun s t th hs => ?_) h
  grind only [Lane.Canon, modStrand_canon, modThread_canon, parkAt_canon]

theorem execBrkn_canon {n st} (h : s.Canon) : NextCanon (execBrkn n st s) :=
  run_canon (fun _ _ _ hs => modStrand_canon (modThread_canon hs)) h

theorem execExit_canon {st} (h : s.Canon) : NextCanon (execExit st s) := by
  refine run_canon (fun s t th hs => ?_) h
  split
  · exact parkAt_canon hs
  · exact sealGate_canon (fun _ hs => exitThread_canon hs) hs

theorem execReform_canon {st} (h : s.Canon) : NextCanon (execReform st s) := by
  refine run_canon (fun s t th hs => ?_) h
  split
  · exact parkAt_canon hs
  · exact reformThread_canon hs

theorem execTrap_canon {code st} (h : s.Canon) : NextCanon (execTrap code st s) :=
  run_canon (fun _ _ _ hs => modStrand_canon hs) h

theorem execBrk_canon {code st} (h : s.Canon) : NextCanon (execBrk code st s) :=
  run_canon (fun _ _ _ hs => hs) h

theorem execSvc_canon {code st} (h : s.Canon) : NextCanon (execSvc code st s) :=
  run_canon (fun _ _ _ hs => modStrand_canon hs) h

theorem execIsync_canon {st} (h : s.Canon) : NextCanon (execIsync st s) :=
  run_canon (fun _ _ _ hs => modStrand_canon hs) h

theorem execIcinv_canon {d a sync st} (h : s.Canon) : NextCanon (execIcinv d a sync st s) := by
  refine run_canon (fun s t th hs => ?_) h
  dsimp only
  generalize e : List.foldl _ _ _ = r
  have hr : PairCanon r := by
    rw [← e]
    refine foldl_keeps (P := PairCanon) (fun r p hr => ?_) _ hs
    split
    · exact hr
    · split
      · next e => exact (icinvPage_canon hr).of_eq e
      · exact hr
  obtain ⟨s, _ | p⟩ := r
  · dsimp only
    split
    · exact discardAll_canon hr
    · exact hr
  · exact waitWalk_canon hr

theorem execCycles_canon {d st} (h : s.Canon) : NextCanon (execCycles d st s) :=
  run_canon (fun _ _ _ hs => modThread_canon hs) h

theorem execLdt_canon {d a imm f st} (h : s.Canon) : NextCanon (execLdt d a imm f st s) := by
  refine run_canon (fun s t th hs => frame_canon (fun s ls hs => ?_) hs) h
  grind only [Lane.Canon, correct_canon, modThread_canon, foldl_canon]

theorem execStt_canon {d a imm f st} (h : s.Canon) : NextCanon (execStt d a imm f st s) := by
  refine run_canon (fun s t th hs => frame_canon (fun s ls hs => ?_) hs) h
  dsimp only
  split
  · exact modThread_canon hs
  · exact frame_canon (fun s ls hs => storeElems_canon (modThread_canon hs)) hs

theorem execStfe_canon {d a imm w st} (h : s.Canon) : NextCanon (execStfe d a imm w st s) :=
  run_canon (fun _ _ _ hs => ownAccess_canon (fun _ => storeAt_canon hs) hs) h

theorem execStl_canon {d a sc pair st} (h : s.Canon) : NextCanon (execStl d a sc pair st s) :=
  run_canon (fun _ _ _ hs => sealIf_canon (fun _ hs => storeBody_canon _ _ _ hs) hs) h

theorem execFenceTable_canon {sc st} (h : s.Canon) : NextCanon (execFenceTable sc st s) :=
  run_canon (fun _ _ _ hs => fenceBody_canon (fun _ hs => modThread_canon hs) _ _ _ hs) h

theorem execBararr_canon {d l imm st} (h : s.Canon) : NextCanon (execBararr d l imm st s) := by
  refine run_canon (fun s t th hs => ?_) h
  split
  · exact hs
  · exact modThread_canon (releaseSide_canon hs)

theorem execBarwait_canon {l imm st} (h : s.Canon) : NextCanon (execBarwait l imm st s) := by
  refine run_canon (fun s t th hs => ?_) h
  split
  · exact hs
  · split
    · exact hs
    · split
      · exact sealGate_canon (fun _ hs => modThread_canon hs) hs
      · exact barWait_canon hs

theorem execBar_canon {d l imm st} (h : s.Canon) : NextCanon (execBar d l imm st s) := by
  refine run_canon (fun s t th hs => ?_) h
  grind only [Lane.Canon, barWait_canon, releaseSide_canon, modThread_canon]

theorem execMsignBind_canon {d a st} (h : s.Canon) : NextCanon (execMsignBind d a st s) :=
  run_canon (fun _ _ _ hs => bind_canon hs) h

theorem execMsignRelease_canon {d st} (h : s.Canon) : NextCanon (execMsignRelease d st s) := by
  refine run_canon (fun s t th hs => ?_) h
  grind only [Lane.Canon, parkAt_canon, want_canon, unbind_canon]

theorem execMdrain_canon {d a b st} (h : s.Canon) : NextCanon (execMdrain d a b st s) := by
  refine run_canon (fun s t th hs => ?_) h
  grind only [Lane.Canon, sign_canon]

theorem execTex_canon {d a ply half st} (h : s.Canon) : NextCanon (execTex d a ply half st s) := by
  refine run_canon (fun s t th hs => orLane_canon (OnBoth.bind (texDescAt_canon hs) fun r hr => ?_)) h
  obtain ⟨s, desc⟩ := r
  cases desc with
  | none => exact gdone_canon hr
  | some td => exact OnBoth.bind (texChannels_canon hr) fun r hr => gdone_canon (texFree_canon hr)

theorem execTexf_canon {d a half st} (h : s.Canon) : NextCanon (execTexf d a half st s) := by
  refine run_canon (fun s t th hs => orLane_canon (OnBoth.bind (texDescAt_canon hs) fun r hr => ?_)) h
  obtain ⟨s, desc⟩ := r
  cases desc with
  | none => exact gdone_canon hr
  | some td =>
    dsimp only
    split
    · exact gdone_canon hr
    · exact OnBoth.bind (texel_canon hr) fun r hr => gdone_canon hr

theorem execLins_canon {d a st} (h : s.Canon) : NextCanon (execLins d a st s) := by
  refine run_canon (fun s t th hs => ?_) h
  have hd := drainStrand_canon (blk := t.blk) (k := th.strand) hs
  dsimp only
  split
  · exact want_canon (parkAt_canon (by exact hd))
  · exact orLane_canon (OnBoth.map (fun r hr => linsDone_canon hr) (insertOne_canon hd))

theorem execVemit_canon {d a st} (h : s.Canon) : NextCanon (execVemit d a st s) := by
  refine run_canon (fun s t th hs => ?_) h
  grind only [Lane.Canon, modDraw_canon]

theorem execPemit_canon {a st} (h : s.Canon) : NextCanon (execPemit a st s) := by
  refine run_canon (fun s t th hs => ?_) h
  split
  · exact hs
  · exact relieve_canon (releasePrims_canon (modDraw_canon hs))

theorem execMovts_canon {d n st} (h : s.Canon) : NextCanon (execMovts d n st s) := by
  refine run_canon (fun s t th hs => ?_) h
  dsimp only
  split
  · exact modBlock_canon (fun _ hk => hk) (modThread_canon hs)
  · exact modThread_canon hs

theorem execTrvbox_canon {d a st} (h : s.Canon) : NextCanon (execTrvbox d a st s) := by
  refine run_canon (fun s t th hs => ?_) h
  split
  · next e => exact (readNode_canon hs).of_eq e
  · next e => exact gdone_canon ((readNode_canon hs).of_eq e)

theorem execTrvtri_canon {d a st} (h : s.Canon) : NextCanon (execTrvtri d a st s) := by
  refine run_canon (fun s t th hs => ?_) h
  split
  · next e => exact (readNode_canon hs).of_eq e
  · next e => exact gdone_canon ((readNode_canon hs).of_eq e)

theorem execTrvomm_canon {d a st} (h : s.Canon) : NextCanon (execTrvomm d a st s) := by
  refine run_canon (fun s t th hs => orLane_canon (OnBoth.bind (readNode_canon hs) fun r hr => ?_)) h
  dsimp only
  split
  · exact gdone_canon hr
  · split
    · exact gdone_canon hr
    · split
      · exact gdone_canon hr
      · exact OnBoth.bind (gread_canon hr) fun r hr => gdone_canon hr

theorem execTrvpush_canon {a st} (h : s.Canon) : NextCanon (execTrvpush a st s) :=
  run_canon (fun _ _ _ hs => withStack_canon (fun _ => modThread_canon hs) hs) h

theorem execTrvpop_canon {d st} (h : s.Canon) : NextCanon (execTrvpop d st s) :=
  run_canon (fun _ _ _ hs => withStack_canon (fun _ => gdone_canon (modThread_canon hs)) hs) h

theorem execTrvstep_canon {d a st} (h : s.Canon) : NextCanon (execTrvstep d a st s) := by
  refine run_canon (fun s t th hs => ?_) h
  dsimp only
  split
  · exact modThread_canon hs
  · refine orLane_canon (OnBoth.bind (lookup_canon hs) fun r hr => OnBoth.bind (readNode_canon hr) fun r hr => ?_)
    split
    · exact modThread_canon hr
    · exact withStack_canon (fun _ => modThread_canon hr) hr

theorem execBcopy_canon {a st} (h : s.Canon) : NextCanon (execBcopy a st s) := by
  refine runOnce_canon (fun s ls t th hs => ?_) h
  exact issueOctet_canon hs

theorem execStream_canon {a st} (h : s.Canon) : NextCanon (execStream a st s) := by
  refine runOnce_canon (fun s ls t th hs => ?_) h
  exact issueOctet_canon hs

theorem execColl_canon {a st} (h : s.Canon) : NextCanon (execColl a st s) := by
  refine runOnce_canon (fun s ls t th hs => ?_) h
  have := fun oct n => issueOctet_canon (lanes := ls) (t := t) (oct := oct) (q := qColl) (op := .coll oct n) hs
  grind only [Once.Canon, modBlock_canon, Block.countColl]

theorem execLaunch_canon {d a st} (h : s.Canon) : NextCanon (execLaunch d a st s) := by
  refine runOnce_canon (fun s ls t th hs => ?_) h
  grind only [Once.Canon, holdStatus_canon, enterQueue_canon, OnSome]

theorem execMhist_canon {d a st} (h : s.Canon) : NextCanon (execMhist d a st s) := by
  refine runOnce_canon (fun s ls t th hs => ?_) h
  split
  · exact hs
  · exact issueMatrix_canon hs

theorem execMhclr_canon {d st} (h : s.Canon) : NextCanon (execMhclr d st s) := by
  refine runOnce_canon (fun s ls t th hs => ?_) h
  split
  · exact hs
  · exact issueMatrix_canon hs

theorem execMwait_canon {d st} (h : s.Canon) : NextCanon (execMwait d st s) := by
  refine runOnce_canon (fun s ls t th hs => ?_) h
  grind only [Once.Canon, issueMatrix_canon]

theorem execLclr_canon {a st} (h : s.Canon) : NextCanon (execLclr a st s) := by
  refine runOnce_canon (fun s ls t th hs => ?_) h
  grind only [Once.Canon, issueCmd_canon, OnSome]

theorem execDraw_canon {d a st} (h : s.Canon) : NextCanon (execDraw d a st s) := by
  refine runOnce_canon (fun s ls t th hs => ?_) h
  have := gread_canon (t := t) (th := th) (addr := drawRecordAt (th.vals a 8)) (n := 64) (al := 64) hs
  grind only [Once.Canon, holdStatus_canon, enterQueue_canon, OnSome, OnBoth, PairCanon, Lane.Canon]

theorem execZtest_canon {d a st} (h : s.Canon) : NextCanon (execZtest d a st s) := by
  refine run_canon (fragBody_canon fun s t th di dr fr hs => OnBoth.bind (readSamples_canon hs) fun r hr => ?_) h
  dsimp only
  split
  · exact OnBoth.bind (gwrite_canon hr) fun s hs => gdone_canon (noteDid_canon hs)
  · exact gdone_canon (noteDid_canon hr)

theorem execOmerge_canon {a st} (h : s.Canon) : NextCanon (execOmerge a st s) := by
  refine run_canon (fragBody_canon fun s t th di dr fr hs => ?_) h
  have hw : ∀ (ws : List (Nat × List Byte)) (s : State), s.Canon →
      OnBoth Lane.Canon Lane.Canon (do let s ← s.gwrite t ws; .ok (.next (s.noteDid t 2))) :=
    fun ws s hs => OnBoth.bind (gwrite_canon hs) fun s hs => noteDid_canon hs
  dsimp only
  split
  · exact noteDid_canon hs
  · split
    · exact OnBoth.bind (readSamples_canon hs) fun r hr => hw _ _ hr
    · exact hw _ _ hs

/-! #### Every instruction and event, and the step -/

theorem exec_canon (i : Instr) (h : s.Canon) : NextCanon (exec i s) := by
  cases i
  case iadd | isub | imul | imulh | imulhn | imad | and | or | xor | andn | shl | shr | sar | imin | imax | iminn | imaxn | iset |
      isetn | sel | bfx | bfi | add64 | sub64 | mul64 | madw | shfr | addi | andi | ori | xori | shli | shri | sari | isetlti |
      muli | addpi | lui | orlo | movi | winb | mov | not | ineg | iabs | popc | clz | ctz | brev | sext8 | sext16 | zext8 |
      zext16 | idiv | idivn | irem | iremn | cvt | yield | nop | fadd | fsub | fmul | ffma | fmin | fmax | fcmp | fcmpm | fdiv |
      fabs | fneg | ffloor | fceil | fround | ftrunc | ffrac | fsqrt | frcp | frsq | fexp2 | flog2 | fexp | flog | fsinpi | fcospi
      | ftanh | fsigm | fgelu | ferf | padd2 | pmul2 | pfma2 | pmax2 | pmin2 | plyget | plyset | plyzero | plylose | plytag |
      plyclrk | drev | dflip | spl | fil =>
    exact runLocal_canon h
  case movs => exact run_canon (fun _ _ _ hs => modThread_canon hs) h
  case movts => exact execMovts_canon h
  case voteany | voteall | ballot | active | matchLanes | first | shflIdx | shflUp | shflDown | shflXor | redmax | redmin | redsum
      | redvar | rediadd | redand | redor | redxor | qacq | qfill | qtake | qdone | qtry | qfence | qld =>
    exact collective_canon h
  case brz | brnz | brltz | brgez => exact run_canon branch_canon h
  case jmp => exact execJmp_canon h
  case call => exact execCall_canon h
  case calli | jmpi => exact run_canon indirect_canon h
  case jpush => exact execJpush_canon h
  case rejoin => exact execRejoin_canon h
  case brkn => exact execBrkn_canon h
  case exit => exact execExit_canon h
  case reform => exact execReform_canon h
  case trap => exact execTrap_canon h
  case brk => exact execBrk_canon h
  case svc => exact execSvc_canon h
  case eretRetry | eretSkip | eretSubst => exact run_canon eretForm_canon h
  case isync => exact execIsync_canon h
  case icinv => exact execIcinv_canon h
  case cycles => exact execCycles_canon h
  case launch => exact execLaunch_canon h
  case fsqrtx | frcpx | frsqx | fexp2x | flog2x | fsinpix | fcospix | ftanhx | ldwv | stwv => exact retire_canon h
  case ldb | ldbs | ldh | ldhs | ldw | lda => exact run_canon loadBody_canon h
  case stb | sth | stw => exact run_canon storeBody_canon h
  case ldt => exact execLdt_canon h
  case stt => exact execStt_canon h
  case ldfe | ldfec => exact run_canon feBody_canon h
  case stfe => exact execStfe_canon h
  case stl => exact execStl_canon h
  case fenceAcq | fenceRel | fenceAcqrel | fenceSc | fenceIfetch => exact run_canon (fenceBody_canon fun _ hs => hs) h
  case fenceTable => exact execFenceTable_canon h
  case atomc | atomq | atomd | atomp | atomx => exact run_canon atomBody_canon h
  case bararr => exact execBararr_canon h
  case barwait => exact execBarwait_canon h
  case bar => exact execBar_canon h
  case bcopy => exact execBcopy_canon h
  case stream => exact execStream_canon h
  case coll => exact execColl_canon h
  case msignBind => exact execMsignBind_canon h
  case msignRelease => exact execMsignRelease_canon h
  case mma | mzero | mloadc => exact run_canon (fun _ _ _ hs => sign_canon hs) h
  case mdrain => exact execMdrain_canon h
  case mhist => exact execMhist_canon h
  case mhclr => exact execMhclr_canon h
  case mwait => exact execMwait_canon h
  case tex => exact execTex_canon h
  case texf => exact execTexf_canon h
  case lins => exact execLins_canon h
  case lres | lcnt | lcomp => exact run_canon pixelBody_canon h
  case lclr => exact execLclr_canon h
  case ztest => exact execZtest_canon h
  case omerge => exact execOmerge_canon h
  case vemit => exact execVemit_canon h
  case pemit => exact execPemit_canon h
  case draw => exact execDraw_canon h
  case trvbox => exact execTrvbox_canon h
  case trvtri => exact execTrvtri_canon h
  case trvomm => exact execTrvomm_canon h
  case trvpush => exact execTrvpush_canon h
  case trvpop => exact execTrvpop_canon h
  case trvstep => exact execTrvstep_canon h
  case walkMigReread => exact execWalkMigReread_canon h
  case variableResultArrive => exact execVariableResultArrive_canon h
  case storeQueueDrain => exact execStoreQueueDrain_canon h
  case atomicRmwPerform => exact execAtomicRmwPerform_canon h
  case hangTimeout => exact execHangTimeout_canon h
  case starvationTimeout => exact execStarvationTimeout_canon h
  case yieldExpiry => exact execYieldExpiry_canon h
  case bobbinDraw => exact execBobbinDraw_canon h
  case deal => exact execDeal_canon h
  case blockEnd => exact execBlockEnd_canon h
  case blockSave => exact execBlockSave_canon h
  case blockRestore => exact execBlockRestore_canon h
  case migration => exact execMigration_canon h
  case shootdown => exact execShootdown_canon h
  case shootdownAck => exact execShootdownAck_canon h
  case dirtyLogDrain => exact execDirtyLogDrain_canon h
  case patrolScrub => exact execPatrolScrub_canon h
  case retentionEntry => exact execRetentionEntry_canon h
  case retentionExit => exact execRetentionExit_canon h
  case poisonClear => exact execPoisonClear_canon h
  case engineCommandStart => exact execEngineCommandStart_canon h
  case engineChunk => exact execEngineChunk_canon h
  case tokenDeposit => exact execTokenDeposit_canon h
  case streamElement => exact execStreamElement_canon h
  case collCombine => exact execCollCombine_canon h
  case collPeerTimeout => exact execCollPeerTimeout_canon h
  case launchQueueAdvance => exact execLaunchQueueAdvance_canon h
  case drawQueueAdvance => exact execDrawQueueAdvance_canon h
  case queueRefill => exact execQueueRefill_canon h
  case queueQuotaRestore => exact execQueueQuotaRestore_canon h
  case replayNodeReady => exact execReplayNodeReady_canon h
  case replayNodeComplete => exact execReplayNodeComplete_canon h
  case completionRecord => exact execCompletionRecord_canon h
  case mmaArray => exact execMmaArray_canon h
  case mdrainArray => exact execMdrainArray_canon h
  case mzeroExec => exact execMzeroExec_canon h
  case mloadcExec => exact execMloadcExec_canon h
  case mhistExec => exact execMhistExec_canon h
  case mhclrExec => exact execMhclrExec_canon h
  case mwaitDeposit => exact execMwaitDeposit_canon h
  case mcJoinTimeout => exact execMcJoinTimeout_canon h
  case msignReleaseComplete => exact execMsignReleaseComplete_canon h
  case rasteriseTile => exact execRasteriseTile_canon h
  case layerInsert => exact execLayerInsert_canon h
  case layerPoolGrow => exact execLayerPoolGrow_canon h
  case lclrExec => exact execLclrExec_canon h
  case serviceCallPerform => exact execServiceCallPerform_canon h
  case retiredEmulation => exact execRetiredEmulation_canon h
  case preemptRequest => exact execPreemptRequest_canon h
  case drawGraceExpiry => exact execDrawGraceExpiry_canon h
  case kick => exact execKick_canon h
  case resume => exact execResume_canon h
  case hostackContinue => exact execHostackContinue_canon h
  case hostackPoolgrow => exact execHostackPoolgrow_canon h
  case hostackPoolmerge => exact execHostackPoolmerge_canon h
  case controlWindowWrite => exact execControlWindowWrite_canon h
  case graphUpload => exact execGraphUpload_canon h
  case codeObjectLoad => exact execCodeObjectLoad_canon h
  case codeObjectUnload => exact execCodeObjectUnload_canon h
  case targetCreate => exact execTargetCreate_canon h
  case keyRegister => exact execKeyRegister_canon h
  case hostRepairRequest => exact execHostRepairRequest_canon h
  case firmwareImage => exact execFirmwareImage_canon h
  case powerUp => exact execPowerUp_canon h
  case ownershipClaim => exact execOwnershipClaim_canon h
  case ownershipHandover => exact execOwnershipHandover_canon h
  case handoverAccept => exact execHandoverAccept_canon h
  case linkLoss => exact execLinkLoss_canon h
  case portFailure => exact execPortFailure_canon h
  case remoteWindowAccess => exact execRemoteWindowAccess_canon h
  case thermalStop => exact execThermalStop_canon h
  case fixedLatencyResult => exact execFixedLatencyResult_canon h
  case withheldCycle => exact execWithheldCycle_canon h
  case wordNotInstruction => exact execWordNotInstruction_canon h
  case instructionFetchFault => exact execInstructionFetchFault_canon h
  -- what is left is the event SEAL, whose constructor's name is a keyword
  next => exact execSeal_canon h

theorem runEvent_canon (e : Event) (h : s.Canon) : NextCanon (runEvent e s) := by
  cases e <;> simp [exec_canon _ h]

theorem runWord_canon {w : Word} (h : s.Canon) : NextCanon (runWord w s) := by
  unfold runWord
  split
  · exact exec_canon _ (issueWord_canon h)
  · exact execWordNotInstruction_canon (noteIssued_canon (keepReady_canon h))

theorem runIssue_canon (h : s.Canon) : NextCanon (runIssue s) := by
  have hf := fetch_canon h
  unfold runIssue
  split
  · next e => exact runWord_canon (hf.of_eq e)
  · next e => exact execInstructionFetchFault_canon (noteIssued_canon (hf.of_eq e))
  · next e => exact nextCanon_next (fetchWaits_canon (hf.of_eq e))

theorem stepCore_canon {core : Nat} (h : s.Canon) : NextCanon (stepCore core s) := by
  unfold stepCore
  split
  · exact runIssue_canon (begin_canon h)
  · exact nextCanon_next (coreCycle_canon h)

theorem stepQuiet_canon (h : s.Canon) : NextCanon (stepQuiet s) := by
  have hq : State.Canon (if s.quiet then s else { s with quiet := true, batch := s.work.length }) := by
    split <;> exact h
  unfold stepQuiet
  dsimp only
  split
  · exact runEvent_canon _ hq
  · exact stepCore_canon hq

theorem stepEvent_canon {src : Option Nat} {i : Instr} {r : List Turn} (h : s.Canon) : NextCanon (stepEvent src i r s) := by
  unfold stepEvent
  split
  · exact stepQuiet_canon (retakeKicks_canon h)
  · split
    · exact nextCanon_next h
    · exact exec_canon _ h

theorem step_canon (h : s.Canon) : NextCanon (step s) := by
  unfold step
  split
  · exact execPowerUp_canon h
  · intro _ e; cases e
  · split
    · exact runEvent_canon _ h
    · split
      · exact stepEvent_canon h
      · exact stepEvent_canon h
      · exact stepCore_canon h
      · exact stepQuiet_canon h

/-- Settles O60: every operation of the model keeps a canonical state canonical, so every step does. -/
theorem memoryStaysCanonical : Obligations.MemoryStaysCanonical :=
  fun _ s' h e => step_canon h s' e

end

end Sys2Proof.Machine
end

section
namespace Sys2Proof.Machine

/-! ### Reset -/

theorem reset_shapeOk : State.reset.shapeOk = true := by decide

/-- Settles O59: every partition and every core after reset is the one that reset leaves. -/
theorem reset : Obligations.Reset := by
  unfold Obligations.Reset
  refine ⟨reset_memOk, reset_shapeOk, fun p hp => ?_, fun c hc => ?_, rfl⟩
  · have h : p = Part.reset := List.eq_of_mem_replicate hp
    subst h
    exact ⟨rfl, rfl, rfl, rfl, rfl, rfl, rfl, rfl, rfl, rfl, rfl, rfl, rfl⟩
  · have h : c = Core.reset := List.eq_of_mem_replicate hc
    subst h
    exact ⟨rfl, rfl⟩

end Sys2Proof.Machine
end

section
namespace Sys2Proof.Machine

/-! ### Sorted lists, erased memory and partitions: what an update makes of them -/

theorem mem_insertUp {x y : Nat} {l : List Nat} : x ∈ insertUp y l ↔ x = y ∨ x ∈ l := by
  induction l with
  | nil => simp [insertUp]
  | cons z r ih =>
    unfold insertUp
    split
    · next h => simp [h]
    · split
      · simp
      · simp only [List.mem_cons, ih]; tauto

/-- A list in canonical form keeps, of what it reads, exactly the cells that a filter of addresses keeps. -/
theorem Mem.get_filter {lo : Option Nat} {m : List Host.Cell} (h : Mem.wfFrom lo m = true) (f : Nat → Bool) (a : Nat) :
    Mem.get (m.filter fun c => f c.1) a = if f a = true then Mem.get m a else Mem.blank := by
  induction m generalizing lo with
  | nil => simp [Mem.get]
  | cons c r ih =>
    obtain ⟨k, v⟩ := c
    obtain ⟨-, -, hr⟩ := Mem.wfFrom_cons.mp h
    rcases lt_trichotomy a k with hak | rfl | hka
    · have hr' : Mem.get (r.filter fun c => f c.1) a = Mem.blank := Mem.get_below (Mem.wfFrom_filter _ hr) hak.le
      have hm : Mem.get ((k, v) :: r) a = Mem.blank := by rw [Mem.get_cons, if_neg hak.ne', if_pos hak]
      rw [hm, ite_self, List.filter_cons]
      split
      · rw [Mem.get_cons, if_neg hak.ne', if_pos hak]
      · exact hr'
    · rw [Mem.get_cons a v r a, if_pos rfl, List.filter_cons]
      by_cases hf : f a = true
      · rw [if_pos hf, if_pos hf, Mem.get_cons, if_pos rfl]
      · rw [if_neg hf, if_neg hf, Mem.get_below (Mem.wfFrom_filter _ hr) le_rfl]
    · rw [Mem.get_cons, if_neg hka.ne, if_neg hka.not_gt, ← ih hr, List.filter_cons]
      split
      · rw [Mem.get_cons, if_neg hka.ne, if_neg hka.not_gt]
      · rfl

/-- What a read gives after a span was made blank. -/
theorem Mem.get_erase {m : List Host.Cell} (h : Mem.wf m = true) (a n c : Nat) :
    Mem.get (Mem.erase m a n) c = if a ≤ c ∧ c < a + n then 0 else Mem.get m c := by
  have key := Mem.get_filter h (fun k => decide (k < a) || decide (a + n ≤ k)) c
  rw [Mem.erase, key]
  by_cases hc : a ≤ c ∧ c < a + n
  · rw [if_pos hc, if_neg (by simpa using hc)]; rfl
  · rw [if_neg hc, if_pos (by simp only [Bool.or_eq_true, decide_eq_true_eq]; omega)]

/-! ### What a save asked for, and the end of an exit, leave of the machine -/

/-- Two states that differ at most in what is due and in which blocks are to be saved. -/
structure SavesAsked (s s' : State) : Prop where
  mem : s'.mem = s.mem
  poison : s'.poison = s.poison
  svc : s'.svc = s.svc
  parts : s'.parts = s.parts
  cores : s'.cores = s.cores
  power : s'.power = s.power
  coreOf : s'.coreOf = s.coreOf

theorem SavesAsked.refl (s : State) : SavesAsked s s := ⟨rfl, rfl, rfl, rfl, rfl, rfl, rfl⟩

theorem SavesAsked.trans {a b c : State} (h : SavesAsked a b) (k : SavesAsked b c) : SavesAsked a c :=
  ⟨k.1.trans h.1, k.2.trans h.2, k.3.trans h.3, k.4.trans h.4, k.5.trans h.5, k.6.trans h.6, k.7.trans h.7⟩

/-- A change of a block that keeps its place moves no block to or from a core. -/
theorem coreOf_modBlock (s : State) (b : Nat) {f : Block → Block} (hf : ∀ k, (f k).place = k.place) :
    (s.modBlock b f).coreOf = s.coreOf := by
  funext k
  simp only [State.coreOf, State.modBlock, List.getElem?_modify]
  cases s.blocks[k]? with
  | none => rfl
  | some x => by_cases hk : b = k <;> simp [hk, hf]

theorem savesAsked_requestSave (s : State) (blk : Nat) (why : SaveWhy) : SavesAsked s (s.requestSave blk why) := by
  refine foldl_keeps (P := SavesAsked s) (fun t k h => h.trans ?_) _ (.refl s)
  split
  · exact .refl t
  · split
    · exact ⟨rfl, rfl, rfl, rfl, rfl, rfl, coreOf_modBlock t k fun _ => rfl⟩
    · exact .refl t

/-- Two states with the same memory, poison bitmap and slices in retention. -/
structure SameStore (s s' : State) : Prop where
  mem : s'.mem = s.mem
  poison : s'.poison = s.poison
  retention : s'.svc.retention = s.svc.retention

theorem SameStore.refl (s : State) : SameStore s s := ⟨rfl, rfl, rfl⟩

theorem SameStore.trans {a b c : State} (h : SameStore a b) (k : SameStore b c) : SameStore a c :=
  ⟨k.1.trans h.1, k.2.trans h.2, k.3.trans h.3⟩

theorem SavesAsked.sameStore {s s' : State} (h : SavesAsked s s') : SameStore s s' :=
  ⟨h.mem, h.poison, congrArg Service.retention h.svc⟩

theorem sameStore_modPart (s : State) (p : Nat) (f : Part → Part) : SameStore s (s.modPart p f) := ⟨rfl, rfl, rfl⟩

theorem sameStore_notify (s : State) (p duty : Nat) (args : List Nat) (w : Option HostEvent) :
    SameStore s (s.notify p duty args w) := ⟨rfl, rfl, rfl⟩

theorem sameStore_roomForAppend (s : State) (p : Nat) : SameStore s (s.roomForAppend p) := by
  unfold State.roomForAppend
  dsimp only
  split
  · exact sameStore_modPart ..
  · exact .refl s

theorem sameStore_wantAll (s : State) (l : List Event) : SameStore s (s.wantAll l) :=
  ⟨wantAll_mem s l, wantAll_poison s l, congrArg Service.retention (wantAll_svc s l)⟩

theorem sameStore_exitPart (s : State) (p reason : Nat) : SameStore s (s.exitPart p reason) := by
  unfold State.exitPart
  split
  · exact .refl s
  · refine SameStore.trans ?_ (sameStore_notify ..)
    exact foldl_keeps (P := SameStore s) (fun t k h => h.trans (savesAsked_requestSave t k _).sameStore) _ (sameStore_modPart ..)

theorem sameStore_resume (s : State) (p : Nat) : SameStore s (s.resume p) := by
  unfold State.resume
  split
  · exact .refl s
  · split
    · exact sameStore_modPart ..
    · have h := (sameStore_modPart s p fun p => { p with exited := false, resumeOn := false }).trans (sameStore_roomForAppend _ p)
      dsimp only
      split
      · exact h.trans (sameStore_exitPart ..)
      · exact h.trans (sameStore_wantAll ..)

theorem sameStore_resumeWaiting (s : State) : SameStore s s.resumeWaiting := by
  refine foldl_keeps (P := SameStore s) (fun t p h => h.trans ?_) _ (.refl s)
  split
  · exact sameStore_resume t p
  · exact .refl t

/-! ### Poison (R370), the patrol scrub (R70) -/

/-- The correction of single-bit errors of near memory leaves the memory as it stands (R68). -/
@[simp] theorem correct_phys_mem (s : State) (pa n : Nat) : (s.correct (.phys pa) n).mem = s.mem := rfl
@[simp] theorem correct_phys_poison (s : State) (pa n : Nat) : (s.correct (.phys pa) n).poison = s.poison := rfl

theorem mem_poisonPage {s : State} {page p : Nat} : p ∈ (s.poisonPage page).poison ↔ p = page ∨ p ∈ s.poison := mem_insertUp

/-- POISON_CLEAR of a free page (R370). -/
theorem execPoisonClear_free {s : State} {part page : Nat} (hm : s.memOk = true) (hp : page / 2 ^ 34 = s.pkg.toNat)
    (hf : s.isFree part (page % 2 ^ 34) = true) : ∃ s', execPoisonClear part page s = .next s' ∧
      (∀ a, Mem.get s'.mem a = if a / 4096 = page then 0 else Mem.get s.mem a) ∧
      (∀ p, p ∈ s'.poison ↔ p ∈ s.poison ∧ p ≠ page) ∧ s'.blocks = s.blocks ∧ s'.cores = s.cores ∧ s'.parts = s.parts := by
  rw [execPoisonClear, if_pos (by simp only [Bool.and_eq_true, decide_eq_true_eq]; exact ⟨hp, hf⟩)]
  refine ⟨_, rfl, fun a => ?_, fun p => by simp, rfl, rfl, rfl⟩
  have hin : (page * 4096 ≤ a ∧ a < page * 4096 + 4096) ↔ a / 4096 = page := by omega
  simp only [Mem.get_erase (State.Canon.wf_mem hm), hin]

/-- POISON_CLEAR of any other page (R370). -/
theorem execPoisonClear_other {s : State} {part page : Nat}
    (h : ¬ (page / 2 ^ 34 = s.pkg.toNat ∧ s.isFree part (page % 2 ^ 34) = true)) : execPoisonClear part page s = .next s := by
  rw [execPoisonClear, if_neg (by simpa only [Bool.and_eq_true, decide_eq_true_eq] using h)]

/-- PATROL_SCRUB of a row of an active slice corrects its single-bit errors, and poisons its page where one is uncorrectable (R70). -/
theorem execPatrolScrub_active {s : State} {slice row : Nat} (hs : slice < 128) (hr : row < 2 ^ 21)
    (ha : s.svc.retention.contains slice = false) : execPatrolScrub slice row s =
      .next (if s.homeBad (.phys (s.rowPa slice row)) 16 = true
        then (s.correct (.phys (s.rowPa slice row)) 16).poisonPage (s.rowPa slice row / 4096)
        else s.correct (.phys (s.rowPa slice row)) 16) := by
  have hbad : (s.correct (.phys (s.rowPa slice row)) 16).homeBad (.phys (s.rowPa slice row)) 16 =
    s.homeBad (.phys (s.rowPa slice row)) 16 := rfl
  rw [execPatrolScrub, if_neg (by simp only [ha, Bool.or_eq_true, decide_eq_true_eq, Bool.false_eq_true, or_false]; omega)]
  dsimp only
  rw [hbad]
  split <;> rfl

/-! ### Retention (R71) -/

theorem mayRetain_iff {s : State} {slice : Nat} : s.mayRetain slice = true ↔
    ∀ (i : Nat) (p : Part), s.parts[i]? = some p → slice ∈ p.slices → p.exited = true ∧ s.residentOf i = [] := by
  simp only [State.mayRetain, List.all_eq_true, Prod.forall, List.mem_zipIdx_iff_getElem?, Bool.or_eq_true, Bool.not_eq_true',
    Bool.and_eq_true, List.isEmpty_iff, List.contains_eq_mem, decide_eq_false_iff_not]
  exact ⟨fun h i p hp hs => (h p i hp).resolve_left (not_not_intro hs),
    fun h p i hp => or_iff_not_imp_left.mpr fun hs => h i p hp (not_not.mp hs)⟩

theorem execRetentionEntry_eq (s : State) (slice : Nat) : execRetentionEntry slice s =
    .next (if slice < 128 ∧ s.mayRetain slice = true
      then { s with svc := { s.svc with retention := insertUp slice s.svc.retention } } else s) := by
  rw [execRetentionEntry]
  simp only [Bool.and_eq_true, decide_eq_true_eq]
  split <;> rfl

/-- The rows that a retention exit found with a triple error poison their pages and change nothing else. -/
theorem foldl_poisonPage (slice : Nat) (rows : List Nat) (s : State) :
    let s' := rows.foldl (fun s r => s.poisonPage (s.rowPa slice r / 4096)) s
    s'.mem = s.mem ∧ s'.svc = s.svc ∧ ∀ p, p ∈ s'.poison ↔ p ∈ s.poison ∨ ∃ r ∈ rows, p = s.rowPa slice r / 4096 := by
  induction rows generalizing s with
  | nil => simp
  | cons r rows ih =>
    obtain ⟨hm, hs, hp⟩ := ih (s.poisonPage (s.rowPa slice r / 4096))
    refine ⟨hm, hs, fun p => (hp p).trans ?_⟩
    have hrow : ∀ r', (s.poisonPage (s.rowPa slice r / 4096)).rowPa slice r' = s.rowPa slice r' := fun _ => rfl
    simp only [mem_poisonPage, hrow, List.mem_cons, exists_eq_or_imp]
    tauto

theorem execRetentionExit_held {s : State} {slice : Nat} (rows : List Nat) (h : slice ∈ s.svc.retention) (hn : s.svc.retention.Nodup) :
    ∃ s', execRetentionExit slice rows s = .next s' ∧ s'.mem = s.mem ∧
      (∀ k, k ∈ s'.svc.retention ↔ k ∈ s.svc.retention ∧ k ≠ slice) ∧
      ∀ p, p ∈ s'.poison ↔ p ∈ s.poison ∨ ∃ r ∈ rows, r < 2 ^ 21 ∧ p = s.rowPa slice r / 4096 := by
  rw [execRetentionExit, if_pos (by simpa using h)]
  obtain ⟨hm, hs, hp⟩ := foldl_poisonPage slice (rows.filter fun r => r < 2 ^ 21)
    { s with svc := { s.svc with retention := s.svc.retention.erase slice } }
  have hw := sameStore_resumeWaiting ((rows.filter fun r => r < 2 ^ 21).foldl (fun s r => s.poisonPage (s.rowPa slice r / 4096))
    { s with svc := { s.svc with retention := s.svc.retention.erase slice } })
  refine ⟨_, rfl, hw.mem.trans hm, fun k => ?_, fun p => ?_⟩
  · rw [hw.retention, hs, hn.mem_erase_iff, and_comm]
  · rw [hw.poison, hp]
    simp only [List.mem_filter, decide_eq_true_eq, and_assoc]
    rfl

/-! ### Accesses from other packages (R43, R67) -/

/-- The form that an access of another package must have: a size, the one of its type, aligned, in one page. -/
def RemoteOp.Fits (pa size : Nat) (op : RemoteOp) : Prop :=
  0 < size ∧ RemoteOp.sizeBad size op = false ∧ pa % size = 0 ∧ pa % 4096 + size ≤ 4096

theorem remote_refused_iff {s : State} {package part pa size : Nat} {op : RemoteOp} :
    (size = 0 || RemoteOp.sizeBad size op || pa % size ≠ 0 || 4096 < pa % 4096 + size || !s.exported package part (pa / 4096)) = true ↔
      ¬ RemoteOp.Fits pa size op ∨ s.exported package part (pa / 4096) = false := by
  have h0 : size = 0 ↔ ¬ 0 < size := by omega
  have hp : 4096 < pa % 4096 + size ↔ ¬ pa % 4096 + size ≤ 4096 := by omega
  simp only [RemoteOp.Fits, Bool.or_eq_true, decide_eq_true_eq, Bool.not_eq_true', h0, hp, ← Bool.not_eq_true]
  tauto

theorem execRemoteWindowAccess_refused {s : State} {package part pa size : Nat} {op : RemoteOp}
    (h : ¬ RemoteOp.Fits pa size op ∨ s.exported package part (pa / 4096) = false) :
    execRemoteWindowAccess package part pa size op s = .next (s.report none [0x07]) := by
  rw [execRemoteWindowAccess, if_pos (remote_refused_iff.mpr h)]

section
variable {s : State} {package part pa size : Nat} {op : RemoteOp}

/-- An access that is not refused is answered by the poison of its page and the errors of its home. -/
theorem execRemoteWindowAccess_exported (hf : RemoteOp.Fits pa size op) (he : s.exported package part (pa / 4096) = true) :
    execRemoteWindowAccess package part pa size op s =
      if s.podPage (pa / 4096) ∈ s.poison then .next (s.report none [0x01])
      else if RemoteOp.reads op = true ∧ s.homeBad (.phys (s.podPa pa)) size = true
        then .next ((s.poisonPage (s.podPage (pa / 4096))).report none [0x01])
      else .next (s.remotePerform (.phys (s.podPa pa)) size op) := by
  have hn : ¬ (¬ RemoteOp.Fits pa size op ∨ s.exported package part (pa / 4096) = false) := by simp [hf, he]
  rw [execRemoteWindowAccess, if_neg (mt remote_refused_iff.mp hn)]
  simp only [State.clean, Bool.not_not, List.contains_eq_mem, decide_eq_true_eq, Bool.and_eq_true]

/-- An access of a clean page whose home it can read, or that reads nothing, is performed. -/
theorem execRemoteWindowAccess_performed (hf : RemoteOp.Fits pa size op) (he : s.exported package part (pa / 4096) = true)
    (hp : s.podPage (pa / 4096) ∉ s.poison) (hb : RemoteOp.reads op = false ∨ s.homeBad (.phys (s.podPa pa)) size = false) :
    execRemoteWindowAccess package part pa size op s = .next (s.remotePerform (.phys (s.podPa pa)) size op) := by
  rw [execRemoteWindowAccess_exported hf he, if_neg hp, if_neg (by rcases hb with h | h <;> simp [h])]

end

/-- A store of another package writes its bytes and no other byte. -/
theorem remotePerform_store {s : State} (hm : s.memOk = true) (home : Nat) (b : List Byte) :
    let s' := s.remotePerform (.phys home) b.length (.store b)
    s'.svc.results = s.svc.results ++ [(none, [0])] ∧ s'.blocks = s.blocks ∧ s'.cores = s.cores ∧ s'.parts = s.parts ∧
      ∀ a, Mem.get s'.mem a = if home ≤ a ∧ a < home + b.length then b.getD (a - home) 0 else Mem.get s.mem a := by
  refine ⟨rfl, rfl, rfl, rfl, fun a => ?_⟩
  have hmem : (s.remotePerform (.phys home) b.length (.store b)).mem = Mem.putN s.mem home (b.take b.length) := rfl
  rw [hmem, List.take_length, Mem.get_putN (State.Canon.wf_mem hm)]

/-- Settles O48: each event by what its own step does. -/
theorem pageEvents : Obligations.PageEvents := by
  unfold Obligations.PageEvents
  refine ⟨fun s part page hm => ⟨fun ⟨hp, hf⟩ => execPoisonClear_free hm hp hf, execPoisonClear_other⟩,
    fun s slice row hs hr ha => ?_, fun s slice => ⟨fun hs hi => ?_, fun ⟨i, p, hp, hsl, hx⟩ => ?_, fun rows => execRetentionExit_held rows⟩,
    fun s package part pa size op hm => ⟨execRemoteWindowAccess_refused, fun hf he => ⟨fun hp => ?_, fun hp => ?_⟩⟩⟩
  case refine_1 =>
    exact ⟨fun hb => ⟨_, (execPatrolScrub_active hs hr ha).trans (congrArg _ (if_pos hb)), rfl, fun p => mem_poisonPage⟩,
      fun hb => (execPatrolScrub_active hs hr ha).trans (congrArg _ (if_neg (by rw [State.rowPa, hb]; decide)))⟩
  case refine_2 =>
    exact ⟨_, (execRetentionEntry_eq s slice).trans (congrArg _ (if_pos ⟨hs, mayRetain_iff.mpr hi⟩)), rfl, fun k => mem_insertUp⟩
  case refine_3 =>
    refine (execRetentionEntry_eq s slice).trans (congrArg _ (if_neg fun h => ?_))
    have := (mayRetain_iff.mp h.2 i p hp hsl).1
    simp [hx] at this
  case refine_4 => exact (execRemoteWindowAccess_exported hf he).trans (if_pos hp)
  case refine_5 =>
    refine ⟨fun ho hb => ?_, fun b ho hl => ?_, fun o ty x c ho hb => ?_⟩
    · subst ho
      exact execRemoteWindowAccess_performed hf he hp (.inr hb)
    · subst ho hl
      exact ⟨_, execRemoteWindowAccess_performed hf he hp (.inl rfl), remotePerform_store hm _ b⟩
    · subst ho
      exact execRemoteWindowAccess_performed hf he hp (.inr hb)

end Sys2Proof.Machine
end

section
namespace Sys2Proof.Machine

/-! ### Partitions and what is asked for, after an update -/

theorem modPart_part_same {s : State} {p : Nat} (hp : p < s.parts.length) (f : Part → Part) : (s.modPart p f).part p = f (s.part p) := by
  simp [State.part, List.getElem?_eq_getElem hp]

/-- What a change of a partition preserves, it preserves of every partition. -/
theorem modPart_part_mono {P : Part → Prop} (s : State) (p q : Nat) {f : Part → Part} (hf : ∀ x, P x → P (f x)) (h : P (s.part q)) :
    P ((s.modPart p f).part q) := by
  simp only [State.part, State.modPart, List.getElem?_modify] at h ⊢
  cases hq : s.parts[q]? with
  | none => simpa [hq] using h
  | some x =>
    rw [hq] at h
    by_cases hpq : p = q
    · simpa [hpq] using hf x h
    · simpa [hpq] using h

/-- What a change of a partition keeps of every partition. -/
theorem modPart_part_keeps {α : Type} (s : State) (p q : Nat) {f : Part → Part} (g : Part → α) (hf : ∀ x, g (f x) = g x) :
    g ((s.modPart p f).part q) = g (s.part q) :=
  modPart_part_mono (P := fun x => g x = g (s.part q)) s p q (fun x h => (hf x).trans h) rfl

@[simp] theorem modPart_parts_length (s : State) (p : Nat) (f : Part → Part) : (s.modPart p f).parts.length = s.parts.length := by
  simp [State.modPart]

/-- The first of several events that are asked for is among those asked for. -/
theorem wantAll_head_asked (s : State) (e : Event) (l : List Event) : e ∈ (s.wantAll (e :: l)).work :=
  foldl_keeps (P := fun t : State => e ∈ t.work) (fun t _ h => want_keeps t h) l (want_asked s e)

/-! ### The control window (R373) and the end of an exit (R71, R85) -/

theorem execControlWindowWrite_disabled {s : State} (h : s.svc.enabled = false) (p o : Nat) (v : Addr) :
    execControlWindowWrite p o v s = .next s := by simp [execControlWindowWrite, h]

theorem writePrectl_grace {s : State} {v : Addr} (h : v.getLsbD 31 = false) (p : Nat) :
    s.writePrectl p v = s.modPart p fun q => { q with grace := v.extractLsb' 0 12 } := by
  simp only [State.writePrectl, h, Bool.false_and, Bool.false_eq_true, if_false]

theorem writeHostack_continue {s : State} {v : Addr} (h : v.extractLsb' 0 8 = 1) (p : Nat) :
    s.writeHostack p v = s.ackContinue p (v.extractLsb' 32 32).toNat := by simp [State.writeHostack, h]

/-- With the functions enabled a write sets what its offset names (R373, R33, R82, R155, R163). -/
theorem execControlWindowWrite_enabled {s : State} (h : s.svc.enabled = true) (p : Nat) (v : Addr) :
    execControlWindowWrite p 0x00 v s = .next (s.modPart p fun q => { q with root := v.extractLsb' 12 34, tbEn := v.getLsbD 0 }) ∧
    execControlWindowWrite p 0x08 v s = .next (s.modPart p fun q => { q with dlBase := v.extractLsb' 15 31, dlEn := v.getLsbD 0 }) ∧
    execControlWindowWrite p 0x10 v s = .next (s.modPart p fun q => { q with dlTail := v.extractLsb' 32 13 }) ∧
    execControlWindowWrite p 0x18 v s = .next (s.modPart p fun q => { q with quota := v.extractLsb' 0 16 }) ∧
    execControlWindowWrite p 0x20 v s = .next (s.modPart p fun q => { q with duty := v.extractLsb' 0 6 }) ∧
    execControlWindowWrite p 0x28 v s = .next (s.writePrectl p v) ∧
    execControlWindowWrite p 0x30 v s = .next (if v.getLsbD 0 then s.resume p else s) ∧
    execControlWindowWrite p 0x38 v s = .next (s.writeHostack p v) := by
  simp only [execControlWindowWrite, h, Bool.not_true, Bool.false_eq_true, if_false, and_self]

theorem execControlWindowWrite_beyond (s : State) (p : Nat) {o : Nat} (ho : 0x38 < o) (v : Addr) :
    execControlWindowWrite p o v s = .next s := by
  unfold execControlWindowWrite
  split
  · rfl
  · split
    case h_9 => rfl
    all_goals omega

/-- The exit of a partition has ended, and its ring has got the room that there is: what `State.resume` makes of it first. -/
def State.exitEnded (s : State) (p : Nat) : State :=
  (s.modPart p fun q => { q with exited := false, resumeOn := false }).roomForAppend p

section
variable {s : State} {p : Nat}

theorem resume_running (h : (s.part p).exited = false) : s.resume p = s := by simp [State.resume, h]

theorem resume_held (hx : (s.part p).exited = true) (hh : s.slicesHeld p = true) :
    s.resume p = s.modPart p fun q => { q with resumeOn := true } := by simp [State.resume, hx, hh]

theorem resume_free (hx : (s.part p).exited = true) (hh : s.slicesHeld p = false) :
    s.resume p = if (((s.exitEnded p).part p).dlEn && ((s.exitEnded p).part p).ringFull) = true then (s.exitEnded p).exitPart p 1
      else (s.exitEnded p).wantAll (.deal p :: ((s.exitEnded p).part p).repaired.map fun r => .blockRestore r.2) := by
  rw [State.resume, if_neg (by simp [hx]), if_neg (by simp [hh])]
  rfl

/-- A ring with room is not drained for an entry. -/
theorem roomForAppend_notFull (h : (s.part p).ringFull = false) : s.roomForAppend p = s := by simp [State.roomForAppend, h]

/-- Where the host has no room, a full ring stays full. -/
theorem roomForAppend_full (hp : p < s.parts.length) (hf : (s.part p).ringFull = true) (hr : (s.part p).logRoom = 0) :
    ((s.roomForAppend p).part p).ringFull = true ∧ ((s.roomForAppend p).part p).dlEn = (s.part p).dlEn ∧
      ((s.roomForAppend p).part p).exited = (s.part p).exited ∧ (s.roomForAppend p).parts.length = s.parts.length := by
  unfold State.roomForAppend
  dsimp only
  split
  · simp only [State.drainLog, hr, Nat.min_zero, modPart_part_same hp, modPart_parts_length]
    refine ⟨?_, trivial, trivial, trivial⟩
    simpa [Part.ringFull] using hf
  · exact ⟨hf, rfl, rfl, rfl⟩

theorem notify_part_keeps {α : Type} (s : State) (p q duty : Nat) (args : List Nat) (w : Option HostEvent) (g : Part → α)
    (hg : ∀ x n, g { x with evseq := n } = g x) : g ((s.notify p duty args w).part q) = g (s.part q) :=
  modPart_part_keeps s p q g fun x => hg x _

/-- A partition that exits has exited, with the reason given (R155). -/
theorem exitPart_part (hp : p < s.parts.length) (hx : (s.part p).exited = false) (reason : Nat) :
    ((s.exitPart p reason).part p).exited = true ∧ ((s.exitPart p reason).part p).reason = BitVec.ofNat 8 reason := by
  have hq := modPart_part_same hp fun q => { q with exited := true, reason := BitVec.ofNat 8 reason }
  rw [State.exitPart, if_neg (by simp [hx])]
  dsimp only
  rw [notify_part_keeps _ p p 16 _ none Part.exited fun _ _ => rfl, notify_part_keeps _ p p 16 _ none Part.reason fun _ _ => rfl]
  generalize s.modPart p _ = t at hq ⊢
  have hs := foldl_keeps (P := SavesAsked t) (fun t k h => h.trans (savesAsked_requestSave t k SaveWhy.pause)) (t.residentOf p) (.refl t)
  rw [State.part, hs.parts]
  rw [State.part] at hq
  rw [hq]
  exact ⟨rfl, rfl⟩

/-- An exit ends, and the deal of the partition's blocks is asked for. -/
theorem resume_room (hp : p < s.parts.length) (hx : (s.part p).exited = true) (hh : s.slicesHeld p = false)
    (hf : (s.part p).ringFull = false) : (s.resume p).mem = s.mem ∧ (s.resume p).blocks = s.blocks ∧
      (s.resume p).part p = { s.part p with exited := false, resumeOn := false } ∧ Event.deal p ∈ (s.resume p).work := by
  have hq := modPart_part_same hp fun q => { q with exited := false, resumeOn := false }
  have he : s.exitEnded p = s.modPart p fun q => { q with exited := false, resumeOn := false } :=
    roomForAppend_notFull (by rw [hq]; exact hf)
  have hn : ((s.exitEnded p).part p).ringFull = false := by rw [he, hq]; exact hf
  rw [resume_free hx hh, if_neg (by simp [hn])]
  refine ⟨by simp [he], by simp [he], ?_, wantAll_head_asked ..⟩
  rw [State.part, wantAll_parts, he]
  exact hq

/-- With the ring still full and no room at the host the partition exits again at once (R85). -/
theorem resume_full (hp : p < s.parts.length) (hx : (s.part p).exited = true) (hh : s.slicesHeld p = false)
    (hd : (s.part p).dlEn = true) (hf : (s.part p).ringFull = true) (hr : (s.part p).logRoom = 0) :
    ((s.resume p).part p).exited = true ∧ ((s.resume p).part p).reason = 1 := by
  have hq := modPart_part_same hp fun q => { q with exited := false, resumeOn := false }
  obtain ⟨hf1, hd1, hx1, hl1⟩ := roomForAppend_full (s := s.modPart p fun q => { q with exited := false, resumeOn := false })
    (by simpa using hp) (by rw [hq]; exact hf) (by rw [hq]; exact hr)
  rw [hq] at hd1 hx1
  have hagain : (((s.exitEnded p).part p).dlEn && ((s.exitEnded p).part p).ringFull) = true :=
    Bool.and_eq_true_iff.mpr ⟨hd1.trans hd, hf1⟩
  rw [resume_free hx hh, if_pos hagain]
  exact exitPart_part (hl1.trans (modPart_parts_length ..) ▸ hp) hx1 1

end

/-! ### Answers and repairs of the hypervisor (R80, R395) -/

/-- A ready block's entry into its dispatch queue changes partitions and what is asked for. -/
theorem enqueueReady_frame (s : State) (blk : Nat) : (s.enqueueReady blk).mem = s.mem ∧ (s.enqueueReady blk).blocks = s.blocks := by
  unfold State.enqueueReady
  split
  · dsimp only
    split
    · exact ⟨rfl, rfl⟩
    · split
      · simp
      · split <;> simp
  · exact ⟨rfl, rfl⟩

theorem makeReady_saved {s : State} {blk : Nat} {b : Block} {why : SaveWhy} (hb : s.blocks[blk]? = some b)
    (hs : b.place = .saved false why) : (s.makeReady blk).mem = s.mem ∧
      (s.makeReady blk).blocks[blk]? = some { b with place := .saved true why } := by
  have h : s.makeReady blk = (s.modBlock blk fun b => { b with place := .saved true why }).enqueueReady blk := by
    simp [State.makeReady, hb, hs]
  simp [h, hb, enqueueReady_frame]

theorem ackContinue_none {s : State} {p seq : Nat} (h : s.waitingEvent p seq = none) : s.ackContinue p seq = s := by
  simp [State.ackContinue, h]

theorem ackContinue_repair {s : State} {p seq blk : Nat} (h : s.waitingEvent p seq = some (.repair blk)) :
    s.ackContinue p seq = (s.answered p seq).makeReady blk := by simp [State.ackContinue, h]

/-- With the functions enabled each repair is the one that it names (R395). -/
theorem execHostRepairRequest_enabled {s : State} (h : s.svc.enabled = true) (p pa : Nat) (e : Addr) (l : List Addr) (bytes : List Byte) :
    execHostRepairRequest p (.content pa bytes) s =
      .next (if pa % 4096 = 0 ∧ (s.part p).owns pa = true then s.fillFrames [pa / 4096] bytes else s) ∧
    execHostRepairRequest p (.migrate e) s = execMigration p e true s ∧
    (∀ lv, execHostRepairRequest p (.moveNode e lv) s = .next (s.startNode p e.toNat lv)) ∧
    execHostRepairRequest p (.setEntry pa e) s =
      .next (if pa % 8 = 0 ∧ (s.part p).owns pa = true then (s.writeEntry pa e).settleWaiting p else s) ∧
    (∀ w, execHostRepairRequest p (.setAccess e w) s = .next (s.changeAccess p e.toNat w)) ∧
    execHostRepairRequest p (.reserve l) s = .next (s.modPart p fun q => { q with reserve := q.reserve ++ l }) := by
  simp only [execHostRepairRequest, h, Bool.not_true, Bool.false_eq_true, if_false, Bool.and_eq_true, decide_eq_true_eq, implies_true,
    true_and, and_true]
  constructor <;> split <;> rfl

end Sys2Proof.Machine
end
section
namespace Sys2Proof.Machine

/-! ### Code objects (R360, R361) and keys (R359) -/

section
variable {s : State} {p : Nat}

theorem execCodeObjectLoad_unknown (h : s.svc.enabled = true) {hash : List Byte} {d : List (List Byte)} (hi : s.imageOf d hash = none) :
    execCodeObjectLoad p hash d s = .next (s.report (some p) (resultRecord 0x0015 0xFFFF 0)) := by
  simp only [execCodeObjectLoad, h, hi, Bool.not_true, Bool.false_eq_true, if_false]

/-- A load whose checks pass, whose imports and itself can be loaded and for which a handle is free gives the partition that handle. -/
theorem execCodeObjectLoad_loaded (h : s.svc.enabled = true) {hash l : List Byte} {d : List (List Byte)} {n : Nat} {s0 s1 : State}
    (hi : s.imageOf d hash = some l) (hb : Image.bad l = false) (hg : (s.part p).sigBad l = false)
    (h0 : State.loadImports p d (s.svc.objects.length + d.length + 1) (Image.deps l).zipIdx s = .ok s0)
    (hn : freeHandle (s.loadHandles p) = some n) (h1 : State.loadObject p d s0 (hash, l) = .ok s1) :
    ∃ s', execCodeObjectLoad p hash d s = .next s' ∧ s'.mem = s1.mem ∧ s'.blocks = s1.blocks ∧
      s'.svc.results = s1.svc.results ++ [(some p, resultRecord 0 0xFFFF n)] ∧ (∀ c ∈ s'.cores, c.icache = []) ∧
      ∀ o ∈ s'.svc.objects, o.hash = hash → (p, n) ∈ o.handles ∧ p ∉ o.draining := by
  simp only [execCodeObjectLoad, h, hi, hb, hg, h0, hn, h1, Bool.not_true, Bool.false_eq_true, if_false]
  refine ⟨_, rfl, rfl, rfl, rfl, fun c hc => ?_, fun o ho hh => ?_⟩
  · obtain ⟨c, -, rfl⟩ := List.mem_map.mp hc
    rfl
  · obtain ⟨q, -, rfl⟩ := List.mem_map.mp ho
    by_cases hq : q.hash = hash
    · rw [if_pos (by simpa using hq)]
      simp [CodeObj.take]
    · rw [if_neg (by simpa using hq)] at hh
      exact absurd hh hq

/-- An object with a handle is referred to (R361). -/
theorem refs_ne_zero {o : CodeObj} (h : o.handles ≠ []) : s.refs o ≠ 0 := by
  have := List.length_pos_iff.mpr h
  unfold State.refs
  omega

/-- Where every object has a handle, none is freed. -/
theorem freeObjects_none (h : ∀ o ∈ s.svc.objects, o.handles ≠ []) (n : Nat) : State.freeObjects n s = s := by
  cases n with
  | zero => rfl
  | succ n =>
    have hf : (s.svc.objects.find? fun o => s.refs o == 0) = none :=
      List.find?_eq_none.mpr fun o ho => by simpa using refs_ne_zero (h o ho)
    rw [State.freeObjects, hf]

/-- Where every object has a handle and no drain is under way, a sweep changes nothing. -/
theorem sweepCode_idle (h : ∀ o ∈ s.svc.objects, o.draining = [] ∧ o.handles ≠ []) : s.sweepCode = s := by
  rw [State.sweepCode, if_neg]
  simp only [List.any_eq_true, Bool.or_eq_true, Bool.not_eq_true', List.isEmpty_eq_false_iff, beq_iff_eq, not_exists, not_and, not_or,
    not_not]
  exact fun o ho => ⟨(h o ho).1, refs_ne_zero (h o ho).2⟩

/-- Where every object has a handle and a drain is under way, a sweep counts the drains that have ended. -/
theorem sweepCode_draining (h : ∀ o ∈ s.svc.objects, o.handles ≠ []) (hd : ∃ o ∈ s.svc.objects, o.draining ≠ []) :
    s.sweepCode = s.endDrains := by
  rw [State.sweepCode, if_pos]
  · refine freeObjects_none (fun o ho => ?_) _
    obtain ⟨q, hq, rfl⟩ := List.mem_map.mp ho
    exact h q hq
  · obtain ⟨o, ho, hd⟩ := hd
    exact List.any_eq_true.mpr ⟨o, ho, by simp [hd]⟩

/-- An object after one load handle is withdrawn: what CODE_OBJECT_UNLOAD makes of each object before its sweep. -/
def CodeObj.withdrawn (p n : Nat) (o : CodeObj) : CodeObj :=
  if o.handles.contains (p, n) then { o with handles := o.handles.erase (p, n), draining := insertUp p o.draining } else o

theorem withdrawn_holder {o : CodeObj} {n : Nat} (h : (p, n) ∈ o.handles) :
    o.withdrawn p n = { o with handles := o.handles.erase (p, n), draining := insertUp p o.draining } := if_pos (by simpa using h)

theorem map_withdrawn_others {l : List CodeObj} {n : Nat} (h : ∀ o ∈ l, (p, n) ∉ o.handles) : l.map (CodeObj.withdrawn p n) = l :=
  (List.map_congr_left fun o ho => if_neg (by simpa using h o ho)).trans (List.map_id l)

theorem execCodeObjectUnload_enabled (h : s.svc.enabled = true) (n : Nat) : execCodeObjectUnload p n s =
    .next (State.sweepCode { s with svc := { s.svc with objects := s.svc.objects.map (CodeObj.withdrawn p n) } }) :=
  if_neg (by simp [h])

theorem execCodeObjectUnload_unknown {n : Nat} (hu : ∀ o ∈ s.svc.objects, (p, n) ∉ o.handles)
    (h : ∀ o ∈ s.svc.objects, o.draining = [] ∧ o.handles ≠ []) : execCodeObjectUnload p n s = .next s := by
  cases he : s.svc.enabled with
  | false => exact if_pos (by simp [he])
  | true => rw [execCodeObjectUnload_enabled he, map_withdrawn_others hu, sweepCode_idle h]

/-- The drains that have ended leave every object without a drain as it is. -/
theorem endDrains_objects {o : CodeObj} {l : List CodeObj} (ho : s.svc.objects = o :: l) (hl : ∀ q ∈ l, q.draining = []) :
    s.endDrains.svc.objects = { o with draining := o.draining.filter fun p => s.executes p o } :: l := by
  have hr : s.endDrains.svc.objects = s.svc.objects.map fun o => { o with draining := o.draining.filter fun p => s.executes p o } := rfl
  rw [hr, ho, List.map_cons]
  congr 1
  refine (List.map_congr_left fun q hq => ?_).trans (List.map_id l)
  have hd := hl q hq
  cases q
  simp_all

/-- A handle is withdrawn from an object that keeps another one, and from nothing else (R361). -/
theorem execCodeObjectUnload_shared (he : s.svc.enabled = true) {n : Nat} {o : CodeObj} {l : List CodeObj} (ho : s.svc.objects = o :: l)
    (hh : (p, n) ∈ o.handles) (hne : o.handles.erase (p, n) ≠ [])
    (hl : ∀ q ∈ l, q.draining = [] ∧ q.handles ≠ [] ∧ (p, n) ∉ q.handles) :
    ∃ s' o', execCodeObjectUnload p n s = .next s' ∧ s'.mem = s.mem ∧ s'.svc.objects = o' :: l ∧
      o'.handles = o.handles.erase (p, n) ∧ o'.image = o.image := by
  have hm : s.svc.objects.map (CodeObj.withdrawn p n) =
      { o with handles := o.handles.erase (p, n), draining := insertUp p o.draining } :: l := by
    rw [ho, List.map_cons, withdrawn_holder hh, map_withdrawn_others fun q hq => (hl q hq).2.2]
  rw [execCodeObjectUnload_enabled he, hm, sweepCode_draining]
  · exact ⟨_, _, rfl, rfl, endDrains_objects rfl fun q hq => (hl q hq).1, rfl, rfl⟩
  · rintro q hq
    rcases List.mem_cons.mp hq with rfl | hq
    · exact hne
    · exact (hl q hq).2.1
  · exact ⟨_, List.mem_cons_self, List.ne_nil_of_mem (mem_insertUp.mpr (.inl rfl))⟩

end

theorem management_disabled {s : State} (h : s.svc.enabled = false) (p n : Nat) (hash key : List Byte) (d : List (List Byte)) (req : Bool) :
    execCodeObjectLoad p hash d s = .next s ∧ execCodeObjectUnload p n s = .next s ∧ execKeyRegister p key req s = .next s := by
  simp [execCodeObjectLoad, execCodeObjectUnload, execKeyRegister, h]

theorem execKeyRegister_enabled {s : State} (h : s.svc.enabled = true) (p : Nat) (key : List Byte) (req : Bool) :
    execKeyRegister p key req s = .next (s.modPart p fun q => { q with keys := q.keys ++ [key], sigRequired := req }) :=
  if_neg (by simp [h])

/-! ### Boot (R375, R159) -/

@[simp] theorem lpctOf_length (fuses : BitVec 72) : (lpctOf fuses).length = 72 := by
  have h := List.length_filter_le (fun c => !fuses.getLsbD c) (List.range 72)
  simp only [List.length_range] at h
  simp only [lpctOf, List.length_append, List.length_map, List.length_replicate]
  omega

theorem mem_lpctOf {fuses : BitVec 72} {c : Nat} (hc : c < 72) (hf : fuses.getLsbD c = false) : BitVec.ofNat 8 c ∈ lpctOf fuses :=
  List.mem_append_left _ (List.mem_map_of_mem (List.mem_filter.mpr ⟨List.mem_range.mpr hc, by simp [hf]⟩))

/-- What a boot makes of a machine: the functions are enabled exactly when the image verifies (R375). -/
structure Boots (image : List Byte) (s s' : State) : Prop where
  mem : s'.mem = s.mem
  blocks : s'.blocks = s.blocks
  parts : s'.parts = s.parts
  booted : s'.svc.booted = true
  verified : s'.svc.verified = firmwareOk image
  enabled : s'.svc.enabled = firmwareOk image
  good : firmwareOk image = true → s'.poison = [] ∧ s'.hv = Config.fuses ∧ s'.lpct = lpctOf Config.fuses
  bad : firmwareOk image = false → s'.poison = s.poison ∧ s'.hv = s.hv ∧ s'.lpct = s.lpct

/-- A boot with a good image fills the LPCT with the 72 cores, those that are present first (R159). -/
theorem Boots.clauses {image : List Byte} {s s' : State} (h : Boots image s s') : s'.mem = s.mem ∧ s'.blocks = s.blocks ∧
    s'.parts = s.parts ∧ s'.svc.booted = true ∧ s'.svc.verified = firmwareOk image ∧ s'.svc.enabled = firmwareOk image ∧
    (firmwareOk image = true → s'.poison = [] ∧ s'.hv = Config.fuses ∧ s'.lpct.length = 72 ∧
      ∀ c < 72, Config.fuses.getLsbD c = false → BitVec.ofNat 8 c ∈ s'.lpct) ∧
    (firmwareOk image = false → s'.poison = s.poison ∧ s'.hv = s.hv ∧ s'.lpct = s.lpct) := by
  refine ⟨h.mem, h.blocks, h.parts, h.booted, h.verified, h.enabled, fun hok => ?_, h.bad⟩
  obtain ⟨hp, hv, hl⟩ := h.good hok
  rw [hl]
  exact ⟨hp, hv, lpctOf_length _, fun c hc hf => mem_lpctOf hc hf⟩

theorem boots_boot (s : State) (image : List Byte) : Boots image s (s.boot image) ∧ (s.boot image).power = s.power := by
  unfold State.boot
  cases h : firmwareOk image with
  | true => exact ⟨⟨rfl, rfl, rfl, rfl, h.symm, h.symm, fun _ => ⟨rfl, rfl, rfl⟩, fun hb => by simp [h] at hb⟩, rfl⟩
  | false => exact ⟨⟨rfl, rfl, rfl, rfl, h.symm, h.symm, fun hb => by simp [h] at hb, fun _ => ⟨rfl, rfl, rfl⟩⟩, rfl⟩

theorem execPowerUp_boots (s : State) (image : List Byte) : ∃ s', execPowerUp image s = .next s' ∧ s'.power = true ∧ Boots image s s' := by
  obtain ⟨h, hp⟩ := boots_boot { s with
    power := true, cores := if s.power then s.cores else s.cores.map fun _ => Core.reset, svc := { s.svc with stopping := false } } image
  exact ⟨_, rfl, hp, h.mem, h.blocks, h.parts, h.booted, h.verified, h.enabled, h.good, h.bad⟩

theorem execFirmwareImage_unverified {s : State} (hb : s.svc.booted = true) (hv : s.svc.verified = false) (image : List Byte) :
    ∃ s', execFirmwareImage image s = .next s' ∧ s'.power = s.power ∧ Boots image s s' := by
  obtain ⟨h, hp⟩ := boots_boot s image
  exact ⟨_, if_pos (by simp [hb, hv]), hp, h⟩

theorem execFirmwareImage_verified {s : State} (hv : s.svc.verified = true) (image : List Byte) : execFirmwareImage image s = .next s :=
  if_neg (by simp [hv])

/-! ### Ownership (R376) and ports (R374) -/

theorem ownership_disabled {s : State} (h : s.svc.enabled = false) (a b : Nat) : execOwnershipClaim a s = .next s ∧
    execOwnershipHandover a b s = .next s ∧ execHandoverAccept a s = .next s := by
  simp [execOwnershipClaim, execOwnershipHandover, execHandoverAccept, h]

/-- A claim takes what no source owns, and is answered Busy else (R376). -/
theorem execOwnershipClaim_enabled {s : State} (h : s.svc.enabled = true) (a : Nat) : ∃ s', execOwnershipClaim a s = .next s' ∧
    s'.svc.owner = (if s.svc.owner = none then some a else s.svc.owner) ∧ (s.svc.owner ≠ none → a ∈ s'.svc.busy) ∧
    s'.svc.successor = s.svc.successor := by
  unfold execOwnershipClaim
  rw [h]
  cases ho : s.svc.owner with
  | none => exact ⟨_, rfl, rfl, fun hn => absurd rfl hn, rfl⟩
  | some o => exact ⟨_, rfl, ho, fun _ => mem_insertUp.mpr (.inl rfl), rfl⟩

/-- Only the owner names a successor, and it keeps the ownership (R376). -/
theorem execOwnershipHandover_enabled {s : State} (h : s.svc.enabled = true) (a b : Nat) : ∃ s', execOwnershipHandover a b s = .next s' ∧
    s'.svc.owner = s.svc.owner ∧ s'.svc.successor = (if s.svc.owner = some a then some b else s.svc.successor) := by
  unfold execOwnershipHandover
  by_cases ho : s.svc.owner = some a
  · exact ⟨_, if_pos (by simp [h, ho]), rfl, (if_pos ho).symm⟩
  · exact ⟨_, if_neg (by simp [ho]), rfl, (if_neg ho).symm⟩

/-- Only the named successor of an owner takes the ownership (R376). -/
theorem execHandoverAccept_enabled {s : State} (h : s.svc.enabled = true) (a : Nat) : ∃ s', execHandoverAccept a s = .next s' ∧
    s'.svc.owner = (if s.svc.owner ≠ none ∧ s.svc.successor = some a then some a else s.svc.owner) := by
  unfold execHandoverAccept
  by_cases ho : s.svc.owner ≠ none ∧ s.svc.successor = some a
  · exact ⟨_, if_pos (by simpa [h, Option.isSome_iff_ne_none] using ho), (if_pos ho).symm⟩
  · exact ⟨_, if_neg (by simpa [h, Option.isSome_iff_ne_none] using ho), (if_neg ho).symm⟩

/-- The loss of a link releases what came through it (R376). -/
theorem execLinkLoss_owner (s : State) (a : Nat) : ∃ s', execLinkLoss a s = .next s' ∧
    s'.svc.owner = (if s.svc.owner = some a then none else s.svc.owner) := by
  unfold execLinkLoss
  by_cases ho : s.svc.owner = some a
  · exact ⟨_, if_pos ho, (if_pos ho).symm⟩
  · exact ⟨_, if_neg ho, (if_neg ho).symm⟩

theorem execPortFailure_ports (s : State) (port : Nat) : ∃ s', execPortFailure port s = .next s' ∧ s'.mem = s.mem ∧ s'.blocks = s.blocks ∧
    ∀ i : Nat, s'.svc.ports[i]? = if i = port then (s.svc.ports[i]?).map fun _ => false else s.svc.ports[i]? := by
  refine ⟨_, rfl, rfl, rfl, fun i => ?_⟩
  by_cases h : i = port
  · subst h
    simp only [if_true, List.getElem?_set_self']
    rfl
  · rw [if_neg h, List.getElem?_set_ne (Ne.symm h)]

end Sys2Proof.Machine
end

section
namespace Sys2Proof.Machine

/-! ### The thermal stop (R378): what every pre-emption keeps -/

/-- A partition has exited with reason 0x03, and the host has been notified of it. -/
def State.StoppedPart (s : State) (p : Nat) : Prop :=
  (s.part p).exited = true ∧ (s.part p).reason = 3 ∧ ∃ n ∈ s.svc.mailbox, n.part = p ∧ n.duty = 16 ∧ n.args = [3]

/-- What each part of a thermal stop keeps: no block comes to a core or leaves one, partitions stay stopped, power goes only where no
block stands on a core, and the stop stays under way until power has gone. -/
structure StopStep (s s' : State) : Prop where
  count : s'.parts.length = s.parts.length
  coreOf : s'.coreOf = s.coreOf
  stopped : ∀ p, s.StoppedPart p → s'.StoppedPart p
  power : s'.power = false → s.power = false ∨ ∀ k, s.coreOf k = none
  stopping : s.svc.stopping = true ∨ s.power = false → s'.svc.stopping = true ∨ s'.power = false

theorem StopStep.refl (s : State) : StopStep s s := ⟨rfl, rfl, fun _ => id, .inl, id⟩

theorem StopStep.trans {a b c : State} (h : StopStep a b) (k : StopStep b c) : StopStep a c where
  count := k.count.trans h.count
  coreOf := k.coreOf.trans h.coreOf
  stopped := fun p => k.stopped p ∘ h.stopped p
  power := fun hc => (k.power hc).elim h.power fun hn => .inr (h.coreOf ▸ hn)
  stopping := k.stopping ∘ h.stopping

/-- A fold of parts of a thermal stop is one. -/
theorem stopStep_foldl {α : Type} {f : State → α → State} (h : ∀ s a, StopStep s (f s a)) (l : List α) (s : State) :
    StopStep s (l.foldl f s) := foldl_keeps (P := StopStep s) (fun t a ht => ht.trans (h t a)) l (.refl s)

/-- A change that touches neither the partitions, the service, power nor the places of blocks. -/
theorem stopStep_of_eq {s s' : State} (hp : s'.parts = s.parts) (hs : s'.svc = s.svc) (hw : s'.power = s.power)
    (hc : s'.coreOf = s.coreOf) : StopStep s s' where
  count := by rw [hp]
  coreOf := hc
  stopped := fun p h => by unfold State.StoppedPart State.part at h ⊢; rw [hp, hs]; exact h
  power := fun h => .inl (hw ▸ h)
  stopping := fun h => by rw [hs, hw]; exact h

theorem SavesAsked.stopStep {s s' : State} (h : SavesAsked s s') : StopStep s s' := stopStep_of_eq h.parts h.svc h.power h.coreOf

theorem stopStep_modCore (s : State) (c : Nat) (f : Core → Core) : StopStep s (s.modCore c f) := stopStep_of_eq rfl rfl rfl rfl

/-- A change of a partition that keeps a stop of it. -/
theorem stopStep_modPart (s : State) (p : Nat) {f : Part → Part}
    (hf : ∀ q, q.exited = true ∧ q.reason = 3 → (f q).exited = true ∧ (f q).reason = 3) : StopStep s (s.modPart p f) where
  count := modPart_parts_length ..
  coreOf := rfl
  stopped := fun q ⟨hx, hr, hn⟩ => by
    obtain ⟨hx', hr'⟩ := modPart_part_mono (P := fun q => q.exited = true ∧ q.reason = 3) s p q hf ⟨hx, hr⟩
    exact ⟨hx', hr', hn⟩
  power := .inl
  stopping := id

theorem stopStep_notify (s : State) (p duty : Nat) (args : List Nat) (w : Option HostEvent) :
    StopStep s (s.notify p duty args w) := by
  have h := stopStep_modPart s p (f := fun q => { q with evseq := (s.part p).evseq + 1#32 }) fun _ hq => hq
  refine ⟨h.count, rfl, fun q hq => ?_, .inl, id⟩
  obtain ⟨hx, hr, n, hn, hs⟩ := h.stopped q hq
  exact ⟨hx, hr, n, List.mem_append_left _ hn, hs⟩

theorem stopStep_releaseRoom (s : State) (blk : Nat) : StopStep s (s.releaseRoom blk) := by
  have room : ∀ t : State, StopStep t (t.modBlock blk fun b => { b with homeCore := 72 }) := fun t =>
    stopStep_of_eq rfl rfl rfl (coreOf_modBlock t blk fun _ => rfl)
  unfold State.releaseRoom
  split
  · exact .refl s
  · split
    · exact (stopStep_modCore ..).trans (room _)
    · exact room s

/-- Power is removed only where no block stands on a core (R378). -/
theorem stopStep_settleStop (s : State) : StopStep s s.settleStop := by
  unfold State.settleStop
  split
  · next h =>
    simp only [Bool.and_eq_true, List.all_eq_true, List.mem_range, Option.isNone_iff_eq_none] at h
    obtain ⟨-, hoff⟩ := h
    refine ⟨rfl, rfl, fun _ => id, fun _ => .inr fun k => ?_, fun _ => .inr rfl⟩
    by_cases hk : k < s.blocks.length
    · exact hoff k hk
    · simp [State.coreOf, List.getElem?_eq_none (Nat.le_of_not_lt hk)]
  · exact .refl s

/-- A core that has answered its pre-emption request for a partition. -/
def Core.answered (part : Nat) (c : Core) : Core :=
  { c with preempt := match c.preempt with | some p => if p.part = part then none else some p | none => none }

/-- A core whose blocks of a partition are gone has answered: the first part of `State.settlePreempt`. -/
def State.answerPreempt (s : State) (core part : Nat) : State :=
  if s.coreQuiet core part then s.modCore core (Core.answered part) else s

theorem settlePreempt_eq (s : State) (core part : Nat) : s.settlePreempt core part =
    if (s.answerPreempt core part).cores.any fun c => (c.preempt.map fun p => p.part == part).getD false then s.answerPreempt core part
    else ((s.answerPreempt core part).modPart part fun p => { p with preReq := false }).settleStop := rfl

theorem stopStep_answerPreempt (s : State) (core part : Nat) : StopStep s (s.answerPreempt core part) := by
  unfold State.answerPreempt
  split
  · exact stopStep_modCore ..
  · exact .refl s

theorem stopStep_settlePreempt (s : State) (core part : Nat) : StopStep s (s.settlePreempt core part) := by
  have h := stopStep_answerPreempt s core part
  rw [settlePreempt_eq]
  split
  · exact h
  · refine (h.trans ?_).trans (stopStep_settleStop _)
    exact stopStep_modPart _ part fun _ hq => hq

theorem stopStep_haltCore (s : State) (core part : Nat) : StopStep s (s.haltCore core part) := by
  unfold State.haltCore
  exact ((stopStep_foldl stopStep_releaseRoom _ s).trans
    (stopStep_foldl (fun t k => (savesAsked_requestSave t k _).stopStep) _ _)).trans (stopStep_settlePreempt ..)

/-- A core of a pre-emption that has no draw to wait for is halted (R161): one step of `State.preempt`. -/
def State.preemptCore (part grace : Nat) (s : State) (c : Nat) : State :=
  if s.runsDraw c part && 0 < grace then s else s.haltCore c part

theorem preempt_eq (s : State) (part : Nat) (cores : List Nat) : s.preempt part cores =
    cores.foldl (State.preemptCore part (min 2048 (s.part part).grace.toNat))
      (cores.foldl (fun t c => t.modCore c fun k => k.takePreempt part (min 2048 (s.part part).grace.toNat)) s) := rfl

theorem stopStep_preemptCore (s : State) (part grace c : Nat) : StopStep s (s.preemptCore part grace c) := by
  unfold State.preemptCore
  split
  · exact .refl s
  · exact stopStep_haltCore s c part

theorem stopStep_preempt (s : State) (part : Nat) (cores : List Nat) : StopStep s (s.preempt part cores) := by
  rw [preempt_eq]
  exact (stopStep_foldl (fun t c => stopStep_modCore t c _) cores s).trans
    (stopStep_foldl (fun t c => stopStep_preemptCore t part _ c) cores _)

theorem stopStep_thermalExit (s : State) (p : Nat) : StopStep s (s.thermalExit p) := by
  refine StopStep.trans (StopStep.trans ?_ (stopStep_notify ..)) (stopStep_preempt ..)
  exact stopStep_modPart s p fun _ _ => ⟨rfl, rfl⟩

/-- The partition itself is stopped. -/
theorem thermalExit_stops {s : State} {p : Nat} (hp : p < s.parts.length) : (s.thermalExit p).StoppedPart p := by
  refine (stopStep_preempt ..).stopped p ⟨?_, ?_, _, List.mem_append_right _ (List.mem_singleton_self _), rfl, rfl, rfl⟩
  · rw [notify_part_keeps _ p p 16 _ none Part.exited fun _ _ => rfl, modPart_part_same hp]
  · rw [notify_part_keeps _ p p 16 _ none Part.reason fun _ _ => rfl, modPart_part_same hp]

/-- Every partition of a list is stopped by its turn, and stays so. -/
theorem thermalExits_stop {l : List Nat} {p : Nat} (hl : p ∈ l) {s : State} (hp : p < s.parts.length) :
    (l.foldl State.thermalExit s).StoppedPart p := by
  induction l generalizing s with
  | nil => cases hl
  | cons q r ih =>
    rw [List.foldl_cons]
    rcases List.mem_cons.mp hl with rfl | hr
    · exact (stopStep_foldl stopStep_thermalExit r _).stopped p (thermalExit_stops hp)
    · exact ih hr ((stopStep_thermalExit s q).count ▸ hp)

/-! ### The thermal stop where no block stands on a core -/

/-- Every pre-emption request that stands is one for a partition, at a core of a list. -/
def State.AskedOnly (s : State) (part : Nat) (l : List Nat) : Prop :=
  ∀ (i : Nat) (c : Core) (r : Preempt), s.cores[i]? = some c → c.preempt = some r → i ∈ l ∧ r.part = part

theorem askedOnly_nil_iff {s : State} {part : Nat} : s.AskedOnly part [] ↔ ∀ c ∈ s.cores, c.preempt = none := by
  constructor
  · intro h c hc
    obtain ⟨i, hi⟩ := List.mem_iff_getElem?.mp hc
    exact Option.eq_none_iff_forall_ne_some.mpr fun r hr => List.not_mem_nil (h i c r hi hr).1
  · intro h i c r hi hr
    rw [h c (List.mem_of_getElem? hi)] at hr
    cases hr

/-- Once no request stands and no block does, a stop that is under way is complete. -/
theorem settleStop_dark {s : State} (hc : ∀ k, s.coreOf k = none) (hp : ∀ c ∈ s.cores, c.preempt = none)
    (hs : s.svc.stopping = true ∨ s.power = false) : s.settleStop.power = false := by
  have hcores : (s.cores.all fun c => c.preempt.isNone) = true := List.all_eq_true.mpr fun c h => by simp [hp c h]
  have hblocks : ((List.range s.blocks.length).all fun k => (s.coreOf k).isNone) = true := List.all_eq_true.mpr fun k _ => by simp [hc k]
  unfold State.settleStop
  rw [hcores, hblocks]
  rcases hs with hs | hs
  · rw [hs]; rfl
  · split
    · rfl
    · exact hs

@[simp] theorem settleStop_cores (s : State) : s.settleStop.cores = s.cores := by
  unfold State.settleStop; split <;> rfl

theorem settlePreempt_cores (s : State) (core part : Nat) : (s.settlePreempt core part).cores = (s.answerPreempt core part).cores := by
  rw [settlePreempt_eq]
  split
  · rfl
  · simp

/-- Where no block stands on a core, a core has nothing to save. -/
theorem haltCore_empty {s : State} (h : ∀ k, s.coreOf k = none) (core part : Nat) : s.haltCore core part = s.settlePreempt core part := by
  have hc : s.cGridBlocks core part = [] := by
    simp only [State.cGridBlocks, h, Option.none_beq_some, Bool.false_and, Bool.false_eq_true, if_false, List.filterMap_none,
      List.dedup_nil, List.contains_nil]
    refine List.filter_eq_nil_iff.mpr fun k _ => ?_
    cases s.blocks[k]? <;> simp
  unfold State.haltCore
  simp [hc, h]

/-- The core answers the request. -/
theorem askedOnly_haltCore {s : State} (h : ∀ k, s.coreOf k = none) {c part : Nat} {l : List Nat} (ha : s.AskedOnly part (c :: l)) :
    (s.haltCore c part).AskedOnly part l := by
  have hq : s.coreQuiet c part = true := by simp [State.coreQuiet, h]
  intro i x r hi hr
  rw [haltCore_empty h, settlePreempt_cores, State.answerPreempt, if_pos hq] at hi
  by_cases hic : i = c
  · subst hic
    rw [modCore_get] at hi
    obtain ⟨y, hy, rfl⟩ := Option.map_eq_some_iff.mp hi
    cases hyp : y.preempt with
    | none => simp [Core.answered, hyp] at hr
    | some z => simp [Core.answered, hyp, (ha i y z hy hyp).2] at hr
  · simp only [State.modCore, List.getElem?_modify, if_neg (Ne.symm hic)] at hi
    obtain ⟨hm, hp⟩ := ha i x r (by simpa using hi) hr
    exact ⟨(List.mem_cons.mp hm).resolve_left hic, hp⟩

/-- The requests that a pre-emption makes stand at its cores. -/
theorem askedOnly_takePreempt {s : State} {part grace : Nat} {l : List Nat} (ha : s.AskedOnly part l) {c : Nat} (hc : c ∈ l) :
    (s.modCore c fun k => k.takePreempt part grace).AskedOnly part l := by
  intro i x r hi hr
  by_cases hic : i = c
  · subst hic
    rw [modCore_get] at hi
    obtain ⟨y, hy, rfl⟩ := Option.map_eq_some_iff.mp hi
    refine ⟨hc, ?_⟩
    cases hyp : y.preempt with
    | none => simp [Core.takePreempt, hyp] at hr; simp [← hr]
    | some z =>
      have hz := (ha i y z hy hyp).2
      simp [Core.takePreempt, hyp, hz] at hr
      rw [← hr, hz]
  · exact ha i x r (by simpa [State.modCore, Ne.symm hic] using hi) hr

/-- After every core of a list has taken a request, the requests stand at cores of the list. -/
theorem askedOnly_takePreempts {s : State} {part grace : Nat} {l cores : List Nat} (hl : ∀ c ∈ l, c ∈ cores)
    (ha : s.AskedOnly part cores) :
    (l.foldl (fun s c => s.modCore c fun k => k.takePreempt part grace) s).AskedOnly part cores := by
  induction l generalizing s with
  | nil => exact ha
  | cons c r ih => exact ih (fun x hx => hl x (by simp [hx])) (askedOnly_takePreempt ha (hl c (by simp)))

/-- Where no block stands on a core, a core that is pre-empted answers. -/
theorem askedOnly_preemptCore {s : State} (h : ∀ k, s.coreOf k = none) {part c : Nat} {l : List Nat} (ha : s.AskedOnly part (c :: l))
    (grace : Nat) : (s.preemptCore part grace c).AskedOnly part l := by
  have hd : s.runsDraw c part = false := by simp [State.runsDraw, h]
  rw [State.preemptCore, hd, Bool.false_and, if_neg Bool.false_ne_true]
  exact askedOnly_haltCore h ha

/-- Once each of the cores that are asked has answered, no request stands. -/
theorem askedOnly_preemptCores {s : State} (h : ∀ k, s.coreOf k = none) {part : Nat} {l : List Nat} (ha : s.AskedOnly part l)
    (grace : Nat) : (l.foldl (State.preemptCore part grace) s).AskedOnly part [] := by
  induction l generalizing s with
  | nil => exact ha
  | cons c r ih => exact ih ((stopStep_preemptCore s part grace c).coreOf ▸ h) (askedOnly_preemptCore h ha grace)

/-- Where no block stands on a core, every core answers a pre-emption at once. -/
theorem preempt_answered {s : State} (h : ∀ k, s.coreOf k = none) (hp : ∀ c ∈ s.cores, c.preempt = none) (part : Nat) (cores : List Nat) :
    ∀ c ∈ (s.preempt part cores).cores, c.preempt = none := by
  have hnone : s.AskedOnly part cores := fun i c r hi hr => by
    rw [hp c (List.mem_of_getElem? hi)] at hr
    cases hr
  rw [preempt_eq]
  refine askedOnly_nil_iff.mp (askedOnly_preemptCores ?_ (askedOnly_takePreempts (fun _ => id) hnone) _)
  exact (stopStep_foldl (fun t c => stopStep_modCore t c _) cores s).coreOf ▸ h

/-- Where no block stands on a core, no request outlasts the exit of a partition. -/
theorem thermalExits_answered {s : State} (h : ∀ k, s.coreOf k = none) (hp : ∀ c ∈ s.cores, c.preempt = none) (l : List Nat) :
    ∀ c ∈ (l.foldl State.thermalExit s).cores, c.preempt = none := by
  induction l generalizing s with
  | nil => exact hp
  | cons p r ih =>
    have ha := preempt_answered (s := (s.modPart p fun q => { q with exited := true, reason := 3 }).notify p 16 [3] none) h hp p
      (s.part p).cores
    exact ih ((stopStep_thermalExit s p).coreOf ▸ h) ha

/-- A thermal stop is under way: what THERMAL_STOP makes of the machine first. -/
def State.stopBegun (s : State) : State := { s with svc := { s.svc with stopping := true } }

/-- THERMAL_STOP (R378): every partition exits with reason 0x03 and its notice; power goes only with no block on a core, and at once
where none stands there. -/
theorem execThermalStop_stops {s : State} {p : Nat} (hp : p < s.parts.length) : ∃ s', execThermalStop s = .next s' ∧ s'.StoppedPart p ∧
    (s.power = true → s'.power = false → ∀ k, s'.coreOf k = none) ∧
    ((∀ k, s.coreOf k = none) → (∀ c ∈ s.cores, c.preempt = none) → s'.power = false) := by
  have hexits := stopStep_foldl stopStep_thermalExit (List.range s.parts.length) s.stopBegun
  have hstop := hexits.trans (stopStep_settleStop _)
  refine ⟨((List.range s.parts.length).foldl State.thermalExit s.stopBegun).settleStop, rfl, ?_, fun hw hd => ?_, fun hc hq => ?_⟩
  · exact (stopStep_settleStop _).stopped p (thermalExits_stop (s := s.stopBegun) (List.mem_range.mpr hp) hp)
  · have hn := (hstop.power hd).resolve_left fun h => absurd (hw.symm.trans h) (by decide)
    exact hstop.coreOf ▸ hn
  · exact settleStop_dark (hexits.coreOf ▸ hc) (thermalExits_answered (s := s.stopBegun) hc hq _) (hexits.stopping (.inl rfl))

/-! ### O53 -/

/-- Settles O53: each event by what its own step does. -/
theorem serviceEvents : Obligations.ServiceEvents := by
  unfold Obligations.ServiceEvents
  intro s p hp
  refine ⟨fun v => ⟨fun he => ?_, fun he o => execControlWindowWrite_disabled he p o v⟩,
    fun hx => ⟨fun hh => congrArg Host.Outcome.next (resume_held hx hh), fun hh hf => ⟨_, rfl, resume_room hp hx hh hf⟩,
      fun hh hd hf hr => ⟨_, rfl, resume_full hp hx hh hd hf hr⟩⟩,
    fun hx => congrArg Host.Outcome.next (resume_running hx),
    fun seq => ⟨fun hw => congrArg Host.Outcome.next (ackContinue_none hw),
      fun blk b why hw hb hs _ => ⟨_, congrArg Host.Outcome.next (ackContinue_repair hw), ?_⟩⟩,
    fun he pa e l bytes => execHostRepairRequest_enabled he p pa e l bytes,
    fun he hash d h key req => management_disabled he p h hash key d req,
    fun he hash d hi => execCodeObjectLoad_unknown he hi,
    fun he hash l d h s0 s1 hi hb hg h0 hn h1 => execCodeObjectLoad_loaded he hi hb hg h0 hn h1,
    fun h hu hi => execCodeObjectUnload_unknown hu hi,
    fun he h o l ho hh _ hne _ hl => execCodeObjectUnload_shared he ho hh hne hl,
    fun he key req => execKeyRegister_enabled he p key req,
    fun image => ⟨?_, fun hb hv => ?_, fun hv => execFirmwareImage_verified hv image⟩,
    fun he a b => ownership_disabled he a b, fun he a b => ?_, fun port => execPortFailure_ports s port, ?_⟩
  case refine_1 =>
    obtain ⟨h00, h08, h10, h18, h20, h28, h30, h38⟩ := execControlWindowWrite_enabled he p v
    exact ⟨h00, h08, h10, h18, h20, fun hv => h28.trans (congrArg _ (writePrectl_grace hv p)),
      fun hv => h30.trans (congrArg _ (if_pos hv)), fun hv => h38.trans (congrArg _ (writeHostack_continue hv p)),
      fun o ho => execControlWindowWrite_beyond s p ho v⟩
  case refine_2 => exact makeReady_saved (s := s.answered p seq) hb hs
  case refine_3 =>
    obtain ⟨s', hrun, hp, h⟩ := execPowerUp_boots s image
    exact ⟨s', hrun, hp, h.clauses⟩
  case refine_4 =>
    obtain ⟨s', hrun, hp, h⟩ := execFirmwareImage_unverified hb hv image
    exact ⟨s', hrun, hp, h.clauses⟩
  case refine_5 =>
    obtain ⟨s1, hrun1, ho1, hb1, hs1⟩ := execOwnershipClaim_enabled he a
    obtain ⟨s2, hrun2, ho2, hs2⟩ := execOwnershipHandover_enabled he a b
    obtain ⟨s3, hrun3, ho3⟩ := execHandoverAccept_enabled he a
    obtain ⟨s4, hrun4, ho4⟩ := execLinkLoss_owner s a
    exact ⟨s1, s2, s3, s4, hrun1, hrun2, hrun3, hrun4, ho1, hb1, hs1, ho2, hs2, ho3, ho4⟩
  case refine_6 =>
    obtain ⟨s', hrun, ⟨hx, hr, hn⟩, hpower, hdark⟩ := execThermalStop_stops hp
    exact ⟨s', hrun, hx, hr, hn, hpower, hdark⟩

end Sys2Proof.Machine
end

section
namespace Sys2Proof.Machine

/-! ### Spill slots (R54, R305) -/

/-- A slot reads as the thread wrote it last. -/
@[simp] theorem slot_setSlot_same (th : Thread) (n : Nat) (x : Reg) : (th.setSlot n x).slot n = x := by
  simp [Thread.slot, Thread.setSlot]

/-- A write of a slot leaves every other slot as it is. -/
theorem slot_setSlot_other (th : Thread) {n k : Nat} (x : Reg) (h : k ≠ n) : (th.setSlot n x).slot k = th.slot k := by
  have hfind : (th.spills.filter fun y => y.1 != n).find? (fun y => y.1 == k) = th.spills.find? fun y => y.1 == k := by
    rw [List.find?_filter]
    congr 1
    funext y
    by_cases hy : y.1 = k <;> simp [hy, h]
  simp [Thread.slot, Thread.setSlot, Ne.symm h, hfind]

/-- SPL and FIL raise RegRange 0x04 at or beyond the spill depth (R305). -/
theorem spill_beyond {r : RegName} {n : BitVec 9} {st : Stall} {i : Instr} (hi : i ∈ [Instr.spl r n st, .fil r n st]) {s : State}
    {t : TRef} {th : Thread} (h : OneLane i s t th) (hn : (s.kernel t.blk).spill ≤ n.toNat) :
    exec i s = .next ((s.modThread t fun _ => th).deliverIssued st [⟨t, 0x05, 0x04, 0⟩] (some i)) := by
  have hc : (s.tctx t).kernel.spill ≤ n.toNat := hn
  simp only [List.mem_cons, List.not_mem_nil, or_false] at hi
  rcases hi with rfl | rfl <;> exact runLocal_trap h st (if_pos hc)

/-- Settles O9: below the depth each is one thread-local change; the slots read as written. -/
theorem spillSlots : Obligations.SpillSlots := by
  unfold Obligations.SpillSlots
  intro r n st
  refine ⟨fun s t th h hn => ?_, fun s t th h hn => ?_, fun th m x => ⟨slot_setSlot_same th m x, fun k hk => slot_setSlot_other th x hk⟩,
    fun i hi s t th h hn => spill_beyond hi h hn⟩
  · exact runLocal_next h st (if_neg (Nat.not_le.mpr hn))
  · exact runLocal_next h st (if_neg (Nat.not_le.mpr hn))

end Sys2Proof.Machine
end

section
namespace Sys2Proof.Machine

/-! ### Blocks, threads and strands after a change of one block -/

/-- What a change of a block keeps of every block, if it keeps it of the changed one. -/
theorem modBlock_keeps {α : Type} (g : Block → α) (s : State) (b : Nat) {f : Block → Block} (hf : ∀ x, g (f x) = g x) (c : Nat) :
    ((s.modBlock b f).blocks[c]?).map g = (s.blocks[c]?).map g := by
  by_cases h : c = b
  · subst h
    cases hc : s.blocks[c]? <;> simp [hc, hf]
  · rw [modBlock_other s f h]

/-- A thread is what the threads of its block say. -/
theorem thread?_congr {s s' : State} {t : TRef} (h : (s'.blocks[t.blk]?).map (·.threads) = (s.blocks[t.blk]?).map (·.threads)) :
    s'.thread? t = s.thread? t := by
  simp only [State.thread?]
  cases h' : s'.blocks[t.blk]? <;> cases h0 : s.blocks[t.blk]? <;> simp_all

/-- A change of a block that keeps its threads keeps every thread. -/
theorem modBlock_thread (s : State) (b : Nat) {f : Block → Block} (hf : ∀ x, (f x).threads = x.threads) (t : TRef) :
    (s.modBlock b f).thread? t = s.thread? t :=
  thread?_congr (modBlock_keeps (·.threads) s b hf t.blk)

/-- A change of a block that keeps its strands keeps every strand. -/
theorem modBlock_strand (s : State) (b : Nat) {f : Block → Block} (hf : ∀ x, (f x).strands = x.strands) (blk k : Nat) :
    (s.modBlock b f).strand? blk k = s.strand? blk k := by
  have h := modBlock_keeps (·.strands) s b hf blk
  simp only [State.strand?]
  cases h' : (s.modBlock b f).blocks[blk]? <;> cases h0 : s.blocks[blk]? <;> simp_all

/-- A changed strand of one block. -/
theorem modBlock_modStrand_strand (s : State) (blk k : Nat) (f : Strand → Strand) :
    (s.modBlock blk fun b => b.modStrand k f).strand? blk k = (s.strand? blk k).map f := by
  simp only [State.strand?, modBlock_get]
  cases s.blocks[blk]? <;> simp [Block.modStrand]

/-! ### Writes at a home (R61, R68) -/

@[simp] theorem homeWrite_cores (s : State) (l : Loc) (bytes : List Byte) (fill : Bool) : (s.homeWrite l bytes fill).cores = s.cores := by
  cases l <;> rfl
@[simp] theorem homeWrite_parts (s : State) (l : Loc) (bytes : List Byte) (fill : Bool) : (s.homeWrite l bytes fill).parts = s.parts := by
  cases l <;> rfl
@[simp] theorem homeWrite_grids (s : State) (l : Loc) (bytes : List Byte) (fill : Bool) : (s.homeWrite l bytes fill).grids = s.grids := by
  cases l <;> rfl
@[simp] theorem homeWrite_threads (s : State) (l : Loc) (bytes : List Byte) (fill : Bool) (c : Nat) :
    ((s.homeWrite l bytes fill).blocks[c]?).map (·.threads) = (s.blocks[c]?).map (·.threads) := by
  cases l with
  | win b o => exact modBlock_keeps (·.threads) s b (fun _ => by rfl) c
  | phys p => rfl
@[simp] theorem homeWrite_thread (s : State) (l : Loc) (bytes : List Byte) (fill : Bool) (t : TRef) :
    (s.homeWrite l bytes fill).thread? t = s.thread? t := thread?_congr (homeWrite_threads s l bytes fill t.blk)
@[simp] theorem homeWrite_strand (s : State) (l : Loc) (bytes : List Byte) (fill : Bool) (blk k : Nat) :
    (s.homeWrite l bytes fill).strand? blk k = s.strand? blk k := by
  cases l with
  | win b o => exact modBlock_strand s b (fun _ => by rfl) blk k
  | phys p => rfl
@[simp] theorem homeWrite_phys_blocks (s : State) (p : Nat) (bytes : List Byte) (fill : Bool) :
    (s.homeWrite (.phys p) bytes fill).blocks = s.blocks := rfl
@[simp] theorem homeWrite_phys_mem (s : State) (p : Nat) (bytes : List Byte) (fill : Bool) :
    (s.homeWrite (.phys p) bytes fill).mem = Mem.putN s.mem p bytes := rfl
@[simp] theorem homeWrite_win_mem (s : State) (b o : Nat) (bytes : List Byte) (fill : Bool) :
    (s.homeWrite (.win b o) bytes fill).mem = s.mem := rfl

/-- A write in block memory leaves every other block as it is. -/
theorem homeWrite_win_other (s : State) {b c : Nat} (o : Nat) (bytes : List Byte) (fill : Bool) (h : c ≠ b) :
    (s.homeWrite (.win b o) bytes fill).blocks[c]? = s.blocks[c]? := modBlock_other s _ h

/-- A write in block memory puts its bytes there, and sets full bits only where it is a fill (R59). -/
theorem homeWrite_win_same {s : State} {b : Nat} {m : Block} (hm : s.blocks[b]? = some m) (o : Nat) (bytes : List Byte) (fill : Bool) :
    ∃ m', (s.homeWrite (.win b o) bytes fill).blocks[b]? = some m' ∧ m'.mem = Mem.putN m.mem o bytes ∧
      (fill = false → m'.full = m.full) := by
  simp only [State.homeWrite, modBlock_get, hm, Option.map_some]
  exact ⟨_, rfl, rfl, fun h => by simp [h]⟩

/-! ### Fills on whose granules no thread waits (R59) -/

/-- No thread waits on a granule of the block memory that a location is in. -/
def State.noneWaits (s : State) (l : Loc) : Prop :=
  ∀ b o m, l = .win b o → s.blocks[b]? = some m → ∀ x ∈ m.threads, ∀ g, x.park ≠ some (.granule g)

/-- Whether a thread waits is what the threads of the blocks say. -/
theorem State.noneWaits.congr {s s' : State} {l : Loc} (h : s.noneWaits l)
    (hk : ∀ b : Nat, (s'.blocks[b]?).map (·.threads) = (s.blocks[b]?).map (·.threads)) : s'.noneWaits l := by
  intro b o m hl hm x hx
  obtain ⟨m0, hm0, e⟩ := Option.map_eq_some_iff.mp ((hk b).symm.trans (congrArg _ hm))
  exact h b o m0 hl hm0 x (e ▸ hx)

/-- The full/empty loads of a block of which none waits. -/
theorem feWaits_nil {s : State} {b : Nat} (h : ∀ m, s.blocks[b]? = some m → ∀ x ∈ m.threads, ∀ g, x.park ≠ some (.granule g)) :
    s.feWaits b = [] := by
  rw [List.eq_nil_iff_forall_not_mem]
  intro y hy
  simp only [State.feWaits, List.mem_append, List.mem_filter, List.mem_insertionSort, List.mem_filterMap] at hy
  obtain ⟨x, hx, hpark⟩ := hy.elim And.left And.left
  cases hb : s.blocks[b]? with
  | none => simp [hb] at hx
  | some m =>
    have hm := h m hb x.1 (List.fst_mem_of_mem_zipIdx (by simpa [hb] using hx))
    split at hpark
    · next w hw => exact hm w hw
    · cases hpark

/-- A fill for which no thread waits is a write that sets full bits. -/
theorem homeFill_noneWaits {s : State} {l : Loc} (h : s.noneWaits l) (bytes : List Byte) : s.homeFill l bytes = s.homeWrite l bytes true := by
  cases l with
  | phys p => rfl
  | win b o =>
    have hn : (s.homeWrite (.win b o) bytes true).noneWaits (.win b o) := h.congr (homeWrite_threads s _ bytes true)
    have hw : (s.homeWrite (.win b o) bytes true).feWaits b = [] := feWaits_nil fun m => hn b o m rfl
    simp only [State.homeFill, State.wakeGranules, hw, List.foldl_nil]

/-- A write of a block that is not doubled, with no thread waiting for what it may fill, is performed at its home (R104). -/
theorem performWrite_home {s : State} {w : QWrite} (hd : (s.blocks[w.t.blk]?).map Block.doubled ≠ some true) (h : s.noneWaits w.loc) :
    s.performWrite w = s.homeWrite w.loc w.bytes w.fill := by
  unfold State.performWrite
  split
  · next hdbl => exact absurd hdbl hd
  · cases hf : w.fill
    · rfl
    · exact homeFill_noneWaits h w.bytes

/-- The oldest write of a strand of one block leaves the queue and is performed at its home. -/
theorem drainOne_home {s : State} {blk k : Nat} {st : Strand} {w : QWrite} {r : List QWrite} (hst : s.strand? blk k = some st)
    (hj : st.joint = none) (hq : st.queue = w :: r) (hd : (s.blocks[w.t.blk]?).map Block.doubled ≠ some true) (h : s.noneWaits w.loc) :
    s.drainOne blk k =
      (s.modBlock blk fun b => b.modStrand k fun st => { st with queue := r }).homeWrite w.loc w.bytes w.fill := by
  have hone : (s.strand? blk k).bind Strand.joint = none := by simp [hst, hj]
  simp only [State.drainOne, hst, Option.map_some, hq, modStrand_single s blk k _ hone]
  apply performWrite_home
  · rwa [modBlock_keeps Block.doubled s blk fun _ => by rfl]
  · exact h.congr fun b => modBlock_keeps (·.threads) s blk (fun _ => by rfl) b

/-- Settles O18: the drain is a change of the strand's queue, then one write at the home. -/
theorem storeQueueDrain : Obligations.StoreQueueDrain := by
  unfold Obligations.StoreQueueDrain
  intro s blk k st w r hst hj hq hok hd hw
  have hcanon := State.canon_iff.mp hok
  refine ⟨_, congrArg Host.Outcome.next (drainOne_home hst hj hq hd hw), ?_, by simp, by simp, by simp, fun t => ?_, fun p hl => ?_,
    fun b o m hl hm => ?_⟩
  · rw [homeWrite_strand, modBlock_modStrand_strand, hst]
    rfl
  · rw [homeWrite_thread]
    exact modBlock_thread s blk (fun _ => by rfl) t
  · rw [hl]
    exact ⟨fun b => modBlock_keeps Block.memFull s blk (fun _ => by rfl) b, fun a => Mem.get_putN hcanon.1 p a w.bytes⟩
  · have hk := modBlock_keeps Block.memFull s blk (f := fun b => b.modStrand k fun st => { st with queue := r }) (fun _ => rfl)
    obtain ⟨m1, hm1, e⟩ := Option.map_eq_some_iff.mp ((hk b).trans (congrArg _ hm))
    obtain ⟨hmem, hfull⟩ := Prod.mk.inj e
    obtain ⟨m', hm', hmem', hfull'⟩ := homeWrite_win_same hm1 o w.bytes w.fill
    rw [hl]
    refine ⟨rfl, fun c hc => ?_, m', hm', fun hf => (hfull' hf).trans hfull, fun a => ?_⟩
    · rw [homeWrite_win_other _ o w.bytes w.fill hc, hk]
    · rw [hmem', hmem]
      exact Mem.get_putN (hcanon.2 m (List.mem_of_getElem? hm)) o a w.bytes

end Sys2Proof.Machine
end

section
namespace Sys2Proof.Machine

/-! ### How many threads each block has: nothing that a queued write brings about changes it -/

/-- The number of threads of each block. -/
def State.threadCounts (s : State) : List Nat := s.blocks.map fun b => b.threads.length

/-- The threads of a state are those that its counts of threads name. -/
theorem thread?_isSome_iff (s : State) (t : TRef) : (s.thread? t).isSome ↔ ∃ n, s.threadCounts[t.blk]? = some n ∧ t.tid < n := by
  simp only [State.thread?, State.threadCounts, List.getElem?_map]
  cases s.blocks[t.blk]? <;> simp

/-- A thread is still there where no block has lost or gained threads. -/
theorem thread?_isSome_congr {s s' : State} (h : s'.threadCounts = s.threadCounts) (t : TRef) :
    (s'.thread? t).isSome = (s.thread? t).isSome := by
  rw [Bool.eq_iff_iff, thread?_isSome_iff, thread?_isSome_iff, h]

theorem threadCounts_of_blocks {s s' : State} (h : s'.blocks = s.blocks) : s'.threadCounts = s.threadCounts := by
  rw [State.threadCounts, State.threadCounts, h]

@[simp] theorem want_threadCounts (s : State) (e : Event) : (s.want e).threadCounts = s.threadCounts := threadCounts_of_blocks (by simp)
@[simp] theorem mustNow_threadCounts (s : State) (e : Event) : (s.mustNow e).threadCounts = s.threadCounts :=
  threadCounts_of_blocks rfl
@[simp] theorem notify_threadCounts (s : State) (p duty : Nat) (args : List Nat) (w : Option HostEvent) :
    (s.notify p duty args w).threadCounts = s.threadCounts := threadCounts_of_blocks rfl
@[simp] theorem recordPoison_threadCounts (s : State) (p frame : Nat) : (s.recordPoison p frame).threadCounts = s.threadCounts :=
  threadCounts_of_blocks rfl
@[simp] theorem unfile_threadCounts (s : State) (blk : Nat) : (s.unfile blk).threadCounts = s.threadCounts :=
  threadCounts_of_blocks rfl

theorem modBlock_threadCounts (s : State) (b : Nat) {f : Block → Block} (hf : ∀ x, (f x).threads.length = x.threads.length) :
    (s.modBlock b f).threadCounts = s.threadCounts := by
  apply List.ext_getElem?
  intro n
  simp only [State.threadCounts, List.getElem?_map]
  exact modBlock_keeps (fun b => b.threads.length) s b hf n

@[simp] theorem modThread_threadCounts (s : State) (t : TRef) (f : Thread → Thread) : (s.modThread t f).threadCounts = s.threadCounts :=
  modBlock_threadCounts s t.blk fun _ => by simp [Block.modThread]

@[simp] theorem parkAt_threadCounts (s : State) (t : TRef) (p : Park) : (s.parkAt t p).threadCounts = s.threadCounts :=
  modThread_threadCounts s t _

theorem foldl_threadCounts {α : Type} {f : State → α → State} (h : ∀ s a, (f s a).threadCounts = s.threadCounts) (l : List α) (s : State) :
    (l.foldl f s).threadCounts = s.threadCounts :=
  foldl_keeps (P := fun x => x.threadCounts = s.threadCounts) (fun a x hs => (h a x).trans hs) l rfl

@[simp] theorem modStrand_threadCounts (s : State) (blk k : Nat) (f : Strand → Strand) :
    (s.modStrand blk k f).threadCounts = s.threadCounts :=
  modStrand_keeps State.threadCounts (fun s b _ _ => modBlock_threadCounts s b fun _ => by rfl) s blk k f

/-- Blocks changed one by one, by their places, with their threads kept. -/
theorem mapZip_threadCounts (s : State) {f : Block × Nat → Block} (h : ∀ x, (f x).threads.length = x.1.threads.length) :
    State.threadCounts { s with blocks := s.blocks.zipIdx.map f } = s.threadCounts := by
  simp only [State.threadCounts, List.map_map]
  calc s.blocks.zipIdx.map ((fun b => b.threads.length) ∘ f) = s.blocks.zipIdx.map ((fun b => b.threads.length) ∘ Prod.fst) :=
        List.map_congr_left fun x _ => h x
    _ = s.blocks.map fun b => b.threads.length := by rw [← List.map_map, List.zipIdx_map_fst]

@[simp] theorem splitBlock_threadCounts (s : State) (blk : Nat) : (s.splitBlock blk).threadCounts = s.threadCounts := by
  unfold State.splitBlock
  dsimp only
  split
  · rfl
  · exact mapZip_threadCounts s fun _ => by rfl

@[simp] theorem forgetLanes_threadCounts (s : State) (blk : Nat) : (s.forgetLanes blk).threadCounts = s.threadCounts :=
  mapZip_threadCounts s fun x => by split <;> rfl

@[simp] theorem requestSave_threadCounts (s : State) (blk : Nat) (why : SaveWhy) : (s.requestSave blk why).threadCounts = s.threadCounts := by
  refine foldl_threadCounts (fun s k => ?_) _ s
  split
  · rfl
  · split
    · exact modBlock_threadCounts s k fun _ => by rfl
    · rfl

/-- Threads that end with their block stay in it. -/
@[simp] theorem stopBlock_threadCounts (s : State) (blk status : Nat) : (s.stopBlock blk status).threadCounts = s.threadCounts := by
  have hone : ∀ (s : State) (k : Nat), ((((s.splitBlock k).unfile k).forgetLanes k).modBlock k fun b =>
      { b with status := if b.status = 0 then status else b.status,
               threads := b.threads.map fun t => { t with live := false, park := t.park.bind Park.afterStop, filed := false } }).threadCounts =
        s.threadCounts := by
    intro s k
    rw [modBlock_threadCounts _ k fun _ => by simp]
    simp
  unfold State.stopBlock
  dsimp only
  split <;> simp [hone]

@[simp] theorem takeTrap_threadCounts (s : State) (t : TRef) (cause sub : Nat) (mask : BitVec 64) (first : Nat) (word : Word) :
    (s.takeTrap t cause sub mask first word).threadCounts = s.threadCounts := by
  unfold State.takeTrap
  split
  · rfl
  · split <;> simp

@[simp] theorem completeEarlier_threadCounts (s : State) (l : List LaneTrap) : (s.completeEarlier l).threadCounts = s.threadCounts :=
  foldl_threadCounts (fun s x => by simp) l s

/-- The delivery of causes ends threads, but takes none out of its block. -/
@[simp] theorem deliver_threadCounts (s : State) (l : List LaneTrap) (i : Option Instr) : (s.deliver l i).threadCounts = s.threadCounts := by
  unfold State.deliver
  split
  · rfl
  · dsimp only
    split
    -- MigrationFault, TableFault and QueueQuota ask for a save.
    · simp
    · simp
    · simp
    -- RetiredOpcode, ServiceCall and LayerPoolExhausted park their lanes.
    · rw [foldl_threadCounts fun s y => by simp]
      split <;> simp
    · rw [foldl_threadCounts fun s y => by simp, completeEarlier_threadCounts]
    · rw [foldl_threadCounts, foldl_threadCounts, completeEarlier_threadCounts]
      · intro s y
        cases i <;> simp
      · intro s va
        split <;> simp
    -- Poison parks its lanes for the host, or enters their handlers, as every other cause does.
    · split
      · rw [foldl_threadCounts fun s y => by simp, completeEarlier_threadCounts]
      · rw [foldl_threadCounts, completeEarlier_threadCounts]
        intro s y
        split <;> simp
    · rw [foldl_threadCounts fun s y => by simp, completeEarlier_threadCounts]

@[simp] theorem correct_threadCounts (s : State) (l : Loc) (n : Nat) : (s.correct l n).threadCounts = s.threadCounts := by
  have h := congrArg (List.map fun x => x.2.1.length) (sameShape_correct s l n).shapes
  simpa [State.threadCounts, Block.shape, Function.comp_def] using h

@[simp] theorem homeWrite_threadCounts (s : State) (l : Loc) (bytes : List Byte) (fill : Bool) :
    (s.homeWrite l bytes fill).threadCounts = s.threadCounts := by
  cases l with
  | win b o => exact modBlock_threadCounts s b fun _ => by rfl
  | phys p => rfl

@[simp] theorem feDone_threadCounts (s : State) (t : TRef) (x : FeWait) : (s.feDone t x).threadCounts = s.threadCounts := by
  unfold State.feDone
  dsimp only
  rw [modThread_threadCounts]
  split
  · rw [modBlock_threadCounts _ _ fun _ => by rfl, correct_threadCounts]
  · rw [correct_threadCounts]

@[simp] theorem wakeGranule_threadCounts (s : State) (x : TRef × FeWait) : (s.wakeGranule x).threadCounts = s.threadCounts := by
  unfold State.wakeGranule
  split
  · rfl
  · dsimp only
    split_ifs
    · rfl
    · rw [deliver_threadCounts]
      exact modThread_threadCounts s x.1 Thread.unpark
    · simp

@[simp] theorem homeFill_threadCounts (s : State) (l : Loc) (bytes : List Byte) : (s.homeFill l bytes).threadCounts = s.threadCounts := by
  cases l with
  | win b o => exact (foldl_threadCounts wakeGranule_threadCounts _ _).trans (homeWrite_threadCounts s _ bytes true)
  | phys p => rfl

@[simp] theorem performWrite_threadCounts (s : State) (w : QWrite) : (s.performWrite w).threadCounts = s.threadCounts := by
  unfold State.performWrite
  split
  · exact modBlock_threadCounts s _ fun _ => by rfl
  · split <;> simp

/-- The queued writes of a strand, fills among them, leave every thread in its block. -/
@[simp] theorem drainStrand_threadCounts (s : State) (blk k : Nat) : (s.drainStrand blk k).threadCounts = s.threadCounts := by
  unfold State.drainStrand
  split
  · rw [foldl_threadCounts performWrite_threadCounts, modStrand_threadCounts]
  · rfl

end Sys2Proof.Machine
end

section
namespace Sys2Proof.Machine

/-! ### Atomics at issue (R67, R303, R304) -/

/-- An atomic is one body, run for its agent. -/
theorem exec_atomic {d a : RegName} {k : AtomKind} {w : Width} {sys : Bool} {st : Stall} {x : Instr × AtomAgent}
    (hx : x ∈ [(Instr.atomc d a k w st, AtomAgent.c), (.atomq d a k w st, .q), (.atomd d a k w st, .d), (.atomp d a k w st, .p),
      (.atomx d a k sys st, .x)]) (s : State) : exec x.1 s = s.run x.1 st (atomBody x.2 d a k) := by
  simp only [List.mem_cons, List.not_mem_nil, or_false] at hx
  rcases hx with rfl | rfl | rfl | rfl | rfl <;> rfl

/-- No thread of a block that is not doubled waits for a seal (R368). -/
theorem sealIf_single {s : State} {t : TRef} {th : Thread} (hd : s.isDoubled t.blk = false) (hs : th.sealed = false) (c : Bool)
    (f : State → Lane) : s.sealIf c t th f = f s := by
  have hd' : ((s.blocks[t.blk]?).map Block.doubled).getD false = false := hd
  cases c <;> simp [State.sealIf, State.sealGate, hd', hs]

section
variable {g : AtomAgent} {d a : RegName} {k : AtomKind} {s s1 : State} {t : TRef} {th : Thread} {l : Loc}

/-- An atomic whose scope does not reach the location (R67). -/
theorem atomBody_outOfReach (hr : Reaches s t .probe (th.pair a) (AtomType.bytes k.ty) s1 l) (h : s1.reaches g t.blk l = false) :
    atomBody g d a k s t th = .trap s1 0x21 0x0C (th.pair a).toNat := by
  simp [atomBody, access_ok _ hr.below hr.aligned hr.here, h]

/-- An atomic whose agent reaches the location, outside a doubled block and with no error there, is sent. -/
theorem atomBody_sends (hr : Reaches s t .probe (th.pair a) (AtomType.bytes k.ty) s1 l) (h : s1.reaches g t.blk l = true)
    (hd : s1.isDoubled t.blk = false) (hs : th.sealed = false) {s2 : State} (ht : s2.thread? t = some th)
    (hr2 : Reaches s1 t .rmw (th.pair a) (AtomType.bytes k.ty) s2 l) (he : s2.homeBad l (AtomType.bytes k.ty) = false) :
    atomBody g d a k s t th = s2.sendAtomic t th d k l := by
  simp [atomBody, access_ok _ hr.below hr.aligned hr.here, h, sealIf_single hd hs, access_ok _ hr2.below hr2.aligned hr2.here,
    State.readError, he, ht]

/-- The read-modify-write that a thread sends with an atomic (R304). -/
def State.rmwOf (s : State) (t : TRef) (th : Thread) (d : RegName) (k : AtomKind) (l : Loc) : Rmw :=
  ⟨k.op, k.ty, l, (atomOperands th d k).1, (atomOperands th d k).2, archOf th.wb d,
    (s.issue.core, (s.core s.issue.core).cycles, s.issue.slot), s.issue.lanes.idxOf t⟩

/-- A sent atomic: the strand's writes are performed, and the thread is parked until its agent performs the atomic. -/
theorem sendAtomic_eq (s : State) (t : TRef) (th : Thread) (d : RegName) (k : AtomKind) (l : Loc) :
    s.sendAtomic t th d k l = .go (((s.drainStrand t.blk th.strand).modThread t fun _ =>
      { th.advance with park := some (.atomic ((s.drainStrand t.blk th.strand).rmwOf t th d k l)) }).want
        (.atomicRmwPerform t.blk t.tid)) := rfl

/-- What the issue that sends an atomic leaves: its thread waits at PC + 4, and its agent is asked to perform the atomic. -/
theorem afterLane_sendAtomic (i : Instr) (st : Stall) (ht : s.thread? t = some th) :
    (afterLane i t st (s.sendAtomic t th d k l)).mem = (s.drainStrand t.blk th.strand).mem ∧
    (afterLane i t st (s.sendAtomic t th d k l)).thread? t = some { th with
      park := some (.atomic ((s.drainStrand t.blk th.strand).rmwOf t th d k l)), pc := th.pc + 4, stall := st.toNat,
      word := (s.drainStrand t.blk th.strand).issue.word, again := false } ∧
    Event.atomicRmwPerform t.blk t.tid ∈ (afterLane i t st (s.sendAtomic t th d k l)).work := by
  have hstays : ((s.drainStrand t.blk th.strand).thread? t).isSome := by
    rw [thread?_isSome_congr (drainStrand_threadCounts s t.blk th.strand), ht]
    rfl
  obtain ⟨th0, hth0⟩ := Option.isSome_iff_exists.mp hstays
  rw [sendAtomic_eq]
  refine ⟨by simp [afterLane], ?_, by simp [afterLane, want_asked]⟩
  simp only [afterLane, modThread_get, (sameRest_want _ _).thread, hth0, Option.map_some, want_issue, modThread_issue]
  rfl

end

/-- Settles O23: the agent of R67 reaches or does not; where it does, the atomic is sent and its thread waits. -/
theorem atomicsIssue : Obligations.AtomicsIssue := by
  unfold Obligations.AtomicsIssue
  intro d a k w sys st x hx s t th s1 l h hs hr there
  have hthere : there ↔ s1.reaches x.2 t.blk l = true := by
    cases l <;> cases hg : x.2 <;> simp [there, hg, State.reaches]
  rw [hthere, exec_atomic hx, run_one h]
  refine ⟨fun hn => ?_, fun hy hd s2 ht hr2 he => ?_⟩
  · rw [atomBody_outOfReach hr (Bool.eq_false_iff.mpr hn)]
    rfl
  · rw [atomBody_sends hr hy hd hs ht hr2 he]
    obtain ⟨hmem, hth, hwork⟩ := afterLane_sendAtomic (d := d) (k := k) (l := l) x.1 st ht
    exact ⟨_, _, rfl, hmem, hth, rfl, rfl, rfl, rfl, rfl, rfl, hwork⟩

end Sys2Proof.Machine
end

section
namespace Sys2Proof.Machine

/-! ### Atomics performed (R67, R304) -/

/-- The little-endian bytes of a number depend on the number modulo a power of 2 that they fit in. -/
theorem leBytes_mod_pow (n k v : Nat) (h : n ≤ k) : leBytes n (v % 256 ^ k) = leBytes n v := by
  induction n generalizing k v with
  | zero => rfl
  | succ n ih =>
    obtain ⟨j, rfl⟩ := Nat.exists_eq_add_of_le' (show 1 ≤ k by omega)
    have hlow : BitVec.ofNat 8 (v % 256 ^ (j + 1)) = BitVec.ofNat 8 v := by
      apply BitVec.eq_of_toNat_eq
      rw [BitVec.toNat_ofNat, BitVec.toNat_ofNat, pow_succ']
      exact Nat.mod_mul_right_mod v 256 (256 ^ j)
    have hhigh : v % 256 ^ (j + 1) / 256 = v / 256 % 256 ^ j := by
      rw [pow_succ', Nat.mod_mul_right_div_self]
    rw [leBytes, leBytes, hlow, hhigh, ih j (v / 256) (by omega)]

/-- The value that bytes hold is below the power of 256 of their number. -/
theorem leNat_lt (l : List Byte) : leNat l < 256 ^ l.length := by
  induction l with
  | nil => simp [leNat]
  | cons b r ih =>
    have hb := b.isLt
    rw [leNat, List.length_cons, pow_succ]
    omega

/-- The bytes of an address-sized number are those of the number (R9). -/
theorem leBytes_addr {n : Nat} (hn : n ≤ 8) (v : Nat) : leBytes n (Addr.ofNat v).toNat = leBytes n v := by
  rw [Addr.ofNat, BitVec.toNat_ofNat]
  exact leBytes_mod_pow n 8 v hn

/-- Up to eight bytes read at an address fit in a value. -/
theorem toNat_getN (m : List Host.Cell) (p : Nat) {n : Nat} (hn : n ≤ 8) :
    (BitVec.ofNat 64 (leNat (Mem.getN m p n))).toNat = leNat (Mem.getN m p n) := by
  rw [BitVec.toNat_ofNat, Nat.mod_eq_of_lt]
  calc leNat (Mem.getN m p n) < 256 ^ n := by simpa using leNat_lt (Mem.getN m p n)
    _ ≤ 2 ^ 64 := Nat.pow_le_pow_right (by decide) hn

/-- Up to eight bytes read at an address, as a value. -/
theorem addrOf_getN (m : List Host.Cell) (p : Nat) {n : Nat} (hn : n ≤ 8) :
    addrOf (Mem.getN m p n) = BitVec.ofNat 64 (leNat (Mem.getN m p n)) := by
  rw [addrOf, List.take_of_length_le (by simpa using hn)]
  rfl

/-- An atomic moves four bytes or eight (R64). -/
theorem atomBytes_eq (ty : AtomType) : AtomType.bytes ty = if ty = .n64 then 8 else 4 := by cases ty <;> rfl

theorem atomBytes_le (ty : AtomType) : AtomType.bytes ty ≤ 8 := by cases ty <;> decide

/-- The new value of an atomic in exact arithmetic of its type, from the old value, the operand and the compare value (R304). -/
def atomExact (op : AtomOp) (ty : AtomType) (old x c : Nat) : Nat :=
  let sg := fun (v : Nat) => (BitVec.ofNat 32 v).toInt
  match op with
  | .add => (old + x) % 2 ^ (8 * AtomType.bytes ty)
  | .min => if ty = .i32 then (if sg x < sg old then x else old) else min x old
  | .max => if ty = .i32 then (if sg old < sg x then x else old) else max x old
  | .and => old &&& x
  | .or => old ||| x
  | .xor => old ^^^ x
  | .xchg => x
  | .cas => if old = c then x else old
  | .fadd => (Fmt.f32.addOp (old % 2 ^ 32) (x % 2 ^ 32)).1

/-- The signed order of two words, on the numbers that hold them. -/
theorem slt_truncate (a b : Addr) :
    ((a.truncate 32 : Word).slt (b.truncate 32) = true) ↔ (BitVec.ofNat 32 a.toNat).toInt < (BitVec.ofNat 32 b.toNat).toInt := by
  rw [BitVec.ofNat_toNat, BitVec.ofNat_toNat, BitVec.slt_iff_toInt_lt]

/-- The lesser of two values in the unsigned order. -/
theorem toNat_lesser (a b : Addr) : (if a.toNat < b.toNat then a else b).toNat = min a.toNat b.toNat := by split <;> omega

/-- The greater of two values in the unsigned order. -/
theorem toNat_greater (a b : Addr) : (if b.toNat < a.toNat then a else b).toNat = max a.toNat b.toNat := by split <;> omega

/-- The bytes that an atomic writes are those of its exact new value. -/
theorem leBytes_atomNew (op : AtomOp) (ty : AtomType) (old x c : Addr) :
    leBytes (AtomType.bytes ty) (atomNew op ty old x c).toNat = leBytes (AtomType.bytes ty) (atomExact op ty old.toNat x.toNat c.toNat) := by
  cases op with
  | add => simp only [atomNew, atomExact, leBytes_addr (atomBytes_le ty), Nat.mul_comm 8]
  | min =>
    by_cases ht : ty = .i32
    · simp only [atomNew, atomExact, ht, if_true, slt_truncate]
      split <;> rfl
    · simp only [atomNew, atomExact, ht, if_false, decide_eq_true_eq, toNat_lesser]
  | max =>
    by_cases ht : ty = .i32
    · simp only [atomNew, atomExact, ht, if_true, slt_truncate]
      split <;> rfl
    · simp only [atomNew, atomExact, ht, if_false, decide_eq_true_eq, toNat_greater]
  | and => simp only [atomNew, atomExact, BitVec.toNat_and]
  | or => simp only [atomNew, atomExact, BitVec.toNat_or]
  | xor => simp only [atomNew, atomExact, BitVec.toNat_xor]
  | xchg => rfl
  | cas =>
    simp only [atomNew, atomExact, BitVec.toNat_inj]
    split <;> rfl
  | fadd => simp only [atomNew, atomExact, leBytes_addr (atomBytes_le ty)]

@[simp] theorem Block.overtaken_threads (b : Block) (l : Loc) (n : Nat) : (b.overtaken l n).threads = b.threads := by cases l <;> rfl
@[simp] theorem Block.overtaken_copy (b : Block) (l : Loc) (n : Nat) : (b.overtaken l n).copy = b.copy := by cases l <;> rfl

section
variable {s : State} {t : TRef} {th : Thread} {r : Rmw} {p : Nat}

/-- The atomic of a block that is not doubled returns its old value to its thread alone (R113). -/
theorem atomReturn_single (h : (s.blocks[t.blk]?).map (·.copy) = some .single) (r : Rmw) (old : Addr) :
    s.atomReturn t r old = s.atomDone t r old := by
  obtain ⟨b, hb, hc⟩ := Option.map_eq_some_iff.mp h
  have hpart : ((s.atomDone t r old).blocks[t.blk]?).bind Block.partner = none := by
    simp [State.atomDone, modThread_block, hb, Block.modThread, Block.partner, hc]
  simp only [State.atomReturn, hpart]

/-- The machine once n bytes at a pod address have been read, and written by an atomic of a block that overtakes what the block has in
quarantine there (R103, R304). -/
def State.wroteAtomic (s : State) (blk p n new : Nat) : State :=
  ((s.correct (.phys p) n).homeWrite (.phys p) (leBytes n new) false).modBlock blk fun b => b.overtaken (.phys p) n

theorem wroteAtomic_thread (s : State) (blk p n new : Nat) (u : TRef) : (s.wroteAtomic blk p n new).thread? u = s.thread? u :=
  modBlock_thread _ blk (fun b => b.overtaken_threads _ n) u

theorem wroteAtomic_copy (s : State) (blk p n new : Nat) (b : Nat) :
    ((s.wroteAtomic blk p n new).blocks[b]?).map (·.copy) = (s.blocks[b]?).map (·.copy) :=
  modBlock_keeps (·.copy) _ blk (fun b => b.overtaken_copy _ n) b

theorem wroteAtomic_blockMem (s : State) (blk p n new : Nat) (b : Nat) :
    ((s.wroteAtomic blk p n new).blocks[b]?).map (·.mem) = (s.blocks[b]?).map (·.mem) :=
  modBlock_keeps (·.mem) _ blk (fun b => b.overtaken_mem _ n) b

/-- The bytes of an atomic stand at its home, and every other byte is as before. -/
theorem wroteAtomic_get (hok : s.memOk = true) (blk p n new a : Nat) : Mem.get (s.wroteAtomic blk p n new).mem a =
    if p ≤ a ∧ a < p + n then (leBytes n new).getD (a - p) 0 else Mem.get s.mem a := by
  have h := Mem.get_putN (State.canon_iff.mp hok).1 p a (leBytes n new)
  rwa [leBytes_length] at h

/-- With no quarantine the old value of an atomic is what stands at its home. -/
theorem performFor_phys (hl : r.loc = .phys p) {blk : Nat} (hq : (s.blocks[blk]?).map (·.quarantine) = some []) :
    s.performFor blk r = (s.wroteAtomic blk p (AtomType.bytes r.ty)
      (atomNew r.op r.ty (BitVec.ofNat 64 (leNat (Mem.getN s.mem p (AtomType.bytes r.ty)))) r.x r.c).toNat,
      BitVec.ofNat 64 (leNat (Mem.getN s.mem p (AtomType.bytes r.ty)))) := by
  have hold : (s.correct (.phys p) (AtomType.bytes r.ty)).inCopy blk (.phys p)
      ((s.correct (.phys p) (AtomType.bytes r.ty)).homeRead (.phys p) (AtomType.bytes r.ty)) =
      Mem.getN s.mem p (AtomType.bytes r.ty) := by
    simp only [State.inCopy, (sameRest_correct s p _).blocks, hq, Option.getD_some, List.foldl_nil, State.homeRead, correct_phys_mem]
  simp only [State.performFor, hl, hold, addrOf_getN s.mem p (atomBytes_le r.ty)]
  rfl

/-- An atomic of a block that is not doubled, for which no lower lane waits, is performed at its home and returns its old value to its
thread (R304). -/
theorem atomicPerform_single (ht : s.thread? t = some th) (hp : th.park = some (.atomic r)) (hl : r.loc = .phys p)
    (hc : (s.blocks[t.blk]?).map (·.copy) = some .single) (hq : (s.blocks[t.blk]?).map (·.quarantine) = some [])
    (hw : s.lowerLaneWaits r = false) :
    s.atomicPerform t = (s.wroteAtomic t.blk p (AtomType.bytes r.ty)
      (atomNew r.op r.ty (BitVec.ofNat 64 (leNat (Mem.getN s.mem p (AtomType.bytes r.ty)))) r.x r.c).toNat).atomDone t r
        (BitVec.ofNat 64 (leNat (Mem.getN s.mem p (AtomType.bytes r.ty)))) := by
  obtain ⟨b, hb, hcopy⟩ := Option.map_eq_some_iff.mp hc
  have htrail : ((s.blocks[t.blk]?).map Block.trailing).getD false = false := by simp [hb, Block.trailing, hcopy]
  simp only [State.atomicPerform, ht, Thread.rmw?, hp, htrail, hw, performFor_phys hl hq, Bool.false_eq_true, if_false]
  exact atomReturn_single ((wroteAtomic_copy s t.blk p _ _ t.blk).trans hc) r _

end

/-- Settles O24: the atomic reads, computes and writes at its home, and its thread alone goes on. -/
theorem atomicPerformed : Obligations.AtomicPerformed := by
  unfold Obligations.AtomicPerformed
  intro s t th r p ht hp hl hcq hw hok n m old sg x new
  obtain ⟨b, hb, hbcq⟩ := Option.map_eq_some_iff.mp hcq
  obtain ⟨hcopy, hquar⟩ := Prod.mk.inj hbcq
  have hc : (s.blocks[t.blk]?).map (·.copy) = some .single := by simp [hb, hcopy]
  have hq : (s.blocks[t.blk]?).map (·.quarantine) = some [] := by simp [hb, hquar]
  have hn : AtomType.bytes r.ty = n := atomBytes_eq r.ty
  have hnew : atomExact r.op r.ty old x r.c.toNat = new := by
    simp only [new, m, ← hn]
    cases r.op <;> rfl
  have hbytes : leBytes n (atomNew r.op r.ty (BitVec.ofNat 64 old) r.x r.c).toNat = leBytes n new := by
    rw [← hn, leBytes_atomNew, toNat_getN s.mem p (hn ▸ atomBytes_le r.ty), hnew]
  refine ⟨_, congrArg Host.Outcome.next (atomicPerform_single ht hp hl hc hq hw), fun a => ?_, fun c => ?_, ?_, ?_, fun u hu => ?_⟩
  all_goals rw [hn]
  · exact hbytes ▸ wroteAtomic_get hok t.blk p n _ a
  · rw [← wroteAtomic_blockMem s t.blk p n _ c]
    exact modBlock_keeps (·.mem) _ t.blk (fun _ => by rfl) c
  · rfl
  · rw [State.atomDone, modThread_get, wroteAtomic_thread, ht]
    rfl
  · exact (modThread_other _ _ hu).trans (wroteAtomic_thread s t.blk p n _ u)

end Sys2Proof.Machine
end

section
namespace Sys2Proof.Machine

/-! ### What writes, traps, translations and chunks leave of the service and of the cores (R76)

Only a migration, a change of the tables, or the service itself changes what the service holds; all that a core still performs
before it acknowledges a shootdown adds at most notices for the host and records of poison. -/

/-- The service without its notices for the host and its records of poison, and the number of the cores. -/
def State.ledger (s : State) : Service × Nat := ({ s.svc with mailbox := [], records := [] }, s.cores.length)

theorem standing_of_eq {s s' : State} (hs : s'.svc = s.svc) (hc : s'.cores = s.cores) : s'.ledger = s.ledger := by
  rw [State.ledger, State.ledger, hs, hc]

/-- The migrations in progress are part of what is kept. -/
theorem moves_of_ledger {s s' : State} (h : s'.ledger = s.ledger) : s'.svc.moves = s.svc.moves :=
  congrArg (fun x : Service × Nat => x.1.moves) h

theorem cores_of_ledger {s s' : State} (h : s'.ledger = s.ledger) : s'.cores.length = s.cores.length :=
  congrArg (fun x : Service × Nat => x.2) h

theorem foldl_ledger {α : Type} {f : State → α → State} (h : ∀ s a, (f s a).ledger = s.ledger) (l : List α) (s : State) :
    (l.foldl f s).ledger = s.ledger :=
  foldl_keeps (P := fun x => x.ledger = s.ledger) (fun a x hs => (h a x).trans hs) l rfl

@[simp] theorem modBlock_ledger (s : State) (b : Nat) (f : Block → Block) : (s.modBlock b f).ledger = s.ledger := rfl
@[simp] theorem modThread_ledger (s : State) (t : TRef) (f : Thread → Thread) : (s.modThread t f).ledger = s.ledger := rfl
@[simp] theorem modPart_ledger (s : State) (p : Nat) (f : Part → Part) : (s.modPart p f).ledger = s.ledger := rfl
@[simp] theorem parkAt_ledger (s : State) (t : TRef) (p : Park) : (s.parkAt t p).ledger = s.ledger := rfl
@[simp] theorem mustNow_ledger (s : State) (e : Event) : (s.mustNow e).ledger = s.ledger := rfl
@[simp] theorem notify_ledger (s : State) (p duty : Nat) (args : List Nat) (w : Option HostEvent) :
    (s.notify p duty args w).ledger = s.ledger := rfl
@[simp] theorem recordPoison_ledger (s : State) (p frame : Nat) : (s.recordPoison p frame).ledger = s.ledger := by
  simp only [State.ledger, State.recordPoison]
@[simp] theorem poisonPage_ledger (s : State) (page : Nat) : (s.poisonPage page).ledger = s.ledger := rfl
@[simp] theorem choose_ledger (s : State) : s.choose.2.ledger = s.ledger := rfl
@[simp] theorem setNode_ledger (s : State) (p r i : Nat) (st : NodeState) : (s.setNode p r i st).ledger = s.ledger := rfl
@[simp] theorem forgetLanes_ledger (s : State) (blk : Nat) : (s.forgetLanes blk).ledger = s.ledger := rfl
@[simp] theorem want_ledger (s : State) (e : Event) : (s.want e).ledger = s.ledger := standing_of_eq (by simp) (by simp)
@[simp] theorem modCore_ledger (s : State) (c : Nat) (f : Core → Core) : (s.modCore c f).ledger = s.ledger := by
  simp [State.ledger, State.modCore]
@[simp] theorem unfile_ledger (s : State) (blk : Nat) : (s.unfile blk).ledger = s.ledger := by
  simp [State.ledger, State.unfile]
@[simp] theorem modStrand_ledger (s : State) (blk k : Nat) (f : Strand → Strand) : (s.modStrand blk k f).ledger = s.ledger :=
  standing_of_eq (by simp) (by simp)
@[simp] theorem modHead_ledger (s : State) (core q : Nat) (f : Cmd → Cmd) : (s.modHead core q f).ledger = s.ledger :=
  modCore_ledger ..

@[simp] theorem poisonHome_ledger (s : State) (l : Loc) : (s.poisonHome l).ledger = s.ledger := by cases l <;> rfl

@[simp] theorem homeWrite_ledger (s : State) (l : Loc) (bytes : List Byte) (fill : Bool) :
    (s.homeWrite l bytes fill).ledger = s.ledger := by cases l <;> rfl

@[simp] theorem writeEntry_ledger (s : State) (pa : Nat) (e : Addr) : (s.writeEntry pa e).ledger = s.ledger := rfl

@[simp] theorem correct_ledger (s : State) (l : Loc) (n : Nat) : (s.correct l n).ledger = s.ledger := by
  cases l with
  | phys pa => rfl
  | win b off =>
    unfold State.correct
    dsimp only
    split
    · rfl
    · split
      · rfl
      · split <;> simp

/-! #### Saves and traps -/

@[simp] theorem splitBlock_ledger (s : State) (blk : Nat) : (s.splitBlock blk).ledger = s.ledger := by
  unfold State.splitBlock
  dsimp only
  split <;> rfl

@[simp] theorem requestSave_ledger (s : State) (blk : Nat) (why : SaveWhy) : (s.requestSave blk why).ledger = s.ledger :=
  standing_of_eq (savesAsked_requestSave s blk why).svc (savesAsked_requestSave s blk why).cores

@[simp] theorem stopBlock_ledger (s : State) (blk status : Nat) : (s.stopBlock blk status).ledger = s.ledger := by
  unfold State.stopBlock
  dsimp only
  split <;> simp

@[simp] theorem takeTrap_ledger (s : State) (t : TRef) (cause sub : Nat) (mask : BitVec 64) (first : Nat) (word : Word) :
    (s.takeTrap t cause sub mask first word).ledger = s.ledger := by
  unfold State.takeTrap
  split
  · rfl
  · split <;> simp

@[simp] theorem completeEarlier_ledger (s : State) (l : List LaneTrap) : (s.completeEarlier l).ledger = s.ledger :=
  foldl_ledger (fun _ _ => modThread_ledger ..) l s

/-- Every cause is delivered with a save, a wait, a handler or a notice. -/
@[simp] theorem deliver_ledger (s : State) (l : List LaneTrap) (i : Option Instr) : (s.deliver l i).ledger = s.ledger := by
  have key : ∀ {α : Type} {f : State → α → State} (r : List α) {s0 : State}, (∀ s a, (f s a).ledger = s.ledger) →
      s0.ledger = s.ledger → (r.foldl f s0).ledger = s.ledger := fun r s0 hf h => (foldl_ledger hf r s0).trans h
  unfold State.deliver
  split
  · rfl
  · dsimp only
    split
    case h_1 | h_2 | h_3 => simp
    case h_4 => exact key _ (fun _ _ => by simp) (by split <;> simp)
    case h_5 => exact key _ (fun _ _ => by simp) (by simp)
    case h_6 => exact key _ (fun _ _ => by split <;> simp) (key _ (fun _ _ => by split <;> simp) (by simp))
    case h_7 =>
      split
      · exact key _ (fun _ _ => by simp) (by simp)
      · exact key _ (fun _ _ => by split <;> simp) (by simp)
    case h_8 => exact key _ (fun _ _ => by simp) (by simp)

/-! #### Writes that leave a store queue, and atomics -/

@[simp] theorem feDone_ledger (s : State) (t : TRef) (x : FeWait) : (s.feDone t x).ledger = s.ledger := by
  unfold State.feDone
  dsimp only
  rw [modThread_ledger]
  split <;> simp

@[simp] theorem wakeGranule_ledger (s : State) (x : TRef × FeWait) : (s.wakeGranule x).ledger = s.ledger := by
  unfold State.wakeGranule
  split
  · rfl
  · dsimp only
    split_ifs
    · rfl
    · exact (deliver_ledger ..).trans (modThread_ledger s x.1 Thread.unpark)
    · simp

@[simp] theorem homeFill_ledger (s : State) (l : Loc) (bytes : List Byte) : (s.homeFill l bytes).ledger = s.ledger := by
  cases l with
  | win b o => exact (foldl_ledger wakeGranule_ledger _ _).trans (homeWrite_ledger s _ bytes true)
  | phys p => rfl

@[simp] theorem performWrite_ledger (s : State) (w : QWrite) : (s.performWrite w).ledger = s.ledger := by
  unfold State.performWrite
  split
  · rfl
  · split <;> simp

@[simp] theorem drainStrand_ledger (s : State) (blk k : Nat) : (s.drainStrand blk k).ledger = s.ledger := by
  unfold State.drainStrand
  split
  · rw [foldl_ledger performWrite_ledger, modStrand_ledger]
  · rfl

@[simp] theorem drainBlock_ledger (s : State) (blk : Nat) : (s.drainBlock blk).ledger = s.ledger :=
  foldl_ledger (fun s k => drainStrand_ledger s blk k) _ s

@[simp] theorem atomDone_ledger (s : State) (t : TRef) (r : Rmw) (old : Addr) : (s.atomDone t r old).ledger = s.ledger := rfl

@[simp] theorem performFor_ledger (s : State) (blk : Nat) (r : Rmw) : (s.performFor blk r).1.ledger = s.ledger := by
  simp [State.performFor]

@[simp] theorem atomReturn_ledger (s : State) (t : TRef) (r : Rmw) (old : Addr) : (s.atomReturn t r old).ledger = s.ledger := by
  unfold State.atomReturn
  dsimp only
  split <;> simp

@[simp] theorem copyRmw_ledger (s : State) (blk : Nat) (r : Rmw) (old : Addr) : (s.copyRmw blk r old).ledger = s.ledger := by
  unfold State.copyRmw
  split <;> simp

@[simp] theorem atomForwarded_ledger (s : State) (t : TRef) (r : Rmw) : (s.atomForwarded t r).ledger = s.ledger := by
  unfold State.atomForwarded
  split
  · split <;> simp
  · rfl

@[simp] theorem wantForwarded_ledger (s : State) (blk : Nat) : (s.wantForwarded blk).ledger = s.ledger :=
  foldl_ledger (fun _ _ => want_ledger ..) _ s

@[simp] theorem atomicPerform_ledger (s : State) (t : TRef) : (s.atomicPerform t).ledger = s.ledger := by
  unfold State.atomicPerform
  split
  · rfl
  · split
    · rfl
    · split
      · simp
      · split <;> simp

@[simp] theorem finishAtomics_ledger (s : State) (blk : Nat) : (s.finishAtomics blk).ledger = s.ledger :=
  foldl_ledger (fun s t => atomicPerform_ledger s t) _ s

/-! #### Translations -/

@[simp] theorem fillPoison_ledger (s : State) (core page : Nat) : (s.fillPoison core page).ledger = s.ledger := by
  unfold State.fillPoison
  split <;> simp

@[simp] theorem cachedEntry_ledger (r s : State) (core part level pre : Nat) (now : Addr) :
    (r.cachedEntry s core part level pre now).2.ledger = s.ledger := by
  unfold State.cachedEntry
  split
  · rfl
  · split <;> rfl

theorem walkFrom_ledger (r : State) (core part va level : Nat) : ∀ (node : Nat) (s : State),
    (r.walkFrom core part va level node s).after.ledger = s.ledger := by
  induction level with
  | zero => intro node s; unfold State.walkFrom; grind only [WalkR.after, correct_ledger]
  | succ n ih =>
    intro node s
    unfold State.walkFrom
    grind only [WalkR.after, correct_ledger, cachedEntry_ledger, modCore_ledger]

@[simp] theorem walk_ledger (s : State) (core part va : Nat) : (s.walk core part va).after.ledger = s.ledger := by
  unfold State.walk
  dsimp only
  split
  · rfl
  · exact walkFrom_ledger ..

@[simp] theorem exitPart_ledger (s : State) (p reason : Nat) : (s.exitPart p reason).ledger = s.ledger := by
  unfold State.exitPart
  split
  · rfl
  · dsimp only
    rw [notify_ledger, foldl_ledger (fun s b => requestSave_ledger s b _), modPart_ledger]

@[simp] theorem roomForAppend_ledger (s : State) (part : Nat) : (s.roomForAppend part).ledger = s.ledger := by
  unfold State.roomForAppend
  dsimp only
  split <;> rfl

theorem setDirty_ledger {s s' : State} {part ent level : Nat} {pte : Addr} (h : s.setDirty part ent level pte = some s') :
    s'.ledger = s.ledger := by
  unfold State.setDirty at h
  split at h
  · cases h; simp
  · dsimp only at h
    split at h
    · cases h
    · cases h
      split <;> simp

@[simp] theorem fillTlb_ledger (s : State) (core part va level : Nat) (pte : Addr) (ent : Nat) :
    (s.fillTlb core part va level pte ent).ledger = s.ledger := by
  unfold State.fillTlb
  dsimp only
  split <;> simp

@[simp] theorem tlbHit_ledger (s : State) (core part : Nat) (k : Access) (va : Nat) :
    (s.tlbHit core part k va).2.ledger = s.ledger := by
  unfold State.tlbHit
  split
  · rfl
  · split <;> rfl

@[simp] theorem xlatWalk_ledger (s : State) (core part : Nat) (engine : Bool) (k : Access) (va : Nat) :
    (s.xlatWalk core part engine k va).after.ledger = s.ledger := by
  unfold State.xlatWalk
  grind only [Xl.after, WalkR.after, walk_ledger, writeEntry_ledger, setDirty_ledger, exitPart_ledger, fillTlb_ledger]

@[simp] theorem xlatPage_ledger (s : State) (core part : Nat) (engine : Bool) (k : Access) (va : Nat) :
    (s.xlatPage core part engine k va).after.ledger = s.ledger := by
  unfold State.xlatPage
  grind only [Xl.after, tlbHit_ledger, xlatWalk_ledger]

@[simp] theorem lined_ledger (core : Nat) (a : Xl) : (a.lined core).after.ledger = a.after.ledger := by
  unfold Xl.lined
  split
  · exact fillPoison_ledger ..
  · rfl

@[simp] theorem xlat_ledger (s : State) (core blk : Nat) (engine : Bool) (k : Access) (ea : Addr) :
    (s.xlat core blk engine k ea).after.ledger = s.ledger := by
  unfold State.xlat
  grind only [Xl.after, lined_ledger, xlatPage_ledger]

@[simp] theorem heldXl_ledger (a : Xl) : (heldXl a).after.ledger = a.after.ledger := by
  unfold heldXl
  split
  · split <;> rfl
  · rfl

/-! #### Chunks of copies and fills (R313) -/

/-- The state that a step of a copy leaves. -/
def CopyR.after : CopyR → State
  | .wait s => s
  | .fail s _ => s
  | .ok s => s

/-- The state that a step of a copy leaves, of one that gives more than the state. -/
def CopyR.afterOr {α : Type} : Except CopyR (State × α) → State
  | .error r => r.after
  | .ok x => x.1

/-- A translation that keeps the ledger. -/
def Translate.KeepsLedger (tr : Translate) : Prop := ∀ s k ea, (tr s k ea).after.ledger = s.ledger

theorem blockXl_ledger (core blk : Nat) : (blockXl core blk).KeepsLedger := fun _ _ _ =>
  (heldXl_ledger _).trans (xlat_ledger ..)

theorem replayXl_ledger (part : Nat) : (replayXl part).KeepsLedger := by
  intro s k ea
  unfold replayXl
  split
  · rfl
  · split
    · rfl
    · exact (heldXl_ledger _).trans (xlatPage_ledger ..)

theorem writeAt_ledger (s : State) (ls : List Loc) (bytes : List Byte) : (s.writeAt ls bytes).after.ledger = s.ledger := by
  unfold State.writeAt
  split
  · exact foldl_ledger (fun s l => by split <;> simp) ls s
  · exact foldl_ledger (fun s l => homeFill_ledger s l bytes) ls s

theorem emptyAt_ledger (s : State) (ls : List Loc) (n : Nat) : (s.emptyAt ls n).ledger = s.ledger :=
  foldl_ledger (fun s l => by cases l <;> rfl) ls s

theorem targets_ledger {tr : Translate} (ht : tr.KeepsLedger) (s : State) (k : Access) (blk : Option Nat) (oct : List Word) (ea n : Nat) :
    (CopyR.afterOr (s.targets tr k blk oct ea n)).ledger = s.ledger := by
  have := ht s k (Addr.ofNat ea)
  unfold State.targets
  grind only [CopyR.afterOr, CopyR.after, Xl.after]

theorem sourceHomes_ledger {tr : Translate} (ht : tr.KeepsLedger) (fuel : Nat) : ∀ (s : State) (ea n : Nat),
    (CopyR.afterOr (State.sourceHomes tr fuel s ea n)).ledger = s.ledger := by
  induction fuel with
  | zero => exact fun _ _ _ => rfl
  | succ fuel ih =>
    intro s ea n
    have := ht s .load (Addr.ofNat ea)
    unfold State.sourceHomes
    grind only [CopyR.afterOr, CopyR.after, Xl.after, poisonHome_ledger]

theorem readHomes_ledger (s : State) (srcs : List (Nat × Loc × Nat)) (ea n : Nat) : (s.readHomes srcs ea n).1.ledger = s.ledger := by
  refine foldl_keeps (P := fun r : State × List Byte => r.1.ledger = s.ledger) (fun a x ha => ?_) srcs rfl
  dsimp only
  split
  · exact ha
  · exact (correct_ledger ..).trans ha

theorem moveGranule_ledger (s : State) (w : ChunkWork) (oct : List Word) (base g : Nat) :
    (s.moveGranule w oct base g).after.ledger = s.ledger := by
  unfold State.moveGranule
  dsimp only
  split
  · split
    · exact emptyAt_ledger ..
    · exact writeAt_ledger ..
  · exact (writeAt_ledger ..).trans (readHomes_ledger ..)

theorem moveGranules_ledger (w : ChunkWork) (oct : List Word) (base : Nat) (gs : List Nat) : ∀ s : State,
    (State.moveGranules w oct base gs s).after.ledger = s.ledger := by
  induction gs with
  | nil => exact fun _ => rfl
  | cons g r ih =>
    intro s
    have hg := moveGranule_ledger s w oct base g
    unfold State.moveGranules
    grind only [CopyR.after]

theorem checkChunk_ledger {tr : Translate} (ht : tr.KeepsLedger) (s : State) (blk : Option Nat) (oct : List Word) (done : Nat) :
    (CopyR.afterOr (s.checkChunk tr blk oct done)).ledger = s.ledger := by
  unfold State.checkChunk
  grind only [CopyR.afterOr, sourceHomes_ledger, targets_ledger]

theorem chunkStep_ledger {tr : Translate} (ht : tr.KeepsLedger) (s : State) (blk : Option Nat) (oct : List Word) (p : ChunkAt)
    (sel : List Nat) : (s.chunkStep tr blk oct p sel).1.after.ledger = s.ledger := by
  unfold State.chunkStep
  grind only [CopyR.afterOr, checkChunk_ledger, moveGranules_ledger]

theorem writeOuts_ledger (s : State) (outs : List (Loc × List Byte)) : (s.writeOuts outs).ledger = s.ledger := by
  unfold State.writeOuts
  exact foldl_ledger (fun s w => homeFill_ledger s w.1 w.2) outs s

theorem settleHead_ledger (core : Nat) (parts : List Nat) (s : State) (q : Nat) : (State.settleHead core parts s q).ledger = s.ledger := by
  unfold State.settleHead
  grind only [CopyR.after, writeOuts_ledger, modHead_ledger, chunkStep_ledger, blockXl_ledger]

theorem settleNode_ledger (part rep : Nat) (image : List Byte) (s : State) (x : NodeState × Nat) :
    (State.settleNode part rep image s x).ledger = s.ledger := by
  unfold State.settleNode
  grind only [CopyR.after, writeOuts_ledger, setNode_ledger, chunkStep_ledger, replayXl_ledger]

theorem settleReplays_ledger (s : State) (part : Nat) : (s.settleReplays part).ledger = s.ledger :=
  foldl_ledger (fun _ _ => foldl_ledger (fun s x => settleNode_ledger _ _ _ s x) _ _) _ s

/-- What a core performs before it acknowledges a shootdown leaves the service's ledger as it is (R76). -/
theorem settleWrites_ledger (s : State) (core : Nat) (parts : List Nat) : (s.settleWrites core parts).ledger = s.ledger := by
  unfold State.settleWrites
  dsimp only
  rw [foldl_ledger settleReplays_ledger, foldl_ledger (settleHead_ledger core parts), foldl_ledger fun s k => by simp]

end Sys2Proof.Machine
end

section
namespace Sys2Proof.Machine

/-! ### Leaves and frames (R75) -/

theorem sameRest_modLeaf (s : State) (part vpn : Nat) (f : Addr → Addr) : SameRest s (s.modLeaf part vpn f) := by
  unfold State.modLeaf
  split
  · exact sameRest_writeEntry ..
  · exact .refl s

@[simp] theorem modLeaf_cores (s : State) (part vpn : Nat) (f : Addr → Addr) : (s.modLeaf part vpn f).cores = s.cores := by
  unfold State.modLeaf
  split <;> rfl

@[simp] theorem modLeaf_parts (s : State) (part vpn : Nat) (f : Addr → Addr) : (s.modLeaf part vpn f).parts = s.parts := by
  unfold State.modLeaf
  split <;> rfl

/-- A frame that is returned goes to its free list, and a poisoned one is asked to be cleared (R370). -/
theorem returnFrame_cases (part : Nat) (s : State) (f : Nat) :
    ∃ g, State.returnFrame part s f = s.modPart part g ∨
      State.returnFrame part s f = (s.modPart part g).want (.poisonClear part (s.podPage f)) := by
  unfold State.returnFrame
  dsimp only
  split
  · split
    · exact ⟨_, .inl rfl⟩
    · exact ⟨_, .inr rfl⟩
  · split
    · exact ⟨_, .inl rfl⟩
    · exact ⟨_, .inr rfl⟩

theorem sameRest_returnFrame (part : Nat) (s : State) (f : Nat) : SameRest s (State.returnFrame part s f) := by
  obtain ⟨g, h | h⟩ := returnFrame_cases part s f
  · exact h ▸ sameRest_modPart s part g
  · exact h ▸ (sameRest_modPart s part g).trans (sameRest_want _ _)

@[simp] theorem returnFrame_mem (part : Nat) (s : State) (f : Nat) : (State.returnFrame part s f).mem = s.mem := by
  obtain ⟨g, h | h⟩ := returnFrame_cases part s f <;> simp [h]

@[simp] theorem returnFrame_cores (part : Nat) (s : State) (f : Nat) : (State.returnFrame part s f).cores = s.cores := by
  obtain ⟨g, h | h⟩ := returnFrame_cases part s f <;> simp [h]

/-! ### Shootdowns received (R41, R49, R50, R88) -/

@[simp] theorem modCore_core_same {s : State} {c : Nat} (hc : c < s.cores.length) (f : Core → Core) : (s.modCore c f).core c = f (s.core c) := by
  simp [State.core, List.getElem?_eq_getElem hc]

theorem modCore_core_other (s : State) {c d : Nat} (h : d ≠ c) (f : Core → Core) : (s.modCore c f).core d = s.core d := by
  simp [State.core, State.modCore, h.symm]

/-- The pages of a range of bytes overlap some pages where the range overlaps their bytes. -/
theorem pagesMeet_pagesOf {lo len : Nat} (h : 0 < len) (v n : Nat) :
    pagesMeet v n (pagesOf lo len).1 (pagesOf lo len).2 = true ↔ 4096 * v < lo + len ∧ lo < 4096 * (v + n) := by
  rw [pagesMeet, pagesOf, if_neg h.ne', Bool.and_eq_true, decide_eq_true_eq, decide_eq_true_eq]
  omega

/-- What SHOOTDOWN makes of each block: those of the partition on the core lose what is in the range. -/
def State.shotBlock (s : State) (core part : Nat) (va : Addr) (len : Nat) (exec : Bool) (x : Block × Nat) : Block :=
  if x.1.place == .onCore core && s.partOf x.2 == part then
    x.1.dropRange (pagesOf va.toNat len).1 (pagesOf va.toNat len).2 va.toNat len exec
  else x.1

/-- What SHOOTDOWN makes of the core that receives it. -/
def State.shotCore (s : State) (part : Nat) (va : Addr) (len : Nat) (exec : Bool) (c : Core) : Core :=
  { c.dropRange part (pagesOf va.toNat len).1 (pagesOf va.toNat len).2 with
    shoots := c.shoots ++ [⟨part, va.toNat, len, exec, s.svc.shootNum⟩] }

theorem execShootdown_eq (core part : Nat) (va : Addr) (len : Nat) (exec : Bool) (s : State) : execShootdown core part va len exec s =
    .next (State.want { s.modCore core (s.shotCore part va len exec) with
      svc := { s.svc with shootNum := s.svc.shootNum + 1 },
      blocks := s.blocks.zipIdx.map (s.shotBlock core part va len exec) } (.shootdownAck core)) := rfl

section
variable {s : State} {core part : Nat} {va : Addr} {len : Nat} {exec : Bool}

theorem mem_shotCore_tlb (hl : 0 < len) {c : Core} {e : TlbEntry} : e ∈ (s.shotCore part va len exec c).tlb ↔
    e ∈ c.tlb ∧ ¬ (e.part = part ∧ 4096 * e.vpn < va.toNat + len ∧ va.toNat < 4096 * (e.vpn + e.pages)) := by
  simp only [State.shotCore, Core.dropRange, List.mem_filter, Bool.not_eq_true', ← Bool.not_eq_true, Bool.and_eq_true, beq_iff_eq,
    pagesMeet_pagesOf hl]

/-- A block on the core, of the partition, keeps its threads, its memory and the extents that the range does not overlap (R49). -/
theorem shotBlock_on (hl : 0 < len) {b : Block} {k : Nat} (h : b.place = .onCore core ∧ s.partOf k = part) :
    (s.shotBlock core part va len exec (b, k)).threads = b.threads ∧ (s.shotBlock core part va len exec (b, k)).mem = b.mem ∧
    ∀ e, e ∈ (s.shotBlock core part va len exec (b, k)).extents ↔
      e ∈ b.extents ∧ ¬ (4096 * e.vbase < va.toNat + len ∧ va.toNat < 4096 * (e.vbase + e.pages)) := by
  have hb : s.shotBlock core part va len exec (b, k) =
      b.dropRange (pagesOf va.toNat len).1 (pagesOf va.toNat len).2 va.toNat len exec := if_pos (by simpa using h)
  refine ⟨hb ▸ rfl, hb ▸ rfl, fun e => ?_⟩
  simp only [hb, Block.dropRange, List.mem_filter, Bool.not_eq_true', ← Bool.not_eq_true, pagesMeet_pagesOf hl]

theorem shotBlock_off {b : Block} {k : Nat} (h : ¬ (b.place = .onCore core ∧ s.partOf k = part)) :
    s.shotBlock core part va len exec (b, k) = b := if_neg (by simpa using h)

/-- SHOOTDOWN (R88): the core and the blocks on it lose what is cached of the range, and the core keeps the shootdown to acknowledge. -/
theorem execShootdown_drops (hc : core < s.cores.length) (hl : 0 < len) :
    let meets := fun (v n : Nat) => 4096 * v < va.toNat + len ∧ va.toNat < 4096 * (v + n)
    ∃ s', execShootdown core part va len exec s = .next s' ∧ s'.mem = s.mem ∧ s'.parts = s.parts ∧
      (s'.core core).shoots = (s.core core).shoots ++ [⟨part, va.toNat, len, exec, s.svc.shootNum⟩] ∧
      s'.svc.shootNum = s.svc.shootNum + 1 ∧ Event.shootdownAck core ∈ s'.work ∧
      (∀ e, e ∈ (s'.core core).tlb ↔ e ∈ (s.core core).tlb ∧ ¬ (e.part = part ∧ meets e.vpn e.pages)) ∧
      (∀ c ≠ core, s'.core c = s.core c) ∧
      ∀ k b, s.blocks[k]? = some b → ∃ b' : Block, s'.blocks[k]? = some b' ∧ b'.threads = b.threads ∧ b'.mem = b.mem ∧
        if b.place = .onCore core ∧ s.partOf k = part then
          ∀ e, e ∈ b'.extents ↔ e ∈ b.extents ∧ ¬ meets e.vbase e.pages
        else b' = b := by
  intro meets
  have hcores : ∀ (t : State) (e : Event) (c : Nat), (t.want e).core c = t.core c := fun t e c => by simp [State.core]
  have hshot : (s.modCore core (s.shotCore part va len exec)).core core = s.shotCore part va len exec (s.core core) :=
    modCore_core_same hc _
  refine ⟨_, execShootdown_eq .., by simp, by simp, ?_, by simp, want_asked .., fun e => ?_, fun c hne => ?_, fun k b hb => ?_⟩
  · rw [hcores]
    exact congrArg Core.shoots hshot
  · rw [hcores]
    exact (congrArg (e ∈ Core.tlb ·) hshot).to_iff.trans (mem_shotCore_tlb hl)
  · rw [hcores]
    exact modCore_core_other s hne _
  · refine ⟨s.shotBlock core part va len exec (b, k), by simp [hb], ?_⟩
    split
    · next h => exact shotBlock_on hl h
    · next h => rw [shotBlock_off h]; exact ⟨rfl, rfl, rfl⟩

end

/-! ### Shootdowns acknowledged (R76, R88) -/

/-- What follows the acknowledgements of a change of the tables changes neither the service nor a core. -/
theorem afterAck_keeps (s : State) (c : TableChange) : (s.afterAck c).svc = s.svc ∧ (s.afterAck c).cores = s.cores := by
  unfold State.afterAck
  split
  · exact ⟨(sameRest_modLeaf ..).svc, modLeaf_cores ..⟩
  · exact ⟨(sameRest_returnFrame ..).svc, returnFrame_cores ..⟩

theorem settleChanges_keeps (s : State) : s.settleChanges.svc.moves = s.svc.moves ∧ s.settleChanges.cores = s.cores := by
  unfold State.settleChanges
  refine foldl_keeps (P := fun t : State => t.svc.moves = s.svc.moves ∧ t.cores = s.cores) (fun t c ht => ?_) _ ⟨rfl, rfl⟩
  obtain ⟨hs, hc⟩ := afterAck_keeps t c
  rwa [hs, hc]

/-- The acknowledgements that no longer stand out. -/
theorem mem_acked_left {a : AckWait} {part core : Nat} {l : List Shootdown} {x : Nat × Nat × Nat} : x ∈ (a.acked part core l).left ↔
    x ∈ a.left ∧ ¬ (x.1 = core ∧ ∃ d ∈ l, d.part = part ∧ a.since ≤ d.num ∧ (d.exec = true ∨ a.exec = false) ∧
      d.va ≤ 4096 * x.2.1 ∧ 4096 * (x.2.1 + x.2.2) ≤ d.va + d.len) := by
  simp only [AckWait.acked, List.mem_filter, Bool.not_eq_true', ← Bool.not_eq_true, Bool.and_eq_true, beq_iff_eq, List.any_eq_true,
    Bool.or_eq_true, decide_eq_true_eq, and_assoc]

/-- SHOOTDOWN_ACK (R88): every migration loses the acknowledgements that the core gives, and nothing else. -/
theorem execShootdownAck_moves {s : State} {core : Nat} (hc : core < s.cores.length) : ∃ s', execShootdownAck core s = .next s' ∧
    (s'.core core).shoots = [] ∧
    s'.svc.moves = s.svc.moves.map fun m => { m with acks := m.acks.acked m.part core (s.core core).shoots } := by
  have hset := settleWrites_ledger s core ((s.core core).shoots.map (·.part)).dedup
  have hlen := hc.trans_eq (cores_of_ledger hset).symm
  unfold execShootdownAck
  extract_lets l s1 moved changed svc s2
  obtain ⟨hm, hcs⟩ : s2.svc.moves = s1.svc.moves.map moved ∧ s2.cores = s1.cores := settleChanges_keeps _
  refine ⟨_, rfl, ?_, ?_⟩
  · rw [State.core, wantAll_cores, hcs]
    exact congrArg Core.shoots (modCore_core_same hlen _)
  · rw [wantAll_svc, hm]
    exact congrArg (List.map moved) (moves_of_ledger ((modCore_ledger _ core _).trans hset))

end Sys2Proof.Machine
end

section
namespace Sys2Proof.Machine

/-! ### Migrations begun (R75) -/

theorem wantAll_keeps_asked (s : State) {e : Event} (l : List Event) (h : e ∈ s.work) : e ∈ (s.wantAll l).work :=
  foldl_keeps (P := fun t : State => e ∈ t.work) (fun t _ ht => want_keeps t ht) l h

/-- Every event of a list that is asked for is among those asked for. -/
theorem wantAll_asked (s : State) {e : Event} {l : List Event} (h : e ∈ l) : e ∈ (s.wantAll l).work := by
  obtain ⟨a, b, rfl⟩ := List.append_of_mem h
  have hsplit : s.wantAll (a ++ e :: b) = (s.wantAll a).wantAll (e :: b) := List.foldl_append
  rw [hsplit]
  exact wantAll_head_asked ..

/-- The shootdowns of some leaves, sent one leaf after another. -/
def State.sendShootdowns (part : Nat) (l : List (Nat × Nat × Nat)) (s : State) : State :=
  l.foldl (fun s x => s.sendShootdown part x.1 x.2.1 false) s

theorem sendShootdowns_keeps (part : Nat) (l : List (Nat × Nat × Nat)) (s : State) :
    (s.sendShootdowns part l).svc = s.svc ∧ (s.sendShootdowns part l).blocks = s.blocks ∧ (s.sendShootdowns part l).parts = s.parts := by
  refine foldl_keeps (P := fun t : State => t.svc = s.svc ∧ t.blocks = s.blocks ∧ t.parts = s.parts) (fun t x ht => ?_) l ⟨rfl, rfl, rfl⟩
  simpa [State.sendShootdown] using ht

/-- Each leaf's shootdown is asked for at every core of the partition (R88). -/
theorem sendShootdowns_asked {s : State} {part c : Nat} (hc : c ∈ (s.part part).cores) {l : List (Nat × Nat × Nat)} {x : Nat × Nat × Nat}
    (hx : x ∈ l) : Event.shootdown c part (Addr.ofNat (4096 * x.1)) (4096 * x.2.1) false ∈ (s.sendShootdowns part l).work := by
  obtain ⟨a, b, rfl⟩ := List.append_of_mem hx
  obtain ⟨-, -, hp⟩ := sendShootdowns_keeps part a s
  have hsplit : s.sendShootdowns part (a ++ x :: b) = ((s.sendShootdowns part a).sendShootdown part x.1 x.2.1 false).sendShootdowns part b :=
    List.foldl_append
  rw [hsplit]
  refine foldl_keeps (P := fun t : State => _ ∈ t.work) (fun t _ ht => wantAll_keeps_asked t _ ht) b (wantAll_asked _ ?_)
  rw [State.part, hp]
  exact List.mem_map_of_mem hc

/-- MIG is set in some leaves (R75). -/
def State.markLeaves (s : State) (part : Nat) (l : List (Nat × Nat × Nat)) : State :=
  l.foldl (fun s x => s.modLeaf part x.1 fun e => e ||| 0x800#64) s

theorem markLeaves_keeps (s : State) (part : Nat) (l : List (Nat × Nat × Nat)) :
    (s.markLeaves part l).svc = s.svc ∧ (s.markLeaves part l).blocks = s.blocks ∧ (s.markLeaves part l).parts = s.parts := by
  refine foldl_keeps (P := fun t : State => t.svc = s.svc ∧ t.blocks = s.blocks ∧ t.parts = s.parts) (fun t x ht => ?_) l ⟨rfl, rfl, rfl⟩
  have hr := sameRest_modLeaf t part x.1 fun e => e ||| 0x800#64
  rwa [hr.svc, hr.blocks, modLeaf_parts]

/-- The migration of some leaves as it stands once their shootdowns are sent: every core has yet to acknowledge each (R75, R88). -/
def State.movesOf (s : State) (part : Nat) (l : List (Nat × Nat × Nat)) (toNear : Bool) : Migration :=
  ⟨part, l, toNear, ⟨s.svc.shootNum, false, (s.part part).cores.flatMap fun c => l.map fun x => (c, x.1, x.2.1)⟩⟩

/-- Steps 1 and 2 of R75. -/
theorem startMove_begins (s : State) (part : Nat) (l : List (Nat × Nat × Nat)) (toNear : Bool) :
    (s.startMove part l toNear).blocks = s.blocks ∧
    (s.startMove part l toNear).svc.moves = s.svc.moves ++ [s.movesOf part l toNear] ∧
    ∀ c ∈ (s.part part).cores, ∀ x ∈ l,
      Event.shootdown c part (Addr.ofNat (4096 * x.1)) (4096 * x.2.1) false ∈ (s.startMove part l toNear).work := by
  obtain ⟨hsvc, hblocks, hparts⟩ := markLeaves_keeps (s.takeFrames part (moveFrames l)) part l
  generalize hs1 : (s.takeFrames part (moveFrames l)).markLeaves part l = s1 at hsvc hblocks hparts
  have hcores : (s1.part part).cores = (s.part part).cores := by
    rw [State.part, hparts]
    exact modPart_part_keeps s part part Part.cores fun _ => rfl
  have hm : (⟨part, l, toNear, s1.awaitAcks part false (l.map fun x => (x.1, x.2.1))⟩ : Migration) = s.movesOf part l toNear := by
    simp only [State.awaitAcks, State.movesOf, hcores, hsvc, List.map_map]
    rfl
  have hstart : s.startMove part l toNear =
      let s2 := State.sendShootdowns part l { s1 with svc := { s1.svc with moves := s1.svc.moves ++ [s.movesOf part l toNear] } }
      if (s.movesOf part l toNear).acks.left.isEmpty
        then s2.want (.migration part (Addr.ofNat (4096 * ((l.head?).map (·.1)).getD 0)) toNear) else s2 := by
    rw [← hm, ← hs1]
    rfl
  obtain ⟨hsvc2, hblocks2, -⟩ := sendShootdowns_keeps part l
    { s1 with svc := { s1.svc with moves := s1.svc.moves ++ [s.movesOf part l toNear] } }
  have hblocks' : s1.blocks = s.blocks := hblocks
  have hsvc' : s1.svc = s.svc := hsvc
  rw [hstart]
  dsimp only
  refine ⟨?_, ?_, fun c hc x hx => ?_⟩
  · split
    · rw [want_blocks, hblocks2, hblocks']
    · rw [hblocks2, hblocks']
  · split
    · rw [want_svc, hsvc2, hsvc']
    · rw [hsvc2, hsvc']
  · have hask := sendShootdowns_asked
      (s := { s1 with svc := { s1.svc with moves := s1.svc.moves ++ [s.movesOf part l toNear] } }) (hcores ▸ hc) hx
    split
    · exact want_keeps _ hask
    · exact hask

/-- A unit with leaves to move and frames for them begins to move. -/
theorem beginMove_eq {s : State} {part va : Nat} {toNear : Bool} {l : List (Nat × Nat × Nat)} (hm : s.moveSet part va toNear ≠ [])
    (hp : placeMoves (s.freeFrames part toNear) (s.moveSet part va toNear) = some l) :
    s.beginMove part va toNear = s.startMove part l toNear := by
  unfold State.beginMove
  split
  · next h => exact absurd h hm
  · rw [hp]

section
variable {s : State} {part : Nat} {va : Addr} (hn : ∀ n ∈ s.svc.nodes, n.part ≠ part)
include hn

theorem no_node_moves : (s.svc.nodes.find? fun n => n.part == part) = none := by simpa using hn

/-- MIGRATION of an address of which nothing moves yet, where no table node of the partition is to move (R75). -/
theorem execMigration_begins (hm : s.moveOf part (va.toNat / 4096) = none) (toNear : Bool) :
    execMigration part va toNear s = .next (s.beginMove part va.toNat toNear) := by
  simp only [execMigration, no_node_moves hn, hm]

/-- MIGRATION of an address whose migration every core has acknowledged (R75). -/
theorem execMigration_ends {m : Migration} (hm : s.moveOf part (va.toNat / 4096) = some m) (ha : m.acks.left = [])
    (hh : s.moveHeld m = false) (toNear : Bool) : execMigration part va toNear s = .next (s.endMove m) := by
  simp [execMigration, no_node_moves hn, hm, ha, hh]

end

/-! ### Memory moved -/

/-- What a read gives after a list of cells was written. -/
theorem Mem.get_putAll {m : List Host.Cell} (hm : Mem.wf m = true) {lo : Option Nat} {l : List Host.Cell} (hl : Mem.wfFrom lo l = true)
    (c : Nat) : Mem.get (Mem.putAll m l) c = if Mem.get l c = Mem.blank then Mem.get m c else Mem.get l c := by
  induction l generalizing m lo with
  | nil => rfl
  | cons d r ih =>
    obtain ⟨k, v⟩ := d
    obtain ⟨-, hv, hr⟩ := Mem.wfFrom_cons.mp hl
    rw [Mem.putAll, ih (Mem.wf_put k v hm) hr, Mem.get_put hm, Mem.get_cons]
    rcases lt_trichotomy c k with hck | rfl | hkc
    · rw [Mem.get_below hr hck.le, if_neg hck.ne, if_neg hck.ne', if_pos hck]
    · rw [Mem.get_below hr le_rfl, if_pos rfl, if_pos rfl, if_pos rfl, if_neg hv]
    · rw [if_neg hkc.ne', if_neg hkc.ne, if_neg hkc.not_gt]

/-- The cells of a span of addresses. -/
def Mem.span (m : List Host.Cell) (src n : Nat) : List Host.Cell := m.filter fun c => decide (src ≤ c.1) && decide (c.1 < src + n)

theorem Mem.le_of_mem_span {m : List Host.Cell} {src n : Nat} {c : Host.Cell} (h : c ∈ Mem.span m src n) : src ≤ c.1 := by
  obtain ⟨hle, -⟩ : src ≤ c.1 ∧ c.1 < src + n := by simpa using List.of_mem_filter h
  exact hle

theorem Mem.get_span {m : List Host.Cell} (h : Mem.wf m = true) (src n a : Nat) :
    Mem.get (Mem.span m src n) a = if src ≤ a ∧ a < src + n then Mem.get m a else Mem.blank := by
  simpa [Mem.span] using Mem.get_filter h (fun k => decide (src ≤ k) && decide (k < src + n)) a

/-- Cells at another address. -/
def Mem.shift (src dst : Nat) (m : List Host.Cell) : List Host.Cell := m.map fun c => (c.1 - src + dst, c.2)

theorem Mem.get_shift {src dst : Nat} {m : List Host.Cell} (h : ∀ c ∈ m, src ≤ c.1) (a : Nat) :
    Mem.get (Mem.shift src dst m) a = if dst ≤ a then Mem.get m (a - dst + src) else Mem.blank := by
  induction m with
  | nil => simp [Mem.shift, Mem.get]
  | cons d r ih =>
    obtain ⟨k, v⟩ := d
    have hk : src ≤ k := h _ List.mem_cons_self
    have ih := ih fun c hc => h c (List.mem_cons_of_mem _ hc)
    have hcons : Mem.shift src dst ((k, v) :: r) = (k - src + dst, v) :: Mem.shift src dst r := rfl
    rw [hcons, Mem.get_cons, Mem.get_cons, ih]
    by_cases ha : dst ≤ a
    · have heq : k - src + dst = a ↔ k = a - dst + src := by omega
      have hlt : a < k - src + dst ↔ a - dst + src < k := by omega
      simp only [heq, hlt, if_pos ha]
    · rw [if_neg (by omega), if_pos (by omega), if_neg ha]

theorem Mem.wfFrom_shift {src : Nat} (dst : Nat) {lo : Option Nat} {m : List Host.Cell} (hm : Mem.wfFrom lo m = true)
    (h : ∀ c ∈ m, src ≤ c.1) (hlo : ∀ l, lo = some l → src ≤ l) : Mem.wfFrom (lo.map (· - src + dst)) (Mem.shift src dst m) = true := by
  induction m generalizing lo with
  | nil => cases lo <;> rfl
  | cons d r ih =>
    obtain ⟨k, v⟩ := d
    obtain ⟨h1, h2, h3⟩ := Mem.wfFrom_cons.mp hm
    have hk : src ≤ k := h _ List.mem_cons_self
    refine Mem.wfFrom_cons.mpr ⟨fun l' e => ?_, h2, ih h3 (fun c hc => h c (List.mem_cons_of_mem _ hc)) fun l e => by cases e; exact hk⟩
    obtain ⟨l, hl, rfl⟩ := Option.map_eq_some_iff.mp e
    have := h1 l hl
    have := hlo l hl
    dsimp only
    omega

/-- What a read gives after a copy: in the destination the byte of the source, elsewhere what stood there. -/
theorem Mem.get_move {m : List Host.Cell} (h : Mem.wf m = true) (src dst n c : Nat) :
    Mem.get (Mem.move m src dst n) c = if dst ≤ c ∧ c < dst + n then Mem.get m (c - dst + src) else Mem.get m c := by
  have hge : ∀ c ∈ Mem.span m src n, src ≤ c.1 := fun _ => Mem.le_of_mem_span
  have hwf : Mem.wfFrom none (Mem.shift src dst (Mem.span m src n)) = true :=
    Mem.wfFrom_shift dst (Mem.wfFrom_filter _ h) hge fun _ e => by cases e
  have hmove : Mem.move m src dst n = Mem.putAll (Mem.erase m dst n) (Mem.shift src dst (Mem.span m src n)) := rfl
  rw [hmove, Mem.get_putAll (Mem.wf_erase _ _ h) hwf, Mem.get_shift hge, Mem.get_span h, Mem.get_erase h]
  by_cases hc : dst ≤ c ∧ c < dst + n
  · have hsrc : src ≤ c - dst + src ∧ c - dst + src < src + n := by omega
    simp only [if_pos hc, if_pos hc.1, if_pos hsrc]
    split
    · next hb => exact hb.symm
    · rfl
  · rw [if_neg hc, if_neg hc]
    have hout : (if dst ≤ c then (if src ≤ c - dst + src ∧ c - dst + src < src + n then Mem.get m (c - dst + src) else Mem.blank)
        else Mem.blank) = Mem.blank := by
      split_ifs
      · omega
      · rfl
      · rfl
    rw [hout, if_pos rfl]

end Sys2Proof.Machine
end

section
namespace Sys2Proof.Machine

/-! ### A table entry after its page has moved (R34, R75) -/

/-- The bits of an entry that a migration keeps: all but the frame, MIG and the tier (R34, R75). -/
def keptBits : Addr := ~~~(0x3FFFFFFFF000#64 ||| 0xA00#64)

/-- The entry of a leaf whose page has moved: the new frame, MIG clear, the tier of the direction. -/
def movedEntry (e : Addr) (f : Nat) (toNear : Bool) : Addr :=
  (e &&& keptBits) ||| Addr.ofNat (f * 4096) ||| (if toNear then 0#64 else 0x200#64)

/-- The bits of a frame's address (R34). -/
theorem frameAddr_bit (f i : Nat) : (Addr.ofNat (f * 4096)).getLsbD i = (decide (i < 64) && (decide (12 ≤ i) && f.testBit (i - 12))) := by
  rw [Addr.ofNat, BitVec.getLsbD_ofNat, show 4096 = 2 ^ 12 from rfl, Nat.testBit_mul_two_pow]

/-- Each bit of an entry whose page has moved. -/
theorem movedEntry_bit (e : Addr) (f : Nat) (toNear : Bool) (i : Nat) : (movedEntry e f toNear).getLsbD i =
    ((e.getLsbD i && keptBits.getLsbD i) || (decide (i < 64) && (decide (12 ≤ i) && f.testBit (i - 12))) ||
      (!toNear && (0x200#64).getLsbD i)) := by
  have hdir : (if toNear then 0#64 else 0x200#64).getLsbD i = (!toNear && (0x200#64).getLsbD i) := by cases toNear <;> simp
  rw [movedEntry, BitVec.getLsbD_or, BitVec.getLsbD_or, BitVec.getLsbD_and, frameAddr_bit, hdir]

theorem movedEntry_frame (e : Addr) {f : Nat} (hf : f < 2 ^ 34) (toNear : Bool) : Pte.frame (movedEntry e f toNear) = f := by
  have hmask : ∀ i < 34, keptBits.getLsbD (12 + i) = false ∧ (0x200#64).getLsbD (12 + i) = false := by decide
  have hbits : (movedEntry e f toNear).extractLsb' 12 34 = BitVec.ofNat 34 f := by
    apply BitVec.eq_of_getLsbD_eq
    intro i hi
    obtain ⟨hkeep, hdir⟩ := hmask i hi
    rw [BitVec.getLsbD_extractLsb', movedEntry_bit, hkeep, hdir, BitVec.getLsbD_ofNat]
    simp [hi, show 12 + i < 64 by omega]
  rw [Pte.frame, hbits, BitVec.toNat_ofNat, Nat.mod_eq_of_lt hf]

theorem movedEntry_mig (e : Addr) (f : Nat) (toNear : Bool) : Pte.mig (movedEntry e f toNear) = false := by
  have hkeep : keptBits.getLsbD 11 = false ∧ (0x200#64).getLsbD 11 = false := by decide
  rw [Pte.mig, movedEntry_bit, hkeep.1, hkeep.2]
  simp

theorem movedEntry_tier (e : Addr) (f : Nat) (toNear : Bool) : Pte.tier (movedEntry e f toNear) = !toNear := by
  have hkeep : keptBits.getLsbD 9 = false ∧ (0x200#64).getLsbD 9 = true := by decide
  rw [Pte.tier, movedEntry_bit, hkeep.1, hkeep.2]
  simp

/-- An address-sized value written as eight bytes reads back (R9). -/
theorem addrOf_leBytes (e : Addr) : addrOf (leBytes 8 e.toNat) = e := by
  rw [addrOf, List.take_of_length_le (by simp), leNat_leBytes, Addr.ofNat]
  apply BitVec.eq_of_toNat_eq
  have := e.isLt
  rw [BitVec.toNat_ofNat]
  omega

/-- A table entry that is written reads back. -/
theorem readEntry_writeEntry {s : State} (hm : Mem.wf s.mem = true) (pa : Nat) (e : Addr) : (s.writeEntry pa e).readEntry pa = e := by
  have h := Mem.getN_putN_same hm (s.podPa pa) (leBytes 8 e.toNat)
  rw [leBytes_length] at h
  exact (congrArg addrOf h).trans (addrOf_leBytes e)

/-- Bytes that a written table entry does not touch. -/
theorem writeEntry_get_other {s : State} (hm : Mem.wf s.mem = true) {pa a : Nat} (e : Addr) (h : a < s.podPa pa ∨ s.podPa pa + 8 ≤ a) :
    Mem.get (s.writeEntry pa e).mem a = Mem.get s.mem a := by
  have hput := Mem.get_putN hm (s.podPa pa) a (leBytes 8 e.toNat)
  rw [leBytes_length, if_neg (by omega)] at hput
  exact hput

/-! ### What follows a migration leaves memory and the service as they are (R80) -/

/-- Two states with the same memory, package and service: what the tables say, and what the service has begun. -/
structure SameTables (s s' : State) : Prop where
  mem : s'.mem = s.mem
  pkg : s'.pkg = s.pkg
  svc : s'.svc = s.svc

theorem SameTables.refl (s : State) : SameTables s s := ⟨rfl, rfl, rfl⟩

theorem SameTables.trans {a b c : State} (h : SameTables a b) (k : SameTables b c) : SameTables a c :=
  ⟨k.1.trans h.1, k.2.trans h.2, k.3.trans h.3⟩

theorem sameTables_modPart (s : State) (p : Nat) (f : Part → Part) : SameTables s (s.modPart p f) := ⟨rfl, rfl, rfl⟩

theorem sameTables_modBlock (s : State) (b : Nat) (f : Block → Block) : SameTables s (s.modBlock b f) := ⟨rfl, rfl, rfl⟩

theorem sameTables_poisonPage (s : State) (page : Nat) : SameTables s (s.poisonPage page) := ⟨rfl, rfl, rfl⟩

theorem sameTables_want (s : State) (e : Event) : SameTables s (s.want e) := ⟨want_mem .., want_pkg .., want_svc ..⟩

theorem sameTables_wantAll (s : State) (l : List Event) : SameTables s (s.wantAll l) := ⟨wantAll_mem .., wantAll_pkg .., wantAll_svc ..⟩

theorem sameTables_foldl {α : Type} {f : State → α → State} (h : ∀ s a, SameTables s (f s a)) (l : List α) (s : State) :
    SameTables s (l.foldl f s) := foldl_keeps (P := SameTables s) (fun t a ht => ht.trans (h t a)) l (.refl s)

theorem sameTables_returnFrame (part : Nat) (s : State) (f : Nat) : SameTables s (State.returnFrame part s f) :=
  have h := sameRest_returnFrame part s f
  ⟨returnFrame_mem .., h.pkg, h.svc⟩

theorem sameTables_enqueueReady (s : State) (blk : Nat) : SameTables s (s.enqueueReady blk) := by
  unfold State.enqueueReady
  split
  · dsimp only
    split
    · exact .refl s
    · split
      · exact sameTables_want ..
      · split
        · exact .refl s
        · exact (sameTables_modPart ..).trans (sameTables_wantAll ..)
  · exact .refl s

theorem sameTables_makeReady (s : State) (blk : Nat) : SameTables s (s.makeReady blk) := by
  unfold State.makeReady
  split
  · exact (sameTables_modBlock ..).trans (sameTables_enqueueReady ..)
  · exact .refl s

theorem sameTables_settleWaiting (s : State) (part : Nat) : SameTables s (s.settleWaiting part) := by
  refine sameTables_foldl (fun t x => ?_) _ s
  split
  · exact .refl t
  · split
    · split
      · exact .refl t
      · exact sameTables_makeReady ..
    · split
      · exact sameTables_makeReady ..
      · exact sameTables_wantAll ..

/-! ### Migrations ended (R75) -/

/-- What is stored in memory, with its errors, leaves the package and the service as they are. -/
theorem stored_keeps (s : State) (mem : List Host.Cell) (bad soft : List Nat) :
    let s' : State := { s with mem := mem, badNear := bad, softNear := soft }
    s'.mem = mem ∧ s'.pkg = s.pkg ∧ s'.svc = s.svc := ⟨rfl, rfl, rfl⟩

/-- A page moved: its bytes stand in the new frame, and the service is as before (R75, R76). -/
theorem movePage_keeps (s : State) (src dst : Nat) :
    (s.movePage src dst).mem = Mem.move s.mem (s.podPage src * 4096) (s.podPage dst * 4096) 4096 ∧
    (s.movePage src dst).pkg = s.pkg ∧ (s.movePage src dst).svc = s.svc := by
  unfold State.movePage
  extract_lets a b s1 s2 s3
  have h1 : SameTables s s1 := ⟨correct_phys_mem .., (sameRest_correct ..).pkg, (sameRest_correct ..).svc⟩
  clear_value s1
  have h2 : SameTables s s2 := by
    unfold s2
    split
    · exact h1.trans (sameTables_poisonPage ..)
    · exact h1
  clear_value s2
  have h3 : s3.mem = Mem.move s2.mem a b 4096 ∧ s3.pkg = s2.pkg ∧ s3.svc = s2.svc := stored_keeps ..
  clear_value s3
  rw [h2.mem, h2.pkg, h2.svc] at h3
  split
  · have hp := sameTables_poisonPage s3 (s2.podPage dst)
    rw [hp.mem, hp.pkg, hp.svc]
    exact h3
  · exact h3

@[simp] theorem followPage_mem (s : State) (src dst : Nat) : (s.followPage src dst).mem = s.mem := rfl
@[simp] theorem followPage_pkg (s : State) (src dst : Nat) : (s.followPage src dst).pkg = s.pkg := rfl
@[simp] theorem followPage_svc (s : State) (src dst : Nat) : (s.followPage src dst).svc = s.svc := rfl

/-- The leaf that the tables hold for an address depends on memory, the package and the partitions. -/
theorem leafFrom_congr {s s' : State} (hm : s'.mem = s.mem) (hp : s'.pkg = s.pkg) (va level : Nat) : ∀ node : Nat,
    s'.leafFrom va level node = s.leafFrom va level node := by
  have he : ∀ pa, s'.readEntry pa = s.readEntry pa := fun pa => by simp only [State.readEntry, State.podPa, hm, hp]
  induction level with
  | zero => intro node; simp only [State.leafFrom, he]
  | succ n ih => intro node; simp only [State.leafFrom, he, ih]

theorem leafOf_svc (s : State) (v : Service) (part va : Nat) : State.leafOf { s with svc := v } part va = s.leafOf part va := by
  have hp : State.part { s with svc := v } part = s.part part := rfl
  simp only [State.leafOf, hp, leafFrom_congr (s := s) (s' := { s with svc := v }) rfl rfl]

/-- Steps 4 to 6 of R75 for a leaf of one page. -/
theorem moveLeaf_page {s : State} {part : Nat} {x : Nat × Nat × Nat} {l : LeafAt} (hl : s.leafOf part (4096 * x.1) = some l)
    (hx : x.2.1 = 1) (toNear : Bool) : State.moveLeaf part toNear s x = State.returnFrame part
      (((s.movePage (Pte.frame l.pte) x.2.2).followPage (s.podPage (Pte.frame l.pte)) (s.podPage x.2.2)).writeEntry l.ent
        (movedEntry l.pte x.2.2 toNear)) (Pte.frame l.pte) := by
  unfold State.moveLeaf
  split
  · next h => cases h.symm.trans hl
  · next l' h =>
    cases h.symm.trans hl
    rw [hx, List.range_one]
    dsimp only
    rw [List.map_cons, List.map_nil, List.foldl_cons, List.foldl_nil, List.foldl_cons, List.foldl_nil, Nat.add_zero,
      Nat.add_zero, movedEntry, keptBits]

/-- The units of a migration count as the latest moved in, or no longer as moved in (R80). -/
def Migration.movedIn (m : Migration) (p : Part) : Part :=
  let us := (m.leaves.map fun x => x.1 / 16 * 16).dedup
  { p with migratedIn := (p.migratedIn.filter fun u => !us.contains u) ++ if m.toNear then us else [] }

theorem endMove_eq (s : State) (m : Migration) : s.endMove m =
    ((m.leaves.foldl (State.moveLeaf m.part m.toNear) { s with svc := { s.svc with moves := s.svc.moves.erase m } }).modPart m.part
      m.movedIn).settleWaiting m.part := rfl

section
variable {s : State} {m : Migration} {vp f : Nat} {l : LeafAt}

/-- The end of a migration of one page: the page has moved, its leaf is written, and the migration is over. -/
theorem endMove_page (hm : m.leaves = [(vp, 1, f)]) (hl : s.leafOf m.part (4096 * vp) = some l) :
    ∃ t : State, t.mem = Mem.move s.mem (s.podPage (Pte.frame l.pte) * 4096) (s.podPage f * 4096) 4096 ∧ t.pkg = s.pkg ∧
      t.svc = { s.svc with moves := s.svc.moves.erase m } ∧
      SameTables (t.writeEntry l.ent (movedEntry l.pte f m.toNear)) (s.endMove m) := by
  have hl' := (leafOf_svc s { s.svc with moves := s.svc.moves.erase m } m.part (4096 * vp)).trans hl
  generalize hs0 : ({ s with svc := { s.svc with moves := s.svc.moves.erase m } } : State) = s0 at hl'
  obtain ⟨hmem, hpkg, hsvc⟩ := movePage_keeps s0 (Pte.frame l.pte) f
  have hend : s.endMove m = ((State.returnFrame m.part (((s0.movePage (Pte.frame l.pte) f).followPage (s0.podPage (Pte.frame l.pte))
      (s0.podPage f)).writeEntry l.ent (movedEntry l.pte f m.toNear)) (Pte.frame l.pte)).modPart m.part m.movedIn).settleWaiting m.part := by
    rw [endMove_eq, hs0, hm, List.foldl_cons, List.foldl_nil, moveLeaf_page (x := (vp, 1, f)) hl' rfl]
  refine ⟨(s0.movePage (Pte.frame l.pte) f).followPage (s0.podPage (Pte.frame l.pte)) (s0.podPage f), ?_, ?_, ?_, ?_⟩
  · rw [followPage_mem, hmem, ← hs0]
    rfl
  · rw [followPage_pkg, hpkg, ← hs0]
  · rw [followPage_svc, hsvc, ← hs0]
  · rw [hend]
    exact ((sameTables_returnFrame ..).trans (sameTables_modPart ..)).trans (sameTables_settleWaiting ..)

/-- After the end of a migration of one page the new frame holds the bytes of the old one, and the leaf names it (R75). -/
theorem endMove_moves_page (hok : s.memOk = true) (hm : m.leaves = [(vp, 1, f)]) (hf : f < 2 ^ 34)
    (hl : s.leafOf m.part (4096 * vp) = some l)
    (hent : s.podPa l.ent + 8 ≤ 4096 * s.podPage f ∨ 4096 * (s.podPage f + 1) ≤ s.podPa l.ent) :
    (s.endMove m).svc.moves = s.svc.moves.erase m ∧
    (∀ i < 4096, Mem.get (s.endMove m).mem (4096 * s.podPage f + i) = Mem.get s.mem (4096 * s.podPage (Pte.frame l.pte) + i)) ∧
    Pte.frame ((s.endMove m).readEntry l.ent) = f ∧ Pte.mig ((s.endMove m).readEntry l.ent) = false ∧
    Pte.tier ((s.endMove m).readEntry l.ent) = !m.toNear := by
  obtain ⟨t, hmem, hpkg, hsvc, hend⟩ := endMove_page hm hl
  have hwf : Mem.wf t.mem = true := hmem ▸ Mem.wf_move _ _ _ (State.Canon.wf_mem hok)
  have hpa : t.podPa l.ent = s.podPa l.ent := by rw [State.podPa, State.podPa, hpkg]
  have hread : (s.endMove m).readEntry l.ent = movedEntry l.pte f m.toNear := by
    rw [← readEntry_writeEntry hwf l.ent (movedEntry l.pte f m.toNear)]
    simp only [State.readEntry, State.podPa, hend.mem, hend.pkg]
  refine ⟨?_, fun i hi => ?_, ?_⟩
  · rw [hend.svc]
    exact congrArg Service.moves hsvc
  · rw [hend.mem, writeEntry_get_other hwf _ (by rw [hpa]; omega), hmem, Mem.get_move (State.Canon.wf_mem hok), if_pos (by omega)]
    congr 1
    omega
  · rw [hread]
    exact ⟨movedEntry_frame _ hf _, movedEntry_mig .., movedEntry_tier ..⟩

end

/-! ### The dirty log drained (R82, R86) -/

theorem modPart_part_other (s : State) {p q : Nat} (h : q ≠ p) (f : Part → Part) : (s.modPart p f).part q = s.part q := by
  simp [State.part, State.modPart, h.symm]

theorem execDirtyLogDrain_drains {s : State} {part : Nat} (hd : s.hostDuty part 1 = false ∨ (s.part part).drainOn = true)
    (hr : (s.part part).ringOk = true) (hn : 2048 ≤ ((s.part part).dlHead - (s.part part).dlTail).toNat) :
    execDirtyLogDrain part s = .next (s.drainLog part) := by
  have hd' : (s.hostDuty part 1 && !(s.part part).drainOn) = false := by rcases hd with h | h <;> simp [h]
  simp only [execDirtyLogDrain, hd', hr, Bool.not_true, Bool.or_self, Bool.false_or, decide_eq_true_eq, if_neg hn.not_gt]

theorem execDirtyLogDrain_idle {s : State} {part : Nat} (h : s.hostDuty part 1 = true ∧ (s.part part).drainOn = false ∨
    ((s.part part).dlHead - (s.part part).dlTail).toNat < 2048 ∨ (s.part part).ringOk = false) : execDirtyLogDrain part s = .next s := by
  refine if_pos ?_
  simp only [Bool.or_eq_true, Bool.and_eq_true, Bool.not_eq_true', decide_eq_true_eq]
  tauto

/-! ### O47 -/

/-- Settles O47: each event by what its own step does. -/
theorem memoryEvents : Obligations.MemoryEvents := by
  unfold Obligations.MemoryEvents
  refine ⟨fun s core part va len ex hc hl => execShootdown_drops hc hl, fun s core hc => ?_, fun s part va toNear l hn hm hne hp => ?_,
    fun s part va toNear m vp f l hok hn hm ha hh hone hf hl _ hent => ?_, fun s part hp => ⟨fun hd hr hn => ?_, execDirtyLogDrain_idle⟩⟩
  case refine_1 =>
    obtain ⟨s', hs', hshoots, hmoves⟩ := execShootdownAck_moves hc
    exact ⟨s', hs', hshoots, fun i m hm => ⟨{ m with acks := m.acks.acked m.part core (s.core core).shoots }, by simp [hmoves, hm], rfl,
      fun x => mem_acked_left⟩⟩
  case refine_2 =>
    obtain ⟨hblocks, hmoves, hwork⟩ := startMove_begins s part l toNear
    exact ⟨_, (execMigration_begins hn hm toNear).trans (congrArg _ (beginMove_eq hne hp)), hblocks, hmoves, hwork⟩
  case refine_3 =>
    exact ⟨_, execMigration_ends hn hm ha hh toNear, endMove_moves_page hok hone hf hl hent⟩
  case refine_4 =>
    exact ⟨_, execDirtyLogDrain_drains hd hr hn, rfl, modPart_part_same hp _, fun q hq => modPart_part_other s hq _⟩

end Sys2Proof.Machine
end

section
namespace Sys2Proof.Machine

/-! ### Bytes laid over bytes (R103) -/

@[simp] theorem overlay_length (old : List Byte) (oa : Nat) (new : List Byte) (na : Nat) : (overlay old oa new na).length = old.length := by
  simp [overlay]

/-- A byte of an overlay: of the new bytes where they cover it, else of the old ones. -/
theorem overlay_getElem? {old : List Byte} {i : Nat} (hi : i < old.length) (oa : Nat) (new : List Byte) (na : Nat) :
    (overlay old oa new na)[i]? = if na ≤ oa + i ∧ oa + i < na + new.length then new[oa + i - na]? else old[i]? := by
  have hread : (overlay old oa new na)[i]? =
      some (if na ≤ oa + i ∧ oa + i < na + new.length then new.getD (oa + i - na) old[i] else old[i]) := by
    simp [overlay, hi]
  rw [hread]
  split
  · next hcov =>
    have hin : oa + i - na < new.length := by omega
    simp [hin]
  · simp [hi]

@[simp] theorem layOver_length (l : Loc) (old : List Byte) (w : QWrite) : (layOver l old w).length = old.length := by
  unfold layOver
  split
  · split
    · exact overlay_length ..
    · rfl
  · exact overlay_length ..
  · rfl

@[simp] theorem foldl_layOver_length (l : Loc) (ws : List QWrite) (old : List Byte) : (ws.foldl (layOver l) old).length = old.length := by
  induction ws generalizing old with
  | nil => rfl
  | cons w r ih => rw [List.foldl_cons, ih, layOver_length]

@[simp] theorem homeRead_length (s : State) (l : Loc) (n : Nat) : (s.homeRead l n).length = n := by
  cases l <;> exact Mem.getN_length ..

@[simp] theorem visible_length (s : State) (t : TRef) (th : Thread) (l : Loc) (n : Nat) : (s.visible t th l n).length = n := by
  simp only [State.visible, State.inCopy, foldl_layOver_length, homeRead_length]

/-! ### What entering a write changes (R97) -/

@[simp] theorem enqueueWrite_mem (s : State) (t : TRef) (th : Thread) (w : QWrite) : (s.enqueueWrite t th w).mem = s.mem := by
  simp only [State.enqueueWrite, want_mem, modStrand_mem]

/-- Entering a write changes nothing of a block but its strands. -/
theorem enqueueWrite_keeps {α : Type} (g : Block → α) (hg : ∀ b k f, g (Block.modStrand b k f) = g b) (s : State) (t : TRef)
    (th : Thread) (w : QWrite) (c : Nat) : ((s.enqueueWrite t th w).blocks[c]?).map g = (s.blocks[c]?).map g := by
  rw [State.enqueueWrite, want_blocks]
  exact modStrand_keeps (fun s => (s.blocks[c]?).map g) (fun s b k f => modBlock_keeps g s b (fun x => hg x k f) c) s ..

@[simp] theorem enqueueWrite_homeRead (s : State) (t : TRef) (th : Thread) (w : QWrite) (l : Loc) (n : Nat) :
    (s.enqueueWrite t th w).homeRead l n = s.homeRead l n := by
  cases l with
  | win b off => simp only [State.homeRead, enqueueWrite_keeps Block.mem fun _ _ _ => rfl]
  | phys p => simp only [State.homeRead, enqueueWrite_mem]

@[simp] theorem enqueueWrite_inCopy (s : State) (t : TRef) (th : Thread) (w : QWrite) (blk : Nat) (l : Loc) (bytes : List Byte) :
    (s.enqueueWrite t th w).inCopy blk l bytes = s.inCopy blk l bytes := by
  simp only [State.inCopy, enqueueWrite_keeps Block.quarantine fun _ _ _ => rfl]

/-- The write stands behind those that the strand has queued. -/
theorem enqueueWrite_strand {s : State} {t : TRef} {th : Thread} {k : Strand} (hk : s.strand? t.blk th.strand = some k)
    (hj : k.joint = none) (w : QWrite) :
    (s.enqueueWrite t th w).strand? t.blk th.strand = some { k with queue := k.queue ++ [w] } := by
  have hone : (s.strand? t.blk th.strand).bind Strand.joint = none := by rw [hk, Option.bind_some, hj]
  rw [State.enqueueWrite, State.strand?, want_blocks, modStrand_single s _ _ _ hone, ← State.strand?, modBlock_modStrand_strand, hk,
    Option.map_some]

/-- What a thread sees once its strand has queued one more write: what it saw, under that write (R103). -/
theorem enqueueWrite_visible {s : State} {t : TRef} {th : Thread} {k : Strand} (hk : s.strand? t.blk th.strand = some k)
    (hj : k.joint = none) (w : QWrite) (l : Loc) (n : Nat) :
    (s.enqueueWrite t th w).visible t th l n = layOver l (s.visible t th l n) w := by
  simp only [State.visible, enqueueWrite_strand hk hj, hk, enqueueWrite_inCopy, enqueueWrite_homeRead, Option.map_some,
    Option.getD_some, List.foldl_append, List.foldl_cons, List.foldl_nil]

/-- With nothing queued or quarantined a thread sees the home (R61). -/
theorem visible_home {s : State} {t : TRef} {th : Thread} {k : Strand} (hk : s.strand? t.blk th.strand = some k) (hq : k.queue = [])
    (hn : ((s.blocks[t.blk]?).map (·.quarantine)).getD [] = []) (l : Loc) (n : Nat) : s.visible t th l n = s.homeRead l n := by
  simp only [State.visible, State.inCopy, hk, hq, hn, Option.map_some, Option.getD_some, List.foldl_nil]

/-- Settles O17: a queued write is laid over what the thread saw before, byte by byte. -/
theorem forwarding : Obligations.Forwarding := by
  unfold Obligations.Forwarding
  intro s t th l n k hk hj
  refine ⟨fun b o b' o' bytes f hl i hi => ?_, fun p p' bytes f hl i hi => ?_, fun hq hn => visible_home hk hq hn l n⟩
  · have hlen : i < (s.visible t th l n).length := by rwa [visible_length]
    rw [enqueueWrite_visible hk hj]
    subst hl
    by_cases hb : b = b'
    · simpa only [layOver, hb, if_true, true_and] using overlay_getElem? hlen o bytes o'
    · simp only [layOver, hb, false_and, if_false]
  · have hlen : i < (s.visible t th l n).length := by rwa [visible_length]
    rw [enqueueWrite_visible hk hj]
    subst hl
    exact overlay_getElem? hlen p bytes p'

end Sys2Proof.Machine
end

section
namespace Sys2Proof.Machine

/-! ### The rejoin file (R137, R138, R266, R267) -/

theorem RejoinEntry.fits_iff (e : RejoinEntry) (label at_ : Addr) : e.fits label at_ = decide (e.pc = label ∧ e.at_ = at_) := by
  simp [RejoinEntry.fits, Bool.decide_and, beq_eq_decide]

theorem topFor_eq (k : Strand) (label at_ : Addr) :
    k.topFor label at_ = k.rejoin.find? fun e => decide (e.fresh = false ∨ (e.pc = label ∧ e.at_ = at_)) := by
  unfold Strand.topFor
  congr 1
  funext e
  rw [RejoinEntry.fits_iff, Bool.decide_or]
  cases e.fresh <;> simp

/-- The top entry takes a JPUSH where it is one of its own. -/
theorem joinsTop_eq (k : Strand) (label at_ : Addr) : k.joinsTop label at_ = (k.topFor label at_).any fun e => e.fits label at_ := rfl

/-- A test of an entry that may be missing holds where the entry is there and passes it. -/
theorem any_iff_map {α : Type} (o : Option α) (p : α → Bool) : o.any p = true ↔ o.map p = some true := by
  cases o <;> simp

/-- The mark of an arrival, as REJOIN makes it, is that of the innermost entry (R137). -/
theorem mark_eq_arriveIn (t : TRef) : execRejoin.mark t = arriveIn t := by
  funext l
  induction l with
  | nil => rfl
  | cons e r ih =>
    rw [execRejoin.mark, arriveIn, ih]
    by_cases h : t ∈ e.mask <;> simp [h]

/-- Two changes of a thread that make the same of it. -/
theorem modThread_congr {s : State} {t : TRef} {th : Thread} (h : s.thread? t = some th) {f g : Thread → Thread} (hfg : f th = g th) :
    s.modThread t f = s.modThread t g := by
  rw [modThread_known s h, modThread_known s h g, hfg]

/-- A thread changed twice. -/
theorem modThread_modThread (s : State) (t : TRef) (f g : Thread → Thread) :
    (s.modThread t f).modThread t g = s.modThread t fun x => g (f x) := by
  simp only [State.modThread, State.modBlock, List.modify_modify_eq]
  congr 2
  funext b
  simp only [Function.comp, Block.modThread, List.modify_modify_eq]
  rfl

/-- A thread that does not change. -/
theorem modThread_id (s : State) (t : TRef) : s.modThread t id = s := by
  have hb : (fun b : Block => b.modThread t.tid id) = id := by
    funext b
    simp only [Block.modThread, List.modify_id]
    rfl
  simp only [State.modThread, State.modBlock, hb, List.modify_id]

section
variable {s : State} {t : TRef} {th : Thread} {st : Stall}

/-- JPUSH of one thread (R137, R138, R266): nothing, the trap, serial mode, or an entry of the file. -/
theorem exec_jpush {off : BitVec 23} (h : OneLane (.jpush off st) s t th) : exec (.jpush off st) s = .next (
    if (s.strandOf t th).serial = false ∧ (s.strandOf t th).joinsTop (relTarget th.pc off) th.pc = true ∧
        ((s.strandOf t th).topFor (relTarget th.pc off) th.pc).any (fun e => e.mask.contains t) = true then s.goOn t st th
    else if 64 ≤ (s.strandOf t th).depth t + th.overflow.length then
      s.deliverIssued st [⟨t, 0x05, 0x02, 0⟩] (some (.jpush off st))
    else if (s.strandOf t th).serial = true ∨
        ((s.strandOf t th).rejoin.length = 16 ∧ (s.strandOf t th).joinsTop (relTarget th.pc off) th.pc = false) then
      s.stranded t st th (fun x => { x with serial := true })
        fun x => { x with overflow := (relTarget th.pc off, th.pc) :: x.overflow }
    else s.stranded t st th (fun x => x.push t (relTarget th.pc off) th.pc) id) := by
  have ht := issuable_thread h.thread
  have hk : ∀ f, (s.modStrand t.blk th.strand f).thread? t = some th := fun f => by rw [modStrand_thread, ht]
  rw [show exec (.jpush off st) s = execJpush off st s from rfl, execJpush, run_one h]
  congr 1
  dsimp only
  simp only [Bool.and_eq_true, Bool.or_eq_true, Bool.not_eq_true', decide_eq_true_eq, and_assoc]
  split_ifs
  · exact modThread_known s ht _
  · rfl
  · simp only [afterLane, State.stranded, modThread_issue, modStrand_issue]
    exact congrArg (State.modThread · t _) (modThread_congr (hk _) rfl)
  · simp only [afterLane, State.stranded, modThread_id, modStrand_issue]

/-- REJOIN of one thread (R137, R138): it takes the top of the overflow stack, or goes on, or arrives in its innermost entry. -/
theorem exec_rejoin (h : OneLane (.rejoin st) s t th) : exec (.rejoin st) s = .next (
    match th.overflow with
    | (pc, _) :: r => s.goThere t st { th with overflow := r, pc := pc }
    | [] => if (s.strandOf t th).depth t = 0 then s.goOn t st th
      else ((s.modStrand t.blk th.strand fun x => { x with rejoin := arriveIn t x.rejoin }).parkAt t .rejoin).modThread t
        (Thread.issued st s.issue.word)) := by
  have ht := issuable_thread h.thread
  rw [show exec (.rejoin st) s = execRejoin st s from rfl, execRejoin, run_one h]
  congr 1
  cases ho : th.overflow with
  | cons x r =>
    simp only [afterLane, modThread_modThread, modThread_issue]
    exact modThread_congr ht rfl
  | nil =>
    dsimp only
    rw [mark_eq_arriveIn]
    split
    · exact modThread_known s ht _
    · simp only [afterLane, State.parkAt, modThread_issue, modStrand_issue]

/-- BRKN of one thread (R137, R138). -/
theorem exec_brkn {n : BitVec 16} (h : OneLane (.brkn n st) s t th) : exec (.brkn n st) s =
    .next (((s.modThread t fun x => { x with overflow := x.overflow.drop n.toNat }).modStrand t.blk th.strand fun x =>
      x.leave t (n.toNat - min n.toNat th.overflow.length)).modThread t fun x => (x.issued st s.issue.word).advance) := by
  have ht := issuable_thread h.thread
  have hd : th.overflow.drop (min n.toNat th.overflow.length) = th.overflow.drop n.toNat := by
    rcases Nat.le_total n.toNat th.overflow.length with hl | hl
    · rw [Nat.min_eq_left hl]
    · rw [Nat.min_eq_right hl, List.drop_length, List.drop_eq_nil_of_le hl]
  rw [show exec (.brkn n st) s = execBrkn n st s from rfl, execBrkn, run_one h]
  simp only [afterLane, modStrand_issue, modThread_issue]
  rw [modThread_congr ht (g := fun x => { x with overflow := x.overflow.drop n.toNat }) (by simp only [hd])]

end

/-- Settles O12: each instruction's one equation, read in the case at hand. -/
theorem rejoinFile : Obligations.RejoinFile := by
  unfold Obligations.RejoinFile
  intro off n st s t th
  dsimp only
  rw [← relTarget_eq th.pc off (by omega)]
  simp only [← topFor_eq, ← RejoinEntry.fits_iff, ← any_iff_map, ← joinsTop_eq]
  refine ⟨fun h => ?_, fun h => ?_, exec_brkn⟩
  · rw [exec_jpush h]
    refine ⟨fun hs hj hi => ?_, fun hs hn hd hj => ?_, fun hs hd => ?_, fun hd hs => ?_⟩
    · rw [if_pos ⟨hs, hj, hi⟩]
    · rw [if_neg (fun c => hn c.2), if_neg (by omega), if_neg]
      rintro (c | ⟨c, e⟩)
      · simp [hs] at c
      · rcases hj with hj | hj
        · simp [hj] at e
        · omega
    · rw [if_neg, if_neg (by omega), if_pos]
      · rcases hs with hs | ⟨hj, hl⟩
        · exact .inl hs
        · exact .inr ⟨hl, by simpa using hj⟩
      · rintro ⟨c, e, _⟩
        rcases hs with hs | ⟨hj, _⟩
        · simp [hs] at c
        · exact hj e
    · rw [if_neg, if_pos hd]
      rintro ⟨c, e⟩
      rcases hs with hs | hn
      · simp [hs] at c
      · exact hn e
  · rw [exec_rejoin h]
    refine ⟨fun pc a r ho => ?_, fun ho hd => ?_, fun ho hd => ?_⟩ <;> rw [ho]
    · simp only [hd, if_true]
    · simp only [hd, if_false]

end Sys2Proof.Machine
end

section
namespace Sys2Proof.Machine

/-! ### An issue of many lanes with an instruction local to its thread (R134, R223, R225) -/

/-- A block without its threads. -/
def Block.unthreaded (b : Block) : Block := { b with threads := [] }

/-- Two states that differ at most in what their threads are. -/
structure OnlyThreads (s s' : State) : Prop where
  rest : { s' with blocks := s.blocks } = s
  blocks : s'.blocks.map Block.unthreaded = s.blocks.map Block.unthreaded

theorem OnlyThreads.refl (s : State) : OnlyThreads s s := ⟨rfl, rfl⟩

theorem onlyThreads_modThread {s s' : State} (h : OnlyThreads s s') (t : TRef) (f : Thread → Thread) :
    OnlyThreads s (s'.modThread t f) := by
  refine ⟨h.rest, ?_⟩
  rw [← h.blocks]
  apply List.ext_getElem?
  intro n
  simp only [List.getElem?_map, modThread_block]
  split <;> cases s'.blocks[n]? <;> rfl

section
variable {s s' : State} (h : OnlyThreads s s')
include h

theorem OnlyThreads.issue : s'.issue = s.issue := (congrArg State.issue h.rest :)
theorem OnlyThreads.cores : s'.cores = s.cores := (congrArg State.cores h.rest :)
theorem OnlyThreads.grids : s'.grids = s.grids := (congrArg State.grids h.rest :)

/-- What does not look at the threads of a block is as before. -/
theorem OnlyThreads.block {α : Type} (g : Block → α) (hg : ∀ b, g b.unthreaded = g b) (k : Nat) :
    (s'.blocks[k]?).map g = (s.blocks[k]?).map g := by
  have := congrArg (fun l => (l[k]?).map g) h.blocks
  simpa only [List.getElem?_map, Option.map_map, Function.comp_def, hg] using this

theorem OnlyThreads.core (c : Nat) : s'.core c = s.core c := by rw [State.core, h.cores]; rfl

theorem OnlyThreads.kernel (blk : Nat) : s'.kernel blk = s.kernel blk := by
  have hb := h.block (·.grid) (fun _ => rfl) blk
  simp only [State.kernel, State.grid?, h.grids]
  cases h' : s'.blocks[blk]? <;> cases h0 : s.blocks[blk]? <;> simp_all

theorem OnlyThreads.laneWords (blk : Nat) : s'.laneWords blk = s.laneWords blk := by rw [State.laneWords, h.kernel]; rfl

theorem OnlyThreads.tctx (t : TRef) : s'.tctx t = s.tctx t := by rw [State.tctx, h.issue, h.core, h.kernel]; rfl

/-- A thread that has not changed may issue as before. -/
theorem OnlyThreads.issuable {t : TRef} (ht : s'.thread? t = s.thread? t) : s'.issuable t = s.issuable t := by
  have hb := h.block (fun b => (b.saving, b.place)) (fun _ => rfl) t.blk
  unfold State.issuable
  rw [ht, h.issue]
  cases h0 : s.blocks[t.blk]? with
  | none =>
    rw [h0, Option.map_none, Option.map_eq_none_iff] at hb
    rw [hb]
  | some b =>
    rw [h0, Option.map_some, Option.map_eq_some_iff] at hb
    obtain ⟨b', h', he⟩ := hb
    obtain ⟨h1, h2⟩ := Prod.mk.inj he
    rw [h']
    cases s.thread? t <;> simp only [h1, h2]

theorem OnlyThreads.checked {i : Instr} {t : TRef} {th : Thread} (hc : Checked i s t th) : Checked i s' t th := by
  refine ⟨?_, ?_, ?_⟩
  · rw [h.laneWords]; exact hc.aligned
  · rw [h.laneWords]; exact hc.inRange
  · rw [h.issue, h.core, h.laneWords]; exact hc.onTime

end

section
variable {i : Instr} {st : Stall} {f : TCtx → Thread → TLane} {g : TCtx → Thread → Thread}

/-- One lane whose instruction raises nothing: its thread has become what the instruction makes of it. -/
theorem laneStep_local (hf : ∀ c th, f c th = .next (g c th)) {s : State} {t : TRef} {th : Thread} (ht : s.issuable t = some th)
    (hc : Checked i s t th) (l : List LaneTrap) :
    laneStep i st (localBody f) (s, l) t = (s.goOn t st (g (s.tctx t) th), l) := by
  simp only [laneStep, lane_checked hc ht, localBody, hf, modThread_const]
  rfl

/-- The lanes of an issue, one after the other: each thread has become what the instruction makes of it, the others are as before. -/
theorem foldl_laneStep_local (hf : ∀ c th, f c th = .next (g c th)) {s : State} :
    ∀ (lanes : List TRef) {s' : State}, OnlyThreads s s' → lanes.Nodup → (∀ t ∈ lanes, s'.thread? t = s.thread? t) →
      (∀ t ∈ lanes, ∃ th, s.issuable t = some th ∧ Checked i s t th) → ∃ s'', lanes.foldl (laneStep i st (localBody f)) (s', []) = (s'', []) ∧
        OnlyThreads s s'' ∧
        (∀ t ∈ lanes, ∀ th, s.issuable t = some th → s''.thread? t = some (((g (s.tctx t) th).issued st s.issue.word).advance)) ∧
        ∀ u, u ∉ lanes → s''.thread? u = s'.thread? u
  | [], s', hs, _, _, _ => ⟨s', rfl, hs, by simp, fun _ _ => rfl⟩
  | t :: r, s', hs, hn, hsame, hok => by
    obtain ⟨htr, hr⟩ := List.nodup_cons.mp hn
    obtain ⟨th, ht, hc⟩ := hok t (by simp)
    have ht' : s'.issuable t = some th := by rw [hs.issuable (hsame t (by simp)), ht]
    have hother : ∀ u, u ≠ t → (s'.goOn t st (g (s.tctx t) th)).thread? u = s'.thread? u := fun u hu => modThread_other _ _ hu
    obtain ⟨s'', h1, h2, h3, h4⟩ := foldl_laneStep_local hf r (onlyThreads_modThread hs t _) hr
      (fun u hu => (hother u fun e => htr (e ▸ hu)).trans (hsame u (by simp [hu]))) fun u hu => hok u (by simp [hu])
    refine ⟨s'', ?_, h2, fun u hu x hx => ?_, fun u hu => ?_⟩
    · rw [List.foldl_cons, laneStep_local hf ht' (hs.checked hc), hs.tctx]
      exact h1
    · rcases List.mem_cons.mp hu with rfl | hu
      · obtain rfl : th = x := by rw [ht] at hx; exact Option.some.inj hx
        rw [h4 _ htr, modThread_get, issuable_thread ht', hs.issue]
        rfl
      · exact h3 u hu x hx
    · rw [List.mem_cons, not_or] at hu
      exact (h4 u hu.2).trans (hother u hu.1)

end

/-- Settles O54: the lanes are performed one after the other, and none changes what another's rests on. -/
theorem everyLane : Obligations.EveryLane := by
  unfold Obligations.EveryLane
  intro i st f g s hexec hf hn hok
  obtain ⟨s', hfold, hs, hl, ho⟩ := foldl_laneStep_local (st := st) hf s.issue.lanes (OnlyThreads.refl s) hn (fun _ _ => rfl) hok
  have hrun : exec i s = .next s' := by
    rw [hexec, State.runLocal, State.runLanes]
    cases hh : s.issue.lanes with
    | nil =>
      obtain rfl : s = s' := by rw [hh] at hfold; exact congrArg Prod.fst hfold
      split <;> simp [State.issuing, hh]
    | cons t r =>
      obtain ⟨th, _, hc⟩ := hok t (by simp [hh])
      rw [hh] at hfold
      simp only [List.head?_cons, Option.map_some, Option.getD_some, hc.aligned, hfold, deliverIssued_nil]
  refine ⟨s', hrun, hl, ho, fun k => ⟨hs.block _ (fun _ => rfl) k, hs.block _ (fun _ => rfl) k, hs.block _ (fun _ => rfl) k,
    hs.block _ (fun _ => rfl) k⟩, ?_⟩
  have hr := hs.rest
  exact ⟨(congrArg State.qspindles hr :), (congrArg State.poison hr :), (congrArg State.work hr :), (congrArg State.due hr :),
    (congrArg State.mem hr :), (congrArg State.cores hr :), (congrArg State.parts hr :), (congrArg State.grids hr :),
    (congrArg State.draws hr :), (congrArg State.svc hr :)⟩

end Sys2Proof.Machine
end

section
namespace Sys2Proof.Machine

/-! ### A walk in a machine without errors (R37, R50, R68) -/

/-- Where no single-bit error stands, a read corrects none (R68). -/
theorem correct_phys_clean {s : State} (h : s.softNear = []) (pa n : Nat) : s.correct (.phys pa) n = s := by
  have hf : ∀ l : List Nat, (l.filter fun w => ([] : List Nat).contains w) = [] := by simp
  simp only [State.correct, h, hf, List.filter_nil, List.foldl_nil]
  rw [← h]

/-- An empty walk cache holds no entry. -/
theorem cachedEntry_empty {r : State} {core : Nat} (h : (r.core core).walkCache = []) (s : State) (part level pre : Nat) (now : Addr) :
    r.cachedEntry s core part level pre now = (none, s) := by
  rw [State.cachedEntry, h]; rfl

/-- An entry that a walk follows to the node that it names (R37). -/
structure Pte.Node (r : State) (part level : Nat) (e : Addr) : Prop where
  valid : Pte.v e = true
  wellFormed : Pte.malformed e level = false
  node : Pte.leaf e = false
  here : Pte.pkg e = r.pkg
  owned : (r.part part).owns (Pte.frame e * 4096) = true
  kept : (!Pte.tier e && !Pte.pin e) = false
  still : Pte.mig e = false

/-- A core that has put an entry into its walk cache (R50). -/
def Core.keepEntry (x : WalkEntry) (c : Core) : Core := { c with walkCache := (x :: c.walkCache).take 256 }

/-- One level of a walk: the entry's node, with the entry in the walk cache. -/
theorem walkFrom_node {r s : State} {core part va n node : Nat} {e : Addr} (hs : s.softNear = []) (hw : (r.core core).walkCache = [])
    (hr : r.readEntry (node + 8 * (va / 2 ^ (12 + levelShift (n + 1)) % 512)) = e) (he : Pte.Node r part (n + 1) e) :
    r.walkFrom core part va (n + 1) node s = r.walkFrom core part va n (Pte.frame e * 4096)
      (s.modCore core (Core.keepEntry ⟨part, n + 1, va / 2 ^ (12 + levelShift (n + 1)), e⟩)) := by
  rw [State.walkFrom]
  simp only [Nat.succ_ne_zero, if_false, correct_phys_clean hs, cachedEntry_empty hw, hr, Option.getD_none, he.valid, he.wellFormed,
    he.node, he.here, he.owned, he.kept, he.still, Bool.not_true, Bool.false_eq_true, bne_self_eq_false, Option.isSome_none]
  rfl

/-- The last level of a walk: the leaf. -/
theorem walkFrom_leaf {r s : State} {core part va node : Nat} {e : Addr} (hs : s.softNear = [])
    (hr : r.readEntry (node + 8 * (va / 2 ^ (12 + levelShift 0) % 512)) = e) (hv : Pte.v e = true) (hf : Pte.malformed e 0 = false)
    (hl : Pte.leaf e = true) :
    r.walkFrom core part va 0 node s = .leaf s e 0 (node + 8 * (va / 2 ^ (12 + levelShift 0) % 512)) := by
  rw [State.walkFrom]
  simp only [if_true, correct_phys_clean hs, hr, Option.getD_none, hv, hf, hl, Bool.not_true, Bool.false_eq_true, if_false]

/-! ### The word placed in reset is the one fetched (log 5) -/

/-- On package 0 a pod address is the local one (R31). -/
theorem podPa_zero {s : State} (h : s.pkg = 0) (pa : Nat) : s.podPa pa = pa := by simp [State.podPa, h]

/-- A write of a table entry in a machine of package 0 without errors changes memory alone. -/
theorem writeEntry_clean {s : State} (hp : s.pkg = 0) (hb : s.badNear = []) (hs : s.softNear = []) (pa : Nat) (e : Addr) :
    s.writeEntry pa e = { s with mem := Mem.putN s.mem pa (leBytes 8 e.toNat) } := by
  simp only [State.writeEntry, State.homeWrite, podPa_zero hp, hb, hs, stillBad, stillSoft, List.filter_nil]

/-- The memory that holds the placed thread's page table. -/
def tableMem : List Host.Cell :=
  Mem.putN (Mem.putN (Mem.putN (Mem.putN [] (placeNode 0) (leBytes 8 (placeEntry 1 false).toNat)) (placeNode 1)
    (leBytes 8 (placeEntry 2 false).toNat)) (placeNode 2) (leBytes 8 (placeEntry 3 false).toNat)) (placeNode 3 + 8)
    (leBytes 8 (placeEntry 4 true).toNat)

theorem placeMem_reset (bytes : List Byte) :
    State.reset.placeMem bytes = { State.reset with mem := Mem.putN tableMem (placeNode 4) bytes } := by
  have w := fun (m : List Host.Cell) pa e => writeEntry_clean (s := { State.reset with mem := m }) rfl rfl rfl pa e
  have h : State.reset.writeEntry (placeNode 0) (placeEntry 1 false) = _ := w [] (placeNode 0) (placeEntry 1 false)
  simp only [State.placeMem, h, w, podPa_zero (s := { State.reset with mem := _ }) rfl]
  rfl

/-- The partition of the placed thread. -/
def placedPart : Part :=
  { Part.reset with root := BitVec.ofNat 34 (placeNode 0 / 4096), tbEn := true, slices := [0], cores := [0] }

/-- The machine that has taken up the placed thread's issue, by its memory. -/
def placed (m : List Host.Cell) : State :=
  { State.reset with
    mem := m
    cores := { Core.reset with turn := [] } :: List.replicate 71 Core.reset
    parts := placedPart :: List.replicate 23 Part.reset
    grids := [placeGrid 1]
    blocks := [placeBlock 0]
    rr := 1
    issue := ⟨0, 0, [⟨0, 0⟩], 0x1000, 0⟩ }

theorem withFetchWord_eq (n : Nat) : State.reset.withFetchWord 32 n =
    { placed (Mem.putN tableMem (placeNode 4) (leBytes 4 (n % 2 ^ 32 % 2 ^ 32))) with
    cores := { Core.reset with turn := [⟨0, 0, [⟨0, 0⟩], 0x1000, 0⟩] } :: List.replicate 71 Core.reset
    agenda := [.core 0]
    rr := 0
    issue := ⟨0, 0, [], 0, 0⟩ } := by
  rw [State.withFetchWord, State.place, placeMem_reset]
  rfl

/-- The core takes up the placed issue. -/
theorem step_withFetchWord (n : Nat) : step (State.reset.withFetchWord 32 n) =
    runIssue (placed (Mem.putN tableMem (placeNode 4) (leBytes 4 (n % 2 ^ 32 % 2 ^ 32)))) := by
  rw [withFetchWord_eq, step_core _ 0 [] rfl rfl rfl]
  rfl

theorem tableMem_wf : Mem.wf tableMem = true :=
  Mem.wf_putN _ _ (Mem.wf_putN _ _ (Mem.wf_putN _ _ (Mem.wf_putN _ _ rfl)))

/-- A table entry below what has been written reads as before. -/
theorem readEntry_below {s : State} {m : List Host.Cell} {a : Nat} {bytes : List Byte} (hp : s.pkg = 0) (hs : s.mem = Mem.putN m a bytes)
    (hm : Mem.wf m = true) {pa : Nat} (h : pa + 8 ≤ a) : s.readEntry pa = addrOf (Mem.getN m pa 8) := by
  rw [State.readEntry, podPa_zero hp, hs, Mem.getN_putN_other hm _ _ _ _ (.inl h)]

/-- In this memory the placed thread's page table reads as it was written. -/
def TableStands (m : List Host.Cell) : Prop := ∀ pa, pa + 8 ≤ placeNode 4 → (placed m).readEntry pa = addrOf (Mem.getN tableMem pa 8)

/-- The nodes of the placed page table are nodes that a walk follows. -/
theorem placed_node (m : List Host.Cell) {level k : Nat} (h : (level, k) ∈ [(3, 1), (2, 2), (1, 3)]) :
    Pte.Node (placed m) 0 level (placeEntry k false) := by
  simp only [List.mem_cons, Prod.mk.injEq, List.not_mem_nil, or_false] at h
  rcases h with ⟨rfl, rfl⟩ | ⟨rfl, rfl⟩ | ⟨rfl, rfl⟩ <;>
    exact ⟨by decide, by decide, by decide, rfl, (by decide : placedPart.owns _ = true), by decide, by decide⟩

theorem tableMem_entries : addrOf (Mem.getN tableMem (placeNode 0) 8) = placeEntry 1 false ∧
    addrOf (Mem.getN tableMem (placeNode 1) 8) = placeEntry 2 false ∧ addrOf (Mem.getN tableMem (placeNode 2) 8) = placeEntry 3 false ∧
    addrOf (Mem.getN tableMem (placeNode 3 + 8) 8) = placeEntry 4 true := by
  decide

/-- A state that differs at most in the caches of translations of a core. -/
def Warmed (core : Nat) (s s' : State) : Prop := ∃ f : Core → Core, (∀ c, (f c).icache = c.icache) ∧ s' = s.modCore core f

theorem Warmed.modCore {core : Nat} {s s' : State} (h : Warmed core s s') {g : Core → Core} (hg : ∀ c, (g c).icache = c.icache) :
    Warmed core s (s'.modCore core g) := by
  obtain ⟨f, hf, rfl⟩ := h
  exact ⟨g ∘ f, fun c => (hg _).trans (hf c), by simp only [State.modCore, List.modify_modify_eq]⟩

theorem Warmed.refl (core : Nat) (s : State) : Warmed core s s := ⟨id, fun _ => rfl, by simp [State.modCore]⟩

theorem Warmed.keepEntry {core : Nat} {s s' : State} (h : Warmed core s s') (x : WalkEntry) :
    Warmed core s (s'.modCore core (Core.keepEntry x)) := h.modCore fun _ => rfl

/-- The walk to the page of the placed word ends in its leaf. -/
theorem walk_placed {m : List Host.Cell} (hr : TableStands m) :
    ∃ s', (placed m).walk 0 0 0x1000 = .leaf s' (placeEntry 4 true) 0 (placeNode 3 + 8) ∧ Warmed 0 (placed m) s' := by
  obtain ⟨h0, h1, h2, h3⟩ := tableMem_entries
  have hroot : ((placed m).part 0).root.toNat * 4096 = placeNode 0 := (by decide : placedPart.root.toNat * 4096 = placeNode 0)
  have hown : ((placed m).part 0).owns (placeNode 0) = true := (by decide : placedPart.owns (placeNode 0) = true)
  rw [State.walk, hroot, hown]
  simp only [Bool.not_true, Bool.false_eq_true, if_false]
  have at0 : placeNode 0 + 8 * (0x1000 / 2 ^ (12 + levelShift (2 + 1)) % 512) = placeNode 0 := by decide
  have at1 : placeNode 1 + 8 * (0x1000 / 2 ^ (12 + levelShift (1 + 1)) % 512) = placeNode 1 := by decide
  have at2 : placeNode 2 + 8 * (0x1000 / 2 ^ (12 + levelShift (0 + 1)) % 512) = placeNode 2 := by decide
  have at3 : placeNode 3 + 8 * (0x1000 / 2 ^ (12 + levelShift 0) % 512) = placeNode 3 + 8 := by decide
  have to1 : Pte.frame (placeEntry 1 false) * 4096 = placeNode 1 := by decide
  have to2 : Pte.frame (placeEntry 2 false) * 4096 = placeNode 2 := by decide
  have to3 : Pte.frame (placeEntry 3 false) * 4096 = placeNode 3 := by decide
  rw [← hr _ (by decide)] at h0 h1 h2 h3
  rw [walkFrom_node rfl rfl (by rw [at0, h0]) (placed_node m (k := 1) (by decide)), to1,
    walkFrom_node rfl rfl (by rw [at1, h1]) (placed_node m (k := 2) (by decide)), to2,
    walkFrom_node rfl rfl (by rw [at2, h2]) (placed_node m (k := 3) (by decide)), to3,
    walkFrom_leaf rfl (by rw [at3, h3]) (by decide) (by decide) (by decide), at3]
  exact ⟨_, rfl, (((Warmed.refl 0 _).keepEntry _).keepEntry _).keepEntry _⟩

/-- What only the caches of translations have changed of passes the same checks of a leaf. -/
theorem Warmed.leafFault {core : Nat} {s s' : State} (h : Warmed core s s') (part : Nat) (engine : Bool) (k : Access) (pte : Addr) (level va : Nat) :
    s'.leafFault part engine k pte level va = s.leafFault part engine k pte level va := by
  obtain ⟨f, _, rfl⟩ := h
  rfl

/-- The translation put into the TLB, where it is that of a page alone (R36, R50). -/
theorem Warmed.fillTlb {core : Nat} {s s' : State} (h : Warmed core s s') (part va level : Nat) (pte : Addr) (ent : Nat)
    (hc : Pte.cont pte = false) : Warmed core s (s'.fillTlb core part va level pte ent) := by
  simp only [State.fillTlb, hc, Bool.and_false, Bool.false_eq_true, if_false]
  exact h.modCore fun _ => rfl

theorem Warmed.fillPoison {core : Nat} {s s' : State} (h : Warmed core s s') (page : Nat) : Warmed core s (s'.fillPoison core page) := by
  unfold State.fillPoison
  split
  · exact h.modCore fun _ => rfl
  · exact h

/-- A fetch passes the checks of an executable near leaf of the own package in the partition's own slices (R42). -/
theorem leafFault_fetch_own {s : State} {part : Nat} {pte : Addr} {level va : Nat} (hpkg : Pte.pkg pte = s.pkg)
    (hown : (s.part part).owns (Pte.frame pte * 4096) = true) (hpop : populated (leafPa pte level va) = true) (hex : Pte.ex pte = true)
    (htier : Pte.tier pte = false) (hmig : Pte.mig pte = false) (hpoison : s.poison = []) :
    s.leafFault part false .fetch pte level va = none := by
  have h1 : (Access.fetch == Access.load) = false := rfl
  have h2 : (Access.fetch == Access.store) = false := rfl
  have h3 : (Access.fetch == Access.rmw) = false := rfl
  have h4 : (Access.fetch == Access.probe) = false := rfl
  have h5 : (Access.fetch == Access.plan) = false := rfl
  simp [State.leafFault, hpkg, hown, hpop, hex, htier, hmig, hpoison, h1, h2, h3, h4, h5]

/-- A fetch that neither an extent nor a cached translation serves walks the tables (R48, R50). -/
theorem xlat_fetch_walks {s : State} {core blk : Nat} {pc : Addr} (hlow : pc.toNat < 2 ^ 48) (hap : inAperture pc.toNat = false)
    (hen : (s.part (s.partOf blk)).tbEn = true) (htlb : (s.core core).tlb = []) :
    s.xlat core blk false .fetch pc = (s.xlatWalk core (s.partOf blk) false .fetch pc.toNat).lined core := by
  have he : ∀ l va, findExtent l .fetch va = none := fun l va => by simp [findExtent]
  have hx : s.xlatPage core (s.partOf blk) false .fetch pc.toNat = s.xlatWalk core (s.partOf blk) false .fetch pc.toNat := by
    simp only [State.xlatPage, hen, State.tlbHit, htlb, List.find?_nil, Bool.not_true, Bool.false_eq_true, if_false]
  simp only [State.xlat, Nat.not_le.mpr hlow, hap, he, hx, ite_self, Bool.false_and, Bool.false_eq_true, if_false]

/-- Such a fetch needs a walk, before which the strand's writes are performed (R41). -/
theorem mustWalk_fetch {s : State} {core blk : Nat} {pc : Addr} (hlow : pc.toNat < 2 ^ 48) (hap : inAperture pc.toNat = false)
    (hen : (s.part (s.partOf blk)).tbEn = true) (htlb : (s.core core).tlb = []) : s.mustWalk core blk .fetch pc = true := by
  have he : ∀ l va, findExtent l .fetch va = none := fun l va => by simp [findExtent]
  simp only [State.mustWalk, decide_eq_true hlow, hap, hen, he, State.tlbHit, htlb, List.find?_nil, Option.isNone_none, Bool.not_false,
    Bool.and_true]

/-- The placed word's address translates to its page. -/
theorem xlat_placed {m : List Host.Cell} (hr : TableStands m) :
    ∃ s', (placed m).xlat 0 0 false .fetch 0x1000 = .ok s' (.phys (placeNode 4)) ∧ Warmed 0 (placed m) s' := by
  obtain ⟨s', hw, hs⟩ := walk_placed hr
  have hx : (placed m).xlat 0 0 false .fetch 0x1000 = ((placed m).xlatWalk 0 0 false .fetch 0x1000).lined 0 :=
    xlat_fetch_walks (s := placed m) (blk := 0) (by decide) (by decide) rfl rfl
  have hac : placeEntry 4 true ||| 0x20#64 = placeEntry 4 true := by decide
  have ha : Pte.ac (placeEntry 4 true) = true := by decide
  have hf : (placed m).leafFault 0 false .fetch (placeEntry 4 true) 0 0x1000 = none :=
    leafFault_fetch_own (by decide : Pte.pkg _ = 0) (by decide : placedPart.owns _ = true) (by decide) (by decide) (by decide) (by decide) rfl
  have hw' : (placed m).xlatWalk 0 0 false .fetch 0x1000 =
      .ok (s'.fillTlb 0 0 0x1000 0 (placeEntry 4 true) (placeNode 3 + 8)) (.phys (placeNode 4)) := by
    simp only [State.xlatWalk, hw, hac, ha, hs.leafFault, hf, if_true, Bool.false_and, Bool.false_eq_true, if_false]
    rfl
  rw [hx, hw', Xl.lined]
  exact ⟨_, rfl, (hs.fillTlb 0 0x1000 0 _ _ (by decide)).fillPoison _⟩

/-- A fetch from memory without errors, past an empty instruction cache and an empty quarantine, gives the word there (R91). -/
theorem fetchMem_cold {s s' : State} {core blk pa : Nat} {pc : Addr} (hx : s.xlat core blk false .fetch pc = .ok s' (.phys pa))
    (hi : (s'.core core).icache = []) (hq : ((s'.blocks[blk]?).map (·.quarantine)).getD [] = []) (hb : s'.badNear = [])
    (hs : s'.softNear = []) : ∃ f, s.fetchMem core blk pc = .word (s'.modCore core f) (wordOf (Mem.getN s'.mem pa 4)) := by
  refine ⟨fun c => { c with icache := (pa, wordOf (Mem.getN s'.mem pa 4)) :: c.icache.filter fun x => x.1 != pa }, ?_⟩
  have hbad : s'.homeBad (.phys pa) 4 = false := by simp [State.homeBad, hb]
  have hnow : s'.inCopy blk (.phys pa) (s'.homeRead (.phys pa) 4) = Mem.getN s'.mem pa 4 := by
    rw [State.inCopy, hq]; rfl
  rw [State.fetchMem, hx]
  simp only [hi, findWord, List.find?_nil, Option.map_none, hnow, hbad, correct_phys_clean hs, Bool.false_and, Bool.false_eq_true, if_false]
  rw [if_neg]
  exact not_not.mpr rfl

/-- The fetch of the placed issue gives the word of the code page. -/
theorem fetch_placed {m : List Host.Cell} (hr : TableStands m) :
    ∃ f, (placed m).fetch = .word (State.issueWith ((placed m).modCore 0 f) (wordOf (Mem.getN m (placeNode 4) 4)) [⟨0, 0⟩])
      (wordOf (Mem.getN m (placeNode 4) 4)) := by
  obtain ⟨s', hx, f, hi, rfl⟩ := xlat_placed hr
  obtain ⟨g, hg⟩ := fetchMem_cold hx (hi _) rfl rfl rfl
  have hlead : (placed m).leadLane = some ⟨0, 0⟩ := by rfl
  have hheld : (placed m).heldFor ⟨0, 0⟩ 0x1000 = none := by rfl
  have hwalk : (placed m).mustWalk 0 0 .fetch 0x1000 = true := mustWalk_fetch (s := placed m) (blk := 0) (by decide) (by decide) rfl rfl
  have hdrain : (placed m).drainStrand 0 0 = placed m := by rfl
  have hfetch : (placed m).fetchLanes [⟨0, 0⟩] = (placed m).fetchMem 0 0 0x1000 := by
    change State.fetchMem (if (placed m).mustWalk 0 0 .fetch 0x1000 = true then (placed m).drainStrand 0 0 else placed m) 0 0 0x1000 = _
    rw [if_pos hwalk, hdrain]
  refine ⟨g ∘ f, ?_⟩
  have hl : (placed m).issue.lanes = [⟨0, 0⟩] := rfl
  have hpc : (placed m).issue.pc = 0x1000 := rfl
  have hg' : (placed m).fetchMem 0 0 0x1000 = .word ((placed m).modCore 0 (g ∘ f)) (wordOf (Mem.getN m (placeNode 4) 4)) := by
    rw [hg]; simp only [State.modCore, List.modify_modify_eq]; rfl
  simp only [State.fetch, hlead, hl, hpc, List.filter_cons, List.filter_nil, hheld, Option.isNone_none, if_true, hfetch, hg']

/-- A thread with no result on its way waits for none (R133). -/
theorem wordAwaits_of_no_pend {s : State} {core : Nat} {t : TRef} {th : Thread} (h : th.pend = []) (w : Word) :
    s.wordAwaits core t th w = false := by
  unfold State.wordAwaits
  split
  · simp only [Thread.awaits, h, List.any_nil]
  · rfl

/-- The placed thread waits for no result, so it issues the word. -/
theorem issueWord_placed (m : List Host.Cell) (f : Core → Core) (w : Word) :
    (((((placed m).modCore 0 f).issueWith w [⟨0, 0⟩]).issueWord w).issue = ⟨0, 0, [⟨0, 0⟩], 0x1000, w⟩) ∧
      (((((placed m).modCore 0 f).issueWith w [⟨0, 0⟩]).issueWord w).issuable ⟨0, 0⟩).isSome = true := by
  have hk : (((placed m).modCore 0 f).issueWith w [⟨0, 0⟩]).keepReady w = ((placed m).modCore 0 f).issueWith w [⟨0, 0⟩] := by
    have ht : (((placed m).modCore 0 f).issueWith w [⟨0, 0⟩]).thread? ⟨0, 0⟩ = some (Thread.start placeKernel .main 0 0 128) := by rfl
    have hl : (((placed m).modCore 0 f).issueWith w [⟨0, 0⟩]).issue.lanes = [⟨0, 0⟩] := by rfl
    rw [State.keepReady, hl]
    simp only [List.filter_cons, List.filter_nil, ht]
    rw [wordAwaits_of_no_pend rfl]
    rfl
  rw [State.issueWord, hk]
  exact ⟨rfl, rfl⟩

/-- The word that is placed in reset is the one that the next step performs. -/
theorem step_placed_word {w : Word} {i : Instr} (hd : decode w = some i) : ∃ s', step (State.reset.withFetchWord 32 w.toNat) = exec i s' ∧
    s'.issue = ⟨0, 0, [⟨0, 0⟩], 0x1000, w⟩ ∧ (s'.issuable ⟨0, 0⟩).isSome = true := by
  have hb : leBytes 4 (w.toNat % 2 ^ 32 % 2 ^ 32) = wordBytes w := by rw [Nat.mod_mod, Nat.mod_eq_of_lt w.isLt, wordBytes]
  have hr : TableStands (Mem.putN tableMem (placeNode 4) (wordBytes w)) := fun _ => readEntry_below rfl rfl tableMem_wf
  have hw : wordOf (Mem.getN (Mem.putN tableMem (placeNode 4) (wordBytes w)) (placeNode 4) 4) = w := by
    have h := Mem.getN_putN_same tableMem_wf (placeNode 4) (wordBytes w)
    rw [show (wordBytes w).length = 4 from leBytes_length 4 _] at h
    rw [h, wordOf_wordBytes]
  obtain ⟨f, hf⟩ := fetch_placed hr
  rw [hw] at hf
  refine ⟨_, ?_, issueWord_placed (Mem.putN tableMem (placeNode 4) (wordBytes w)) f w⟩
  rw [step_withFetchWord, hb, runIssue, hf]
  simp only [runWord, hd]

/-- An issue whose fetch gives a word performs what the word decodes to, or raises the cause of a word that is no instruction (R244). -/
theorem runIssue_word {s s1 : State} {w : Word} (h : s.fetch = .word s1 w) : (∀ i, decode w = some i → runIssue s = exec i (s1.issueWord w)) ∧
    (decode w = none → runIssue s = exec (.wordNotInstruction w) (s1.keepReady w).noteIssued) := by
  rw [runIssue, h]
  exact ⟨fun i hi => by simp only [runWord, hi], fun hn => by simp only [runWord, hn]; rfl⟩

/-- A core whose cycle has an issue left takes it up. -/
theorem stepCore_issue {s : State} {c : Nat} {x : Issue} {rest : List Issue} (h : (s.core c).turn = x :: rest) :
    stepCore c s = runIssue (s.begin c x rest) := by rw [stepCore, h]

/-- Once the events that were asked for have been counted and performed, the next core acts. -/
theorem stepQuiet_core {s : State} (hq : s.quiet = true) (h : s.batch = 0 ∨ s.work = []) :
    stepQuiet s = stepCore s.rr { s with quiet := false } := by
  unfold stepQuiet
  simp only [hq, if_true]
  rcases h with h | h
  · rw [h]
  · rw [h]; cases s.batch <;> rfl

/-- Settles O57: a step takes up an issue, and its word is fetched, decoded and performed. -/
theorem stepRunsDecoded : Obligations.StepRunsDecoded := by
  unfold Obligations.StepRunsDecoded
  refine ⟨fun s s1 c x rest w hp hd ht => ?_, step_event, fun s src i r hp hd ha hw => ?_, fun w i hd => step_placed_word hd⟩
  · refine ⟨fun r ha hf => ?_, fun ha hq hb hr hf => ?_⟩
    · rw [step_core s c r hp hd ha, stepCore_issue (s := { s with agenda := r }) ht]
      exact runIssue_word hf
    · subst hr
      rw [step_quiet s hp hd ha, stepQuiet_core hq hb, stepCore_issue (s := { s with quiet := false }) ht]
      exact runIssue_word hf
  · rw [step_request s src i r hp hd ha hw]
    refine ⟨fun h => if_neg ?_, fun hm ho => if_pos ⟨hm, ho⟩⟩
    rintro ⟨hm, ho⟩
    rcases h with h | h
    · simp [h] at hm
    · exact ho h

end Sys2Proof.Machine
end

section
namespace Sys2Proof.Machine

/-! ### A mismatch beside a held DRAW (R41, R278, R369)

A seal that finds a mismatch clears both copies and then issues what other leading copies hold and whose seals are all met. A
held DRAW reads its record as a load does: where that read needs a walk, the writes that wait in the strand's store queue are performed
first (R41), and one of them may go through a peer window into the memory that has just been cleared. -/

/-- A thread at its seal, with a signature. -/
def sealedThread (g : BitVec 64) : Thread := { Thread.start placeKernel .main 0 0 1 with park := some (.seal true), sig := g }

/-- One copy of a doubled block of a quad group, with its one thread at its seal. -/
def sealedCopy (copy : CopyKind) (core : Nat) (g : BitVec 64) : Block :=
  { placeBlock 0 with copy := copy, group := 1, place := .onCore core, threads := [sealedThread g], memSize := 4096 }

/-- The leading copy of another block of the group. Its strand has a write to block 0's memory in its store queue, and it holds a DRAW for
whose record the walk is still to be made; the seals of the DRAW's lanes are met. -/
def drawingCopy : Block :=
  { placeBlock 0 with
    num := 1
    copy := .leading 3
    group := 1
    place := .onCore 1
    strands := [{ Strand.start .main 0 0 with queue := [⟨⟨2, 0⟩, .win 0 0, [1], false⟩] }]
    held := [⟨.status true [] [0x20000], [⟨2, 0⟩], [], 0⟩] }

/-- Two copies at a seal with different signatures, beside the two copies of that block. -/
def mismatchBesideDraw : State :=
  { State.reset with
    blocks := [sealedCopy (.leading 1) 0 0, sealedCopy (.trailing 0) 4 1, drawingCopy,
      { placeBlock 0 with num := 1, copy := .trailing 2, group := 1, place := .onCore 5 }]
    grids := [placeGrid 1]
    parts := { Part.reset with tbEn := true } :: List.replicate 23 Part.reset }

/-- The memory of block 0 in the state that an outcome answers. -/
def memoryOfBlock0 : Host.Outcome State Fault Refusal → Option (List Host.Cell)
  | .next s => (s.blocks[0]?).map (·.mem)
  | _ => none

/-- The leading copy's memory holds the byte that the DRAW's strand had queued. -/
theorem seal_mismatchBesideDraw : memoryOfBlock0 (exec (.seal 0 0) mismatchBesideDraw) = some [(0, 1)] := by decide

/-- Refutes O46: after a first mismatch the memory of the leading copy need not be clear, since the seal also issues a DRAW that another
block holds, and the walk for its record performs a write of that block's strand into it. -/
theorem not_bobbinsAndSeals : ¬ Obligations.BobbinsAndSeals := by
  unfold Obligations.BobbinsAndSeals
  rintro ⟨_, h⟩
  obtain ⟨_, hfirst, _⟩ := h mismatchBesideDraw 0 1 0 0 4 (sealedCopy (.leading 1) 0 0) (sealedCopy (.trailing 0) 4 1) (sealedThread 0)
    (sealedThread 1) (by decide) rfl rfl rfl rfl rfl rfl rfl rfl rfl rfl rfl rfl rfl (by decide) (by decide)
  obtain ⟨s', he, hs'⟩ := hfirst (by decide) rfl
  obtain ⟨b, hb, _, hmem, _⟩ := hs' 0 (by decide)
  have hm := seal_mismatchBesideDraw
  rw [he, memoryOfBlock0, hb, Option.map_some, hmem] at hm
  exact absurd hm (by decide)

end Sys2Proof.Machine
end

section
namespace Sys2Proof.Machine

/-! ### Threads and strands under the updates of an exit or a REFORM -/

@[simp] theorem want_thread (s : State) (e : Event) (u : TRef) : (s.want e).thread? u = s.thread? u := by
  simp only [State.thread?, want_blocks]
@[simp] theorem want_strand (s : State) (e : Event) (blk k : Nat) : (s.want e).strand? blk k = s.strand? blk k := by
  simp only [State.strand?, want_blocks]
@[simp] theorem modCore_thread (s : State) (c : Nat) (f : Core → Core) (u : TRef) : (s.modCore c f).thread? u = s.thread? u := rfl
theorem modThread_core (s : State) (t : TRef) (f : Thread → Thread) (c : Nat) : (s.modThread t f).core c = s.core c := rfl
@[simp] theorem modCore_strand (s : State) (c : Nat) (f : Core → Core) (blk k : Nat) : (s.modCore c f).strand? blk k = s.strand? blk k := rfl

/-- A change of a strand keeps of every strand what it keeps of a strand. -/
theorem modStrand_strand_keeps {α : Type} (g : Strand → α) {f : Strand → Strand} (hf : ∀ x, g (f x) = g x) (s : State) (blk k b j : Nat) :
    ((s.modStrand blk k f).strand? b j).map g = (s.strand? b j).map g := by
  refine foldl_keeps (P := fun s' : State => (s'.strand? b j).map g = (s.strand? b j).map g) (fun s' p h => ?_) _ rfl
  rw [← h]
  by_cases hb : b = p.1
  · subst hb
    simp only [State.strand?, modBlock_get]
    cases s'.blocks[p.1]? with
    | none => rfl
    | some x =>
      simp only [Option.map_some, Option.bind_some, Block.modStrand, List.getElem?_modify]
      cases x.strands[j]? with
      | none => rfl
      | some y => by_cases hj : p.2 = j <;> simp [hj, hf]
  · simp only [State.strand?, modBlock_other s' _ hb]

/-- A change of a strand leaves the number of strands of every block. -/
theorem modStrand_strandCount (s : State) (blk k : Nat) (f : Strand → Strand) (c : Nat) :
    ((s.modStrand blk k f).blocks[c]?).map (fun b => b.strands.length) = (s.blocks[c]?).map fun b => b.strands.length :=
  modStrand_keeps (fun s => (s.blocks[c]?).map fun b => b.strands.length)
    (fun s b k f => modBlock_keeps (fun b => b.strands.length) s b (fun x => by simp [Block.modStrand]) c) s blk k f

/-! ### A strand whose threads have left (R141) -/

section
variable (s : State) (blk k : Nat)

theorem closeStrand_cases : s.closeStrand blk k = s ∨ s.closeStrand blk k = s.modStrand blk k fun st => { st with live := false } := by
  unfold State.closeStrand
  split
  · exact .inl rfl
  · exact .inr rfl

@[simp] theorem closeStrand_mem : (s.closeStrand blk k).mem = s.mem := by
  rcases closeStrand_cases s blk k with h | h <;> simp [h]
@[simp] theorem closeStrand_cores : (s.closeStrand blk k).cores = s.cores := by
  rcases closeStrand_cases s blk k with h | h <;> simp [h]
@[simp] theorem closeStrand_issue : (s.closeStrand blk k).issue = s.issue := by
  rcases closeStrand_cases s blk k with h | h <;> simp [h]
theorem closeStrand_core (c : Nat) : (s.closeStrand blk k).core c = s.core c := by simp only [State.core, closeStrand_cores]
@[simp] theorem closeStrand_thread (u : TRef) : (s.closeStrand blk k).thread? u = s.thread? u := by
  rcases closeStrand_cases s blk k with h | h <;> simp [h]

/-- A strand that ends keeps all but that it is live. -/
theorem closeStrand_strand {α : Type} (g : Strand → α) (hg : ∀ x : Strand, g { x with live := false } = g x) (b j : Nat) :
    ((s.closeStrand blk k).strand? b j).map g = (s.strand? b j).map g := by
  rcases closeStrand_cases s blk k with h | h <;> rw [h]
  exact modStrand_strand_keeps g hg s blk k b j

end

/-- A thread alone in a strand of one block. -/
theorem strandThreads_alone {s : State} {t : TRef} {x : Thread} (ht : s.thread? t = some x) (hl : x.live = true) (hf : x.filed = false)
    (hj : (s.strand? t.blk x.strand).map (·.joint) = some none)
    (ho : ∀ u : TRef, u.blk = t.blk → u ≠ t → ∀ y, s.thread? u = some y → y.strand ≠ x.strand) : s.strandThreads t.blk x.strand = [t] := by
  obtain ⟨st, hst, hjoint⟩ := Option.map_eq_some_iff.mp hj
  obtain ⟨b, hb, hx⟩ := Option.bind_eq_some_iff.mp ht
  have hlen : t.tid < b.threads.length := (List.getElem?_eq_some_iff.mp hx).1
  have hin : b.threadsIn x.strand = [t.tid] := by
    have hp : ∀ i ∈ List.range b.threads.length, (match b.threads[i]? with
        | some th => th.live && !th.filed && th.strand == x.strand
        | none => false) = (i == t.tid) := by
      intro i hi
      by_cases hit : i = t.tid
      · subst hit; simp [hx, hl, hf]
      · have hne : (⟨t.blk, i⟩ : TRef) ≠ t := fun e => hit (congrArg TRef.tid e)
        rw [beq_eq_false_iff_ne.mpr hit]
        cases hy : b.threads[i]? with
        | none => rfl
        | some y =>
          have := ho ⟨t.blk, i⟩ rfl hne y (by rw [State.thread?, hb]; exact hy)
          simp [this]
    rw [Block.threadsIn]
    refine (List.filter_congr hp).trans ?_
    rw [List.filter_beq, List.count_eq_one_of_mem List.nodup_range (List.mem_range.mpr hlen)]
    rfl
  rw [State.strandThreads, strandParts_single s _ _ (by rw [hst, Option.bind_some, hjoint])]
  simp [hb, hin]

/-! ### EXIT (R137, R138, R268, R319) -/

/-- A thread that its instruction finds may issue: it lives and is in no bobbin. -/
theorem issuable_lives {s : State} {t : TRef} {th : Thread} (h : s.issuable t = some th) : th.live = true ∧ th.filed = false := by
  unfold State.issuable at h
  split at h
  · split at h
    · next hc =>
      cases h
      simp only [Bool.and_eq_true, Bool.not_eq_true'] at hc
      exact ⟨hc.1.1.1.1.1.1, hc.1.1.1.1.1.2⟩
    · cases h
  · cases h

/-- A thread that ends: it has left its strand's entries, and what it issued earlier has completed. -/
def Thread.ended (th : Thread) : Thread := { th.settleResults with live := false, overflow := [], park := none, hang := 0 }

section
variable (s : State) (core : Nat) (t : TRef) (th : Thread)

@[simp] theorem unbind_mem : (s.unbind core t th).mem = s.mem := by unfold State.unbind; split <;> rfl
@[simp] theorem unbind_issue : (s.unbind core t th).issue = s.issue := by unfold State.unbind; split <;> rfl
@[simp] theorem unbind_strand (blk k : Nat) : (s.unbind core t th).strand? blk k = s.strand? blk k := by
  unfold State.unbind; split <;> simp

theorem unbind_other {u : TRef} (h : u ≠ t) : (s.unbind core t th).thread? u = s.thread? u := by
  unfold State.unbind; split
  · rfl
  · rw [modThread_other _ _ h, modCore_thread]

theorem unbind_cores (h : th.cv = none) : (s.unbind core t th).cores = s.cores := by rw [State.unbind, h]

/-- What an ending thread gives up of the matrix unit leaves it with its results and its waits. -/
theorem unbind_thread {x : Thread} (h : s.thread? t = some x) : ∃ c, (s.unbind core t th).thread? t = some { x with cv := c } := by
  unfold State.unbind; split
  · exact ⟨x.cv, h⟩
  · exact ⟨none, by rw [modThread_get, modCore_thread, h]; rfl⟩

/-- The state of an ended thread, but for the event of the end of its block. -/
def State.exited : State :=
  (((s.unbind core t th).modStrand t.blk th.strand fun k => k.leave t k.rejoin.length).modThread t Thread.ended).closeStrand t.blk th.strand

theorem exitThread_cases : s.exitThread core t th = s.exited core t th ∨ s.exitThread core t th = (s.exited core t th).want (.blockEnd t.blk) := by
  unfold State.exitThread
  dsimp only
  split
  · exact .inr rfl
  · exact .inl rfl

@[simp] theorem exitThread_mem : (s.exitThread core t th).mem = s.mem := by
  rcases exitThread_cases s core t th with h | h <;> simp [h, State.exited]

@[simp] theorem exitThread_issue : (s.exitThread core t th).issue = s.issue := by
  rcases exitThread_cases s core t th with h | h <;> simp [h, State.exited]

theorem exitThread_cores (hc : th.cv = none) : (s.exitThread core t th).cores = s.cores := by
  rcases exitThread_cases s core t th with h | h <;> simp [h, State.exited, unbind_cores s core t th hc]

theorem exitThread_other {u : TRef} (hu : u ≠ t) : (s.exitThread core t th).thread? u = s.thread? u := by
  rcases exitThread_cases s core t th with h | h <;>
    simp [h, State.exited, modThread_other _ _ hu, unbind_other s core t th hu]

theorem exitThread_thread {x : Thread} (hx : s.thread? t = some x) :
    ∃ c, (s.exitThread core t th).thread? t = some { x with cv := c }.ended := by
  obtain ⟨c, hc⟩ := unbind_thread s core t th hx
  refine ⟨c, ?_⟩
  rcases exitThread_cases s core t th with h | h <;> simp [h, State.exited, hc]

/-- The thread has left every entry of its strand's file (R137). -/
theorem exitThread_rejoin {k : Strand} (hk : s.strand? t.blk th.strand = some k) (hj : k.joint = none) :
    ((s.exitThread core t th).strand? t.blk th.strand).map (·.rejoin) = some (leaveEntries t k.rejoin.length k.rejoin) := by
  have hone : ((s.unbind core t th).strand? t.blk th.strand).bind Strand.joint = none := by rw [unbind_strand, hk, Option.bind_some, hj]
  have he : ((s.exited core t th).strand? t.blk th.strand).map (·.rejoin) = some (leaveEntries t k.rejoin.length k.rejoin) := by
    rw [State.exited, closeStrand_strand _ _ _ _ fun _ => rfl, modThread_strand, modStrand_single _ _ _ _ hone, modBlock_modStrand_strand,
      unbind_strand, hk]
    rfl
  rcases exitThread_cases s core t th with h | h <;> simpa [h] using he

end

section
variable {st : Stall} {s : State} {t : TRef} {th : Thread} (h : OneLane (.exit st) s t th)
include h

theorem exec_exit : exec (.exit st) s = .next (afterLane (.exit st) t st
    (if s.exitWaits s.issue.core t th then .go (s.parkAt t .exit) else s.sealGate t th fun s => .go (s.exitThread s.issue.core t th))) := by
  rw [show exec (.exit st) s = execExit st s from rfl, execExit, run_one h]

/-- An EXIT that an open round holds up parks (R319). -/
theorem exec_exit_waits (hw : s.exitWaits s.issue.core t th = true) :
    exec (.exit st) s = .next (s.goThere t st { th with park := some .exit }) := by
  rw [exec_exit h, if_pos hw]
  simp only [afterLane, State.parkAt, modThread_modThread, modThread_issue]
  exact congrArg _ (modThread_known s (issuable_thread h.thread) _)

/-- In a doubled block an EXIT waits for its seal (R368). -/
theorem exec_exit_seals (hw : s.exitWaits s.issue.core t th = false) (hd : s.isDoubled t.blk = true) (hs : th.sealed = false) :
    exec (.exit st) s = .next (((s.parkAt t (.seal true)).want (.seal t.blk t.tid)).modThread t (Thread.issued st s.issue.word)) := by
  have hd' : ((s.blocks[t.blk]?).map Block.doubled).getD false = true := hd
  rw [exec_exit h, if_neg (by simp [hw])]
  simp [State.sealGate, hd', hs, afterLane, State.parkAt]

/-- Any other EXIT ends its thread; a seal that let it go on is spent. -/
theorem exec_exit_ends (hw : s.exitWaits s.issue.core t th = false) (hd : s.isDoubled t.blk = false ∨ th.sealed = true) :
    exec (.exit st) s = .next (((s.modThread t fun x => { x with sealed := false }).exitThread s.issue.core t th).modThread t
      (Thread.issued st s.issue.word)) := by
  have hd' : (((s.blocks[t.blk]?).map Block.doubled).getD false && !th.sealed) = false := by
    rcases hd with hd | hd
    · rw [show ((s.blocks[t.blk]?).map Block.doubled).getD false = false from hd, Bool.false_and]
    · rw [hd, Bool.not_true, Bool.and_false]
  rw [exec_exit h, if_neg (by simp [hw]), State.sealGate, hd']
  cases hs : th.sealed with
  | true => simp [afterLane]
  | false =>
    rw [modThread_congr (issuable_thread h.thread) (g := id) (by rw [← hs]; rfl), modThread_id]
    simp [afterLane]

end

/-- What an EXIT that ends its thread leaves (R137, R138, R268). -/
theorem exec_exit_facts {st : Stall} {s : State} {t : TRef} {th : Thread} (h : OneLane (.exit st) s t th)
    (hw : s.exitWaits s.issue.core t th = false) (hd : s.isDoubled t.blk = false ∨ th.sealed = true) :
    ∃ s' x, exec (.exit st) s = .next s' ∧ s'.thread? t = some x ∧ x.live = false ∧ x.overflow = [] ∧
      x.pend = th.pend.filter (·.held) ∧ x.park = none ∧ s'.mem = s.mem ∧ (th.cv = none → s'.cores = s.cores) ∧
      (∀ u ≠ t, s'.thread? u = s.thread? u) ∧ ∀ k, s.strand? t.blk th.strand = some k → k.joint = none →
        (s'.strand? t.blk th.strand).map (·.rejoin) = some (leaveEntries t k.rejoin.length k.rejoin) := by
  have hx : (s.modThread t fun x => { x with sealed := false }).thread? t = some { th with sealed := false } := by
    rw [modThread_get, issuable_thread h.thread]; rfl
  obtain ⟨c, hc⟩ := exitThread_thread _ s.issue.core t th hx
  refine ⟨_, _, exec_exit_ends h hw hd, by rw [modThread_get, hc]; rfl, rfl, rfl, rfl, rfl, by simp, fun hcv => ?_, fun u hu => ?_,
    fun k hk hj => ?_⟩
  · rw [modThread_cores, exitThread_cores _ _ _ _ hcv, modThread_cores]
  · rw [modThread_other _ _ hu, exitThread_other _ _ _ _ hu, modThread_other _ _ hu]
  · rw [modThread_strand, exitThread_rejoin _ _ _ _ (by rw [modThread_strand, hk]) hj]

/-! ### REFORM (R141, R269) -/

section
variable (s : State) (core : Nat) (t : TRef) (th : Thread)

/-- A thread has left its strand, whose writes are performed. -/
def State.leftStrand : State :=
  (s.drainStrand t.blk th.strand).modStrand t.blk th.strand fun k => (k.leave t k.rejoin.length).leaveLoop

/-- A strand of its own for a thread of the strand `k`. -/
def Strand.alone (k : Strand) : Strand :=
  { Strand.blank with role := k.role, slot := k.slot, off := k.off, live := true, opq := List.replicate 8 [], holds := k.holds }

/-- A block with a strand more. -/
def Block.withStrand (k : Strand) (b : Block) : Block := { b with strands := b.strands ++ [k] }

/-- A thread that REFORM has moved. -/
def Thread.reformed (f : Bool) (k : Nat) (th : Thread) : Thread :=
  { th.unpark.advance with filed := f, strand := k, overflow := [] }

theorem leftStrand_cores : (s.leftStrand t th).cores = (s.drainStrand t.blk th.strand).cores := modStrand_cores _ _ _ _

theorem leftStrand_core (c : Nat) : (s.leftStrand t th).core c = (s.drainStrand t.blk th.strand).core c := by
  rw [State.core, leftStrand_cores]; rfl

/-- The number of strands that the block of a thread has when the thread has left its own. -/
theorem leftStrand_count {b : Block} (hb : (s.drainStrand t.blk th.strand).blocks[t.blk]? = some b) :
    ((s.leftStrand t th).blocks[t.blk]?).map (fun b => b.strands.length) = some b.strands.length := by
  rw [State.leftStrand, modStrand_strandCount, hb, Option.map_some]

/-- A bobbin takes the thread. -/
theorem reformThread_files {i : Nat}
    (hp : pickBobbin ((s.drainStrand t.blk th.strand).core core).bobbins (s.bobbinKey t th) = some i) :
    s.reformThread core t th = (((s.leftStrand t th).modThread t fun x => x.reformed true x.strand).modCore core fun c =>
      { c with bobbins := c.bobbins.modify i fun b => ⟨some (s.bobbinKey t th), b.threads ++ [(t, 0)]⟩ }).closeStrand t.blk th.strand := by
  rw [← leftStrand_core] at hp
  unfold State.reformThread
  dsimp only
  rw [show ((s.drainStrand t.blk th.strand).modStrand t.blk th.strand fun k => (k.leave t k.rejoin.length).leaveLoop) =
    s.leftStrand t th from rfl, hp]
  rfl

/-- No bobbin takes the thread: it goes on in a strand of its own, the last of its block. -/
theorem reformThread_alone {n : Nat}
    (hp : pickBobbin ((s.drainStrand t.blk th.strand).core core).bobbins (s.bobbinKey t th) = none)
    (hn : ((s.leftStrand t th).blocks[t.blk]?).map (fun b => b.strands.length) = some n) :
    s.reformThread core t th = (((s.leftStrand t th).modBlock t.blk
      (Block.withStrand (s.strandOf t th).alone)).modThread t fun x => x.reformed x.filed n).closeStrand t.blk th.strand := by
  rw [← leftStrand_core] at hp
  unfold State.reformThread
  dsimp only
  rw [show ((s.drainStrand t.blk th.strand).modStrand t.blk th.strand fun k => (k.leave t k.rejoin.length).leaveLoop) =
    s.leftStrand t th from rfl, hp, hn]
  rfl

end

/-- A strand that is added to a block is its last. -/
theorem addStrand_strand {s : State} {blk : Nat} {k : Strand} {n : Nat}
    (hn : (s.blocks[blk]?).map (fun b => b.strands.length) = some n) :
    (s.modBlock blk (Block.withStrand k)).strand? blk n = some k := by
  obtain ⟨b, hb, rfl⟩ := Option.map_eq_some_iff.mp hn
  simp [State.strand?, hb, Block.withStrand]

/-- It changes no thread. -/
theorem addStrand_thread (s : State) (blk : Nat) (k : Strand) (u : TRef) :
    (s.modBlock blk (Block.withStrand k)).thread? u = s.thread? u := modBlock_thread s blk (f := Block.withStrand k) (fun _ => rfl) u

section
variable {st : Stall} {s : State} {t : TRef} {th : Thread} (h : OneLane (.reform st) s t th)
include h

/-- A REFORM waits for the results on their way to its thread (R269). -/
theorem exec_reform_waits (hp : th.pend ≠ []) : exec (.reform st) s = .next (s.goThere t st { th with park := some .reform }) := by
  have he : (!th.pend.isEmpty) = true := by simp [hp]
  rw [show exec (.reform st) s = execReform st s from rfl, execReform, run_one h, he]
  simp only [if_true, afterLane, State.parkAt, modThread_modThread, modThread_issue]
  exact congrArg _ (modThread_congr (issuable_thread h.thread) rfl)

/-- With none on its way, it moves its thread. -/
theorem exec_reform_moves (hp : th.pend = []) : exec (.reform st) s =
    .next ((s.reformThread s.issue.core t th).modThread t (Thread.issued st (s.reformThread s.issue.core t th).issue.word)) := by
  rw [show exec (.reform st) s = execReform st s from rfl, execReform, run_one h, hp]
  rfl

/-- REFORM of a thread that a bobbin takes (R141). -/
theorem exec_reform_files {i : Nat} {b : Bobbin} (hd : th.pend = [])
    (ht : (s.drainStrand t.blk th.strand).thread? t = some th) (hc : s.issue.core < (s.drainStrand t.blk th.strand).cores.length)
    (hp : pickBobbin ((s.drainStrand t.blk th.strand).core s.issue.core).bobbins (s.bobbinKey t th) = some i)
    (hb : ((s.drainStrand t.blk th.strand).core s.issue.core).bobbins[i]? = some b) : ∃ s', exec (.reform st) s = .next s' ∧
      s'.thread? t = some ((th.reformed true th.strand).issued st (s.drainStrand t.blk th.strand).issue.word) ∧
      s'.mem = (s.drainStrand t.blk th.strand).mem ∧
      (s'.core s.issue.core).bobbins[i]? = some ⟨some (s.bobbinKey t th), b.threads ++ [(t, 0)]⟩ := by
  refine ⟨_, exec_reform_moves h hd, ?_, ?_, ?_⟩ <;> rw [reformThread_files s _ t th hp]
  · simp [State.leftStrand, ht]
  · simp [State.leftStrand]
  · have hc' : s.issue.core < ((s.leftStrand t th).modThread t fun x => x.reformed true x.strand).cores.length := by
      rw [modThread_cores, leftStrand_cores]; exact hc
    rw [modThread_core, closeStrand_core, modCore_core_same hc', modThread_core, leftStrand_core]
    simp [hb]

/-- REFORM of a thread that no bobbin takes (R141). -/
theorem exec_reform_alone {b : Block} (hd : th.pend = [])
    (ht : (s.drainStrand t.blk th.strand).thread? t = some th)
    (hp : pickBobbin ((s.drainStrand t.blk th.strand).core s.issue.core).bobbins (s.bobbinKey t th) = none)
    (hb : (s.drainStrand t.blk th.strand).blocks[t.blk]? = some b) (hlt : ∀ x ∈ b.threads, x.strand < b.strands.length) :
    ∃ s', exec (.reform st) s = .next s' ∧
      s'.thread? t = some ((th.reformed false b.strands.length).issued st (s.drainStrand t.blk th.strand).issue.word) ∧
      s'.mem = (s.drainStrand t.blk th.strand).mem ∧ s'.cores = (s.drainStrand t.blk th.strand).cores ∧
      s'.strandThreads t.blk b.strands.length = [t] := by
  obtain ⟨hl, hf⟩ := issuable_lives h.thread
  have hn := leftStrand_count s t th hb
  have hx : ((s.reformThread s.issue.core t th).modThread t
      (Thread.issued st (s.reformThread s.issue.core t th).issue.word)).thread? t =
        some ((th.reformed false b.strands.length).issued st (s.drainStrand t.blk th.strand).issue.word) := by
    rw [reformThread_alone s _ t th hp hn]
    simp [addStrand_thread, State.leftStrand, ht, hf]
  refine ⟨_, exec_reform_moves h hd, hx, ?_, ?_, ?_⟩
  · rw [reformThread_alone s _ t th hp hn]; simp [State.leftStrand]
  · rw [reformThread_alone s _ t th hp hn]; simp [State.leftStrand]
  · refine strandThreads_alone hx hl rfl ?_ fun u hu hne y hy => ?_
    · rw [reformThread_alone s _ t th hp hn, modThread_strand, closeStrand_strand _ _ _ _ fun _ => rfl, modThread_strand]
      exact congrArg _ (addStrand_strand hn)
    · rw [modThread_other _ _ hne, reformThread_alone s _ t th hp hn, closeStrand_thread, modThread_other _ _ hne, addStrand_thread,
        State.leftStrand, modStrand_thread, State.thread?, hu, hb] at hy
      exact (hlt y (List.mem_of_getElem? hy)).ne

end

/-- Settles O14: what an EXIT and a REFORM leave, case by case; a strand that a thread has alone is its block's last. -/
theorem exitAndReform : Obligations.ExitAndReform := by
  unfold Obligations.ExitAndReform
  intro st s t th
  refine ⟨fun h => ⟨exec_exit_waits h, exec_exit_seals h, exec_exit_facts h⟩, fun h => ⟨exec_reform_waits h, ?_⟩⟩
  intro hp s1 key ht hc out
  exact ⟨fun i b hi hb => exec_reform_files h hp ht hc hi hb, fun b hi hb hlt => exec_reform_alone h hp ht hi hb hlt⟩

end Sys2Proof.Machine
end

section
namespace Sys2Proof.Machine

/-! ### The collective set while its threads change (R139) -/

/-- What the collective sets rest on of a thread. -/
def Thread.placed (th : Thread) : Bool × Bool × Nat × List (Addr × Addr) := (th.live, th.filed, th.strand, th.overflow)

section
variable {f : Thread → Thread} (hf : ∀ x, (f x).placed = x.placed)
include hf

theorem modThread_placed (s : State) (t u : TRef) :
    ((s.modThread t f).thread? u).map Thread.placed = (s.thread? u).map Thread.placed := by
  by_cases h : u = t
  · subst h
    rw [modThread_get, Option.map_map]
    exact congrArg (Option.map · _) (funext hf)
  · rw [modThread_other s f h]

theorem Block.threadsIn_modThread (b : Block) (i k : Nat) : (b.modThread i f).threadsIn k = b.threadsIn k := by
  rw [Block.threadsIn, Block.threadsIn, show (b.modThread i f).threads = b.threads.modify i f from rfl, List.length_modify]
  refine List.filter_congr fun j _ => ?_
  rw [List.getElem?_modify]
  cases b.threads[j]? with
  | none => rfl
  | some x =>
    by_cases hj : i = j
    · obtain ⟨hl, hfl, hst, -⟩ := by simpa only [Thread.placed, Prod.mk.injEq] using hf x
      simp [hj, hl, hfl, hst]
    · simp [hj]

theorem modThread_strandThreads (s : State) (t : TRef) (blk k : Nat) : (s.modThread t f).strandThreads blk k = s.strandThreads blk k := by
  have hp : (s.modThread t f).strandParts blk k = s.strandParts blk k := by
    refine strandParts_congr (List.ext_getElem? fun n => ?_) blk k
    rw [List.getElem?_map, List.getElem?_map]
    exact modBlock_keeps (·.strands) s t.blk (f := fun b => b.modThread t.tid f) (fun _ => rfl) n
  rw [State.strandThreads, State.strandThreads, hp]
  congr 1
  funext p
  exact congrArg (fun o : Option (List Nat) => (o.getD []).map (TRef.mk p.1))
    (modBlock_keeps (·.threadsIn p.2) s t.blk (fun b => b.threadsIn_modThread hf t.tid p.2) p.1)

theorem modThread_collSet (s : State) (t u : TRef) : (s.modThread t f).collSet u = s.collSet u := by
  have hall := modThread_placed hf s t
  have hu := hall u
  unfold State.collSet
  cases h : s.thread? u with
  | none =>
    rw [h, Option.map_none, Option.map_eq_none_iff] at hu
    rw [hu]
  | some x =>
    rw [h, Option.map_some, Option.map_eq_some_iff] at hu
    obtain ⟨y, hy, he⟩ := hu
    obtain ⟨-, -, hst, ho⟩ := by simpa only [Thread.placed, Prod.mk.injEq] using he
    rw [hy]
    dsimp only
    rw [hst, ho, modThread_strand, modThread_strandThreads hf]
    congr 2
    funext v
    have hv := hall v
    cases h' : s.thread? v with
    | none =>
      rw [h', Option.map_none, Option.map_eq_none_iff] at hv
      rw [hv]
    | some z =>
      rw [h', Option.map_some, Option.map_eq_some_iff] at hv
      obtain ⟨z', hz, hez⟩ := hv
      obtain ⟨hl, -, -, hov⟩ := by simpa only [Thread.placed, Prod.mk.injEq] using hez
      rw [hz]
      dsimp only
      rw [hl, hov]

end

/-! ### The members of a set (R139) -/

/-- The threads of some list as they are, in its order. -/
def State.found (s : State) (l : List TRef) : Members := l.filterMap fun u => (s.thread? u).map (Prod.mk u)

theorem mem_found {s : State} {l : List TRef} {x : TRef × Thread} : x ∈ s.found l ↔ x.1 ∈ l ∧ s.thread? x.1 = some x.2 := by
  simp only [State.found, List.mem_filterMap, Option.map_eq_some_iff]
  constructor
  · rintro ⟨u, hu, y, hy, rfl⟩
    exact ⟨hu, hy⟩
  · rintro ⟨hu, hy⟩
    exact ⟨x.1, hu, x.2, hy, rfl⟩

theorem found_nodup {s : State} {l : List TRef} (h : l.Nodup) : ((s.found l).map Prod.fst).Nodup := by
  refine List.Nodup.map_on (fun x hx y hy he => Prod.ext he ?_) (h.filterMap fun u v x hu hv => ?_)
  · have hx' := (mem_found.mp hx).2
    rw [he, (mem_found.mp hy).2] at hx'
    exact (Option.some.inj hx').symm
  · obtain ⟨_, _, rfl⟩ := Option.map_eq_some_iff.mp hu
    obtain ⟨_, _, he⟩ := Option.map_eq_some_iff.mp hv
    exact (congrArg Prod.fst he).symm

/-! ### The value collectives (R260, R261, R292, R293) -/

/-- What the value collectives have in common. -/
structure IsValue (st : Stall) (i : Instr) : Prop where
  exec : ∀ s, exec i s = s.collective i st
  noSpindle : spindleOf i = none
  perform : ∀ s core blk m, State.perform s core blk i m = s.performValue blk i m
  out : ∀ w n m th, (collectiveOut i w n m th).isSome

theorem isValue_of_mem {d a b : RegName} {ty : RedType} {st : Stall} {i : Instr} (hi : i ∈ valueCollectives d a b ty st) : IsValue st i := by
  simp only [valueCollectives, List.mem_cons, List.not_mem_nil, or_false] at hi
  rcases hi with rfl | rfl | rfl | rfl | rfl | rfl | rfl | rfl | rfl | rfl | rfl | rfl | rfl | rfl | rfl | rfl | rfl | rfl <;>
    exact ⟨fun _ => rfl, rfl, fun _ _ _ _ => rfl, fun _ _ _ _ => rfl⟩

/-- The members of a value collective that raises nothing, one after the other: each goes on with its result, and only threads change. -/
theorem foldl_valueMember {i : Instr} {w n : Nat} {m : Members} {s : State} :
    ∀ (l : Members) {s' : State}, OnlyThreads s s' → (l.map Prod.fst).Nodup → (∀ x ∈ l, s'.thread? x.1 = some x.2) →
      (∀ x ∈ l, ∃ r, collectiveOut i w n m x.2 = some r ∧ enabledCause x.2.fpctl r.2.2 = none) →
      ∃ s'', l.foldl (valueMember i w n m) (s', []) = (s'', []) ∧ OnlyThreads s s'' ∧
        (∀ u, u ∉ l.map Prod.fst → s''.thread? u = s'.thread? u) ∧
        ∀ x ∈ l, ∃ d rs fl, collectiveOut i w n m x.2 = some (d, rs, fl) ∧
          s''.thread? x.1 = some ((x.2.raise fl).results d none 0 rs).unpark.advance
  | [], s', hs, _, _, _ => ⟨s', rfl, hs, fun _ _ => rfl, by simp⟩
  | x :: l, s', hs, hn, ht, ho => by
    obtain ⟨hx, hl⟩ := List.nodup_cons.mp hn
    obtain ⟨⟨d, rs, fl⟩, hout, hen⟩ := ho x (by simp)
    have hstep : valueMember i w n m (s', []) x = (s'.release x.1 fun th => (th.raise fl).results d none 0 rs, []) := by
      simp only [valueMember, hout, hen]
    have hother : ∀ u, u ≠ x.1 → (s'.release x.1 fun th => (th.raise fl).results d none 0 rs).thread? u = s'.thread? u :=
      fun u hu => modThread_other _ _ hu
    obtain ⟨s'', h1, h2, h3, h4⟩ := foldl_valueMember l (onlyThreads_modThread hs x.1 fun th => ((th.raise fl).results d none 0 rs).unpark.advance)
      hl (fun y hy => (hother y.1 fun e => hx (e ▸ List.mem_map_of_mem hy)).trans (ht y (by simp [hy]))) fun y hy => ho y (by simp [hy])
    refine ⟨s'', by rw [List.foldl_cons, hstep]; exact h1, h2, fun u hu => ?_, fun y hy => ?_⟩
    · rw [List.map_cons, List.mem_cons, not_or] at hu
      exact (h3 u hu.2).trans (hother u hu.1)
    · rcases List.mem_cons.mp hy with rfl | hy
      · refine ⟨d, rs, fl, hout, ?_⟩
        rw [h3 _ hx, modThread_get, ht _ (by simp)]
        rfl
      · exact h4 y hy

/-! ### The arrival of one thread (R139) -/

section
variable {i : Instr} {st : Stall} {s : State} {t : TRef} {th : Thread}

/-- The machine when a thread has parked at a collective. -/
def State.arrived (s : State) (t : TRef) (i : Instr) (st : Stall) : State :=
  s.modThread t fun x => x.atSet i st s.issue.word

theorem onlyThreads_arrived (s : State) (t : TRef) (i : Instr) (st : Stall) : OnlyThreads s (s.arrived t i st) :=
  onlyThreads_modThread (.refl s) _ _

theorem arrived_self (ht : s.thread? t = some th) : (s.arrived t i st).thread? t = some (th.atSet i st s.issue.word) := by
  rw [State.arrived, modThread_get, ht]; rfl

theorem arrived_other {u : TRef} (hu : u ≠ t) : (s.arrived t i st).thread? u = s.thread? u := modThread_other _ _ hu

theorem membersAt_eq (ht : s.thread? t = some th) :
    s.membersAt t th i st = ((s.arrived t i st).found (s.collSet t)).insertionSort fun x y => x.2.lane ≤ y.2.lane := by
  unfold State.membersAt State.found
  congr 2
  funext u
  by_cases hu : u = t
  · subst hu; rw [if_pos rfl, arrived_self ht]; rfl
  · rw [if_neg hu, arrived_other hu]

theorem exec_value (hi : IsValue st i) (h : OneLane i s t th) :
    exec i s = .next ((s.arrived t i st).tryCollective s.issue.core t) := by
  have hr : s.runLanes i st (parkCollective i) = s.arrived t i st := by
    rw [runLanes_one h]
    simp only [parkCollective, hi.noSpindle, afterLane, State.parkAt, modThread_modThread, modThread_issue]
    rfl
  rw [hi.exec, State.collective, hr, State.settleIssue, (onlyThreads_arrived s t i st).issue, h.lanes]
  rfl

/-- The set is complete where every thread that is found of it is parked at a collective with the pc of the thread. -/
theorem complete_arrived (ht : s.thread? t = some th) : (s.arrived t i st).complete t =
    if ((s.arrived t i st).found (s.collSet t)).all (fun x => x.2.atCollective.isSome && x.2.pc == th.pc) then
      some (s.membersAt t th i st) else none := by
  have hc : (s.arrived t i st).collSet t = s.collSet t :=
    modThread_collSet (f := fun x => x.atSet i st s.issue.word) (fun _ => rfl) s t t
  rw [membersAt_eq ht, State.complete, arrived_self ht, hc]
  rfl

/-- As long as a thread of the set is not there, the threads wait. -/
theorem exec_value_waits (hi : IsValue st i) (h : OneLane i s t th) {u : TRef} {x : Thread} (hu : u ∈ s.collSet t) (hne : u ≠ t)
    (hx : s.thread? u = some x) (hn : ¬(x.atCollective.isSome = true ∧ x.pc = th.pc)) : exec i s = .next (s.arrived t i st) := by
  have ht := issuable_thread h.thread
  have hall : ¬((s.arrived t i st).found (s.collSet t)).all (fun x => x.2.atCollective.isSome && x.2.pc == th.pc) = true := by
    intro hall
    have := List.all_eq_true.mp hall (u, x) (mem_found.mpr ⟨hu, by rw [arrived_other hne, hx]⟩)
    exact hn (by simpa using this)
  rw [exec_value hi h, State.tryCollective, arrived_self ht, complete_arrived ht, if_neg hall]
  rfl

section
variable (h : OneLane i s t th)
    (hall : ∀ u ∈ s.collSet t, u ≠ t → ∃ x, s.thread? u = some x ∧ x.atCollective.isSome = true ∧ x.pc = th.pc)
include h hall

/-- A member of the set of the last thread to arrive stands at a collective with the pc of that thread. -/
theorem found_arrived {x : TRef × Thread} (hx : x ∈ (s.arrived t i st).found (s.collSet t)) :
    x.2.atCollective.isSome = true ∧ x.2.pc = th.pc := by
  obtain ⟨hu, hx⟩ := mem_found.mp hx
  by_cases he : x.1 = t
  · rw [he, arrived_self (issuable_thread h.thread)] at hx
    rw [← Option.some.inj hx]
    exact ⟨rfl, rfl⟩
  · obtain ⟨y, hy, hc⟩ := hall x.1 hu he
    rw [arrived_other he, hy] at hx
    rwa [← Option.some.inj hx]

theorem mem_membersAt {x : TRef × Thread} (hx : x ∈ s.membersAt t th i st) :
    (s.arrived t i st).thread? x.1 = some x.2 ∧ x.2.pc = th.pc := by
  rw [membersAt_eq (issuable_thread h.thread), List.mem_insertionSort] at hx
  exact ⟨(mem_found.mp hx).2, (found_arrived h hall hx).2⟩

/-- The last thread to arrive has the collective performed for the set. -/
theorem exec_value_last (hi : IsValue st i) : exec i s = .next ((s.arrived t i st).performValue
    ((((s.membersAt t th i st).head?).map (·.1.blk)).getD t.blk) i (s.membersAt t th i st)) := by
  have ht := issuable_thread h.thread
  have hc : ((s.arrived t i st).found (s.collSet t)).all (fun x => x.2.atCollective.isSome && x.2.pc == th.pc) = true :=
    List.all_eq_true.mpr fun x hx => by simpa using found_arrived h hall hx
  rw [exec_value hi h, State.tryCollective, arrived_self ht, complete_arrived ht, if_pos hc]
  exact congrArg _ (hi.perform _ _ _ _)

end

theorem membersAt_nodup (ht : s.thread? t = some th) (hn : (s.collSet t).Nodup) : ((s.membersAt t th i st).map Prod.fst).Nodup := by
  rw [membersAt_eq ht]
  exact ((List.perm_insertionSort _ _).map Prod.fst).nodup_iff.mpr (found_nodup hn)

end

/-- Settles O32: the parking changes no collective set; the last thread finds its set complete, and the results of the members do not
disturb one another. -/
theorem collectivesWait : Obligations.CollectivesWait := by
  unfold Obligations.CollectivesWait
  intro d a b ty st i hi s t th h hn _ m k
  have hv := isValue_of_mem hi
  have ht := issuable_thread h.thread
  have hs := onlyThreads_arrived s t i st
  refine ⟨?_, fun hall hen => ?_⟩
  · rintro ⟨u, hu, hne, x, hx, hnot⟩
    exact ⟨_, exec_value_waits hv h hu hne hx hnot, arrived_self ht, (congrArg State.mem hs.rest :), fun v => arrived_other⟩
  · obtain ⟨s', hfold, hs', -, hmem⟩ := foldl_valueMember (i := i) (w := k.width) (n := k.d) (m := m) m hs (membersAt_nodup ht hn)
      (fun x hx => (mem_membersAt h hall hx).1) fun x hx => by
        obtain ⟨r, hr⟩ := Option.isSome_iff_exists.mp (hv.out k.width k.d m x.2)
        exact ⟨r, hr, hen x hx r hr⟩
    refine ⟨s', ?_, (congrArg State.mem hs'.rest :), hs'.cores, fun x hx => ?_⟩
    · rw [exec_value_last h hall hv, State.performValue, hs.kernel, hfold]
      rfl
    · obtain ⟨d', rs, fl, hout, hx'⟩ := hmem x hx
      refine ⟨d', rs, fl, hout, hx'.trans ?_⟩
      rw [Thread.advance, Thread.unpark, results_pc, show (x.2.raise fl).pc = x.2.pc from rfl, (mem_membersAt h hall hx).2]
      rfl

end Sys2Proof.Machine
end

section
namespace Sys2Proof.Machine

/-! ### Graphs uploaded (R148, R149, R151) -/

/-- The lowest handle that is not held is the free one. -/
theorem freeHandle_lowest {held : List Nat} {h : Nat} (h1 : 1 ≤ h) (hn : h ≤ 65535) (hf : h ∉ held)
    (hl : ∀ k, 1 ≤ k → k < h → k ∈ held) : freeHandle held = some h := by
  have hfind : (List.range 65535).find? ((fun k => !held.contains k) ∘ (· + 1)) = some (h - 1) := by
    rw [List.find?_range_eq_some]
    refine ⟨?_, List.mem_range.mpr (by omega), fun j hj => ?_⟩
    · simp [Nat.sub_add_cancel h1, hf]
    · simp [hl (j + 1) (by omega) (by omega)]
  rw [freeHandle, List.find?_map, hfind]
  simp [Nat.sub_add_cancel h1]

/-- The first number below n with a status that is not 0, with its status. -/
theorem find_status_first {n i : Nat} {st : Nat → Nat} (hi : i < n) (hl : ∀ j < i, st j = 0) (hs : st i ≠ 0) :
    ((List.range n).map fun i => (st i, i)).find? (fun x => x.1 != 0) = some (st i, i) := by
  have hfind : (List.range n).find? ((fun x : Nat × Nat => x.1 != 0) ∘ fun i => (st i, i)) = some i := by
    rw [List.find?_range_eq_some]
    exact ⟨by simp [hs], List.mem_range.mpr hi, fun j hj => by simp [hl j hj]⟩
  rw [List.find?_map, hfind]
  rfl

/-- Where every status is 0 there is none. -/
theorem find_status_none {n : Nat} {st : Nat → Nat} (h : ∀ i < n, st i = 0) :
    ((List.range n).map fun i => (st i, i)).find? (fun x => x.1 != 0) = none := by
  simp only [List.find?_eq_none, List.mem_map, List.mem_range, forall_exists_index, and_imp]
  rintro x i hi rfl
  simp [h i hi]

section
variable {s : State} {p : Nat} {l : List Byte} (he : s.svc.enabled = true)
include he

theorem execGraphUpload_badHeader (hb : graphHeaderBad l = true) :
    execGraphUpload p l s = .next ((s.noticeUpload p l).report (some p) (resultRecord 0x0007 0xFFFF 0)) := by
  simp [execGraphUpload, he, hb]

theorem execGraphUpload_badNode (hb : graphHeaderBad l = false) {i : Nat} (hi : i < graphNodes l)
    (hl : ∀ j < i, (s.noticeUpload p l).nodeStatus p l j = 0) (hs : (s.noticeUpload p l).nodeStatus p l i ≠ 0) :
    execGraphUpload p l s =
      .next ((s.noticeUpload p l).report (some p) (resultRecord ((s.noticeUpload p l).nodeStatus p l i) i 0)) := by
  simp only [execGraphUpload, he, hb, find_status_first hi hl hs, Bool.not_true, Bool.false_eq_true, if_false]

theorem execGraphUpload_stored (hb : graphHeaderBad l = false) (hs : ∀ i < graphNodes l, (s.noticeUpload p l).nodeStatus p l i = 0)
    {h : Nat} (hf : freeHandle (((s.noticeUpload p l).part p).graphs.map (·.handle)) = some h) :
    execGraphUpload p l s = .next (((s.noticeUpload p l).modPart p fun q => { q with graphs := q.graphs ++ [⟨h, l⟩] }).report (some p)
      (resultRecord 0 0xFFFF h)) := by
  simp only [execGraphUpload, he, hb, find_status_none hs, hf, Bool.not_true, Bool.false_eq_true, if_false]

end

/-! ### Kicks (R152) -/

/-- A kick has been written: it stands behind the others, and its handle is the last one. -/
def State.kicked (s : State) (p : Nat) (v : Addr) : State :=
  s.modPart p fun q => { q with kicks := q.kicks ++ [v], kHandle := v.extractLsb' 48 16 }

section
variable {s : State} {p : Nat} (hp : p < s.parts.length) (v : Addr)
include hp

theorem kicked_part : (s.kicked p v).part p = { s.part p with kicks := (s.part p).kicks ++ [v], kHandle := v.extractLsb' 48 16 } :=
  modPart_part_same hp _

/-- The one kick that stands is taken. -/
theorem execKick_takes (he : s.svc.enabled = true) (hk : (s.part p).kicks = []) {t : State} (ht : (s.kicked p v).takeKick p v = some t) :
    execKick p v s = .next (t.modPart p fun q => { q with kicks := [] }) := by
  have hone : ((s.kicked p v).part p).kicks = [v] := by rw [kicked_part hp, hk]; rfl
  have hrun : State.takeKicks p ((s.kicked p v).part p).kicks.length (s.kicked p v) = t.modPart p fun q => { q with kicks := [] } := by
    simp only [hone, List.length_singleton, State.takeKicks, ht]
  simp only [execKick, he, Bool.not_true, Bool.false_eq_true, if_false]
  exact congrArg _ hrun

theorem takeKick_unknown (hg : ∀ g ∈ (s.part p).graphs, g.handle ≠ (v.extractLsb' 48 16).toNat) :
    (s.kicked p v).takeKick p v = some ((s.kicked p v).setKstat p 0x0007) := by
  have hnone : ((s.kicked p v).part p).graphs.find? (fun g => g.handle == (v.extractLsb' 48 16).toNat) = none := by
    rw [kicked_part hp, List.find?_eq_none]
    exact fun g hm => by simpa using hg g hm
  simp only [State.takeKick, hnone]

section
variable {g : Graph} (hg : (s.part p).graphs.find? (fun g => g.handle == (v.extractLsb' 48 16).toNat) = some g)
include hg

theorem takeKick_busy (ho : 9 ≤ (s.part p).openReplays (v.extractLsb' 48 16).toNat) :
    (s.kicked p v).takeKick p v = some ((s.kicked p v).setKstat p 0x0013) := by
  have hopen : ((s.kicked p v).part p).openReplays (v.extractLsb' 48 16).toNat = (s.part p).openReplays (v.extractLsb' 48 16).toNat := by
    rw [kicked_part hp]; rfl
  have hfind := hg
  rw [show (s.part p).graphs = ((s.kicked p v).part p).graphs by rw [kicked_part hp]] at hfind
  simp only [State.takeKick, hfind, hopen, if_pos ho]

theorem takeKick_accepted (ho : (s.part p).openReplays (v.extractLsb' 48 16).toNat < 9) (ht : v.extractLsb' 4 44 = 0) :
    (s.kicked p v).takeKick p v = some ((s.kicked p v).acceptKick p v g []) := by
  have hopen : ((s.kicked p v).part p).openReplays (v.extractLsb' 48 16).toNat = (s.part p).openReplays (v.extractLsb' 48 16).toNat := by
    rw [kicked_part hp]; rfl
  have hfind := hg
  rw [show (s.part p).graphs = ((s.kicked p v).part p).graphs by rw [kicked_part hp]] at hfind
  simp only [State.takeKick, hfind, hopen, if_neg (Nat.not_le.mpr ho), ht]
  rfl

end

/-- A kick that is refused sets KSTAT, and changes nothing else. -/
theorem execKick_refused (he : s.svc.enabled = true) (hk : (s.part p).kicks = []) {st : Nat}
    (ht : (s.kicked p v).takeKick p v = some ((s.kicked p v).setKstat p st)) :
    ∃ s', execKick p v s = .next s' ∧ s'.mem = s.mem ∧ s'.blocks = s.blocks ∧
      s'.part p = { s.part p with kHandle := v.extractLsb' 48 16, kStatus := BitVec.ofNat 16 st } := by
  refine ⟨_, execKick_takes hp v he hk ht, rfl, rfl, ?_⟩
  simp only [State.setKstat, State.kicked, modPart_parts_length, hp, modPart_part_same]
  rw [← hk]

/-- A kick without a patch table or PRE that is accepted starts a replay of the graph as it is stored. -/
theorem execKick_accepted (he : s.svc.enabled = true) (hk : (s.part p).kicks = []) {g : Graph} (hpre : v.getLsbD 3 = false)
    (ht : (s.kicked p v).takeKick p v = some ((s.kicked p v).acceptKick p v g [])) :
    ∃ s', execKick p v s = .next s' ∧ s'.mem = s.mem ∧ s'.blocks = s.blocks ∧ s'.part p = { s.part p with
      kHandle := v.extractLsb' 48 16, kStatus := 0, kSeq := (s.part p).kSeq + 1, replays := (s.part p).replays ++
        [⟨((s.part p).kSeq + 1).toNat, g.handle, (v.extractLsb' 0 3).toNat, g.image,
          List.replicate (graphNodes g.image) .waiting, false⟩] } := by
  simp only [State.acceptKick, hpre, Bool.false_eq_true, if_false, List.foldl_nil] at ht
  refine ⟨_, execKick_takes hp v he hk ht, rfl, rfl, ?_⟩
  simp only [State.kicked, modPart_parts_length, hp, modPart_part_same]
  rw [← hk]

end

/-! ### Replays (R149, R153, R394) -/

section
variable {s : State} {p r i : Nat} {x : Replay} (hx : (s.part p).replays[r]? = some x)
include hx

theorem execReplayNodeReady_unready (hr : (s.part p).nodeReady r i = false) : execReplayNodeReady p r i s = .next s := by
  simp [execReplayNodeReady, hx, hr]

section
variable (hr : (s.part p).nodeReady r i = true)
include hr

/-- An empty node is complete as soon as it is ready. -/
theorem execReplayNodeReady_empty (hk : nodeKind x.image i = 4) :
    execReplayNodeReady p r i s = .next (s.setNode p r i (.complete 0)) := by
  simp [execReplayNodeReady, hx, hr, hk, State.nodeDone]

/-- A copy node is complete with the status of its octet's checks, or runs. -/
theorem execReplayNodeReady_copy (hk : nodeKind x.image i = 1) : execReplayNodeReady p r i s =
    .next (s.setNode p r i ((CmdOp.copy (nodeOct x.image i)).check.elim (NodeState.start 0 0) .complete)) := by
  simp only [execReplayNodeReady, hx, hr, hk, State.nodeDone, Bool.not_true, Bool.false_eq_true, if_false]
  cases (CmdOp.copy (nodeOct x.image i)).check <;> rfl

theorem execReplayNodeReady_launch (hk : nodeKind x.image i = 0) :
    execReplayNodeReady p r i s = .next (s.startLaunchNode p r i x) := by
  simp [execReplayNodeReady, hx, hr, hk]

end

/-- A launch node is complete once its grid is, with the grid's status. -/
theorem execReplayNodeComplete_launch {n : Nat} {left : List Nat} {work : ChunkWork} {since : Nat}
    (hn : x.nodes[i]? = some (.running n left work since)) (hk : nodeKind x.image i = 0) {g : Grid}
    (hg : s.grids.find? (fun g => g.done == .node p r i) = some g) : execReplayNodeComplete p r i s =
      .next (if g.count ≤ g.ended.length then s.setNode p r i (.complete g.status) else s) := by
  simp [execReplayNodeComplete, hx, hn, hk, hg, Grid.isDone, State.nodeDone]

/-- A draw node is complete once its draw is finished, with the draw's status. -/
theorem execReplayNodeComplete_draw {n : Nat} {left : List Nat} {work : ChunkWork} {since : Nat}
    (hn : x.nodes[i]? = some (.running n left work since)) (hk : nodeKind x.image i = 3) {d : Draw}
    (hd : s.draws.find? (fun d => d.done == .node p r i) = some d) : execReplayNodeComplete p r i s =
      .next (if d.finished then s.setNode p r i (.complete d.status) else s) := by
  simp [execReplayNodeComplete, hx, hn, hk, hd, State.nodeDone]

/-- No record is written while the partition is exited, before the replay's turn, or while a node is not complete. -/
theorem execCompletionRecord_waits
    (h : (s.part p).exited = true ∨ (s.part p).running r = false ∨ ∃ n ∈ x.nodes, n.isComplete = false) :
    execCompletionRecord p r s = .next s := by
  have hw : ((s.part p).exited || !(s.part p).running r || !x.nodes.all NodeState.isComplete) = true := by
    rcases h with h | h | ⟨n, hn, hc⟩
    · simp [h]
    · simp [h]
    · have : x.nodes.all NodeState.isComplete = false := List.all_eq_false.mpr ⟨n, hn, by simp [hc]⟩
      simp [this]
  simp only [execCompletionRecord, hx, hw, if_true]

theorem execCompletionRecord_writes (he : (s.part p).exited = false) (hr : (s.part p).running r = true)
    (hc : ∀ n ∈ x.nodes, n.isComplete = true) {s1 : State}
    (hw : s.writeGranule (replayXl p) none [] (graphDone x.image) (leBytes 8 (recordOfReplay x)) = .ok s1) :
    execCompletionRecord p r s = .next (s1.recordDone p r) := by
  have hall : x.nodes.all NodeState.isComplete = true := List.all_eq_true.mpr hc
  simp only [execCompletionRecord, hx, he, hr, hall, hw, Bool.not_true, Bool.or_self, Bool.false_eq_true, if_false]

end

/-- A launch node whose kernel is none of the partition's is complete with FormatInvalid. -/
theorem startLaunchNode_noKernel {s : State} {p r i : Nat} {x : Replay} (hk : s.kernelAt p (nodeKernelAt x.image i) = none) :
    s.startLaunchNode p r i x = s.setNode p r i (.complete 0x0007) := by
  simp only [State.startLaunchNode, hk, State.nodeDone]

/-- A launch node whose checks all pass enters its grid, and runs. -/
theorem startLaunchNode_enters {s s1 s2 : State} {p r i : Nat} {x : Replay} {k : Kernel} {rs : List OpRange}
    (hk : s.kernelAt p (nodeKernelAt x.image i) = some k) (hb : launchBad (launchOct x.image i) = false)
    (hz : zeroAt (nodeRecord x.image i) 58 6 = true) (hl : k.tooLarge = false)
    (hc : s.notCoResident p k ((octW (launchOct x.image i) 3).field 0 4) (octW (launchOct x.image i) 2).toNat
      ((octW (launchOct x.image i) 3).bit 5) = false)
    (hr : s.rangeList p (nodeRanges x.image i).1 (nodeRanges x.image i).2 = .ok (s1, rs))
    (hg : (s1.attach p (coalescing x.image i s1.grids.length k fun j => ((x.nodes[j]?).map NodeState.isComplete).getD false)).enterGrid
      (gridOf p k (launchOct x.image i) x.prio (.node p r i) rs) = some s2) :
    s.startLaunchNode p r i x = s2.setNode p r i (NodeState.start 0 0) := by
  simp only [State.startLaunchNode, hk, hb, hz, hl, hc, hr, hg, Bool.not_true, Bool.or_self, Bool.false_eq_true, if_false]

/-! ### O52 -/

/-- Settles O52: each event by what its own step does. -/
theorem graphEvents : Obligations.GraphEvents := by
  unfold Obligations.GraphEvents
  refine ⟨?_, ?_, ?_⟩
  · rintro s s0 p l he rfl
    refine ⟨fun hb => execGraphUpload_badHeader he hb, fun hb i hi hl hs => execGraphUpload_badNode he hb hi hl hs,
      fun hb hs h h1 hn hf hl => execGraphUpload_stored he hb hs (freeHandle_lowest h1 hn hf hl)⟩
  · intro s p v he hp hk h ends
    have hhandle : BitVec.ofNat 16 h = v.extractLsb' 48 16 := BitVec.ofNat_toNat ..
    refine ⟨fun hg => ?_, fun g hg => ⟨fun ho => ?_, fun ho hv => ?_⟩⟩
    · simp only [ends, hhandle]
      exact execKick_refused hp v he hk (takeKick_unknown hp v hg)
    · simp only [ends, hhandle]
      exact execKick_refused hp v he hk (takeKick_busy hp v hg ho)
    · have hbit : ∀ j < 45, v.getLsbD (3 + j) = false := fun j hj => by
        simpa [hj] using congrArg (fun w : BitVec 45 => w.getLsbD j) hv
      have htable : v.extractLsb' 4 44 = 0 := by
        apply BitVec.eq_of_getLsbD_eq
        intro j hj
        have := hbit (1 + j) (by omega)
        simpa [hj, ← Nat.add_assoc] using this
      simp only [hhandle]
      exact execKick_accepted hp v he hk (hbit 0 (by omega)) (takeKick_accepted hp v hg ho htable)
  · intro s p r i x hx oct
    refine ⟨execReplayNodeReady_unready hx, fun hr => ⟨execReplayNodeReady_empty hx hr, fun h1 => ?_, fun h0 hk => ?_,
      fun h0 k s1 rs s2 hk hb hz hl hc hrs hg => ?_⟩, fun n left work since hn => ⟨fun hk g => execReplayNodeComplete_launch hx hn hk,
      fun hk d => execReplayNodeComplete_draw hx hn hk⟩, execCompletionRecord_waits hx, fun he hr hc s1 => execCompletionRecord_writes hx he hr hc⟩
    · refine (execReplayNodeReady_copy hx hr h1).trans ?_
      cases (CmdOp.copy (nodeOct x.image i)).check <;> rfl
    · exact (execReplayNodeReady_launch hx hr h0).trans (congrArg _ (startLaunchNode_noKernel hk))
    · rw [show ((octW oct 3).extractLsb' 0 4).toNat = (octW oct 3).field 0 4 by simp [Word.field]] at hc
      exact (execReplayNodeReady_launch hx hr h0).trans (congrArg _ (startLaunchNode_enters hk hb hz hl hc hrs hg))

end Sys2Proof.Machine
end

section
namespace Sys2Proof.Machine

/-! ### A STREAM outside the stream queue (R314, R315)

ENGINE_COMMAND_START ends a malformed STREAM, wherever it stands, and the end of a stream is marked in the operand queue that it
feeds. The statement lets a command of any kind stand in any queue, and says of every queue but the stream queue that its
starts change no block. No instruction puts a STREAM anywhere else, so this state is none that a run reaches. -/

/-- A malformed STREAM of strand 0 of block 0, not started. -/
def malformedStream : Cmd := Cmd.fresh (.stream [] 0) 0 0

/-- A block whose strand has an element left in operand queue 0. -/
def feedingBlock : Block := { placeBlock 0 with strands := [{ Strand.start .main 0 0 with opq := [[[1]]] }] }

/-- The malformed STREAM stands at the head of a copy queue. -/
def strayStream : State :=
  { State.reset with
    cores := [{ Core.reset with queues := [⟨[malformedStream], []⟩] }]
    blocks := [feedingBlock]
    grids := [placeGrid 1] }

/-- The operand queues of the first strand of block 0 in the state that an outcome answers. -/
def operandQueues : Host.Outcome State Fault Refusal → Option (List (List (List Word)))
  | .next s => (s.strand? 0 0).map (·.opq)
  | _ => none

/-- Its start marks the end of a stream in the operand queue. -/
theorem start_strayStream : operandQueues (exec (.engineCommandStart 0 0) strayStream) = some [[[1], []]] := by decide

/-- Refutes O49: the start of a malformed STREAM that stands in a queue other than the stream queue changes its block. -/
theorem not_engineEvents : ¬ Obligations.EngineEvents := by
  unfold Obligations.EngineEvents
  intro h
  have hjoins : ∀ e ∈ (strayStream.core 0).queues.flatMap EQueue.all, ∀ n, e.op ≠ .join n := fun e he n => by
    obtain rfl : e = malformedStream := List.mem_singleton.mp he
    exact nofun
  obtain ⟨hstart, _⟩ := h strayStream 0 0 malformedStream [] (by decide) rfl hjoins
  obtain ⟨s', he, _, hblocks, _⟩ := hstart rfl (fun h0 => absurd h0 (by decide))
  have hq := start_strayStream
  rw [he, operandQueues, State.strand?, hblocks (by decide)] at hq
  exact absurd hq (by decide)

end Sys2Proof.Machine
end

section
namespace Sys2Proof.Machine

/-! ### Changes of one core -/

/-- Only what a change makes of the core itself counts. -/
theorem modCore_congr {s : State} {c : Nat} {f g : Core → Core} (h : f (s.core c) = g (s.core c)) : s.modCore c f = s.modCore c g := by
  simp only [State.modCore]
  congr 1
  apply List.ext_getElem?
  intro n
  simp only [List.getElem?_modify]
  by_cases hn : c = n
  · subst hn
    cases hc : s.cores[c]? with
    | none => rfl
    | some x =>
      have hx : s.core c = x := by simp [State.core, hc]
      simpa [hx] using h
  · simp [hn]

/-- A change that leaves the core as it is changes nothing. -/
theorem modCore_self {s : State} {c : Nat} {f : Core → Core} (h : f (s.core c) = s.core c) : s.modCore c f = s := by
  rw [modCore_congr (g := id) h]
  simp [State.modCore]

/-! ### What a pre-emption does to blocks (R161) -/

/-- A block that has at most been asked to be saved, and has at most given up its reserved room. -/
def Block.HaltsTo (b x : Block) : Prop :=
  x.place = b.place ∧ x.threads = b.threads ∧ x.mem = b.mem ∧ (b.saving.isSome = true → x.saving.isSome = true)

theorem Block.HaltsTo.refl (b : Block) : b.HaltsTo b := ⟨rfl, rfl, rfl, id⟩

theorem Block.HaltsTo.trans {a b c : Block} (h : a.HaltsTo b) (k : b.HaltsTo c) : a.HaltsTo c := by
  obtain ⟨hp, ht, hm, hs⟩ := h
  obtain ⟨kp, kt, km, ks⟩ := k
  exact ⟨kp.trans hp, kt.trans ht, km.trans hm, ks ∘ hs⟩

/-- The steps of a halt keep memory and every block, but for requests to save and for reserved room. -/
structure Halting (s s' : State) : Prop where
  mem : s'.mem = s.mem
  blocks : ∀ (k : Nat) (b : Block), s.blocks[k]? = some b → ∃ x, s'.blocks[k]? = some x ∧ b.HaltsTo x

theorem halting_of_eq {s s' : State} (hm : s'.mem = s.mem) (hb : s'.blocks = s.blocks) : Halting s s' :=
  ⟨hm, fun k b h => ⟨b, by rw [hb]; exact h, .refl b⟩⟩

theorem Halting.refl (s : State) : Halting s s := halting_of_eq rfl rfl

theorem Halting.trans {a b c : State} (h : Halting a b) (k : Halting b c) : Halting a c where
  mem := k.mem.trans h.mem
  blocks := fun n x hx => by
    obtain ⟨y, hy, hxy⟩ := h.blocks n x hx
    obtain ⟨z, hz, hyz⟩ := k.blocks n y hy
    exact ⟨z, hz, hxy.trans hyz⟩

theorem halting_foldl {α : Type} {f : State → α → State} (h : ∀ s a, Halting s (f s a)) (l : List α) (s : State) :
    Halting s (l.foldl f s) := foldl_keeps (P := Halting s) (fun t a ht => ht.trans (h t a)) l (.refl s)

theorem halting_modBlock (s : State) (k : Nat) {f : Block → Block} (h : ∀ b : Block, b.HaltsTo (f b)) : Halting s (s.modBlock k f) where
  mem := rfl
  blocks := fun n b hb => by
    by_cases hn : n = k
    · subst hn
      exact ⟨f b, by simp [hb], h b⟩
    · exact ⟨b, (modBlock_other s f hn).trans hb, .refl b⟩

theorem halting_modCore (s : State) (c : Nat) (f : Core → Core) : Halting s (s.modCore c f) := halting_of_eq rfl rfl

theorem halting_releaseRoom (s : State) (blk : Nat) : Halting s (s.releaseRoom blk) := by
  have room : ∀ t : State, Halting t (t.modBlock blk fun b => { b with homeCore := 72 }) := fun t =>
    halting_modBlock t blk fun _ => ⟨rfl, rfl, rfl, id⟩
  unfold State.releaseRoom
  split
  · exact .refl s
  · split
    · exact (halting_modCore s _ _).trans (room _)
    · exact room s

/-- One block of a group is asked to be saved, if it stands on a core: one step of `State.requestSave`. -/
def State.askSave (blk : Nat) (why : SaveWhy) (s : State) (k : Nat) : State :=
  match s.blocks[k]? with
  | none => s
  | some c => match c.place, c.saving with
    | .onCore _, none =>
      (s.modBlock k fun b => { b with saving := some (if k = blk then why else SaveWhy.pause) }).mustNow (.blockSave k)
    | _, _ => s

theorem halting_askSave (blk : Nat) (why : SaveWhy) (s : State) (k : Nat) : Halting s (s.askSave blk why k) := by
  unfold State.askSave
  split
  · exact .refl s
  · split
    · refine (halting_modBlock s k fun _ => ?_).trans (halting_of_eq rfl rfl)
      exact ⟨rfl, rfl, rfl, fun _ => rfl⟩
    · exact .refl s

theorem halting_requestSave (s : State) (blk : Nat) (why : SaveWhy) : Halting s (s.requestSave blk why) :=
  halting_foldl (halting_askSave blk why) _ s

/-- A block on a core is to be saved once it has been asked to be. -/
theorem askSave_asks {s : State} {k core : Nat} {b : Block} (hb : s.blocks[k]? = some b) (hp : b.place = .onCore core) (blk : Nat)
    (why : SaveWhy) : ∃ x, (s.askSave blk why k).blocks[k]? = some x ∧ x.saving.isSome = true := by
  unfold State.askSave
  rw [hb]
  dsimp only
  rw [hp]
  cases hs : b.saving with
  | none => exact ⟨_, by simp [hb]; rfl, rfl⟩
  | some w => exact ⟨b, hb, by simp [hs]⟩

/-- A step that asks for block k's saving, among steps of a halt, has it asked for at the end. -/
theorem foldl_asks {f : State → Nat → State} (hf : ∀ s a, Halting s (f s a)) {k core : Nat}
    (ha : ∀ (s : State) (b : Block), s.blocks[k]? = some b → b.place = .onCore core →
      ∃ x, (f s k).blocks[k]? = some x ∧ x.saving.isSome = true)
    {l : List Nat} (hk : k ∈ l) {s : State} {b : Block} (hb : s.blocks[k]? = some b) (hp : b.place = .onCore core) :
    ∃ x, (l.foldl f s).blocks[k]? = some x ∧ x.saving.isSome = true := by
  induction l generalizing s b with
  | nil => cases hk
  | cons a r ih =>
    rw [List.foldl_cons]
    rcases List.mem_cons.mp hk with rfl | hr
    · obtain ⟨x, hx, hsx⟩ := ha s b hb hp
      obtain ⟨y, hy, -, -, -, hs⟩ := (halting_foldl hf r _).blocks k x hx
      exact ⟨y, hy, hs hsx⟩
    · obtain ⟨x, hx, hplace, -, -, -⟩ := (hf s a).blocks k b hb
      exact ih hr hx (hplace.trans hp)

/-- A block is one of those that are saved with it. -/
theorem mem_members {s : State} {k : Nat} {b : Block} (hb : s.blocks[k]? = some b) : k ∈ s.members k := by
  have hk : k < s.blocks.length := (List.getElem?_eq_some_iff.mp hb).1
  simp [State.members, hk]

theorem requestSave_asks {s : State} {k core : Nat} {b : Block} (hb : s.blocks[k]? = some b) (hp : b.place = .onCore core)
    (why : SaveWhy) : ∃ x, (s.requestSave k why).blocks[k]? = some x ∧ x.saving.isSome = true :=
  foldl_asks (halting_askSave k why) (fun _ _ hb hp => askSave_asks hb hp k why) (mem_members hb) hb hp

@[simp] theorem settleStop_blocks (s : State) : s.settleStop.blocks = s.blocks := by
  unfold State.settleStop; split <;> rfl

@[simp] theorem settleStop_mem (s : State) : s.settleStop.mem = s.mem := by
  unfold State.settleStop; split <;> rfl

@[simp] theorem answerPreempt_blocks (s : State) (core part : Nat) : (s.answerPreempt core part).blocks = s.blocks := by
  unfold State.answerPreempt; split <;> rfl

@[simp] theorem answerPreempt_mem (s : State) (core part : Nat) : (s.answerPreempt core part).mem = s.mem := by
  unfold State.answerPreempt; split <;> rfl

@[simp] theorem settlePreempt_blocks (s : State) (core part : Nat) : (s.settlePreempt core part).blocks = s.blocks := by
  rw [settlePreempt_eq]; split <;> simp

@[simp] theorem settlePreempt_mem (s : State) (core part : Nat) : (s.settlePreempt core part).mem = s.mem := by
  rw [settlePreempt_eq]; split <;> simp

/-- The blocks that the halt of a core asks to be saved: those of the partition on it, and those of its C grids there (R157, R161). -/
def State.haltSet (s : State) (core part : Nat) : List Nat :=
  (((List.range s.blocks.length).filter fun k => s.coreOf k == some core && s.partOf k == part) ++ s.cGridBlocks core part).dedup

theorem haltCore_eq (s : State) (core part : Nat) : s.haltCore core part =
    ((s.haltSet core part).foldl (fun s k => s.requestSave k SaveWhy.pause)
      ((s.cGridBlocks core part).foldl State.releaseRoom s)).settlePreempt core part := rfl

theorem mem_haltSet {s : State} {core part k : Nat} {b : Block} (hb : s.blocks[k]? = some b) (hp : b.place = .onCore core)
    (hk : s.partOf k = part) : k ∈ s.haltSet core part := by
  have hl : k < s.blocks.length := (List.getElem?_eq_some_iff.mp hb).1
  have hc : s.coreOf k = some core := by simp [State.coreOf, hb, hp]
  simp [State.haltSet, hl, hc, hk]

/-- The halt of a core has every block of the partition on it saved, and changes nothing else of these blocks (R161). -/
theorem haltCore_halts (s : State) (core part : Nat) : (s.haltCore core part).mem = s.mem ∧
    ∀ (k : Nat) (b : Block), s.blocks[k]? = some b → b.place = .onCore core → s.partOf k = part →
      ∃ x, (s.haltCore core part).blocks[k]? = some x ∧ x.saving.isSome = true ∧ x.threads = b.threads ∧ x.place = b.place ∧
        x.mem = b.mem := by
  have hask : ∀ (t : State) (k : Nat), Halting t (t.requestSave k SaveWhy.pause) := fun t k => halting_requestSave t k _
  have hroom := halting_foldl halting_releaseRoom (s.cGridBlocks core part) s
  have hall := hroom.trans (halting_foldl hask (s.haltSet core part) _)
  rw [haltCore_eq, settlePreempt_mem, settlePreempt_blocks]
  refine ⟨hall.mem, fun k b hb hp hk => ?_⟩
  obtain ⟨y, hy, hplace, -⟩ := hroom.blocks k b hb
  obtain ⟨x, hx, hsx⟩ := foldl_asks hask (fun _ _ hb hp => requestSave_asks hb hp _) (mem_haltSet hb hp hk) hy (hplace.trans hp)
  obtain ⟨z, hz, hzp, hzt, hzm, -⟩ := hall.blocks k b hb
  obtain rfl : x = z := Option.some.inj (hx.symm.trans hz)
  exact ⟨x, hx, hsx, hzt, hzp, hzm⟩

/-! ### Pre-emption of one core (R161) -/

section
variable {s : State} {part c : Nat}

theorem execPreemptRequest_one (s : State) (part c : Nat) : execPreemptRequest part [c] s =
    .next (State.preemptCore part (min 2048 (s.part part).grace.toNat)
      (s.modCore c fun k => k.takePreempt part (min 2048 (s.part part).grace.toNat)) c) := rfl

/-- A running draw is waited for, where there is a grace. -/
theorem execPreemptRequest_waits (hd : s.runsDraw c part = true) (hg : 0 < (s.part part).grace.toNat) :
    execPreemptRequest part [c] s = .next (s.modCore c fun k => k.takePreempt part (min 2048 (s.part part).grace.toNat)) := by
  have hd' : ∀ f : Core → Core, (s.modCore c f).runsDraw c part = true := fun _ => hd
  have hg' : 0 < min 2048 (s.part part).grace.toNat := by omega
  rw [execPreemptRequest_one, State.preemptCore, hd', decide_eq_true hg']
  rfl

/-- Otherwise the core is halted at once. -/
theorem execPreemptRequest_halts (h : s.runsDraw c part = false ∨ (s.part part).grace.toNat = 0) :
    execPreemptRequest part [c] s =
      .next ((s.modCore c fun k => k.takePreempt part (min 2048 (s.part part).grace.toNat)).haltCore c part) := by
  have hd : ∀ f : Core → Core, (s.modCore c f).runsDraw c part = s.runsDraw c part := fun _ => rfl
  rw [execPreemptRequest_one, State.preemptCore, hd, if_neg]
  rcases h with h | h <;> simp [h]

theorem execDrawGraceExpiry_halts {p : Preempt} (hp : (s.core c).preempt = some p)
    (h : s.runsDraw c p.part = false ∨ p.graceEnd ≤ (s.core c).cycles) : execDrawGraceExpiry c s = .next (s.haltCore c p.part) := by
  rw [execDrawGraceExpiry, hp]
  exact if_pos (by simpa using h)

theorem execDrawGraceExpiry_waits {p : Preempt} (hp : (s.core c).preempt = some p) (hd : s.runsDraw c p.part = true)
    (h : (s.core c).cycles < p.graceEnd) : execDrawGraceExpiry c s = .next s := by
  rw [execDrawGraceExpiry, hp]
  exact if_neg (by simp [hd, h])

/-- A core without a request takes one; its grace begins. -/
theorem modCore_takePreempt_first (hp : (s.core c).preempt = none) (grace : Nat) : (s.modCore c fun k => k.takePreempt part grace) =
    s.modCore c fun k => { k with preempt := some ⟨part, k.cycles + grace⟩ } :=
  modCore_congr (by simp [Core.takePreempt, hp])

/-- A second request of the partition adds no cycle. -/
theorem modCore_takePreempt_second {q : Preempt} (hp : (s.core c).preempt = some q) (hq : q.part = part) (grace : Nat) :
    (s.modCore c fun k => k.takePreempt part grace) = s :=
  modCore_self (by simp [Core.takePreempt, hp, hq]; rw [← hp])

end

end Sys2Proof.Machine
end

section
namespace Sys2Proof.Machine

/-! ### The pool of pinned near frames (R54, R62, R217) -/

/-- Taking frames from the pool changes the partition alone. -/
theorem takePool_cases (s : State) (part : Nat) (die : Option Nat) (n : Nat) :
    (s.takePool part die n).1 = s ∨ ∃ f, (s.takePool part die n).1 = s.modPart part f := by
  unfold State.takePool
  dsimp only
  split
  · exact .inl rfl
  · exact .inr ⟨_, rfl⟩

section
variable (s : State) (part : Nat) (die : Option Nat) (n : Nat)

@[simp] theorem takePool_blocks : (s.takePool part die n).1.blocks = s.blocks := by
  rcases takePool_cases s part die n with h | ⟨f, h⟩ <;> simp [h]
@[simp] theorem takePool_grids : (s.takePool part die n).1.grids = s.grids := by
  rcases takePool_cases s part die n with h | ⟨f, h⟩ <;> simp [h]
@[simp] theorem takePool_cores : (s.takePool part die n).1.cores = s.cores := by
  rcases takePool_cases s part die n with h | ⟨f, h⟩ <;> simp [h]

@[simp] theorem givePool_blocks (fs : List Nat) : (s.givePool part fs).blocks = s.blocks := by
  unfold State.givePool; split <;> simp
@[simp] theorem givePool_grids (fs : List Nat) : (s.givePool part fs).grids = s.grids := by
  unfold State.givePool; split <;> simp
@[simp] theorem givePool_cores (fs : List Nat) : (s.givePool part fs).cores = s.cores := by
  unfold State.givePool; split <;> simp

end

/-! ### The blocks that a deal starts (R157) -/

/-- A block of a grid as it starts on a core, with its number, its core and its extents (R56, R130). -/
def Block.StartsAs (b : Block) (gi : Nat) (x : Nat × Nat) (ext : List Extent) : Prop :=
  b.grid = gi ∧ b.num = x.1 ∧ b.place = .onCore x.2 ∧ b.mem = [] ∧ b.full = [] ∧ b.status = 0 ∧ b.extents = ext

/-- Some blocks of a grid start behind those that there are, each as its place in a list says. -/
structure Starts (gi : Nat) (l : List (Nat × Nat)) (ext : Nat → List Extent) (s s' : State) : Prop where
  grids : s'.grids = s.grids
  blocks : ∃ bs, s'.blocks = s.blocks ++ bs ∧ bs.length = l.length ∧
    ∀ (i : Nat) (x : Nat × Nat), l[i]? = some x → ∃ b, bs[i]? = some b ∧ b.StartsAs gi x (ext i)

theorem starts_nil (gi : Nat) (ext : Nat → List Extent) (s : State) : Starts gi [] ext s s :=
  ⟨rfl, [], by simp, rfl, by simp⟩

/-- Some blocks start, and then some more. -/
theorem Starts.append {gi : Nat} {l r : List (Nat × Nat)} {e : Nat → List Extent} {a b c : State} (h : Starts gi l e a b)
    (k : Starts gi r (fun i => e (l.length + i)) b c) : Starts gi (l ++ r) e a c := by
  obtain ⟨bs, hb, hn, hs⟩ := h.blocks
  obtain ⟨cs, hc, km, ks⟩ := k.blocks
  refine ⟨k.grids.trans h.grids, bs ++ cs, by rw [hc, hb, List.append_assoc], by simp [hn, km], fun i x hx => ?_⟩
  by_cases hi : i < l.length
  · rw [List.getElem?_append_left hi] at hx
    rw [List.getElem?_append_left (hn ▸ hi)]
    exact hs i x hx
  · rw [List.getElem?_append_right (Nat.le_of_not_lt hi)] at hx
    rw [List.getElem?_append_right (hn ▸ Nat.le_of_not_lt hi), hn]
    have hk := ks (i - l.length) x hx
    rwa [Nat.add_sub_cancel' (Nat.le_of_not_lt hi)] at hk

theorem starts_spawn {s : State} {gi : Nat} {g : Grid} (hg : s.grids[gi]? = some g) (num core group : Nat) (copy : CopyKind)
    (e : List Extent) : Starts gi [(num, core)] (fun _ => e) s (s.spawn gi num core group copy e) := by
  simp only [State.spawn, hg, State.reserveSpill]
  refine ⟨by simp, _, by rw [takePool_blocks], rfl, fun i x hx => ?_⟩
  obtain ⟨rfl, rfl⟩ : i = 0 ∧ x = (num, core) := by
    cases i <;> simp_all
  exact ⟨_, rfl, rfl, rfl, rfl, rfl, rfl, rfl, rfl⟩

/-- The blocks of a list start one after another. -/
theorem starts_spawns {gi : Nat} (group : Nat) (copy : Nat → CopyKind) (e : Nat → List Extent) (l : List (Nat × Nat)) (n : Nat) {s : State}
    {g : Grid} (hg : s.grids[gi]? = some g) : Starts gi l (fun i => e (n + i)) s
      ((l.zipIdx n).foldl (fun s x => s.spawn gi x.1.1 x.1.2 group (copy x.2) (e x.2)) s) := by
  induction l generalizing n s with
  | nil => exact starts_nil gi _ s
  | cons x r ih =>
    have h1 := starts_spawn hg x.1 x.2 group (copy n) (e n)
    have h2 := ih (n + 1) (s := s.spawn gi x.1 x.2 group (copy n) (e n)) (h1.grids ▸ hg)
    rw [List.zipIdx_cons, List.foldl_cons]
    refine Starts.append (l := [x]) (r := r) (e := fun i => e (n + i)) (b := s.spawn gi x.1 x.2 group (copy n) (e n)) ?_ ?_
    · obtain ⟨hgr, bs, hb, hn, hs⟩ := h1
      refine ⟨hgr, bs, hb, hn, fun i y hy => ?_⟩
      obtain rfl : i = 0 := by
        by_contra h0
        simp [h0] at hy
      exact hs 0 y hy
    · simpa [Nat.add_assoc, Nat.add_comm 1] using h2

/-- A placed unit starts: its blocks, then its trailing copies. -/
theorem starts_spawnUnit {s : State} {gi : Nat} {g : Grid} (hg : s.grids[gi]? = some g) (quad : Nat) (p : Placed)
    (ext : List (List Extent)) : Starts gi (p.lead ++ p.trail) (fun i => ext.getD i []) s (s.spawnUnit gi quad p ext) := by
  unfold State.spawnUnit
  dsimp only
  have h1 := starts_spawns (if quad = 0 then 0 else 1 + ((p.lead.head?).map (·.1)).getD 0 / quad)
    (fun i => if p.trail.isEmpty then .single else .leading (s.blocks.length + p.lead.length + i)) (fun i => ext.getD i []) p.lead 0 hg
  simp only [Nat.zero_add] at h1
  have h2 := starts_spawns (if quad = 0 then 0 else 1 + ((p.lead.head?).map (·.1)).getD 0 / quad)
    (fun i => .trailing (s.blocks.length + i)) (fun i => ext.getD (p.lead.length + i) []) p.trail 0 (h1.grids ▸ hg)
  simp only [Nat.zero_add] at h2
  have h := h1.append h2
  split
  · exact h
  · exact ⟨h.grids, h.blocks⟩

/-- The claims of barriers change no block that stood before. -/
theorem claimBarriers_before (s : State) (gi : Nat) {first k : Nat} (h : k < first) :
    (s.claimBarriers gi first).blocks[k]? = s.blocks[k]? := by
  simp only [State.claimBarriers, List.getElem?_map, List.getElem?_zipIdx, Option.map_map]
  cases s.blocks[k]? <;> simp [Nat.not_le.mpr h]

/-- They change nothing of a block but its claim. -/
theorem claimBarriers_get {s : State} {k : Nat} {b : Block} (hb : s.blocks[k]? = some b) (gi first : Nat) :
    ∃ c, (s.claimBarriers gi first).blocks[k]? = some { b with claim := c } := by
  simp only [State.claimBarriers, List.getElem?_map, List.getElem?_zipIdx, hb, Option.map_some, Nat.zero_add]
  split
  · exact ⟨_, rfl⟩
  · exact ⟨b.claim, rfl⟩

@[simp] theorem claimBarriers_length (s : State) (gi first : Nat) : (s.claimBarriers gi first).blocks.length = s.blocks.length := by
  simp [State.claimBarriers]

@[simp] theorem claimBarriers_grids (s : State) (gi first : Nat) : (s.claimBarriers gi first).grids = s.grids := rfl

/-- What a change of a grid keeps of every grid, if it keeps it of the changed one. -/
theorem modGrid_keeps {α : Type} (g : Grid → α) (s : State) (i : Nat) {f : Grid → Grid} (hf : ∀ x, g (f x) = g x) (k : Nat) :
    ((s.modGrid i f).grids[k]?).map g = (s.grids[k]?).map g := by
  simp only [State.modGrid, List.getElem?_modify]
  cases s.grids[k]? with
  | none => rfl
  | some x => by_cases hk : i = k <;> simp [hk, hf]

@[simp] theorem modGrid_get (s : State) (i : Nat) (f : Grid → Grid) : (s.modGrid i f).grids[i]? = (s.grids[i]?).map f := by
  simp [State.modGrid]

/-- Joining pod barriers leaves each grid's next block, and changes no block. -/
theorem joinPod_keeps (s : State) (gi : Nat) : (s.joinPod gi).blocks = s.blocks ∧
    ∀ k : Nat, ((s.joinPod gi).grids[k]?).map (·.next) = (s.grids[k]?).map (·.next) := by
  unfold State.joinPod
  split
  · exact ⟨rfl, fun _ => rfl⟩
  · dsimp only
    split
    · exact ⟨rfl, fun _ => rfl⟩
    · refine foldl_keeps (P := fun t : State => t.blocks = s.blocks ∧
        ∀ k : Nat, (t.grids[k]?).map (·.next) = (s.grids[k]?).map (·.next)) (fun t j ht => ?_) _ ⟨rfl, fun _ => rfl⟩
      exact ⟨ht.1, fun k => (modGrid_keeps (·.next) t j (fun _ => by rfl) k).trans (ht.2 k)⟩

/-- What a deal of one unit makes of the blocks and grids. -/
def State.dealtUnit (s : State) (gi : Nat) (g : Grid) (p : Placed) (ext : List (List Extent)) : State :=
  (((s.joinPod gi).spawnUnit gi g.quad p (ext.take p.cores.length)).claimBarriers gi s.blocks.length).modGrid gi fun g =>
    { g with next := g.next + p.lead.length }

/-- The unit's blocks start behind those that there are, and the grid goes on behind them (R157). -/
theorem dealtUnit_starts {s : State} {gi : Nat} {g : Grid} (hg : s.grids[gi]? = some g) (p : Placed) (ext : List (List Extent)) :
    (s.dealtUnit gi g p ext).blocks.length = s.blocks.length + p.lead.length + p.trail.length ∧
      (∀ k < s.blocks.length, (s.dealtUnit gi g p ext).blocks[k]? = s.blocks[k]?) ∧
      (∀ i x, p.lead[i]? = some x → ∃ y, (s.dealtUnit gi g p ext).blocks[s.blocks.length + i]? = some y ∧
        y.StartsAs gi x (ext.getD i [])) ∧
      ((s.dealtUnit gi g p ext).grids[gi]?).map (·.next) = some (g.next + p.lead.length) := by
  obtain ⟨hjb, hjn⟩ := joinPod_keeps s gi
  have hnext : ((s.joinPod gi).grids[gi]?).map (·.next) = some g.next := by rw [hjn, hg]; rfl
  obtain ⟨gj, hgj, hgn⟩ := Option.map_eq_some_iff.mp hnext
  obtain ⟨hgr, bs, hbs, hlen, hstart⟩ := starts_spawnUnit hgj g.quad p (ext.take p.cores.length)
  rw [hjb] at hbs
  simp only [State.dealtUnit, modGrid_blocks]
  refine ⟨?_, fun k hk => ?_, fun i x hi => ?_, ?_⟩
  · rw [claimBarriers_length, hbs, List.length_append, hlen, List.length_append, Nat.add_assoc]
  · rw [claimBarriers_before _ _ hk, hbs, List.getElem?_append_left hk]
  · have hil : i < p.lead.length := (List.getElem?_eq_some_iff.mp hi).1
    obtain ⟨b, hb, hbstart⟩ := hstart i x (by rw [List.getElem?_append_left hil]; exact hi)
    have hold : ((s.joinPod gi).spawnUnit gi g.quad p (ext.take p.cores.length)).blocks[s.blocks.length + i]? = some b := by
      rw [hbs, List.getElem?_append_right (Nat.le_add_right ..), Nat.add_sub_cancel_left, hb]
    obtain ⟨c, hc⟩ := claimBarriers_get hold gi s.blocks.length
    refine ⟨_, hc, ?_⟩
    have hic : i < p.cores.length := by simp [Placed.cores]; omega
    have hext : (ext.take p.cores.length).getD i [] = ext.getD i [] := by
      simp [List.getD_eq_getElem?_getD, hic]
    exact hext ▸ hbstart
  · rw [modGrid_get, claimBarriers_grids, hgr, hgj]
    simp [hgn]

/-- DEAL of one unit, with its extent tables built, is that. -/
theorem execDeal_one {s s1 : State} {part gi : Nat} {g : Grid} {p : Placed} {ext : List (List Extent)}
    (hx : (s.part part).exited = false) (hd : (s.part part).dealGrid = some gi) (hg : s.grids[gi]? = some g) (hu : s.dealUnits g = [p])
    (ht : State.buildTables g.part g.ranges p.cores s = .ok (s1, ext)) :
    ∃ s', execDeal part s = .next s' ∧ s'.blocks = (s1.dealtUnit gi g p ext).blocks ∧ s'.grids = (s1.dealtUnit gi g p ext).grids := by
  have hrun : execDeal part s = .next ((if g.count ≤ g.next + p.lead.length then (s1.dealtUnit gi g p ext).leaveDispatch gi g
      else s1.dealtUnit gi g p ext).want (.deal part)) := by
    simp only [execDeal, hx, hd, hg, hu, List.flatMap_cons, List.flatMap_nil, List.append_nil, ht, Bool.false_eq_true, if_false,
      List.map_cons, List.map_nil, List.sum_cons, List.sum_nil, Nat.add_zero, State.spawnUnits]
    rfl
  refine ⟨_, hrun, ?_, ?_⟩ <;> split <;> simp [State.leaveDispatch]

end Sys2Proof.Machine
end

section
namespace Sys2Proof.Machine

/-! ### What the writes and atomics of a block leave of the grids (R104, R268) -/

theorem foldl_grids {α : Type} {f : State → α → State} (h : ∀ s a, (f s a).grids = s.grids) (l : List α) (s : State) :
    (l.foldl f s).grids = s.grids :=
  foldl_keeps (P := fun x => x.grids = s.grids) (fun a x hs => (h a x).trans hs) l rfl

@[simp] theorem notify_grids (s : State) (p duty : Nat) (args : List Nat) (w : Option HostEvent) :
    (s.notify p duty args w).grids = s.grids := rfl

@[simp] theorem splitBlock_grids (s : State) (blk : Nat) : (s.splitBlock blk).grids = s.grids := by
  unfold State.splitBlock
  dsimp only
  split <;> rfl

@[simp] theorem unfile_grids (s : State) (blk : Nat) : (s.unfile blk).grids = s.grids := rfl

@[simp] theorem forgetLanes_grids (s : State) (blk : Nat) : (s.forgetLanes blk).grids = s.grids := rfl

@[simp] theorem stopBlock_grids (s : State) (blk status : Nat) : (s.stopBlock blk status).grids = s.grids := by
  unfold State.stopBlock
  dsimp only
  split <;> simp

@[simp] theorem takeTrap_grids (s : State) (t : TRef) (cause sub : Nat) (mask : BitVec 64) (first : Nat) (word : Word) :
    (s.takeTrap t cause sub mask first word).grids = s.grids := by
  unfold State.takeTrap
  split
  · rfl
  · split <;> simp

@[simp] theorem completeEarlier_grids (s : State) (l : List LaneTrap) : (s.completeEarlier l).grids = s.grids := by
  unfold State.completeEarlier
  exact foldl_grids (fun t x => modThread_grids t x.t Thread.settleResults) l s

/-- Poison found by loads that wait parks them for the host, or enters their handlers. -/
theorem deliver_poison_grids (s : State) (t : TRef) (i : Option Instr) : (s.deliver [⟨t, 0x24, 0x03, 0⟩] i).grids = s.grids := by
  simp only [State.deliver, List.foldl_cons, List.foldl_nil]
  split <;> simp

@[simp] theorem correct_grids (s : State) (l : Loc) (n : Nat) : (s.correct l n).grids = s.grids := (sameShape_correct s l n).grids

@[simp] theorem feDone_grids (s : State) (t : TRef) (x : FeWait) : (s.feDone t x).grids = s.grids := by
  unfold State.feDone
  dsimp only
  rw [modThread_grids]
  split <;> simp

@[simp] theorem wakeGranule_grids (s : State) (x : TRef × FeWait) : (s.wakeGranule x).grids = s.grids := by
  unfold State.wakeGranule
  split
  · rfl
  · dsimp only
    split_ifs
    · rfl
    · exact deliver_poison_grids ..
    · simp

@[simp] theorem homeFill_grids (s : State) (l : Loc) (bytes : List Byte) : (s.homeFill l bytes).grids = s.grids := by
  cases l with
  | win b o => exact (foldl_grids wakeGranule_grids _ _).trans (homeWrite_grids s _ bytes true)
  | phys p => rfl

@[simp] theorem performWrite_grids (s : State) (w : QWrite) : (s.performWrite w).grids = s.grids := by
  unfold State.performWrite
  split
  · rfl
  · split <;> simp

@[simp] theorem drainStrand_grids (s : State) (blk k : Nat) : (s.drainStrand blk k).grids = s.grids := by
  unfold State.drainStrand
  split
  · rw [foldl_grids performWrite_grids, modStrand_grids]
  · rfl

@[simp] theorem drainBlock_grids (s : State) (blk : Nat) : (s.drainBlock blk).grids = s.grids :=
  foldl_grids (fun s k => drainStrand_grids s blk k) _ s

@[simp] theorem drainBlock_threadCounts (s : State) (blk : Nat) : (s.drainBlock blk).threadCounts = s.threadCounts :=
  foldl_threadCounts (fun s k => drainStrand_threadCounts s blk k) _ s

@[simp] theorem finishAtomics_grids (s : State) (blk : Nat) : (s.finishAtomics blk).grids = s.grids := (sameShape_finishAtomics s blk).grids

@[simp] theorem finishAtomics_threadCounts (s : State) (blk : Nat) : (s.finishAtomics blk).threadCounts = s.threadCounts := by
  have h := congrArg (List.map fun x => x.2.1.length) (sameShape_finishAtomics s blk).shapes
  simpa [State.threadCounts, Block.shape, Function.comp_def] using h

/-- Where no block has lost or gained threads, the same blocks stand. -/
theorem block_of_threadCounts {s s' : State} (h : s'.threadCounts = s.threadCounts) {k : Nat} {b : Block} (hb : s.blocks[k]? = some b) :
    ∃ x, s'.blocks[k]? = some x := by
  have := congrArg (fun l => l[k]?) h
  simp only [State.threadCounts, List.getElem?_map, hb, Option.map_some, Option.map_eq_some_iff] at this
  exact this.imp fun _ => And.left

/-! ### What follows the end of a block (R149, R154, R306, R345, R361) -/

/-- What a core holds of its matrix unit. -/
def Core.matrixHeld (c : Core) : List CvReg × List Acc := (c.cvs, c.accs)

theorem cvs_of_matrixHeld {c d : Core} (h : c.matrixHeld = d.matrixHeld) : c.cvs = d.cvs := congrArg Prod.fst h
theorem accs_of_matrixHeld {c d : Core} (h : c.matrixHeld = d.matrixHeld) : c.accs = d.accs := congrArg Prod.snd h

/-- What follows the end of a block changes no block, no convergence register and no accumulator, and no grid that there is. -/
structure Aftermath (s s' : State) : Prop where
  blocks : s'.blocks = s.blocks
  matrix : s'.cores.map Core.matrixHeld = s.cores.map Core.matrixHeld
  grids : s.grids <+: s'.grids

theorem aftermath_of_eq {s s' : State} (hb : s'.blocks = s.blocks) (hc : s'.cores = s.cores) (hg : s'.grids = s.grids) :
    Aftermath s s' := ⟨hb, by rw [hc], by rw [hg]⟩

theorem Aftermath.refl (s : State) : Aftermath s s := aftermath_of_eq rfl rfl rfl

theorem Aftermath.trans {a b c : State} (h : Aftermath a b) (k : Aftermath b c) : Aftermath a c :=
  ⟨k.blocks.trans h.blocks, k.matrix.trans h.matrix, h.grids.trans k.grids⟩

theorem aftermath_foldl {α : Type} {f : State → α → State} (h : ∀ s a, Aftermath s (f s a)) (l : List α) (s : State) :
    Aftermath s (l.foldl f s) := foldl_keeps (P := Aftermath s) (fun t a ht => ht.trans (h t a)) l (.refl s)

/-- A grid that there is stays as it is. -/
theorem Aftermath.grid {s s' : State} (h : Aftermath s s') {k : Nat} {g : Grid} (hg : s.grids[k]? = some g) : s'.grids[k]? = some g := by
  obtain ⟨r, hr⟩ := h.grids
  rw [← hr, List.getElem?_append_left (List.getElem?_eq_some_iff.mp hg).1, hg]

/-- What a core holds of its matrix unit stays so. -/
theorem Aftermath.core {s s' : State} (h : Aftermath s s') (c : Nat) : (s'.core c).matrixHeld = (s.core c).matrixHeld := by
  have := congrArg (fun l => l[c]?) h.matrix
  simp only [List.getElem?_map] at this
  unfold State.core
  cases h' : s'.cores[c]? <;> cases h0 : s.cores[c]? <;> simp_all

theorem aftermath_want (s : State) (e : Event) : Aftermath s (s.want e) := aftermath_of_eq (by simp) (by simp) (by simp)
theorem aftermath_wantAll (s : State) (l : List Event) : Aftermath s (s.wantAll l) := aftermath_of_eq (by simp) (by simp) (by simp)
theorem aftermath_modPart (s : State) (p : Nat) (f : Part → Part) : Aftermath s (s.modPart p f) := aftermath_of_eq rfl rfl rfl
theorem aftermath_modDraw (s : State) (d : Nat) (f : Draw → Draw) : Aftermath s (s.modDraw d f) := aftermath_of_eq rfl rfl rfl
theorem aftermath_givePool (s : State) (p : Nat) (fs : List Nat) : Aftermath s (s.givePool p fs) :=
  aftermath_of_eq (by simp) (by simp) (by simp)
theorem aftermath_takePool (s : State) (p : Nat) (die : Option Nat) (n : Nat) : Aftermath s (s.takePool p die n).1 :=
  aftermath_of_eq (by simp) (by simp) (by simp)
theorem aftermath_fillFrames (s : State) (fs : List Nat) (bytes : List Byte) : Aftermath s (s.fillFrames fs bytes) := by
  unfold State.fillFrames
  refine aftermath_foldl (fun t x => ?_) _ s
  exact aftermath_of_eq rfl rfl rfl

/-- A change of a core that keeps its matrix unit. -/
theorem aftermath_modCore (s : State) (c : Nat) {f : Core → Core} (h : ∀ x, (f x).matrixHeld = x.matrixHeld) :
    Aftermath s (s.modCore c f) where
  blocks := rfl
  matrix := by
    apply List.ext_getElem?
    intro n
    simp only [State.modCore, List.getElem?_map, List.getElem?_modify]
    cases s.cores[n]? with
    | none => rfl
    | some x => by_cases hn : c = n <;> simp [hn, h]
  grids := List.prefix_rfl

/-- A grid enters behind those that there are. -/
theorem aftermath_enterGrid {s s' : State} {g : Grid} (h : s.enterGrid g = some s') : Aftermath s s' := by
  unfold State.enterGrid at h
  dsimp only at h
  split at h
  · cases h
  · injection h with h
    subst h
    refine Aftermath.trans ?_ (aftermath_want _ _)
    exact ⟨rfl, rfl, List.prefix_append ..⟩

/-! #### Draws (R345, R346, R201) -/

theorem aftermath_launchFrags (di tile : Nat) (l : List Prim) : ∀ s : State, Aftermath s (State.launchFrags di tile l s).1 := by
  induction l with
  | nil => exact fun s => .refl s
  | cons p r ih =>
    intro s
    unfold State.launchFrags
    split
    · next d n _ _ =>
      dsimp only
      split
      · next s1 h =>
        refine Aftermath.trans ?_ ((aftermath_modDraw _ _ _).trans (ih _))
        split_ifs at h
        · exact Option.some.inj h ▸ .refl s
        · exact (aftermath_modDraw s _ _).trans (aftermath_enterGrid h)
      · exact .refl s
    · exact ih s

theorem aftermath_reloadTile (s : State) (di tile : Nat) : Aftermath s (s.reloadTile di tile) := by
  unfold State.reloadTile
  split
  · exact .refl s
  · exact (aftermath_givePool s _ _).trans (aftermath_modDraw _ _ _)

theorem aftermath_relieve (s : State) (di : Nat) : Aftermath s (s.relieve di) := by
  unfold State.relieve
  split
  · exact .refl s
  · next d _ =>
    split
    · exact .refl s
    · next tile _ =>
      have h := (aftermath_reloadTile s di tile).trans (aftermath_launchFrags di tile (d.bin tile) _)
      split
      · exact .refl s
      · split
        · next s1 hs => rw [hs] at h; exact h.trans (aftermath_modDraw _ _ _)
        · next s1 hs => rw [hs] at h; exact h

theorem aftermath_writeSpills (s : State) (di : Nat) : Aftermath s (s.writeSpills di) := by
  unfold State.writeSpills
  split
  · exact .refl s
  · refine aftermath_foldl (fun t x => ?_) _ s
    split
    · exact .refl t
    · dsimp only
      split
      · exact .refl t
      · exact ((aftermath_takePool t _ _ _).trans (aftermath_fillFrames _ _ _)).trans (aftermath_modDraw _ _ _)

theorem aftermath_releasePrims (s : State) (di : Nat) : Aftermath s (s.releasePrims di) := by
  unfold State.releasePrims
  split
  · exact .refl s
  · split
    · exact .refl s
    · exact aftermath_modDraw s _ _

theorem aftermath_closeVertices (s : State) (di : Nat) : Aftermath s (s.closeVertices di) := by
  unfold State.closeVertices
  split
  · split
    · exact aftermath_modDraw s _ _
    · exact .refl s
  · exact .refl s

theorem aftermath_finishDraw (s : State) (di : Nat) : Aftermath s (s.finishDraw di) := by
  unfold State.finishDraw
  split
  · exact .refl s
  · split
    · exact ((aftermath_givePool s _ _).trans (aftermath_modDraw _ _ _)).trans (aftermath_want _ _)
    · exact .refl s

theorem aftermath_wantTiles (s : State) : Aftermath s s.wantTiles := aftermath_wantAll s _

theorem aftermath_drawProgress (s : State) (di : Nat) : Aftermath s (s.drawProgress di) :=
  ((((aftermath_releasePrims s di).trans (aftermath_closeVertices _ di)).trans (aftermath_relieve _ di)).trans
    (aftermath_writeSpills _ di)).trans ((aftermath_finishDraw _ di).trans (aftermath_wantTiles _))

theorem aftermath_gridEnded (s : State) (gi : Nat) : Aftermath s (s.gridEnded gi) := by
  unfold State.gridEnded
  split
  · exact .refl s
  · split
    · exact aftermath_want s _
    · exact aftermath_want s _
    · exact aftermath_drawProgress s _
    · exact .refl s

theorem aftermath_freeQuad (s : State) (b : Block) : Aftermath s (s.freeQuad b) := by
  unfold State.freeQuad
  split
  · exact .refl s
  · split
    · exact .refl s
    · exact aftermath_of_eq rfl rfl rfl

/-! #### Code that is no longer referred to (R361) -/

theorem aftermath_returnFrame (part : Nat) (s : State) (f : Nat) : Aftermath s (State.returnFrame part s f) := by
  obtain ⟨g, h | h⟩ := returnFrame_cases part s f
  · exact h ▸ aftermath_modPart s part g
  · exact h ▸ (aftermath_modPart s part g).trans (aftermath_want _ _)

theorem aftermath_unmapPage (s : State) (p va : Nat) (own : Bool) : Aftermath s (s.unmapPage p va own) := by
  have hdrop : ∀ (s : State) (c : Nat), Aftermath s (s.modCore c fun k => k.dropRange p (va / 4096) 1) := fun s c =>
    aftermath_modCore s c fun _ => rfl
  have hwrite : ∀ a e, Aftermath s (s.writeEntry a e) := fun _ _ => aftermath_of_eq rfl rfl rfl
  unfold State.unmapPage
  split
  · exact .refl s
  · dsimp only
    split
    · exact ((hwrite _ _).trans (aftermath_foldl hdrop _ _)).trans (aftermath_returnFrame _ _ _)
    · exact (hwrite _ _).trans (aftermath_foldl hdrop _ _)

theorem aftermath_unmapObject (o : CodeObj) (s : State) (p : Nat) : Aftermath s (State.unmapObject o s p) := by
  have hmapped : ∀ (t : State) f, Aftermath t (t.modMapped o.hash f) := fun _ _ => aftermath_of_eq rfl rfl rfl
  unfold State.unmapObject
  refine Aftermath.trans ?_ (hmapped _ _)
  refine Aftermath.trans (aftermath_foldl (fun t x => ?_) _ s) (aftermath_foldl (fun t x => ?_) _ _)
  · exact aftermath_unmapPage t _ _ _
  · exact aftermath_unmapPage t _ _ _

theorem aftermath_freeObject (s : State) (o : CodeObj) : Aftermath s (s.freeObject o) := by
  refine Aftermath.trans ?_ (aftermath_wantAll _ _)
  exact (aftermath_foldl (aftermath_unmapObject o) _ s).trans (aftermath_of_eq rfl rfl rfl)

theorem aftermath_freeObjects (n : Nat) : ∀ s : State, Aftermath s (State.freeObjects n s) := by
  induction n with
  | zero => exact fun s => .refl s
  | succ n ih =>
    intro s
    rw [State.freeObjects]
    split
    · exact .refl s
    · exact (aftermath_freeObject s _).trans (ih _)

theorem aftermath_sweepCode (s : State) : Aftermath s s.sweepCode := by
  have hdrain : Aftermath s s.endDrains := aftermath_of_eq rfl rfl rfl
  unfold State.sweepCode
  split
  · exact hdrain.trans (aftermath_freeObjects _ _)
  · exact .refl s

/-! ### The end of a block (R268) -/

theorem forgetLanes_block {s : State} {k : Nat} {b : Block} (hb : s.blocks[k]? = some b) (blk : Nat) :
    ∃ l, (s.forgetLanes blk).blocks[k]? = some { b with held := l } := by
  simp only [State.forgetLanes, List.getElem?_map, List.getElem?_zipIdx, hb, Option.map_some, Nat.zero_add]
  split
  · exact ⟨b.held, rfl⟩
  · exact ⟨_, rfl⟩

theorem dropFrame_block {s : State} {k : Nat} {b : Block} (hb : s.blocks[k]? = some b) :
    ∃ x, (s.dropFrame k).blocks[k]? = some x := by
  unfold State.dropFrame
  dsimp only
  split_ifs
  · exact ⟨b, hb⟩
  · rw [givePool_blocks]
    exact ⟨_, by rw [modBlock_get, hb, Option.map_some]⟩

@[simp] theorem dropFrame_grids (s : State) (blk : Nat) : (s.dropFrame blk).grids = s.grids := by
  unfold State.dropFrame
  dsimp only
  split_ifs
  · rfl
  · simp

@[simp] theorem dropFrame_cores (s : State) (blk : Nat) : (s.dropFrame blk).cores = s.cores := by
  unfold State.dropFrame
  dsimp only
  split_ifs
  · rfl
  · simp

theorem countEnd_keeps (s : State) (b : Block) :
    (s.countEnd b).blocks = s.blocks ∧ (s.countEnd b).cores.map Core.matrixHeld = s.cores.map Core.matrixHeld := by
  unfold State.countEnd
  dsimp only
  split_ifs
  · exact ⟨(aftermath_gridEnded _ _).blocks, (aftermath_gridEnded _ _).matrix⟩
  · exact ⟨rfl, rfl⟩

/-- A block that is no copy of another is counted at its grid with its status (R155). -/
theorem countEnd_grid {s : State} {b : Block} {g : Grid} (hp : b.partner = none) (hg : s.grids[b.grid]? = some g) :
    (s.countEnd b).grids[b.grid]? = some { g with ended := g.ended ++ [(b.num, b.status)] } := by
  unfold State.countEnd
  rw [hp]
  exact (aftermath_gridEnded _ _).grid (by rw [modGrid_get, hg, Option.map_some])

theorem countEnd_core (s : State) (b : Block) (c : Nat) : ((s.countEnd b).core c).matrixHeld = (s.core c).matrixHeld :=
  Aftermath.core (s := { s with grids := [] }) (s' := { s.countEnd b with grids := [] })
    ⟨(countEnd_keeps s b).1, (countEnd_keeps s b).2, List.prefix_rfl⟩ c

/-- What follows the counting of an ended block. -/
theorem aftermath_counted (s : State) (b : Block) (p : Nat) : Aftermath s (((s.freeQuad b).sweepCode).want (.deal p)) :=
  ((aftermath_freeQuad s b).trans (aftermath_sweepCode _)).trans (aftermath_want _ _)

/-- What the end of a block does to it, to the matrix units and to its grid. -/
theorem endBlock_ends {s : State} {blk : Nat} {y : Block} (hy : s.blocks[blk]? = some y) (b : Block) :
    (∃ x, (s.endBlock blk b).blocks[blk]? = some (Block.close x)) ∧
      (∀ c, ((s.endBlock blk b).core c).matrixHeld = (s.core c).matrixHeld) ∧
      ∀ g, b.partner = none → s.grids[b.grid]? = some g →
        (s.endBlock blk b).grids[b.grid]? = some { g with ended := g.ended ++ [(b.num, b.status)] } := by
  obtain ⟨x, hx⟩ := dropFrame_block hy
  obtain ⟨l, hl⟩ := forgetLanes_block (s := (s.dropFrame blk).givePool (s.partOf blk) b.spillAt) (by simpa using hx) blk
  set t := (((s.dropFrame blk).givePool (s.partOf blk) b.spillAt).forgetLanes blk).modBlock blk Block.close with ht
  have htb : t.blocks[blk]? = some (Block.close { x with held := l }) := by rw [ht, modBlock_get, hl, Option.map_some]
  have htg : t.grids = s.grids := by simp [ht]
  have htc : t.cores = s.cores := by simp [ht, State.forgetLanes]
  have hend : s.endBlock blk b = (((t.countEnd b).freeQuad b).sweepCode).want (.deal (s.partOf blk)) := rfl
  have haft := aftermath_counted (t.countEnd b) b (s.partOf blk)
  rw [hend]
  refine ⟨⟨{ x with held := l }, ?_⟩, fun c => ?_, fun g hp hg => haft.grid (countEnd_grid hp (htg ▸ hg))⟩
  · rw [haft.blocks, (countEnd_keeps t b).1, htb]
  · rw [haft.core, countEnd_core, State.core, htc, State.core]

theorem freeMatrix_holds (c : Core) (blk : Nat) :
    (∀ x ∈ (c.freeMatrix blk).cvs, x.holder ≠ some blk) ∧ ∀ x ∈ (c.freeMatrix blk).accs, x.holder ≠ some blk := by
  constructor <;>
  · intro x hx
    obtain ⟨y, -, rfl⟩ := List.mem_map.mp hx
    by_cases hy : y.holder = some blk
    · simp [hy, CvReg.free]
    · simp [hy]

/-- The reset core holds nothing for a block. -/
theorem reset_holds (blk : Nat) :
    (∀ x ∈ Core.reset.cvs, x.holder ≠ some blk) ∧ ∀ x ∈ Core.reset.accs, x.holder ≠ some blk := by
  simp [Core.reset, CvReg.free]

/-- Once a block's holdings are freed, no register and no accumulator of the core stands for it. -/
theorem freed_holds (s : State) (core blk : Nat) :
    let c := (s.modCore core fun c => (c.freeMatrix blk).dropFiled blk).core core
    (∀ x ∈ c.cvs, x.holder ≠ some blk) ∧ ∀ x ∈ c.accs, x.holder ≠ some blk := by
  simp only [State.core, State.modCore, List.getElem?_modify_eq]
  cases s.cores[core]? with
  | none => exact reset_holds blk
  | some c => exact freeMatrix_holds c blk

theorem execBlockEnd_ends {s : State} {blk core : Nat} {b : Block} {g : Grid} (hb : s.blocks[blk]? = some b)
    (hg : s.grids[b.grid]? = some g) (hplace : b.place = .onCore core) (hdone : b.done = true) (hheld : b.held = [])
    (hidle : s.busyBlock core blk = false) :
    ∃ s' x, execBlockEnd blk s = .next s' ∧ s'.blocks[blk]? = some (Block.close x) ∧
      (∀ c ∈ (s'.core core).cvs, c.holder ≠ some blk) ∧ (∀ c ∈ (s'.core core).accs, c.holder ≠ some blk) ∧
      (b.partner = none → s'.grids[b.grid]? = some { g with ended := g.ended ++ [(b.num, b.status)] }) := by
  let t := (s.finishAtomics blk).drainBlock blk
  let u := t.modCore core fun c => (c.freeMatrix blk).dropFiled blk
  have hexec : execBlockEnd blk s = .next (u.endBlock blk b) := by
    simp [execBlockEnd, hb, hdone, hheld, hplace, hidle, t, u]
  obtain ⟨y, hy⟩ : ∃ y, u.blocks[blk]? = some y := block_of_threadCounts (s := s) (by
    rw [threadCounts_of_blocks (modCore_blocks t core _)]
    simp [t]) hb
  obtain ⟨⟨x, hx⟩, hcore, hgrid⟩ := endBlock_ends hy b
  obtain ⟨hcv, hacc⟩ := freed_holds t core blk
  refine ⟨_, x, hexec, hx, ?_, ?_, fun hp => hgrid g hp (by simpa [u, t] using hg)⟩
  · rw [cvs_of_matrixHeld (hcore core)]
    exact hcv
  · rw [accs_of_matrixHeld (hcore core)]
    exact hacc

end Sys2Proof.Machine
end

section
namespace Sys2Proof.Machine

/-! ### A block with nothing outstanding has nothing to finish before it is saved (R79, R104, R304) -/

theorem modBlock_self {s : State} {blk : Nat} {f : Block → Block} (h : ∀ b, s.blocks[blk]? = some b → f b = b) :
    s.modBlock blk f = s := by
  have hl : s.blocks.modify blk f = s.blocks := by
    apply List.ext_getElem?
    intro n
    rw [List.getElem?_modify]
    cases hb : s.blocks[n]? with
    | none => rfl
    | some b =>
      by_cases hn : blk = n
      · subst hn
        simp [h b hb]
      · simp [hn]
  simp [State.modBlock, hl]

theorem drainStrand_idle {s : State} {blk : Nat} {b : Block} (hb : s.blocks[blk]? = some b)
    (h : ∀ k ∈ b.strands, k.queue = [] ∧ k.joint = none) (k : Nat) : s.drainStrand blk k = s := by
  have hst : s.strand? blk k = b.strands[k]? := by simp [State.strand?, hb]
  unfold State.drainStrand
  cases hk : b.strands[k]? with
  | none => simp [hst, hk]
  | some st =>
    obtain ⟨hq, hj⟩ := h st (List.mem_of_getElem? hk)
    simp only [hst, hk, Option.map_some, hq, List.foldl_nil]
    rw [modStrand_single s blk k _ (by simp [hst, hk, hj])]
    refine modBlock_self fun x hx => ?_
    obtain rfl : b = x := Option.some.inj (hb.symm.trans hx)
    have hl : b.strands.modify k (fun y => { y with queue := [] }) = b.strands := by
      apply List.ext_getElem?
      intro n
      rw [List.getElem?_modify]
      by_cases hn : k = n
      · subst hn
        simp [hk, ← hq]
      · simp [hn]
    simp [Block.modStrand, hl]

theorem drainBlock_idle {s : State} {blk : Nat} {b : Block} (hb : s.blocks[blk]? = some b)
    (h : ∀ k ∈ b.strands, k.queue = [] ∧ k.joint = none) : s.drainBlock blk = s :=
  foldl_keeps (P := fun x => x = s) (fun k x hx => by rw [hx, drainStrand_idle hb h]) _ rfl

theorem splitBlock_single {s : State} {blk : Nat} {b : Block} (hb : s.blocks[blk]? = some b)
    (h : ∀ k ∈ b.strands, k.queue = [] ∧ k.joint = none) : s.splitBlock blk = s := by
  have hj : b.strands.filterMap Strand.joint = [] := List.filterMap_eq_nil_iff.mpr fun k hk => (h k hk).2
  simp [State.splitBlock, hb, hj]

theorem rmw?_eq_none {th : Thread} (h : ∀ r, th.park ≠ some (.atomic r)) : th.rmw? = none := by
  unfold Thread.rmw?
  split
  · next r hr => exact absurd hr (h r)
  · rfl

theorem finishAtomics_idle {s : State} {blk : Nat} {b : Block} (hb : s.blocks[blk]? = some b)
    (h : ∀ x ∈ b.threads, ∀ r, x.park ≠ some (.atomic r)) : s.finishAtomics blk = s := by
  have hrmw : ∀ x ∈ b.threads, x.rmw? = none := fun x hx => rmw?_eq_none (h x hx)
  have hmine : b.threads.filterMap Thread.rmw? = [] := List.filterMap_eq_nil_iff.mpr hrmw
  unfold State.finishAtomics
  simp only [hb, Option.map_some, Option.getD_some, hmine, List.any_nil, Bool.or_false, decide_eq_true_eq]
  rw [List.flatMap_eq_nil_iff.mpr]
  · simp
  · intro y hy
    rw [List.filterMap_eq_nil_iff]
    intro x hx
    split
    · next r hr =>
      rw [if_neg]
      intro hblk
      have hyb : y.1 = b := by
        have := List.mem_zipIdx_iff_getElem?.mp hy
        rw [hblk, hb] at this
        exact (Option.some.inj this).symm
      have := hrmw x.1 (hyb ▸ List.fst_mem_of_mem_zipIdx hx)
      rw [this] at hr
      cases hr
    · rfl

theorem modQueue_self {s : State} {core q : Nat} {f : EQueue → EQueue} (h : f (s.queue core q) = s.queue core q) :
    s.modQueue core q f = s := by
  refine modCore_self ?_
  have hl : (s.core core).queues.modify q f = (s.core core).queues := by
    apply List.ext_getElem?
    intro n
    rw [List.getElem?_modify]
    cases hx : (s.core core).queues[n]? with
    | none => rfl
    | some x =>
      by_cases hn : q = n
      · subst hn
        have hq : s.queue core q = x := by simp [State.queue, hx]
        simp [← hq, h]
      · simp [hn]
  rw [hl]

theorem saveQueue_idle {s : State} {core blk : Nat} (h : ∀ q, ∀ c ∈ (s.queue core q).all, c.blk ≠ blk) (q : Nat) :
    State.saveQueue core blk (s, []) q = (s, []) := by
  have hq := h q
  simp only [EQueue.all, List.mem_append] at hq
  have hmine : ((s.queue core q).all.filter fun c => c.blk == blk) = [] :=
    List.filter_eq_nil_iff.mpr fun c hc => by simpa using h q c hc
  simp only [State.saveQueue, hmine, List.foldl_nil]
  rw [modQueue_self]
  rw [List.filter_eq_self.mpr fun c hc => by simpa using hq c (.inl hc), List.filter_eq_self.mpr fun c hc => by simpa using hq c (.inr hc)]

theorem saveQueues_idle {s : State} {core blk : Nat} (h : ∀ q, ∀ c ∈ (s.queue core q).all, c.blk ≠ blk) (l : List Nat) :
    l.foldl (State.saveQueue core blk) (s, []) = (s, []) := by
  induction l with
  | nil => rfl
  | cons q r ih => rw [List.foldl_cons, saveQueue_idle h, ih]

/-! ### The save itself (R79) -/

/-- The joins that pass change the cores' queues alone. -/
theorem passJoins_cores (s : State) (core : Nat) :
    ∃ l, l.map Core.matrixHeld = s.cores.map Core.matrixHeld ∧ s.passJoins core = { s with cores := l } := by
  unfold State.passJoins
  refine foldl_keeps (P := fun t => ∃ l, l.map Core.matrixHeld = s.cores.map Core.matrixHeld ∧ t = { s with cores := l })
    (fun id t ht => ?_) _ ⟨s.cores, rfl, rfl⟩
  obtain ⟨l, hl, rfl⟩ := ht
  unfold State.passJoin
  dsimp only
  split
  · refine ⟨_, Eq.trans (aftermath_modCore { s with cores := l } core ?_).matrix hl, rfl⟩
    exact fun _ => rfl
  · exact ⟨l, hl, rfl⟩

/-- A block as it leaves its core with no command of its own in the engines. -/
def State.savedBlock (s : State) (blk core : Nat) (why : SaveWhy) (b : Block) : Block :=
  { b with place := .saved false why, saving := none, homeCore := s.roomAfter blk b, extents := [],
           savedCmds := [], matrix := (s.core core).matrixOf blk, filedSaved := (s.core core).filedOf blk,
           threads := b.threads.map fun t => t.savedResults.settlePark,
           strands := b.strands.map fun k => k.discard }

/-- Does a block of a C grid keep its room when it is saved (R157, log 11)? -/
def State.keepsRoom (s : State) (blk : Nat) (b : Block) : Bool := decide (s.roomAfter blk b < 72)

/-- A block has nothing that a save must finish first. -/
structure State.Idle (s : State) (blk core : Nat) (b : Block) : Prop where
  block : s.blocks[blk]? = some b
  partner : b.partner = none
  cmds : ∀ q, ∀ c ∈ (s.queue core q).all, c.blk ≠ blk
  strands : ∀ k ∈ b.strands, k.queue = [] ∧ k.joint = none
  atomics : ∀ x ∈ b.threads, ∀ r, x.park ≠ some (.atomic r)

/-- The save of an idle block changes that block and its core's matrix unit, and lets joins pass. -/
theorem save_idle {s : State} {blk core : Nat} {b : Block} (h : s.Idle blk core b) (why : SaveWhy) :
    s.save blk core why = ((s.modBlock blk (s.savedBlock blk core why)).modCore core fun c =>
      (if s.keepsRoom blk b then c.parkMatrix blk else c.freeMatrix blk).dropFiled blk).passJoins core := by
  obtain ⟨hb, hp, hcmds, hstrands, hatom⟩ := h
  unfold State.save
  rw [drainBlock_idle hb hstrands, splitBlock_single hb hstrands]
  simp only [hb, Option.bind_some, hp, Option.elim_none, finishAtomics_idle hb hatom, saveQueues_idle hcmds, modBlock_get,
    Option.map_some, Option.getD_some]
  rfl

/-! ### The frame of a saved block (R217) -/

theorem mem_takePool {s : State} {part f : Nat} {die : Option Nat} {n : Nat} (h : f ∈ (s.takePool part die n).2) :
    f ∈ (s.part part).pool ++ (s.part part).freeNear :=
  List.mem_of_mem_filter (List.mem_of_mem_take h)

theorem pageBad_congr {s s' : State} (hb : s'.badNear = s.badNear) (hp : s'.pkg = s.pkg) (f : Nat) : s'.pageBad f = s.pageBad f := by
  simp [State.pageBad, State.homeBad, State.podPage, hb, hp]

theorem modBlock_pageBad (s : State) (b : Nat) (g : Block → Block) (f : Nat) : (s.modBlock b g).pageBad f = s.pageBad f := rfl

theorem takePool_pageBad (s : State) (part : Nat) (die : Option Nat) (n f : Nat) :
    (s.takePool part die n).1.pageBad f = s.pageBad f := by
  rcases takePool_cases s part die n with h | ⟨g, h⟩ <;> rw [h]
  exact pageBad_congr rfl rfl f

theorem partOf_congr {s s' : State} {blk : Nat} (hb : (s'.blocks[blk]?).map (·.grid) = (s.blocks[blk]?).map (·.grid))
    (hg : s'.grids = s.grids) : s'.partOf blk = s.partOf blk := by
  have hgrid : ∀ t : State, t.grid? blk = ((t.blocks[blk]?).map (·.grid)).bind fun g => t.grids[g]? := fun t => by
    rw [State.grid?]
    cases t.blocks[blk]? <;> rfl
  rw [State.partOf, State.partOf, hgrid, hgrid, hb, hg]

/-- The free frames from which a block's context frame is taken (R217). -/
def State.frameRoom (s : State) (blk : Nat) : List Nat := (s.part (s.partOf blk)).pool ++ (s.part (s.partOf blk)).freeNear

theorem frameRoom_congr {s s' : State} {blk : Nat} (hb : (s'.blocks[blk]?).map (·.grid) = (s.blocks[blk]?).map (·.grid))
    (hg : s'.grids = s.grids) (hp : s'.parts = s.parts) : s'.frameRoom blk = s.frameRoom blk := by
  simp only [State.frameRoom, partOf_congr hb hg, State.part, hp]

/-- A block with the pages of its frame. -/
def Block.placed (fs : List Nat) (b : Block) : Block := { b with ctx := fs }

/-- The frame of a block whose image stands: no free frame, too few, or the frames that are taken (R217). -/
def State.frameWritten (u : State) (blk : Nat) (bytes : List Byte) : State :=
  if (u.frameRoom blk).isEmpty then u
  else
    let r := u.takePool (u.partOf blk) none (pageCount bytes.length)
    if r.2.length < pageCount bytes.length then u
    else
      let s := r.1.modBlock blk (Block.placed r.2)
      if r.2.any s.pageBad then s.loseFrame blk r.2 else s.fillFrames r.2 bytes

theorem writeFrame_eq {s : State} {blk : Nat} {b : Block} (hb : s.blocks[blk]? = some b) :
    ∃ bytes, s.writeFrame blk = (s.modBlock blk fun b => { b with image := b.matrixImage }).frameWritten blk bytes := by
  unfold State.writeFrame
  simp only [modBlock_get, hb, Option.map_some]
  exact ⟨_, rfl⟩

theorem fillFrames_blocks (s : State) (fs : List Nat) (bytes : List Byte) : (s.fillFrames fs bytes).blocks = s.blocks :=
  (aftermath_fillFrames s fs bytes).blocks

/-- With all free frames in order the frame of a block is written and the block is not lost; with no free frame nothing is written. -/
theorem frameWritten_frames {s : State} {blk : Nat} {b : Block} (hb : s.blocks[blk]? = some b)
    (hok : ∀ f ∈ s.frameRoom blk, s.pageBad f = false) (bytes : List Byte) :
    (∃ c, (s.frameWritten blk bytes).blocks[blk]? = some (b.placed c)) ∧
      (s.frameWritten blk bytes).cores.map Core.matrixHeld = s.cores.map Core.matrixHeld ∧
      (s.frameRoom blk = [] → (s.frameWritten blk bytes).mem = s.mem) := by
  have hself : s.blocks[blk]? = some (b.placed b.ctx) := hb
  unfold State.frameWritten
  dsimp only
  split_ifs with hroom hfew hbad
  · exact ⟨⟨_, hself⟩, rfl, fun _ => rfl⟩
  · exact ⟨⟨_, hself⟩, rfl, fun _ => rfl⟩
  · exfalso
    obtain ⟨f, hf, hbf⟩ := List.any_eq_true.mp hbad
    rw [modBlock_pageBad, takePool_pageBad, hok f (mem_takePool hf)] at hbf
    cases hbf
  · refine ⟨⟨_, by rw [fillFrames_blocks, modBlock_get, takePool_blocks, hb, Option.map_some]⟩, ?_, fun h => absurd (by simp [h]) hroom⟩
    rw [(aftermath_fillFrames _ _ _).matrix, modBlock_cores, takePool_cores]

/-! ### BLOCK_SAVE (R79, R161, R217) -/

theorem aftermath_settleStop (s : State) : Aftermath s s.settleStop := by
  unfold State.settleStop
  split
  · exact aftermath_of_eq rfl rfl rfl
  · exact .refl s

theorem aftermath_answerPreempt (s : State) (core part : Nat) : Aftermath s (s.answerPreempt core part) := by
  unfold State.answerPreempt
  split
  · exact aftermath_modCore s core fun _ => rfl
  · exact .refl s

theorem aftermath_settlePreempt (s : State) (core part : Nat) : Aftermath s (s.settlePreempt core part) := by
  rw [settlePreempt_eq]
  split
  · exact aftermath_answerPreempt s core part
  · exact ((aftermath_answerPreempt s core part).trans (aftermath_modPart _ _ _)).trans (aftermath_settleStop _)

theorem aftermath_enqueueReady (s : State) (blk : Nat) : Aftermath s (s.enqueueReady blk) := by
  unfold State.enqueueReady
  split
  · dsimp only
    split_ifs
    · exact .refl s
    · exact aftermath_want s _
    · exact .refl s
    · exact (aftermath_modPart s _ _).trans (aftermath_wantAll _ _)
  · exact .refl s

theorem makeReady_core {s : State} {blk : Nat} {b : Block} {why : SaveWhy} (hb : s.blocks[blk]? = some b)
    (hs : b.place = .saved false why) (c : Nat) : ((s.makeReady blk).core c).matrixHeld = (s.core c).matrixHeld := by
  have h : s.makeReady blk = (s.modBlock blk fun b => { b with place := .saved true why }).enqueueReady blk := by
    simp [State.makeReady, hb, hs]
  rw [h, (aftermath_enqueueReady _ blk).core]
  rfl

/-- What is asked for once a block has been saved. -/
theorem aftermath_saved (s : State) (part : Nat) : Aftermath s (s.want (.deal part)).wantTiles :=
  (aftermath_want s _).trans (aftermath_wantTiles _)

theorem saved_mem (s : State) (part : Nat) : (s.want (.deal part)).wantTiles.mem = s.mem := by simp [State.wantTiles]

/-- What the save itself leaves of the machine. -/
structure State.SavedAs (s s' : State) (blk core : Nat) (b x : Block) : Prop where
  block : s'.blocks[blk]? = some x
  mem : s'.mem = s.mem
  room : s'.frameRoom blk = s.frameRoom blk
  bad : ∀ f, s'.pageBad f = s.pageBad f
  freed : s.keepsRoom blk b = false → ∀ c ∈ (s'.core core).cvs, c.holder ≠ some blk

theorem save_savedAs {s : State} {blk core : Nat} {b : Block} (h : s.Idle blk core b) (why : SaveWhy) :
    s.SavedAs (s.save blk core why) blk core b (s.savedBlock blk core why b) := by
  have hb := h.block
  rw [save_idle h]
  set u := (s.modBlock blk (s.savedBlock blk core why)).modCore core fun c =>
      (if s.keepsRoom blk b then c.parkMatrix blk else c.freeMatrix blk).dropFiled blk with hu
  obtain ⟨l, hl, hjoin⟩ := passJoins_cores u core
  have hblock : (s.modBlock blk (s.savedBlock blk core why)).blocks[blk]? = some (s.savedBlock blk core why b) := by
    rw [modBlock_get, hb, Option.map_some]
  have hcore : ((u.passJoins core).core core).matrixHeld = (u.core core).matrixHeld :=
    Aftermath.core (by rw [hjoin]; exact ⟨rfl, hl, List.prefix_rfl⟩) core
  refine ⟨by rw [hjoin]; exact hblock, by rw [hjoin]; rfl, ?_, fun f => by rw [hjoin]; rfl, fun hroom => ?_⟩
  · refine frameRoom_congr ?_ (by rw [hjoin]; rfl) (by rw [hjoin]; rfl)
    rw [hjoin]
    exact modBlock_keeps Block.grid s blk (fun _ => by rfl) blk
  · rw [cvs_of_matrixHeld hcore, hu, hroom]
    exact (freed_holds _ core blk).1

theorem execBlockSave_ready {s : State} {blk core : Nat} {b : Block} (h : s.Idle blk core b) (hplace : b.place = .onCore core)
    {why : SaveWhy} (hwhy : b.saving = some why) (hcause : why.cause = 0) (hok : ∀ f ∈ s.frameRoom blk, s.pageBad f = false) :
    ∃ s' i c, execBlockSave blk s = .next s' ∧ (s.frameRoom blk = [] → s'.mem = s.mem) ∧
      s'.blocks[blk]? = some { s.savedBlock blk core why b with place := .saved true why, image := i, ctx := c } ∧
      (s.keepsRoom blk b = false → ∀ c ∈ (s'.core core).cvs, c.holder ≠ some blk) := by
  obtain ⟨hblock, hmem, hroom, hbad, hfreed⟩ := save_savedAs h why
  obtain ⟨bytes, hframe⟩ := writeFrame_eq hblock
  set s1 := (s.save blk core why).modBlock blk fun b => { b with image := b.matrixImage } with hs1
  have hblock1 : s1.blocks[blk]? = some { s.savedBlock blk core why b with image := (s.savedBlock blk core why b).matrixImage } := by
    rw [hs1, modBlock_get, hblock, Option.map_some]
  have hroom1 : s1.frameRoom blk = s.frameRoom blk :=
    (frameRoom_congr (modBlock_keeps Block.grid _ blk (fun _ => by rfl) blk) rfl rfl).trans hroom
  obtain ⟨⟨c, hc⟩, hcores, hmem1⟩ := frameWritten_frames hblock1 (fun f hf => by
    rw [hs1, modBlock_pageBad, hbad]
    exact hok f (hroom1 ▸ hf)) bytes
  let s2 := (s1.frameWritten blk bytes).settlePreempt core (s.partOf blk)
  have hblock2 : s2.blocks[blk]? = some (Block.placed c _) := (settlePreempt_blocks ..).symm ▸ hc
  obtain ⟨hmem2, hready⟩ := makeReady_saved hblock2 rfl
  have haft := aftermath_saved (s2.makeReady blk) (s.partOf blk)
  refine ⟨((s2.makeReady blk).want (.deal (s.partOf blk))).wantTiles, _, _, ?_, fun he => ?_, by rw [haft.blocks, hready]; rfl, fun hk => ?_⟩
  · simp [execBlockSave, h.block, hplace, hwhy, hframe, State.serveSaved, hcause, s2]
  · rw [saved_mem, hmem2, settlePreempt_mem, hmem1 (hroom1.trans he)]
    exact hmem
  · have hheld : (((s2.makeReady blk).want (.deal (s.partOf blk))).wantTiles.core core).matrixHeld =
        ((s.save blk core why).core core).matrixHeld := by
      rw [haft.core, makeReady_core hblock2 rfl, (aftermath_settlePreempt _ _ _).core]
      exact Aftermath.core (s := { s1 with blocks := [], grids := [] }) (s' := { s1.frameWritten blk bytes with blocks := [], grids := [] })
        ⟨rfl, hcores, List.prefix_rfl⟩ core
    rw [cvs_of_matrixHeld hheld]
    exact hfreed hk

theorem keepsRoom_iff (s : State) (blk : Nat) (b : Block) : s.keepsRoom blk b = true ↔ (s.kernel blk).cls = .c ∧ b.homeCore < 72 := by
  by_cases h : (s.kernel blk).cls = .c <;> simp [State.keepsRoom, State.roomAfter, h]

theorem savedBlock_homeCore {s : State} {blk : Nat} (core : Nat) (why : SaveWhy) (b : Block) (h : (s.kernel blk).cls = .c) :
    (s.savedBlock blk core why b).homeCore = b.homeCore := if_pos h

end Sys2Proof.Machine
end

section
namespace Sys2Proof.Machine

/-! ### What stays of a block while it goes back onto a core (R81) -/

/-- What a restore leaves of a thread. -/
def Thread.context (u : Thread) : Addr × List Reg × Option Park × TrapRegs := (u.pc, u.regs, u.park, u.trap)

/-- A block with the place, the memory and the threads' context of another. -/
structure Block.SameContext (b x : Block) : Prop where
  place : x.place = b.place
  mem : x.mem = b.mem
  full : x.full = b.full
  threads : x.threads.map Thread.context = b.threads.map Thread.context

theorem Block.SameContext.refl (b : Block) : b.SameContext b := ⟨rfl, rfl, rfl, rfl⟩

theorem Block.SameContext.trans {a b c : Block} (h : a.SameContext b) (k : b.SameContext c) : a.SameContext c :=
  ⟨k.place.trans h.place, k.mem.trans h.mem, k.full.trans h.full, k.threads.trans h.threads⟩

/-- A step changes of all blocks at most one, and of that one not its context. -/
structure KeepsContext (blk : Nat) (s s' : State) : Prop where
  grids : s'.grids = s.grids
  others : ∀ k ≠ blk, s'.blocks[k]? = s.blocks[k]?
  own : ∀ y, s.blocks[blk]? = some y → ∃ z, s'.blocks[blk]? = some z ∧ y.SameContext z

theorem keepsContext_of_eq {blk : Nat} {s s' : State} (hg : s'.grids = s.grids) (hb : s'.blocks = s.blocks) : KeepsContext blk s s' :=
  ⟨hg, fun k _ => by rw [hb], fun y hy => ⟨y, by rw [hb, hy], .refl y⟩⟩

theorem keepsContext_modCore (blk : Nat) (s : State) (c : Nat) (f : Core → Core) : KeepsContext blk s (s.modCore c f) :=
  keepsContext_of_eq rfl rfl

theorem KeepsContext.refl (blk : Nat) (s : State) : KeepsContext blk s s := keepsContext_of_eq rfl rfl

theorem KeepsContext.trans {blk : Nat} {a b c : State} (h : KeepsContext blk a b) (k : KeepsContext blk b c) : KeepsContext blk a c where
  grids := k.grids.trans h.grids
  others := fun n hn => (k.others n hn).trans (h.others n hn)
  own := fun y hy => by
    obtain ⟨z, hz, hyz⟩ := h.own y hy
    obtain ⟨w, hw, hzw⟩ := k.own z hz
    exact ⟨w, hw, hyz.trans hzw⟩

theorem keepsContext_foldl {α : Type} {blk : Nat} {f : State → α → State} (h : ∀ s a, KeepsContext blk s (f s a)) (l : List α) (s : State) :
    KeepsContext blk s (l.foldl f s) := foldl_keeps (P := KeepsContext blk s) (fun t a ht => ht.trans (h t a)) l (.refl blk s)

theorem keepsContext_modBlock (s : State) (blk : Nat) {f : Block → Block} (h : ∀ b : Block, b.SameContext (f b)) :
    KeepsContext blk s (s.modBlock blk f) :=
  ⟨rfl, fun _ hk => modBlock_other s f hk, fun y hy => ⟨f y, by rw [modBlock_get, hy, Option.map_some], h y⟩⟩

theorem keepsContext_modThread (s : State) (blk tid : Nat) {f : Thread → Thread} (h : ∀ t, (f t).context = t.context) :
    KeepsContext blk s (s.modThread ⟨blk, tid⟩ f) := by
  refine keepsContext_modBlock s blk fun b => ⟨rfl, rfl, rfl, ?_⟩
  apply List.ext_getElem?
  intro n
  simp only [Block.modThread, List.getElem?_map, List.getElem?_modify]
  cases b.threads[n]? with
  | none => rfl
  | some t => by_cases hn : tid = n <;> simp [hn, h]

theorem keepsContext_dropFrame (s : State) (blk : Nat) : KeepsContext blk s (s.dropFrame blk) := by
  unfold State.dropFrame
  dsimp only
  split_ifs
  · exact .refl blk s
  · refine KeepsContext.trans (keepsContext_modBlock s blk ?_) (keepsContext_of_eq (givePool_grids ..) (givePool_blocks ..))
    exact fun b => ⟨rfl, rfl, rfl, rfl⟩

theorem keepsContext_moveSpill (s : State) (blk core : Nat) (g : Grid) (b : Block) : KeepsContext blk s (s.moveSpill blk core g b) := by
  unfold State.moveSpill State.reserveSpill
  refine KeepsContext.trans (b := (s.givePool g.part b.spillAt).takePool g.part (some (core / 36)) g.kernel.spillPages |>.1) ?_
    (keepsContext_modBlock _ blk ?_)
  · exact keepsContext_of_eq (by simp) (by simp)
  · exact fun b => ⟨rfl, rfl, rfl, rfl⟩

theorem keepsContext_passJoins (s : State) (blk core : Nat) : KeepsContext blk s (s.passJoins core) := by
  obtain ⟨l, -, h⟩ := passJoins_cores s core
  exact keepsContext_of_eq (by rw [h]) (by rw [h])

theorem keepsContext_refile (core blk : Nat) (s : State) (x : Nat × Nat) : KeepsContext blk s (State.refile core blk s x) := by
  unfold State.refile
  split
  · exact .refl blk s
  · dsimp only
    split
    · exact keepsContext_of_eq rfl rfl
    · refine KeepsContext.trans (keepsContext_modBlock s blk ?_) (keepsContext_modThread _ blk x.1 ?_)
      · exact fun b => ⟨rfl, rfl, rfl, rfl⟩
      · exact fun t => rfl

/-! ### A block goes back onto a core (R81) -/

/-- A block as it stands on a core after its restore. -/
structure Block.Restored (core : Nat) (b x : Block) : Prop where
  place : x.place = .onCore core
  mem : x.mem = b.mem
  full : x.full = b.full
  threads : x.threads.map Thread.context = b.threads.map Thread.context

/-- A step puts one block back onto a core, and changes no other. -/
structure PutsBack (blk core : Nat) (s s' : State) : Prop where
  grids : s'.grids = s.grids
  others : ∀ k ≠ blk, s'.blocks[k]? = s.blocks[k]?
  own : ∀ y, s.blocks[blk]? = some y → ∃ z, s'.blocks[blk]? = some z ∧ y.Restored core z

/-- A block is put back by its placing on the core, between steps that keep its context. -/
theorem putsBack_of_placing {s a z : State} {blk core : Nat} {f : Block → Block} (h : KeepsContext blk s a)
    (hf : ∀ x : Block, x.Restored core (f x)) (k : KeepsContext blk (a.modBlock blk f) z) : PutsBack blk core s z where
  grids := k.grids.trans h.grids
  others := fun n hn => ((k.others n hn).trans (modBlock_other a f hn)).trans (h.others n hn)
  own := fun y hy => by
    obtain ⟨x, hx, hyx⟩ := h.own y hy
    obtain ⟨w, hw, hxw⟩ := k.own (f x) (by rw [modBlock_get, hx, Option.map_some])
    have hfx := hf x
    exact ⟨w, hw, hxw.place.trans hfx.place, hxw.mem.trans (hfx.mem.trans hyx.mem), hxw.full.trans (hfx.full.trans hyx.full),
      hxw.threads.trans (hfx.threads.trans hyx.threads)⟩

theorem putBack_putsBack {s : State} {blk : Nat} {b : Block} (hb : s.blocks[blk]? = some b) (hg : (s.grids[b.grid]?).isSome = true)
    (core : Nat) (ext : List Extent) : PutsBack blk core s (s.putBack ((blk, core), ext)) := by
  obtain ⟨g, hg⟩ := Option.isSome_iff_exists.mp hg
  have hgrid : s.grid? blk = some g := by simp [State.grid?, hb, hg]
  have hbefore := (keepsContext_dropFrame s blk).trans (keepsContext_moveSpill _ blk core g b)
  unfold State.putBack
  simp only [hb, hgrid]
  refine putsBack_of_placing (f := ?place) hbefore ?restored ?after
  case after =>
    refine KeepsContext.trans ?_ (keepsContext_passJoins _ blk core)
    refine KeepsContext.trans ?_ (keepsContext_foldl (keepsContext_refile core blk) _ _)
    refine KeepsContext.trans ?_ (keepsContext_modCore blk _ core _)
    exact keepsContext_foldl (fun t c => keepsContext_modCore blk t core _) _ _
  case restored => exact fun x => ⟨rfl, rfl, rfl, rfl⟩

theorem PutsBack.grid {s s' : State} {blk core : Nat} (h : PutsBack blk core s s') {k : Nat} {y : Block} (hk : k ≠ blk)
    (hy : s.blocks[k]? = some y ∧ (s.grids[y.grid]?).isSome = true) : s'.blocks[k]? = some y ∧ (s'.grids[y.grid]?).isSome = true := by
  rw [h.grids, h.others k hk]
  exact hy

/-- Distinct blocks are put back one after another, each onto its own core. -/
theorem putBacks_restore (l : List ((Nat × Nat) × List Extent)) (hl : (l.map fun x => x.1.1).Nodup) {s : State}
    (h : ∀ x ∈ l, ∃ y, s.blocks[x.1.1]? = some y ∧ (s.grids[y.grid]?).isSome = true) :
    (∀ k ∉ l.map (fun x => x.1.1), (l.foldl State.putBack s).blocks[k]? = s.blocks[k]?) ∧
      ∀ x ∈ l, ∀ y, s.blocks[x.1.1]? = some y → ∃ z, (l.foldl State.putBack s).blocks[x.1.1]? = some z ∧ y.Restored x.1.2 z := by
  induction l generalizing s with
  | nil => exact ⟨fun _ _ => rfl, fun _ hx => nomatch hx⟩
  | cons a r ih =>
    obtain ⟨ha, hr⟩ := List.nodup_cons.mp hl
    obtain ⟨b, hb, hg⟩ := h a List.mem_cons_self
    have hput : PutsBack a.1.1 a.1.2 s (s.putBack a) := putBack_putsBack hb hg a.1.2 a.2
    have hne : ∀ x ∈ r, x.1.1 ≠ a.1.1 := fun x hx he => ha (List.mem_map.mpr ⟨x, hx, he⟩)
    obtain ⟨hothers, hown⟩ := ih hr fun x hx => by
      obtain ⟨y, hy⟩ := h x (List.mem_cons_of_mem _ hx)
      exact ⟨y, hput.grid (hne x hx) hy⟩
    rw [List.foldl_cons]
    refine ⟨fun k hk => ?_, fun x hx y hy => ?_⟩
    · rw [List.map_cons, List.mem_cons, not_or] at hk
      exact (hothers k hk.2).trans (hput.others k hk.1)
    · rcases List.mem_cons.mp hx with rfl | hx
      · rw [hothers _ ha]
        exact hput.own y hy
      · exact hown x hx y ((hput.others _ (hne x hx)).trans hy)

/-! ### BLOCK_RESTORE (R81, R157, R217) -/

theorem buildTables_length (part : Nat) (rs : List OpRange) (l : List Nat) {s s1 : State} {ext : List (List Extent)}
    (h : State.buildTables part rs l s = .ok (s1, ext)) : ext.length = l.length := by
  induction l generalizing s s1 ext with
  | nil =>
    cases h
    rfl
  | cons c r ih =>
    unfold State.buildTables at h
    split at h
    · cases h
    · split at h
      · cases h
      · next hr =>
        cases h
        simp [ih hr]

/-- A ready block whose turn it is goes back with its group, once the frames are in order and the tables built. -/
theorem execBlockRestore_eq {s s1 : State} {blk : Nat} {b : Block} {g : Grid} {l : List (Nat × Nat)} {ext : List (List Extent)}
    (hb : s.blocks[blk]? = some b) (hg : s.grids[b.grid]? = some g) (hready : b.ready = true) (hexited : (s.part g.part).exited = false)
    (hturn : s.restoreTurn blk b g = true) (hto : s.restoreTo blk g = some l)
    (hframes : ∀ x ∈ l, (l.foldl (fun (z : State) x => z.correctFrame x.1) s).frameLost x.1 = false)
    (htables : State.buildTables g.part g.ranges (l.map (·.2)) (l.foldl (fun (z : State) x => z.correctFrame x.1) s) = .ok (s1, ext)) :
    execBlockRestore blk s = .next ((((l.zip ext).foldl State.putBack s1).leaveRepaired g.part (l.map (·.1))).want (.deal g.part)) := by
  have hgrid : s.grid? blk = some g := by simp [State.grid?, hb, hg]
  have hlost : (l.filter fun x => (l.foldl (fun (z : State) x => z.correctFrame x.1) s).frameLost x.1) = [] :=
    List.filter_eq_nil_iff.mpr fun x hx => by simp [hframes x hx]
  simp [execBlockRestore, hb, hgrid, hready, hexited, hturn, hto, hlost, htables]

/-- What follows the putting back leaves every block. -/
theorem restored_blocks (s : State) (part : Nat) (l : List Nat) : ((s.leaveRepaired part l).want (.deal part)).blocks = s.blocks := by
  rw [want_blocks]
  rfl

/-- The blocks of a list with as many tables go back onto their cores. -/
theorem putBacks_zip {s : State} {l : List (Nat × Nat)} {ext : List (List Extent)} (hlen : ext.length = l.length)
    (hl : (l.map (·.1)).Nodup) (h : ∀ x ∈ l, ∃ y, s.blocks[x.1]? = some y ∧ (s.grids[y.grid]?).isSome = true) {x : Nat × Nat}
    (hx : x ∈ l) {y : Block} (hy : s.blocks[x.1]? = some y) :
    ∃ z, ((l.zip ext).foldl State.putBack s).blocks[x.1]? = some z ∧ y.Restored x.2 z := by
  have hfst : (l.zip ext).map Prod.fst = l := List.map_fst_zip (by omega)
  obtain ⟨-, hown⟩ := putBacks_restore (l.zip ext) (by rwa [← hfst, List.map_map] at hl) fun p hp =>
    h p.1 (hfst ▸ List.mem_map_of_mem (f := Prod.fst) hp)
  obtain ⟨p, hp, rfl⟩ := List.mem_map.mp (hfst.symm ▸ hx)
  exact hown p hp y hy

/-! ### The obligation -/

/-- Settles O45: each event by its own lemma above. -/
theorem blockEvents : Obligations.BlockEvents := by
  unfold Obligations.BlockEvents
  refine ⟨?deal, fun s blk core b g hb hg hplace => ⟨?ends, ?save⟩, ?restore, ?preempt⟩
  case deal =>
    intro s s1 part gi g p ext hexited hdeal hg hunits htables hblocks hgrids
    obtain ⟨s', hexec, hb, hgr⟩ := execDeal_one hexited hdeal hg hunits htables
    obtain ⟨hlen, hbefore, hlead, hnext⟩ := dealtUnit_starts (s := s1) (hgrids ▸ hg) p ext
    rw [← hb, hblocks] at hlen hbefore hlead
    exact ⟨s', hexec, hlen, hbefore, hlead, hgr ▸ hnext⟩
  case ends =>
    intro hdone hheld hidle
    obtain ⟨s', x, hexec, hx, hcvs, haccs, hgrid⟩ := execBlockEnd_ends hb hg hplace hdone hheld hidle
    refine ⟨s', _, hexec, hx, rfl, rfl, rfl, ?_, hcvs, haccs, fun hp => by rw [hgrid hp, Option.map_some]⟩
    intro y hy
    obtain ⟨u, -, rfl⟩ := List.mem_map.mp hy
    rfl
  case save =>
    intro why hwhy hcause hpartner hcmds hstrands hatomics hframes
    obtain ⟨s', i, c, hexec, hmem, hx, hfreed⟩ :=
      execBlockSave_ready ⟨hb, hpartner, hcmds, hstrands, hatomics⟩ hplace hwhy hcause hframes
    refine ⟨s', _, hexec, hmem, hx, rfl, rfl, rfl, rfl, rfl, ?_⟩
    split_ifs with hroom
    · exact savedBlock_homeCore core why b hroom.1
    · exact hfreed (Bool.eq_false_iff.mpr (mt (keepsRoom_iff s blk b).mp hroom))
  case restore =>
    intro s s1 blk b g l ext hb hg hready hexited hturn hto hnodup s0 hall htables hblocks hgrids
    refine ⟨_, execBlockRestore_eq hb hg hready hexited hturn hto (fun x hx => (hall x hx).1) htables, fun x hx y hy => ?_⟩
    have hstand : ∀ x ∈ l, ∃ y, s1.blocks[x.1]? = some y ∧ (s1.grids[y.grid]?).isSome = true := fun x hx => by
      obtain ⟨-, y, hy, -, hgy⟩ := hall x hx
      exact ⟨y, by rw [hblocks, hy], by rw [hgrids, hgy]⟩
    have hlen : ext.length = l.length := by rw [buildTables_length _ _ _ htables, List.length_map]
    obtain ⟨z, hz, hplace, hmem, hfull, hthreads⟩ := putBacks_zip hlen hnodup hstand hx (hblocks ▸ hy)
    exact ⟨z, by rw [restored_blocks, hz], hplace, hmem, hfull, hthreads⟩
  case preempt =>
    intro s part c _ halts
    refine ⟨fun hdraw hgrace => ⟨fun hnone => ?_, fun q hq hpart => ?_⟩, fun h => ?_, ?_⟩
    · exact (execPreemptRequest_waits hdraw hgrace).trans (congrArg _ (modCore_takePreempt_first hnone _))
    · exact (execPreemptRequest_waits hdraw hgrace).trans (congrArg _ (modCore_takePreempt_second hq hpart _))
    · exact ⟨_, execPreemptRequest_halts h, haltCore_halts _ c part⟩
    · rintro p hp rfl
      exact ⟨fun h => ⟨_, execDrawGraceExpiry_halts hp h, haltCore_halts s c p.part⟩, fun hdraw h => execDrawGraceExpiry_waits hp hdraw h⟩

end Sys2Proof.Machine
end

section
namespace Sys2Proof.Machine

/-! ### What a fill leaves of the engines (R59, R111)

A fill can wake loads that wait for its granules, and these correct errors and deliver Poison: no queue, no accumulator, no histogram
slot and no kept status changes. -/

/-- A core without its count of corrected errors and its bobbins. -/
def Core.engines (c : Core) : Core := { c with corrected := 0, bobbins := [] }

/-- The cores' engines, and the status that each block keeps for its next MWAIT (R330). -/
def State.engineView (s : State) : List Core × List Nat := (s.cores.map Core.engines, s.blocks.map (·.mwaitStatus))

theorem engineView_of_eq {s s' : State} (hc : s'.cores = s.cores) (hb : s'.blocks = s.blocks) : s'.engineView = s.engineView := by
  rw [State.engineView, State.engineView, hc, hb]

theorem foldl_engineView {α : Type} {f : State → α → State} (h : ∀ s a, (f s a).engineView = s.engineView) (l : List α) (s : State) :
    (l.foldl f s).engineView = s.engineView :=
  foldl_keeps (P := fun x => x.engineView = s.engineView) (fun a x hs => (h a x).trans hs) l rfl

theorem cores_length_of_engineView {s s' : State} (h : s'.engineView = s.engineView) : s'.cores.length = s.cores.length := by
  simpa [State.engineView] using congrArg (fun x : List Core × List Nat => x.1.length) h

theorem core_of_engineView {s s' : State} (h : s'.engineView = s.engineView) (k : Nat) : (s'.core k).engines = (s.core k).engines := by
  have hk := congrArg (fun x : List Core × List Nat => (x.1[k]?).getD Core.reset.engines) h
  simpa only [State.engineView, State.core, List.getElem?_map, Option.getD_map] using hk

theorem queues_of_engineView {s s' : State} (h : s'.engineView = s.engineView) (k : Nat) : (s'.core k).queues = (s.core k).queues := by
  have hk := congrArg Core.queues (core_of_engineView h k)
  exact hk

theorem accs_of_engineView {s s' : State} (h : s'.engineView = s.engineView) (k : Nat) : (s'.core k).accs = (s.core k).accs := by
  have hk := congrArg Core.accs (core_of_engineView h k)
  exact hk

theorem mwaitStatus_of_engineView {s s' : State} (h : s'.engineView = s.engineView) (k : Nat) :
    (s'.blocks[k]?).map (·.mwaitStatus) = (s.blocks[k]?).map (·.mwaitStatus) := by
  simpa [State.engineView] using congrArg (fun x : List Core × List Nat => x.2[k]?) h

theorem modBlock_engineView (s : State) (b : Nat) {f : Block → Block} (hf : ∀ x, (f x).mwaitStatus = x.mwaitStatus) :
    (s.modBlock b f).engineView = s.engineView := by
  refine Prod.ext rfl (List.ext_getElem? fun n => ?_)
  simpa [State.engineView] using modBlock_keeps (·.mwaitStatus) s b hf n

@[simp] theorem modThread_engineView (s : State) (t : TRef) (f : Thread → Thread) : (s.modThread t f).engineView = s.engineView :=
  modBlock_engineView s t.blk fun _ => by rfl

@[simp] theorem modStrand_engineView (s : State) (blk k : Nat) (f : Strand → Strand) : (s.modStrand blk k f).engineView = s.engineView :=
  modStrand_keeps State.engineView (fun s b _ _ => modBlock_engineView s b fun _ => by rfl) s blk k f

@[simp] theorem want_engineView (s : State) (e : Event) : (s.want e).engineView = s.engineView := engineView_of_eq (by simp) (by simp)

@[simp] theorem parkAt_engineView (s : State) (t : TRef) (p : Park) : (s.parkAt t p).engineView = s.engineView := modThread_engineView s t _

@[simp] theorem notify_engineView (s : State) (p duty : Nat) (args : List Nat) (w : Option HostEvent) :
    (s.notify p duty args w).engineView = s.engineView := engineView_of_eq rfl rfl

@[simp] theorem recordPoison_engineView (s : State) (p frame : Nat) : (s.recordPoison p frame).engineView = s.engineView :=
  engineView_of_eq rfl rfl

/-- Blocks changed one by one, by their places, with their kept status. -/
theorem mapZip_engineView (s : State) {f : Block × Nat → Block} (h : ∀ x, (f x).mwaitStatus = x.1.mwaitStatus) :
    State.engineView { s with blocks := s.blocks.zipIdx.map f } = s.engineView := by
  refine Prod.ext rfl ?_
  simp only [State.engineView, List.map_map]
  calc s.blocks.zipIdx.map ((·.mwaitStatus) ∘ f) = s.blocks.zipIdx.map ((·.mwaitStatus) ∘ Prod.fst) :=
        List.map_congr_left fun x _ => h x
    _ = s.blocks.map (·.mwaitStatus) := by rw [← List.map_map, List.zipIdx_map_fst]

@[simp] theorem splitBlock_engineView (s : State) (blk : Nat) : (s.splitBlock blk).engineView = s.engineView := by
  unfold State.splitBlock
  dsimp only
  split
  · rfl
  · exact mapZip_engineView s fun _ => by rfl

@[simp] theorem forgetLanes_engineView (s : State) (blk : Nat) : (s.forgetLanes blk).engineView = s.engineView :=
  mapZip_engineView s fun x => by split <;> rfl

@[simp] theorem unfile_engineView (s : State) (blk : Nat) : (s.unfile blk).engineView = s.engineView := by
  refine Prod.ext ?_ rfl
  simp only [State.engineView, State.unfile, List.map_map]
  exact List.map_congr_left fun _ _ => rfl

@[simp] theorem stopBlock_engineView (s : State) (blk status : Nat) : (s.stopBlock blk status).engineView = s.engineView := by
  have hone : ∀ (s : State) (k : Nat), ((((s.splitBlock k).unfile k).forgetLanes k).modBlock k fun b =>
      { b with status := if b.status = 0 then status else b.status,
               threads := b.threads.map fun t => { t with live := false, park := t.park.bind Park.afterStop, filed := false } }).engineView =
        s.engineView := by
    intro s k
    rw [modBlock_engineView _ k fun _ => by rfl]
    simp
  unfold State.stopBlock
  dsimp only
  split <;> simp only [want_engineView, hone]

@[simp] theorem takeTrap_engineView (s : State) (t : TRef) (cause sub : Nat) (mask : BitVec 64) (first : Nat) (word : Word) :
    (s.takeTrap t cause sub mask first word).engineView = s.engineView := by
  unfold State.takeTrap
  split
  · rfl
  · split <;> simp

@[simp] theorem completeEarlier_engineView (s : State) (l : List LaneTrap) : (s.completeEarlier l).engineView = s.engineView := by
  unfold State.completeEarlier
  exact foldl_engineView (fun t x => modThread_engineView t x.t Thread.settleResults) l s

/-- Poison found by a load that waits parks it for the host, or enters its handler, or ends its block. -/
theorem deliver_poison_engineView (s : State) (t : TRef) (i : Option Instr) :
    (s.deliver [⟨t, 0x24, 0x03, 0⟩] i).engineView = s.engineView := by
  simp only [State.deliver, List.foldl_cons, List.foldl_nil]
  split <;> simp

@[simp] theorem correct_engineView (s : State) (l : Loc) (n : Nat) : (s.correct l n).engineView = s.engineView := by
  refine Prod.ext ?_ ?_
  · have h := congrArg (List.map Core.engines) (sameShape_correct s l n).cores
    rw [List.map_map, List.map_map] at h
    exact h
  · cases l with
    | phys pa => rfl
    | win b off =>
      unfold State.correct
      dsimp only
      split
      · rfl
      · split
        · rfl
        · have h := fun (f : Block → Block) hf => congrArg Prod.snd (modBlock_engineView s b (f := f) hf)
          split
          · exact h _ fun _ => by rfl
          · exact h _ fun _ => by rfl

@[simp] theorem homeWrite_engineView (s : State) (l : Loc) (bytes : List Byte) (fill : Bool) :
    (s.homeWrite l bytes fill).engineView = s.engineView := by
  cases l with
  | win b o => exact modBlock_engineView s b fun _ => by rfl
  | phys p => rfl

@[simp] theorem feDone_engineView (s : State) (t : TRef) (x : FeWait) : (s.feDone t x).engineView = s.engineView := by
  unfold State.feDone
  dsimp only
  rw [modThread_engineView]
  split
  · rw [modBlock_engineView _ _ fun _ => by rfl, correct_engineView]
  · rw [correct_engineView]

@[simp] theorem wakeGranule_engineView (s : State) (x : TRef × FeWait) : (s.wakeGranule x).engineView = s.engineView := by
  unfold State.wakeGranule
  split
  · rfl
  · dsimp only
    split_ifs
    · rfl
    · rw [deliver_poison_engineView]
      exact modThread_engineView s x.1 Thread.unpark
    · simp

@[simp] theorem homeFill_engineView (s : State) (l : Loc) (bytes : List Byte) : (s.homeFill l bytes).engineView = s.engineView := by
  cases l with
  | win b o => exact (foldl_engineView wakeGranule_engineView _ _).trans (homeWrite_engineView s _ bytes true)
  | phys p => rfl

/-- One granule of an output written, whatever loads it wakes (R111). -/
@[simp] theorem writeOne_engineView (s : State) (outs : List (Loc × List Byte)) : (s.writeOne outs).1.engineView = s.engineView := by
  unfold State.writeOne
  dsimp only
  split
  · exact homeFill_engineView ..
  · rfl


/-! ### What the array reads, while single-bit errors are corrected (R68, R321) -/

/-- A machine without its single-bit errors and the counts of those corrected. -/
def State.hard (s : State) : State :=
  { s with softNear := [], sliceErrs := [], cores := s.cores.map Core.uncounted, blocks := s.blocks.map fun b => { b with softMem := [] } }

theorem modBlock_softMem_hard (s : State) (b : Nat) (l : Block → List Nat) :
    (s.modBlock b fun k => { k with softMem := l k }).hard = s.hard := by
  have hb : (s.blocks.modify b fun k => { k with softMem := l k }).map (fun k => { k with softMem := [] }) =
      s.blocks.map fun k => { k with softMem := [] } := by
    apply List.ext_getElem?
    intro n
    simp only [List.getElem?_map, List.getElem?_modify]
    cases s.blocks[n]? with
    | none => rfl
    | some k => by_cases hn : b = n <;> simp [hn]
  simp only [State.hard, State.modBlock, hb]

theorem modCore_corrected_hard (s : State) (c n : Nat) : (s.modCore c fun x => { x with corrected := x.corrected + n }).hard = s.hard := by
  simp only [State.hard, (sameShape_modCore s c (f := fun x => { x with corrected := x.corrected + n }) fun _ => rfl).cores]
  rfl

/-- A correction changes nothing else. -/
@[simp] theorem correct_hard (s : State) (l : Loc) (n : Nat) : (s.correct l n).hard = s.hard := by
  cases l with
  | phys pa => rfl
  | win b off =>
    unfold State.correct
    dsimp only
    split
    · rfl
    · split
      · rfl
      · split
        · rw [modCore_corrected_hard, modBlock_softMem_hard]
        · rw [modBlock_softMem_hard]

/-- What every correction keeps, those of the operands of a command keep. -/
theorem correctTiles_keeps {α : Type} (g : State → α) (h : ∀ s l n, g (State.correct s l n) = g s) (s : State) (blk : Nat) (op : CmdOp) :
    g (s.correctTiles blk op) = g s := by
  refine foldl_keeps (P := fun t => g t = g s) (fun t e ht => ?_) _ rfl
  split
  · exact ht
  · exact (h t _ _).trans ht

@[simp] theorem correctTiles_hard (s : State) (blk : Nat) (op : CmdOp) : (s.correctTiles blk op).hard = s.hard :=
  correctTiles_keeps State.hard correct_hard s blk op

theorem hard_block (s : State) (k : Nat) : s.hard.blocks[k]? = (s.blocks[k]?).map fun b => { b with softMem := [] } :=
  List.getElem?_map ..

theorem hard_core (s : State) (k : Nat) : s.hard.core k = (s.core k).uncounted := by
  simp only [State.core, State.hard, List.getElem?_map]
  cases s.cores[k]? <;> rfl

@[simp] theorem coreOf_hard (s : State) (k : Nat) : s.hard.coreOf k = s.coreOf k := by
  simp only [State.coreOf, hard_block]
  cases s.blocks[k]? <;> rfl

@[simp] theorem window_hard (s : State) (blk win : Nat) : s.hard.window blk win = s.window blk win := by
  have hlen : s.hard.blocks.length = s.blocks.length := List.length_map ..
  simp only [State.window, hard_block, coreOf_hard, hlen]
  cases s.blocks[blk]? with
  | none => rfl
  | some b =>
    dsimp only [Option.map_some]
    cases s.coreOf blk with
    | none => rfl
    | some c =>
      dsimp only
      congr 4
      funext k
      cases s.blocks[k]? with
      | none => rfl
      | some x => cases s.coreOf k <;> rfl

@[simp] theorem aperture_hard (s : State) (blk ea : Nat) : s.hard.aperture blk ea = s.aperture blk ea := by
  simp only [State.aperture, window_hard, hard_block, Option.map_map, Function.comp_def]

@[simp] theorem homeBad_hard (s : State) (l : Loc) (n : Nat) : s.hard.homeBad l n = s.homeBad l n := by
  cases l with
  | phys pa => rfl
  | win b off => simp only [State.homeBad, hard_block, Option.map_map, Function.comp_def]

@[simp] theorem homeRead_hard (s : State) (l : Loc) (n : Nat) : s.hard.homeRead l n = s.homeRead l n := by
  cases l with
  | phys pa => rfl
  | win b off => simp only [State.homeRead, hard_block, Option.map_map, Function.comp_def]

@[simp] theorem queue_hard (s : State) (core q : Nat) : s.hard.queue core q = s.queue core q := by
  rw [State.queue, hard_core]
  rfl

@[simp] theorem head?_hard (s : State) (core q : Nat) : s.hard.head? core q = s.head? core q := by
  rw [State.head?, queue_hard, State.head?]

theorem mixed_hard (s : State) (early : List (Nat × List Byte)) (ea : Nat) (now : List Byte) :
    s.hard.mixed early ea now = s.mixed early ea now := rfl

@[simp] theorem readTile_hard (s : State) (core blk : Nat) (ea : Addr) (n : Nat) : s.hard.readTile core blk ea n = s.readTile core blk ea n := by
  simp only [State.readTile, aperture_hard, homeBad_hard, homeRead_hard, head?_hard, mixed_hard]

theorem bypTile_hard (s : State) (core : Nat) (f : Word) : s.hard.bypTile core f = s.bypTile core f := by
  simp only [State.bypTile, head?_hard, hard_core]
  rfl

theorem mmaA_hard (s : State) (core blk : Nat) (f : Word) (a : Addr) : s.hard.mmaA core blk f a = s.mmaA core blk f a := by
  simp only [State.mmaA, bypTile_hard, readTile_hard]
  rfl

theorem mmaB_hard (s : State) (core blk : Nat) (f : Word) (b : Addr) : s.hard.mmaB core blk f b = s.mmaB core blk f b := by
  simp only [State.mmaB, readTile_hard]

/-- The operands of an MMA are the same before and after the corrections that their reads make. -/
theorem mmaA_correctTiles (s : State) (core blk k : Nat) (op : CmdOp) (f : Word) (a : Addr) :
    (s.correctTiles k op).mmaA core blk f a = s.mmaA core blk f a := by
  rw [← mmaA_hard, correctTiles_hard, mmaA_hard]

theorem mmaB_correctTiles (s : State) (core blk k : Nat) (op : CmdOp) (f : Word) (b : Addr) :
    (s.correctTiles k op).mmaB core blk f b = s.mmaB core blk f b := by
  rw [← mmaB_hard, correctTiles_hard, mmaB_hard]

@[simp] theorem correctTiles_engineView (s : State) (blk : Nat) (op : CmdOp) : (s.correctTiles blk op).engineView = s.engineView :=
  correctTiles_keeps State.engineView correct_engineView s blk op

end Sys2Proof.Machine
end

section
namespace Sys2Proof.Machine

/-! ### The head of a matrix queue ends (R330) -/

/-- No join entry stands in a queue of a core. -/
def State.noJoins (s : State) (core : Nat) : Prop := ∀ e ∈ (s.core core).queues.flatMap EQueue.all, ∀ n, e.op ≠ .join n

/-- Without join entries there is none to pass (R101). -/
theorem passJoins_none {s : State} {core : Nat} (h : s.noJoins core) : s.passJoins core = s := by
  unfold State.passJoins
  rw [List.flatMap_eq_nil_iff.mpr]
  · rfl
  · intro q hq
    cases hall : q.all with
    | nil => rfl
    | cons c r =>
      dsimp only
      split
      · next id hid => exact absurd hid (h c (List.mem_flatMap.mpr ⟨q, hq, by simp [hall]⟩) id)
      · rfl

theorem EQueue.pop_all (q : EQueue) : q.pop.all = q.all.tail := by
  obtain ⟨_ | ⟨c, r⟩, l⟩ := q <;> simp [EQueue.pop, EQueue.all]

/-- A head removed leaves no join entry where there was none. -/
theorem noJoins_pop {s : State} {core : Nat} (hc : core < s.cores.length) (h : s.noJoins core) (q : Nat) :
    (s.modQueue core q EQueue.pop).noJoins core := by
  intro e he
  rw [State.modQueue, modCore_core_same hc, List.mem_flatMap] at he
  obtain ⟨x, hx, hex⟩ := he
  obtain ⟨n, hn⟩ := List.mem_iff_getElem?.mp hx
  rw [List.getElem?_modify, Option.map_eq_map, Option.map_eq_some_iff] at hn
  obtain ⟨y, hy, rfl⟩ := hn
  refine h e (List.mem_flatMap.mpr ⟨y, List.mem_of_getElem? hy, ?_⟩)
  split at hex
  · rw [EQueue.pop_all] at hex
    exact List.mem_of_mem_tail hex
  · exact hex

theorem modQueue_congr {s : State} {core q : Nat} {f g : EQueue → EQueue} (h : f (s.queue core q) = g (s.queue core q)) :
    s.modQueue core q f = s.modQueue core q g := by
  refine modCore_congr ?_
  have hl : (s.core core).queues.modify q f = (s.core core).queues.modify q g := by
    apply List.ext_getElem?
    intro n
    simp only [List.getElem?_modify]
    cases hx : (s.core core).queues[n]? with
    | none => rfl
    | some x =>
      by_cases hn : q = n
      · subst hn
        have hq : s.queue core q = x := by simp [State.queue, hx]
        simp [← hq, h]
      · simp [hn]
  rw [hl]

/-- A started command stands at the head of the matrix queue of a core on which nothing waits to join; its block keeps the status m for its next
MWAIT. -/
structure MatrixHead (s : State) (core : Nat) (c : Cmd) (r : List Cmd) (m : Nat) : Prop where
  core_lt : core < s.cores.length
  queue : s.queue core 7 = ⟨c :: r, []⟩
  noJoins : s.noJoins core
  kept : (s.blocks[c.blk]?).map (·.mwaitStatus) = some m
  started : c.started = true

section
variable {s s' : State} {core : Nat} {c : Cmd} {r : List Cmd} {m : Nat}

theorem MatrixHead.head? (h : MatrixHead s core c r m) : s.head? core qMatrix = some c := by
  rw [State.head?, qMatrix, h.queue]
  rfl

/-- The head stands in any later state with the same queues on the core and the same status kept. -/
theorem MatrixHead.congr (h : MatrixHead s core c r m) (hlen : core < s'.cores.length)
    (hq : (s'.core core).queues = (s.core core).queues)
    (hb : (s'.blocks[c.blk]?).map (·.mwaitStatus) = (s.blocks[c.blk]?).map (·.mwaitStatus)) : MatrixHead s' core c r m where
  core_lt := hlen
  queue := by rw [State.queue, hq]; exact h.queue
  noJoins := by rw [State.noJoins, hq]; exact h.noJoins
  kept := hb.trans h.kept
  started := h.started

theorem MatrixHead.of_engineView (h : MatrixHead s core c r m) (hv : s'.engineView = s.engineView) : MatrixHead s' core c r m :=
  h.congr (cores_length_of_engineView hv ▸ h.core_lt) (queues_of_engineView hv core) (mwaitStatus_of_engineView hv c.blk)

/-- A change of the core that keeps its queues keeps the head. -/
theorem MatrixHead.modCore (h : MatrixHead s core c r m) {f : Core → Core} (hf : ∀ x, (f x).queues = x.queues) :
    MatrixHead (s.modCore core f) core c r m :=
  h.congr (by simpa [State.modCore] using h.core_lt) (by rw [modCore_core_same h.core_lt, hf]) rfl

/-- A change of the head's block changes the status kept as it says, and nothing else of the head. -/
theorem MatrixHead.modBlock (h : MatrixHead s core c r m) {f : Block → Block} {g : Nat → Nat}
    (hf : ∀ b, (f b).mwaitStatus = g b.mwaitStatus) : MatrixHead (s.modBlock c.blk f) core c r (g m) := by
  refine ⟨h.core_lt, h.queue, h.noJoins, ?_, h.started⟩
  obtain ⟨b, hb, rfl⟩ := Option.map_eq_some_iff.mp h.kept
  rw [modBlock_get, hb]
  exact congrArg some (hf b)

theorem MatrixHead.queue? (h : MatrixHead s core c r m) : (s.core core).queues[7]? = some ⟨c :: r, []⟩ := by
  have hq := h.queue
  rw [State.queue] at hq
  cases hx : (s.core core).queues[7]? with
  | none => rw [hx] at hq; cases hq
  | some x => rw [hx] at hq; exact congrArg some hq

/-- The head removed, and nothing else of the core or of the blocks changed. -/
theorem popQueue_ended (h : MatrixHead s core c r m) :
    ((s.popQueue core qMatrix).queue core 7).q = r ∧
    (s.popQueue core qMatrix).core core = { s.core core with queues := (s.core core).queues.modify 7 EQueue.pop } ∧
    (s.popQueue core qMatrix).blocks = s.blocks := by
  have hpop : s.popQueue core qMatrix = s.modQueue core 7 EQueue.pop := passJoins_none (noJoins_pop h.core_lt h.noJoins qMatrix)
  have hnew : (s.modQueue core 7 EQueue.pop).core core = { s.core core with queues := (s.core core).queues.modify 7 EQueue.pop } :=
    modCore_core_same h.core_lt _
  rw [hpop]
  refine ⟨?_, hnew, rfl⟩
  rw [State.queue, hnew, List.getElem?_modify_eq, h.queue?]
  rfl

/-- A failure is the status kept if none is (R330). -/
theorem matrixDone_ended (h : MatrixHead s core c r m) (st : Nat) :
    ((s.matrixDone core c.blk st).queue core 7).q = r ∧
    (s.matrixDone core c.blk st).core core = { s.core core with queues := (s.core core).queues.modify 7 EQueue.pop } ∧
    ((s.matrixDone core c.blk st).blocks[c.blk]?).map (·.mwaitStatus) = some (if m = 0 then st else m) := by
  have h' := h.modBlock (f := fun b => { b with mwaitStatus := if b.mwaitStatus = 0 then st else b.mwaitStatus })
    (g := fun n => if n = 0 then st else n) fun _ => rfl
  obtain ⟨hq, hc, hb⟩ := popQueue_ended h'
  exact ⟨hq, hc, (congrArg (fun l : List Block => (l[c.blk]?).map (·.mwaitStatus)) hb).trans h'.kept⟩

/-! ### What the events of the matrix queue do with its head (R323 to R331) -/

/-- An outcome in which the head has ended with a status, with these accumulators on the core, the queue behind it as it was, and the status kept
for the block's next MWAIT if none was (R330). -/
def MatrixEnds (core : Nat) (c : Cmd) (r : List Cmd) (m : Nat) (o : Host.Outcome State Fault Refusal) (st : Nat) (accs : List Acc) : Prop :=
  ∃ s', o = .next s' ∧ (s'.queue core 7).q = r ∧ (s'.core core).accs = accs ∧
    (s'.blocks[c.blk]?).map (·.mwaitStatus) = some (if m = 0 then st else m)

theorem matrixDone_ends (h : MatrixHead s core c r m) (st : Nat) :
    MatrixEnds core c r m (.next (s.matrixDone core c.blk st)) st (s.core core).accs := by
  obtain ⟨hq, hc, hb⟩ := matrixDone_ended h st
  exact ⟨_, rfl, hq, by rw [hc], hb⟩

/-- The accumulators of a core with the words of one replaced. -/
def State.accsWith (s : State) (core i : Nat) (v : List Word) : List Acc :=
  (s.core core).accs.modify i fun a => { a with vals := v }

theorem setAcc_accs (h : MatrixHead s core c r m) (i : Nat) (v : List Word) : ((s.setAcc core i v).core core).accs = s.accsWith core i v := by
  rw [State.setAcc, modCore_core_same h.core_lt]
  rfl

theorem MatrixHead.setAcc (h : MatrixHead s core c r m) (i : Nat) (v : List Word) : MatrixHead (s.setAcc core i v) core c r m :=
  h.modCore fun _ => rfl

theorem MatrixHead.setSlot (h : MatrixHead s core c r m) (k : Nat) (v : List Word) : MatrixHead (s.setSlot core k v) core c r m :=
  h.modCore fun _ => rfl

/-- The head ends once an accumulator is replaced, whatever errors its reads have corrected and whatever free choices they have used. -/
theorem setAcc_ends (h : MatrixHead s core c r m) (hv : s'.engineView = s.engineView) (i : Nat) (v : List Word) :
    MatrixEnds core c r m (.next ((s'.setAcc core i v).matrixDone core c.blk 0)) 0 (s.accsWith core i v) := by
  have h' := h.of_engineView hv
  have haccs : ((s'.setAcc core i v).core core).accs = s.accsWith core i v := by
    rw [setAcc_accs h', State.accsWith, accs_of_engineView hv, State.accsWith]
  rw [← haccs]
  exact matrixDone_ends (h'.setAcc i v) 0

@[simp] theorem mixedHead_engineView (s : State) (core : Nat) : (s.mixedHead core).engineView = s.engineView := by
  unfold State.mixedHead
  split <;> rfl

/-! #### MMA -/

theorem mcWaits_of_mc {f : Word} {a b : Addr} {i : Nat} (ho : c.op = .mma f a b i) (h : mmaMc f = true → s.mcWaits core c = false) :
    s.mcWaits core c = false := by
  cases hf : mmaMc f with
  | true => exact h hf
  | false => simp [State.mcWaits, ho, hf]

/-- An MMA that waits for no partner, and whose partners are none, is performed alone (R325). -/
theorem execMmaArray_alone (h : MatrixHead s core c r m) {f : Word} {a b : Addr} {i : Nat} (ho : c.op = .mma f a b i)
    (hmc : mmaMc f = true → s.mcWaits core c = false ∧ s.mcPartners core c = []) : execMmaArray core s = .next (s.mmaPerform core) := by
  have hw : s.mcWaits core c = false := mcWaits_of_mc ho fun hf => (hmc hf).1
  have hp : (if mmaMc f then s.mcPartners core c else []) = [] := by
    split
    · next hf => exact (hmc hf).2
    · rfl
  simp [execMmaArray, h.head?, ho, h.started, hw, hp]

theorem accVals_correctTiles (s : State) (core blk i : Nat) (op : CmdOp) : (s.correctTiles blk op).accVals core i = s.accVals core i := by
  simp only [State.accVals, accs_of_engineView (correctTiles_engineView s blk op) core]

/-- An MMA that has read both tiles replaces its accumulator; what its reads correct and choose leaves the engines as they are. -/
theorem mmaPerform_ok (h : MatrixHead s core c r m) {f : Word} {a b : Addr} {i : Nat} (ho : c.op = .mma f a b i) {fa fb sc : Array Val}
    (ha : s.mmaA core c.blk f a = .ok fa) (hb : s.mmaB core c.blk f b = .ok (fb, sc)) :
    ∃ u : State, u.engineView = s.engineView ∧ s.mmaPerform core = (u.setAcc core i ((List.range 16384).map fun n =>
      MmaIn.elem ⟨fa, fb, sc⟩ f ((s.accVals core i).getD n 0) (n / 128) (n % 128))).matrixDone core c.blk 0 := by
  obtain ⟨op, blk, started, done, left, fin, since, work⟩ := c
  obtain rfl : op = .mma f a b i := ho
  unfold State.mmaPerform
  rw [h.head?]
  dsimp only at ha hb ⊢
  rw [mmaA_correctTiles, mmaB_correctTiles, accVals_correctTiles, ha, hb]
  refine ⟨_, ?_, rfl⟩
  rw [mixedHead_engineView]
  split
  · exact correctTiles_engineView s blk _
  · exact correctTiles_engineView s blk _

/-- An MMA one of whose tiles cannot be read ends with the status of the read. -/
theorem mmaPerform_error (h : MatrixHead s core c r m) {f : Word} {a b : Addr} {i : Nat} (ho : c.op = .mma f a b i) {e : Nat}
    (he : s.mmaA core c.blk f a = .error e ∨ ∃ fa, s.mmaA core c.blk f a = .ok fa ∧ s.mmaB core c.blk f b = .error e) :
    s.mmaPerform core = (s.correctTiles c.blk c.op).matrixDone core c.blk e := by
  obtain ⟨op, blk, started, done, left, fin, since, work⟩ := c
  obtain rfl : op = .mma f a b i := ho
  unfold State.mmaPerform
  rw [h.head?]
  dsimp only at he ⊢
  rw [mmaA_correctTiles, mmaB_correctTiles]
  rcases he with ha | ⟨fa, ha, hb⟩
  · rw [ha]
  · rw [ha, hb]

theorem mmaArray_ok (h : MatrixHead s core c r m) {f : Word} {a b : Addr} {i : Nat} (ho : c.op = .mma f a b i)
    (hmc : mmaMc f = true → s.mcWaits core c = false ∧ s.mcPartners core c = []) {fa fb sc : Array Val}
    (ha : s.mmaA core c.blk f a = .ok fa) (hb : s.mmaB core c.blk f b = .ok (fb, sc)) :
    MatrixEnds core c r m (exec (.mmaArray core) s) 0 (s.accsWith core i ((List.range 16384).map fun n =>
      MmaIn.elem ⟨fa, fb, sc⟩ f ((s.accVals core i).getD n 0) (n / 128) (n % 128))) := by
  obtain ⟨u, hu, he⟩ := mmaPerform_ok h ho ha hb
  rw [show exec (.mmaArray core) s = execMmaArray core s from rfl, execMmaArray_alone h ho hmc, he]
  exact setAcc_ends h hu i _

theorem mmaArray_error (h : MatrixHead s core c r m) {f : Word} {a b : Addr} {i : Nat} (ho : c.op = .mma f a b i)
    (hmc : mmaMc f = true → s.mcWaits core c = false ∧ s.mcPartners core c = []) {e : Nat}
    (he : s.mmaA core c.blk f a = .error e ∨ ∃ fa, s.mmaA core c.blk f a = .ok fa ∧ s.mmaB core c.blk f b = .error e) :
    MatrixEnds core c r m (exec (.mmaArray core) s) e (s.core core).accs := by
  have hv := correctTiles_engineView s c.blk c.op
  rw [show exec (.mmaArray core) s = execMmaArray core s from rfl, execMmaArray_alone h ho hmc, mmaPerform_error h ho he,
    ← accs_of_engineView hv core]
  exact matrixDone_ends (h.of_engineView hv) e

theorem mcWaits_mma (h : s.mcWaits core c = true) : ∃ f a b i, c.op = .mma f a b i := by
  unfold State.mcWaits at h
  split at h
  · next f a b i ho => exact ⟨f, a, b, i, ho⟩
  · cases h

/-- While an MMA waits for partners it is not performed (R325). -/
theorem mmaArray_waits (h : MatrixHead s core c r m) (hw : s.mcWaits core c = true) : exec (.mmaArray core) s = .next s := by
  obtain ⟨f, a, b, i, ho⟩ := mcWaits_mma hw
  show execMmaArray core s = .next s
  simp [execMmaArray, h.head?, ho, hw]

/-- After 128 cycles an MMA waits for partners no longer (R325). -/
theorem mcJoinTimeout_waits (h : MatrixHead s core c r m) (hw : s.mcWaits core c = true) :
    exec (.mcJoinTimeout core) s = .next (if c.since + 128 ≤ (s.core core).cycles then
      s.modQueue core 7 fun x => ⟨{ c with left := [0] } :: r, x.spill⟩ else s) := by
  have hmod : s.modHead core qMatrix (fun c => { c with left := [0] }) = s.modQueue core 7 fun x => ⟨{ c with left := [0] } :: r, x.spill⟩ :=
    modQueue_congr (by rw [qMatrix, h.queue]; rfl)
  show execMcJoinTimeout core s = _
  rw [execMcJoinTimeout, h.head?]
  simp only [h.started, hw, Bool.true_and, decide_eq_true_eq, hmod]
  split <;> rfl

/-! #### MDRAIN and MHIST write their outputs -/

theorem matrixWrite_ends (h : MatrixHead s core c r m) (w : ChunkWork) (hy : (s.writeOne w.outs).2 = []) :
    MatrixEnds core c r m (.next (s.matrixWrite core c.blk w)) w.status (s.core core).accs := by
  have hv := writeOne_engineView s w.outs
  rw [State.matrixWrite, hy, ← accs_of_engineView hv core]
  exact matrixDone_ends (h.of_engineView hv) w.status

theorem matrixWrite_goesOn (s : State) (core blk : Nat) {w : ChunkWork} (hy : (s.writeOne w.outs).2 ≠ []) :
    s.matrixWrite core blk w = (s.writeOne w.outs).1.modHead core qMatrix fun z =>
      { z with work := { w with outs := (s.writeOne w.outs).2 } } := by
  simp only [State.matrixWrite, List.isEmpty_iff, if_neg hy]

section
variable {o : Word} {d v w : Addr} {i : Nat}

theorem mdrainArray_busy (h : MatrixHead s core c r m) (ho : c.op = .mdrain o d v w i) (hb : c.work.busy = true) :
    exec (.mdrainArray core) s = .next (s.matrixWrite core c.blk c.work) := by
  obtain ⟨op, blk, started, done, left, fin, since, work⟩ := c
  obtain rfl : op = .mdrain o d v w i := ho
  obtain rfl : started = true := h.started
  show execMdrainArray core s = _
  rw [execMdrainArray, h.head?]
  exact if_pos hb

/-- The drain, before its output is written (R328). -/
theorem mdrainArray_drains (h : MatrixHead s core c r m) (ho : c.op = .mdrain o d v w i) (hb : c.work.busy = false) :
    (∀ s1 ws, s.drain core c.blk o d v w i = .ok (s1, ws) → exec (.mdrainArray core) s = .next (s1.matrixReady core ws)) ∧
    ∀ e, s.drain core c.blk o d v w i = .error e → exec (.mdrainArray core) s = .next (s.matrixDone core c.blk e) := by
  obtain ⟨op, blk, started, done, left, fin, since, work⟩ := c
  obtain rfl : op = .mdrain o d v w i := ho
  obtain rfl : started = true := h.started
  have hidle : ¬ work.busy = true := by simpa using hb
  have heq : exec (.mdrainArray core) s = execMdrainArray core s := rfl
  rw [heq, execMdrainArray, h.head?]
  dsimp only
  rw [if_neg hidle]
  exact ⟨fun s1 ws hd => by rw [hd], fun e hd => by rw [hd]⟩

end

/-! #### MZERO and MLOADC -/

theorem mzeroExec_ends (h : MatrixHead s core c r m) {i : Nat} (ho : c.op = .mzero i) :
    MatrixEnds core c r m (exec (.mzeroExec core) s) 0 (s.accsWith core i []) := by
  have he : exec (.mzeroExec core) s = .next ((s.setAcc core i []).matrixDone core c.blk 0) := by
    obtain ⟨op, blk, started, done, left, fin, since, work⟩ := c
    obtain rfl : op = .mzero i := ho
    obtain rfl : started = true := h.started
    show execMzeroExec core s = _
    rw [execMzeroExec, h.head?]
  rw [he]
  exact setAcc_ends h rfl i []

theorem mloadcExec_reads (h : MatrixHead s core c r m) {a : Addr} {i : Nat} (ho : c.op = .mloadc a i) :
    (∀ d, s.readTile core c.blk a 65536 = .ok d → MatrixEnds core c r m (exec (.mloadcExec core) s) 0 (s.accsWith core i (wordsOf d))) ∧
    ∀ e, s.readTile core c.blk a 65536 = .error e → MatrixEnds core c r m (exec (.mloadcExec core) s) e (s.core core).accs := by
  have he : (∀ d, s.readTile core c.blk a 65536 = .ok d → exec (.mloadcExec core) s = .next
        ((((s.mixedHead core).correctTiles c.blk (.mloadc a i)).setAcc core i (wordsOf d)).matrixDone core c.blk 0)) ∧
      ∀ e, s.readTile core c.blk a 65536 = .error e → exec (.mloadcExec core) s = .next (s.matrixDone core c.blk e) := by
    obtain ⟨op, blk, started, done, left, fin, since, work⟩ := c
    obtain rfl : op = .mloadc a i := ho
    obtain rfl : started = true := h.started
    have heq : exec (.mloadcExec core) s = execMloadcExec core s := rfl
    rw [heq, execMloadcExec, h.head?]
    dsimp only
    exact ⟨fun d hd => by rw [hd], fun e hd => by rw [hd]⟩
  refine ⟨fun d hd => ?_, fun e hd => ?_⟩
  · rw [he.1 d hd]
    exact setAcc_ends h ((correctTiles_engineView ..).trans (mixedHead_engineView ..)) i _
  · rw [he.2 e hd]
    exact matrixDone_ends h e

/-! #### MHIST and MHCLR (R331) -/

section
variable {k : Nat} {x : Hist}

theorem holdSlot_taken (hx : (s.core core).hist[k]? = some x) {blk : Nat} (ht : ∃ o, x.holder = some o ∧ o ≠ blk) :
    s.holdSlot core k blk = none := by
  obtain ⟨o, ho, hne⟩ := ht
  simp [State.holdSlot, hx, ho, hne]

/-- A slot that no other block holds is the block's own from now on. -/
theorem holdSlot_own (hc : core < s.cores.length) (hx : (s.core core).hist[k]? = some x) {blk : Nat}
    (hf : x.holder = none ∨ x.holder = some blk) :
    ∃ f : Core → Core, s.holdSlot core k blk = some (s.modCore core f, x.vals) ∧ (∀ y, (f y).queues = y.queues) ∧
      (∀ y, (f y).accs = y.accs) ∧ ((s.modCore core f).core core).hist[k]? = some { x with holder := some blk } := by
  rcases hf with hf | hf
  · refine ⟨fun c => { c with hist := c.hist.modify k fun h => { h with holder := some blk } }, ?_, fun _ => rfl, fun _ => rfl, ?_⟩
    · simp [State.holdSlot, hx, hf]
    · rw [modCore_core_same hc]
      simp [hx]
  · refine ⟨id, ?_, fun _ => rfl, fun _ => rfl, ?_⟩
    · simp [State.holdSlot, hx, hf, modCore_self (f := id) rfl]
    · rw [modCore_core_same hc, ← hf]
      exact hx

theorem mhistExec_busy (h : MatrixHead s core c r m) {d : Addr} (ho : c.op = .mhist k d) (hb : c.work.busy = true) :
    exec (.mhistExec core) s = .next (s.matrixWrite core c.blk c.work) := by
  obtain ⟨op, blk, started, done, left, fin, since, work⟩ := c
  obtain rfl : op = .mhist k d := ho
  obtain rfl : started = true := h.started
  show execMhistExec core s = _
  rw [execMhistExec, h.head?]
  exact if_pos hb

theorem mhistExec_reads (h : MatrixHead s core c r m) {d : Addr} (ho : c.op = .mhist k d) (hb : c.work.busy = false) :
    (s.holdSlot core k c.blk = none → exec (.mhistExec core) s = .next (s.matrixDone core c.blk 7)) ∧
    ∀ s1 v ws, s.holdSlot core k c.blk = some (s1, v) → s1.tileWrites c.blk d (v.flatMap wordBytes) = some ws →
      exec (.mhistExec core) s = .next (s1.matrixReady core ws) := by
  obtain ⟨op, blk, started, done, left, fin, since, work⟩ := c
  obtain rfl : op = .mhist k d := ho
  obtain rfl : started = true := h.started
  have hidle : ¬ work.busy = true := by simpa using hb
  have heq : exec (.mhistExec core) s = execMhistExec core s := rfl
  rw [heq, execMhistExec, h.head?]
  dsimp only
  rw [if_neg hidle]
  exact ⟨fun hn => by rw [hn], fun s1 v ws hs hw => by rw [hs]; dsimp only; rw [hw]⟩

theorem mhclrExec_clears (h : MatrixHead s core c r m) (ho : c.op = .mhclr k) :
    (s.holdSlot core k c.blk = none → exec (.mhclrExec core) s = .next (s.matrixDone core c.blk 7)) ∧
    ∀ s1 v, s.holdSlot core k c.blk = some (s1, v) → exec (.mhclrExec core) s = .next ((s1.setSlot core k []).matrixDone core c.blk 0) := by
  obtain ⟨op, blk, started, done, left, fin, since, work⟩ := c
  obtain rfl : op = .mhclr k := ho
  obtain rfl : started = true := h.started
  have heq : exec (.mhclrExec core) s = execMhclrExec core s := rfl
  rw [heq, execMhclrExec, h.head?]
  dsimp only
  exact ⟨fun hn => by rw [hn], fun s1 v hs => by rw [hs]⟩

theorem mhclrExec_own (h : MatrixHead s core c r m) (ho : c.op = .mhclr k) (hx : (s.core core).hist[k]? = some x)
    (hf : x.holder = none ∨ x.holder = some c.blk) : MatrixEnds core c r m (exec (.mhclrExec core) s) 0 (s.core core).accs ∧
      ∃ s', exec (.mhclrExec core) s = .next s' ∧ (s'.core core).hist[k]? = some ⟨[], some c.blk⟩ := by
  obtain ⟨f, hhold, hq, ha, hh⟩ := holdSlot_own h.core_lt hx hf
  have h1 := h.modCore hq
  have h2 := h1.setSlot k []
  have he := (mhclrExec_clears h ho).2 _ _ hhold
  have hset : ((s.modCore core f).setSlot core k []).core core =
      { (s.modCore core f).core core with hist := ((s.modCore core f).core core).hist.modify k fun h => { h with counts := [] } } :=
    modCore_core_same h1.core_lt _
  constructor
  · have haccs : (((s.modCore core f).setSlot core k []).core core).accs = (s.core core).accs := by
      rw [hset, ← ha (s.core core), modCore_core_same h.core_lt]
    rw [he, ← haccs]
    exact matrixDone_ends h2 0
  · refine ⟨_, he, ?_⟩
    rw [(matrixDone_ended h2 0).2.1]
    refine (congrArg (fun y : Core => y.hist[k]?) hset).trans ?_
    rw [List.getElem?_modify_eq, hh]
    rfl

end

/-! #### MWAIT (R330, R307) -/

theorem spindle?_eq (s : State) (blk id : Nat) :
    s.spindle? blk false id = (s.blocks[blk]?).bind fun b => (b.spindles.find? fun q => q.1 == id).map (·.2) := by
  unfold State.spindle?
  cases s.blocks[blk]? <;> rfl

theorem modSpindle_eq (s : State) (blk id : Nat) (f : Spindle → Spindle) : s.modSpindle blk false id f =
    s.modBlock blk fun b => { b with spindles := b.spindles.map fun q => if q.1 == id then (q.1, f q.2) else q } := by
  unfold State.modSpindle
  split
  · next hb => exact (modBlock_self fun b h => by rw [hb] at h; cases h).symm
  · rfl

/-- A changed spindle of a list is found changed. -/
theorem find?_map_same {l : List (Nat × Spindle)} {id : Nat} (f : Spindle → Spindle) :
    ((l.map fun q => if q.1 == id then (q.1, f q.2) else q).find? fun q => q.1 == id).map (·.2) =
      ((l.find? fun q => q.1 == id).map (·.2)).map f := by
  induction l with
  | nil => rfl
  | cons q r ih =>
    rw [List.map_cons]
    by_cases hq : (q.1 == id) = true
    · rw [if_pos hq, List.find?_cons_of_pos (by exact hq), List.find?_cons_of_pos (by exact hq)]
      rfl
    · rw [if_neg hq, List.find?_cons_of_neg (by exact hq), List.find?_cons_of_neg (by exact hq), ih]

theorem mwaitDeposit_midCycle (ht : (s.core core).turn ≠ []) : exec (.mwaitDeposit core) s = .next (s.want (.mwaitDeposit core)) := by
  have hm : s.midCycle core = true := by simpa [State.midCycle] using ht
  exact if_pos hm

theorem field_eq_extractLsb' (w : Word) (lo n : Nat) : w.field lo n = (w.extractLsb' lo n).toNat := by
  simp [Word.field, Nat.shiftRight_eq_div_pow]

/-- An MWAIT at the head waits for a free slot, or deposits the status kept, clears it, and ends. -/
theorem mwaitDeposit_head (h : MatrixHead s core c r m) {w : Word} (ho : c.op = .mwait w) (ht : (s.core core).turn = []) :
    let d := s.deposit c.blk (w.extractLsb' 0 5).toNat (tokenWord m (w.extractLsb' 16 16).toNat)
    (d = none → exec (.mwaitDeposit core) s = .next s) ∧
    ∀ s1, d = some s1 → exec (.mwaitDeposit core) s =
      .next ((s1.modBlock c.blk fun b => { b with mwaitStatus := 0 }).popQueue core qMatrix) := by
  have hm : ¬ s.midCycle core = true := by simp [State.midCycle, ht]
  obtain ⟨op, blk, started, done, left, fin, since, work⟩ := c
  obtain rfl : op = .mwait w := ho
  obtain rfl : started = true := h.started
  have heq : exec (.mwaitDeposit core) s = execMwaitDeposit core s := rfl
  rw [heq, execMwaitDeposit, if_neg hm, h.head?]
  dsimp only
  rw [h.kept, field_eq_extractLsb', field_eq_extractLsb', Option.getD_some]
  exact ⟨fun hd => by rw [hd], fun s1 hd => by rw [hd]⟩

/-- A block that stands and has the spindle takes the token where a slot is free (R307). -/
theorem deposit_standing {blk id : Nat} {b : Block} {sp : Spindle} (hb : s.blocks[blk]? = some b) (hp : b.place ≠ .ended)
    (hs : s.spindle? blk false id = some sp) (tok : Word) : s.deposit blk id tok = if sp.free = 0 then none
      else some (s.modBlock blk fun b => { b with spindles := b.spindles.map fun q =>
        if q.1 == id then (q.1, { q.2 with free := q.2.free - 1, fifo := q.2.fifo ++ [tok] }) else q }) := by
  unfold State.deposit
  rw [hs, hb]
  dsimp only [Option.map_some]
  split
  · next hn => cases hn
  · next hn => exact absurd (Option.some.inj hn) hp
  · next hx _ =>
    obtain rfl := Option.some.inj hx
    rw [modSpindle_eq]

theorem mwaitDeposit_deposits (h : MatrixHead s core c r m) {w : Word} (ho : c.op = .mwait w) (ht : (s.core core).turn = []) {b : Block}
    (hb : s.blocks[c.blk]? = some b) (hp : b.place ≠ .ended) {sp : Spindle}
    (hs : s.spindle? c.blk false (w.extractLsb' 0 5).toNat = some sp) :
    (sp.free = 0 → exec (.mwaitDeposit core) s = .next s) ∧
    (0 < sp.free → ∃ s', exec (.mwaitDeposit core) s = .next s' ∧ (s'.queue core 7).q = r ∧
      (s'.blocks[c.blk]?).map (·.mwaitStatus) = some 0 ∧
      s'.spindle? c.blk false (w.extractLsb' 0 5).toNat = some { sp with
        free := sp.free - 1, fifo := sp.fifo ++ [BitVec.ofNat 32 ((w.extractLsb' 16 16).toNat * 65536 + m)] }) := by
  obtain ⟨hwait, hgive⟩ := mwaitDeposit_head h ho ht
  have hd := deposit_standing hb hp hs (tokenWord m (w.extractLsb' 16 16).toNat)
  constructor
  · intro hf
    exact hwait (by rw [hd, if_pos hf])
  · intro hf
    have he := hgive _ (by rw [hd, if_neg hf.ne'])
    have h1 := (h.modBlock (f := fun b => { b with spindles := b.spindles.map fun q => if q.1 == (w.extractLsb' 0 5).toNat then
      (q.1, { q.2 with free := q.2.free - 1, fifo := q.2.fifo ++ [tokenWord m (w.extractLsb' 16 16).toNat] }) else q }) (g := id)
        fun _ => rfl).modBlock (f := fun b => { b with mwaitStatus := 0 }) (g := fun _ => 0) fun _ => rfl
    obtain ⟨hq, -, hblocks⟩ := popQueue_ended h1
    refine ⟨_, he, hq, (congrArg (fun l : List Block => (l[c.blk]?).map (·.mwaitStatus)) hblocks).trans h1.kept, ?_⟩
    rw [spindle?_eq, hb] at hs
    rw [spindle?_eq, hblocks, modBlock_get, modBlock_get, hb]
    refine (find?_map_same fun y => { y with free := y.free - 1, fifo := y.fifo ++ [tokenWord m (w.extractLsb' 16 16).toNat] }).trans ?_
    exact congrArg (Option.map _) hs

end

/-! #### The release of a convergence register (R319) -/

section
variable {s : State} {core : Nat} {t : TRef} {th : Thread} {i n : Nat} {cv : CvReg}

theorem signedBy_iff (cv : CvReg) (t : TRef) : cv.signedBy t = true ↔ ∃ x ∈ cv.rounds, t ∈ x.signed := by
  simp [CvReg.signedBy]

theorem execMsignReleaseComplete_parked (hth : s.thread? t = some th) (hc : s.coreOf t.blk = some core) (hp : th.park = some (.unbind i))
    (hcv : (s.core core).cvs[i]? = some cv) : exec (.msignReleaseComplete t.blk t.tid) s =
      if cv.signedBy t then .next s else .next ((s.unbind core t th).modThread t fun th => th.unpark.advance) := by
  have hreg : s.cvReg core i = cv := by rw [State.cvReg, hcv, Option.getD_some]
  show execMsignReleaseComplete t.blk t.tid s = _
  rw [execMsignReleaseComplete, hth, hc]
  dsimp only
  rw [hp]
  dsimp only
  rw [hreg]

/-- A release waits while an open round holds a signature of its thread. -/
theorem msignReleaseComplete_waits (hth : s.thread? t = some th) (hc : s.coreOf t.blk = some core) (hp : th.park = some (.unbind i))
    (hcv : (s.core core).cvs[i]? = some cv) (hx : ∃ x ∈ cv.rounds, t ∈ x.signed) :
    exec (.msignReleaseComplete t.blk t.tid) s = .next s := by
  rw [execMsignReleaseComplete_parked hth hc hp hcv, if_pos ((signedBy_iff cv t).mpr hx)]

theorem msignReleaseComplete_ends (hth : s.thread? t = some th) (hc : s.coreOf t.blk = some core) (hp : th.park = some (.unbind i))
    (hb : th.cv = some (i, n)) (hcv : (s.core core).cvs[i]? = some cv) (hx : ∀ x ∈ cv.rounds, t ∉ x.signed) :
    ∃ s', exec (.msignReleaseComplete t.blk t.tid) s = .next s' ∧ s'.mem = s.mem ∧
      s'.thread? t = some { th with cv := none, park := none, hang := 0, pc := th.pc + 4 } := by
  have hsig : ¬ cv.signedBy t = true := fun h => by
    obtain ⟨x, hmem, ht⟩ := (signedBy_iff cv t).mp h
    exact hx x hmem ht
  refine ⟨_, (execMsignReleaseComplete_parked hth hc hp hcv).trans (if_neg hsig), by simp, ?_⟩
  rw [modThread_get, State.unbind, hb]
  dsimp only
  rw [modThread_get, modCore_thread, hth]
  rfl

end

/-- Settles O50: each event ends, or leaves, the head of the queue as its lemma above says. -/
theorem matrixEvents : Obligations.MatrixEvents := by
  unfold Obligations.MatrixEvents
  intro s core c r b hcore hq hj hb hst kept ends accs set
  have h : MatrixHead s core c r b.mwaitStatus := ⟨hcore, hq, hj, by rw [hb]; rfl, hst⟩
  refine ⟨fun f a x i ho hmc => ?_, fun i hi hbusy => ?_, fun o d v w i ho hidle => ?_, fun i ho => mzeroExec_ends h ho,
    fun a i ho => mloadcExec_reads h ho, fun k d x ho hx hidle => ?_, fun k x ho hx => ?_, mwaitDeposit_midCycle,
    fun w sp ho ht hp hs => mwaitDeposit_deposits h ho ht hb hp hs, fun hw => ⟨mmaArray_waits h hw, mcJoinTimeout_waits h hw⟩,
    fun t th i n cv hth hc hp hb hcv =>
      ⟨msignReleaseComplete_waits hth hc hp hcv, msignReleaseComplete_ends hth hc hp hb hcv⟩⟩
  case refine_1 =>
    exact ⟨fun fa fb sc ha hb => mmaArray_ok h ho hmc ha hb, fun e ha => mmaArray_error h ho hmc (.inl ha),
      fun fa e ha hb => mmaArray_error h ho hmc (.inr ⟨fa, ha, hb⟩)⟩
  case refine_2 =>
    have he : exec i s = .next (s.matrixWrite core c.blk c.work) := by
      rcases hi with ⟨rfl, o, d, v, w, n, ho⟩ | ⟨rfl, k, d, ho⟩
      · exact mdrainArray_busy h ho hbusy
      · exact mhistExec_busy h ho hbusy
    rw [he]
    exact ⟨matrixWrite_ends h c.work, fun hy => congrArg _ (matrixWrite_goesOn s core c.blk hy)⟩
  case refine_3 =>
    obtain ⟨hok, herr⟩ := mdrainArray_drains h ho hidle
    exact ⟨hok, fun e hd => by rw [herr e hd]; exact matrixDone_ends h e⟩
  case refine_4 =>
    obtain ⟨hnone, hsome⟩ := mhistExec_reads h ho hidle
    refine ⟨fun ht => by rw [hnone (holdSlot_taken hx ht)]; exact matrixDone_ends h 7, fun hf ws hw => ?_⟩
    obtain ⟨f, hhold, -, -, hh⟩ := holdSlot_own hcore hx hf
    exact ⟨s.modCore core f, rfl, rfl, hh, hsome _ _ ws hhold hw⟩
  case refine_5 =>
    refine ⟨fun ht => ?_, mhclrExec_own h ho hx⟩
    rw [(mhclrExec_clears h ho).1 (holdSlot_taken hx ht)]
    exact matrixDone_ends h 7

end Sys2Proof.Machine
end

section
namespace Sys2Proof.Machine

/-! ### Floating instructions of one lane (R172, R281)

An enabled exception traps with the flags set and nothing written; else the results are on their way. -/

/-- What a floating body ends with: the flags of all its operations, then the results or the trap. -/
def fpEnds (d : RegName) (due : TCtx → Due) (r : State → TRef → Thread → List (Reg × Flags)) (s : State) (t : TRef) (th : Thread) : TLane :=
  fpFinish th (flagsOf (r s t th)) fun x => x.results d (due (s.tctx t)) 0 ((r s t th).map Prod.fst)

theorem fpFinish_none {th : Thread} {fl : Flags} (h : enabledCause th.fpctl fl = none) (k : Thread → Thread) :
    fpFinish th fl k = .next (k (th.raise fl)) := by rw [fpFinish, h]

theorem fpFinish_some {th : Thread} {fl : Flags} {c : Nat} (h : enabledCause th.fpctl fl = some c) (k : Thread → Thread) :
    fpFinish th fl k = .trap (th.raise fl) c 0 := by rw [fpFinish, h]

section
variable {i : Instr} {st : Stall} {d : RegName} {due : TCtx → Due}

/-- An instruction local to its thread whose body ends as a floating one does has a floating outcome. -/
theorem fpOutcome_of_local {r : State → TRef → Thread → List (Reg × Flags)} {f : TCtx → Thread → TLane}
    (hexec : ∀ s, exec i s = s.runLocal i st f) (hf : ∀ s t th, f (s.tctx t) th = fpEnds d due r s t th) : FpOutcome i st d due r := by
  intro s t th h
  rw [hexec s]
  exact ⟨fun hn => runLocal_next h st ((hf s t th).trans (fpFinish_none hn _)),
    fun c hc => runLocal_trap h st ((hf s t th).trans (fpFinish_some hc _))⟩

/-- A form with three groups of registers, each member an operation (R279). -/
theorem fpOutcome_fp3 {a b : RegName} {k : Nat} {g : Nat → Reg → Reg → Reg → Reg × Flags}
    (hexec : ∀ s, exec i s = s.runLocal i st (fp3 d a b k due g)) : FpOutcome i st d due (fpEach d a b k g) :=
  fpOutcome_of_local hexec fun _ _ _ => rfl

theorem flagsOf_one (x : Reg × Flags) : flagsOf [x] = x.2 := BitVec.zero_or

theorem flagsOf_two (x y : Reg × Flags) : flagsOf [x, y] = x.2 ||| y.2 :=
  congrArg (· ||| y.2) (flagsOf_one x)

/-- A single result, whose register is named after the flags are raised. -/
theorem fpEnds_one (x : Reg × Flags) (r : State → TRef → Thread → List (Reg × Flags)) (s : State) (t : TRef) (th : Thread)
    (hr : r s t th = [x]) : fpEnds d due r s t th = fpFinish th x.2 fun th => th.result (archOf th.wb d) x.1 (due (s.tctx t)) := by
  simp only [fpEnds, hr, flagsOf_one, List.map_cons, List.map_nil, results_cons, results_nil, member_zero]

/-- A form with one source (R287). -/
theorem fpOutcome_fp1 {a : RegName} {g : Nat → Reg → Reg × Flags} (hexec : ∀ s, exec i s = s.runLocal i st (fp1 d a due g)) :
    FpOutcome i st d due (fpOne a g) :=
  fpOutcome_of_local hexec fun s t th => (fpEnds_one (g (s.plyN t.blk) (th.get a)) _ s t th rfl).symm

end

section
variable (d a b : RegName) (w : Width) (st : Stall)

/-- FCMPM gives the flag of the comparison and the margin, with the flags of both (R285). -/
theorem fpOutcome_fcmpm (c : Cond) : FpOutcome (.fcmpm d a b c st) st d TCtx.dueB fun s t th =>
    [(Reg.plain (fcmpFlag c (th.get a) (th.get b)).1, (fcmpFlag c (th.get a) (th.get b)).2),
      fsubReg (s.plyN t.blk) (th.get a) (th.get b)] := by
  refine fpOutcome_of_local (fun _ => rfl) fun s t th => ?_
  rw [fpEnds, flagsOf_two]
  rfl

theorem fpOutcome_drev : FpOutcome (.drev d a b w st) st d TCtx.dueB fun s t th =>
    [drevReg (s.plyN t.blk) (th.get a) ((List.range w.k).map (th.valAt b))] :=
  fpOutcome_of_local (fun _ => rfl) fun s t th =>
    (fpEnds_one (drevReg (s.plyN t.blk) (th.get a) ((List.range w.k).map (th.valAt b))) _ s t th rfl).symm

/-- DFLIP raises nothing (R192). -/
theorem completes_dflip : Completes (.dflip d a b w st) st fun s t th => th.result (archOf th.wb d)
    (Reg.plain (dflipVal (s.plyN t.blk) (th.get a) ((List.range w.k).map (th.valAt b)))) (s.tctx t).dueB :=
  fun _ _ _ h => runLocal_next h st rfl

end

/-- Settles O4: each instruction is a form with three groups of registers, FCMPM, DREV or DFLIP. -/
theorem floatResults : Obligations.FloatResults := by
  unfold Obligations.FloatResults
  refine ⟨fun d a b w c st => ?_, fun d a b bf w st => ?_⟩
  case refine_1 =>
    refine ⟨?fadd, ?fsub, ?fmul, ?ffma, ?fmin, ?fmax, ?fcmp, fpOutcome_fcmpm d a b st c, ?fdiv⟩
    all_goals exact fpOutcome_fp3 fun _ => rfl
  case refine_2 =>
    refine ⟨?padd2, ?pmul2, ?pfma2, ?pmax2, ?pmin2, fpOutcome_drev d a b w st, completes_dflip d a b w st⟩
    all_goals exact fpOutcome_fp3 fun _ => rfl

/-- Settles O5: every instruction of the group, and CVT, is a form with one source. -/
theorem floatFunctions : Obligations.FloatFunctions := by
  unfold Obligations.FloatFunctions
  intro d a f st src dst sat m
  refine ⟨?fabs, ?fneg, ?ffloor, ?fceil, ?fround, ?ftrunc, ?ffrac, ?fsqrt, ?frcp, ?frsq, ?fexp2, ?flog2, ?fexp, ?flog, ?fsinpi, ?fcospi,
    ?ftanh, ?fsigm, ?fgelu, ?ferf, ?cvt⟩
  all_goals exact fpOutcome_fp1 fun _ => rfl

end Sys2Proof.Machine
end

section
namespace Sys2Proof.Machine

/-! ### The PLY group (R295) -/

/-- A ply operation with k below D does its work. -/
theorem withPly_below {k : BitVec 4} {s : State} {t : TRef} (h : k.toNat < s.plyN t.blk) (f : TCtx → Thread → TLane) (th : Thread) :
    withPly k f (s.tctx t) th = f (s.tctx t) th := if_neg (Nat.not_le.mpr h)

/-- A ply operation with k at or above D raises RegRange 0x03 (R181, R239). -/
theorem withPly_beyond {k : BitVec 4} {s : State} {t : TRef} (h : s.plyN t.blk ≤ k.toNat) (f : TCtx → Thread → TLane) (th : Thread) :
    withPly k f (s.tctx t) th = .trap th 0x05 0x03 := if_pos h

/-- A ply operation that names k completes below D. -/
theorem completesWhen_withPly {i : Instr} {st : Stall} {k : BitVec 4} {f : TCtx → Thread → TLane} {g : State → TRef → Thread → Thread}
    (hexec : ∀ s, exec i s = s.runLocal i st (withPly k f)) (hf : ∀ s t th, f (s.tctx t) th = .next (g s t th)) :
    CompletesWhen i st (fun s t _ => k.toNat < s.plyN t.blk) g := by
  intro s t th h hk
  rw [hexec]
  exact runLocal_next h st ((withPly_below hk f th).trans (hf s t th))

/-- PLYGET, PLYSET and PLYZERO deliver RegRange 0x03 at or above D. -/
theorem ply_beyond {d a : RegName} {k : BitVec 4} {st : Stall} {i : Instr}
    (hi : i ∈ [Instr.plyget d a k st, .plyset d a k st, .plyzero d k st]) {s : State} {t : TRef} {th : Thread} (h : OneLane i s t th)
    (hk : s.plyN t.blk ≤ k.toNat) :
    exec i s = .next ((s.modThread t fun _ => th).deliverIssued st [⟨t, 0x05, 0x03, 0⟩] (some i)) := by
  simp only [List.mem_cons, List.not_mem_nil, or_false] at hi
  rcases hi with rfl | rfl | rfl <;> exact runLocal_trap h st (withPly_beyond hk _ th)

theorem next_result_congr {th : Thread} {n : Nat} {due : Due} {x y : Reg} (h : x = y) :
    TLane.next (th.result n x due) = TLane.next (th.result n y due) := by rw [h]

/-- What PLYGET reads of a register, STATE by STATE (R184, R295). -/
theorem plyget_value (r : Reg) (k : Nat) : (if r.tag = .lost then (0x7FC00000 : Word) else r.part k) =
    match r.tag with | .lost => 0x7FC00000 | .zero => 0 | .live => r.parts.getD k 0 := by
  cases htag : r.tag <;> simp [Reg.part, htag]

/-- A partial replaced, STATE by STATE (R198). -/
theorem setPart_byTag (r : Reg) (n k : Nat) (v : Word) : r.setPart n k v =
    match r.tag with | .lost => r | _ => { r with tag := .live, parts := (partsOf n r.part).set k v } := by
  cases htag : r.tag <;> simp [Reg.setPart, htag]

/-- A partial zeroed: only a LIVE register has one (R295). -/
theorem plyzero_byTag (r : Reg) (n k : Nat) : (if r.tag = .live then r.setPart n k 0 else r) =
    match r.tag with | .live => { r with parts := (partsOf n r.part).set k 0 } | _ => r := by
  cases htag : r.tag <;> simp [Reg.setPart, htag]

/-- Settles O6: below D each of the three that name k does its work on one thread, at or above D it traps; the others name none. -/
theorem plyGroup : Obligations.PlyGroup := by
  unfold Obligations.PlyGroup
  intro d a k st
  refine ⟨?plyget, ?plyset, ?plyzero, ?plylose, ?plytag, ?plyclrk, fun i hi s t th h hk => ply_beyond hi h hk⟩
  case plyget => exact completesWhen_withPly (fun _ => rfl) fun _ _ _ => next_result_congr (congrArg Reg.plain (plyget_value ..))
  case plyset => exact completesWhen_withPly (fun _ => rfl) fun _ _ _ => next_result_congr (setPart_byTag ..)
  case plyzero => exact completesWhen_withPly (fun _ => rfl) fun _ _ _ => next_result_congr (plyzero_byTag ..)
  case plylose | plytag | plyclrk => exact fun s t th h => runLocal_next h st rfl

end Sys2Proof.Machine
end

section
namespace Sys2Proof.Machine

/-! ### Writes entered outside a doubled block (R97, R113) -/

@[simp] theorem enqueueWrite_thread (s : State) (t : TRef) (th : Thread) (w : QWrite) (u : TRef) :
    (s.enqueueWrite t th w).thread? u = s.thread? u := by
  rw [State.enqueueWrite, want_thread, modStrand_thread]

@[simp] theorem enqueueWrite_issue (s : State) (t : TRef) (th : Thread) (w : QWrite) : (s.enqueueWrite t th w).issue = s.issue := by
  rw [State.enqueueWrite, want_issue, modStrand_issue]

@[simp] theorem enqueueWrite_isDoubled (s : State) (t : TRef) (th : Thread) (w : QWrite) (b : Nat) :
    (s.enqueueWrite t th w).isDoubled b = s.isDoubled b := by
  simp only [State.isDoubled, enqueueWrite_keeps Block.doubled fun _ _ _ => rfl]

@[simp] theorem modThread_isDoubled (s : State) (t : TRef) (f : Thread → Thread) (b : Nat) :
    (s.modThread t f).isDoubled b = s.isDoubled b := by
  simp only [State.isDoubled, modThread_block]
  split <;> cases s.blocks[b]? <;> rfl

/-- Outside a doubled block a store enters its write into the store queue and folds nothing (R297, R367). -/
theorem storeAt_single {s : State} {t : TRef} (hd : s.isDoubled t.blk = false) (th : Thread) (ea : Addr) (l : Loc) (bytes : List Byte)
    (fill : Bool) : s.storeAt t th ea l bytes fill = .next (s.enqueueWrite t th ⟨t, l, bytes, fill⟩) := by
  cases l <;> simp only [State.storeAt, enqueueWrite_isDoubled, hd]

/-- The writes of the elements of a frame, entered in order. -/
def State.enterElems (s : State) (t : TRef) (th : Thread) (es : List (Addr × Loc × List Byte)) : State :=
  es.foldl (fun z x => z.enqueueWrite t th ⟨t, x.2.1, x.2.2, false⟩) s

@[simp] theorem enterElems_issue (s : State) (t : TRef) (th : Thread) (es : List (Addr × Loc × List Byte)) :
    (s.enterElems t th es).issue = s.issue :=
  foldl_keeps (P := fun z : State => z.issue = s.issue) (fun _ _ hz => (enqueueWrite_issue _ _ _ _).trans hz) es rfl

/-- Outside a doubled block no seal comes between the elements of a frame (R299, R368). -/
theorem storeElems_single {t : TRef} {th : Thread} (es : List (Addr × Loc × List Byte)) : ∀ {s : State},
    s.isDoubled t.blk = false → (s.thread? t).getD th = th → s.storeElems t th es = .next (s.enterElems t th es) := by
  induction es with
  | nil => intro s _ _; rfl
  | cons e r ih =>
    intro s hd ht
    obtain ⟨ea, l, bytes⟩ := e
    have hfirst := storeAt_single hd th ea l bytes false
    cases r with
    | nil => rw [State.storeElems, hfirst]; rfl
    | cons e' r' =>
      rw [State.storeElems, hfirst]
      dsimp only
      rw [enqueueWrite_thread, ht, ih (by rwa [enqueueWrite_isDoubled]) (by rwa [enqueueWrite_thread])]
      · rfl
      · exact List.cons_ne_nil e' r'

end Sys2Proof.Machine
end

section
namespace Sys2Proof.Machine

/-! ### Tangent frames (R193 to R195, R299) -/

/-- The elements of a frame lie at the address of R297 and at the strides behind it. -/
theorem frameElems_at (th : Thread) (a : RegName) (imm : BitVec 7) (stride vb pb n : Nat) :
    frameElems (effAddr th a imm vb) stride vb pb n =
      (mAddr th a imm vb, vb) :: (List.range n).map fun i => (mAddr th a imm vb + Addr.ofNat ((i + 1) * stride), pb) := by
  rw [effAddr_eq]
  rfl

/-- The checks of a frame that need no translation hold: a legal stride, and every element below 2^48 and aligned (R193). -/
structure FrameOk (stride vb pb : Nat) (es : List (Addr × Nat)) : Prop where
  divides : stride % pb = 0
  value : vb ≤ stride
  partials : pb ≤ stride
  placed : ∀ e ∈ es, e.1.toNat < 2 ^ 48 ∧ e.1.toNat % e.2 = 0

/-- A frame of which every check passes goes on with the homes of its elements (R193). -/
theorem frame_passes {s : State} {t : TRef} {k : Access} {stride vb pb : Nat} {es : List (Addr × Nat)} (h : FrameOk stride vb pb es)
    (hstop : (s.elems t k es).stop = none) (hpoison : (s.elems t k es).poison = none) (f : State → List Loc → Lane) :
    s.frame t k stride vb pb es f = f (s.elems t k es).s (s.elems t k es).locs := by
  have hstride : (!strideOk stride vb pb) = false := by simp [strideOk, h.divides, h.value, h.partials]
  have hbelow : ¬ (es.any fun e => 2 ^ 48 ≤ e.1.toNat) = true := by
    rw [List.any_eq_true]
    rintro ⟨e, he, hfar⟩
    exact absurd (h.placed e he).1 (Nat.not_lt.mpr (of_decide_eq_true hfar))
  have haligned : ¬ (es.any fun e => e.1.toNat % e.2 ≠ 0) = true := by
    rw [List.any_eq_true]
    rintro ⟨e, he, hoff⟩
    exact absurd (h.placed e he).2 (of_decide_eq_true hoff)
  rw [State.frame, hstride, if_neg Bool.false_ne_true, if_neg hbelow, if_neg haligned]
  dsimp only
  rw [hstop, hpoison]

/-- Settles O22: the checks of the frame pass, and what LDT and STT then do with its homes is what R195 and R194 say. -/
theorem tangentFrames : Obligations.TangentFrames := by
  unfold Obligations.TangentFrames
  intro d a imm f st s t th k vb stride es hdivides hvalue hpart hplaced
  have hok : FrameOk stride vb k.partBytes es := ⟨hdivides, hvalue, hpart, hplaced⟩
  have hes : frameElems (effAddr th a imm vb) stride vb k.partBytes k.d = es := frameElems_at th a imm stride vb k.partBytes k.d
  refine ⟨?ldt, ?stt⟩
  case ldt =>
    intro h hstop hpoison r herr
    refine (run_one h st _).trans ?_
    dsimp only
    rw [hes, frame_passes hok hstop hpoison, herr]
    exact congrArg _ (modThread_const ..)
  case stt =>
    intro h hstop hpoison s1 c hnone hstop2 hpoison2 hd
    have hown : (((s1.elems t .store es).s.modThread t fun _ => th.raise c.2.1).thread? t).getD (th.raise c.2.1) = th.raise c.2.1 := by
      rw [modThread_get]
      cases (s1.elems t .store es).s.thread? t <;> rfl
    refine (run_one h st _).trans ?_
    dsimp only
    rw [hes, frame_passes hok hstop hpoison, hnone]
    dsimp only
    rw [frame_passes hok hstop2 hpoison2, storeElems_single _ (by rwa [modThread_isDoubled]) hown]
    simp only [afterLane, enterElems_issue, modThread_issue]
    rw [State.enterElems, List.foldl_map]

end Sys2Proof.Machine
end

section
namespace Sys2Proof.Machine

/-! ### The head of an engine queue changed or removed (R154, R155) -/

section
variable {s : State} {core q : Nat} {c : Cmd} {r l : List Cmd}

theorem head?_of_queue (h : s.queue core q = ⟨c :: r, l⟩) : s.head? core q = some c := by
  rw [State.head?, h]
  rfl

/-- A queue with a head is one of the core's. -/
theorem queues_get_of_queue (h : s.queue core q = ⟨c :: r, l⟩) : (s.core core).queues[q]? = some ⟨c :: r, l⟩ := by
  rw [State.queue] at h
  cases hx : (s.core core).queues[q]? with
  | none => rw [hx] at h; cases h
  | some x => rw [hx] at h; exact congrArg some h

theorem modQueue_queue (hc : core < s.cores.length) (h : s.queue core q = ⟨c :: r, l⟩) (f : EQueue → EQueue) :
    (s.modQueue core q f).queue core q = f ⟨c :: r, l⟩ := by
  rw [State.queue, State.modQueue, modCore_core_same hc, List.getElem?_modify_eq, queues_get_of_queue h]
  rfl

theorem modHead_queue (hc : core < s.cores.length) (h : s.queue core q = ⟨c :: r, l⟩) (f : Cmd → Cmd) :
    (s.modHead core q f).queue core q = ⟨f c :: r, l⟩ := modQueue_queue hc h _

theorem popQueue_noJoins (hc : core < s.cores.length) (hj : s.noJoins core) (q : Nat) :
    s.popQueue core q = s.modQueue core q EQueue.pop := passJoins_none (noJoins_pop hc hj q)

/-- An event that changes the head of a queue, once other work has left that queue as it was. -/
theorem next_modHead {s1 : State} {o : Host.Outcome State Fault Refusal} {f : Cmd → Cmd} (ho : o = .next (s1.modHead core q f))
    (h : s.queue core q = ⟨c :: r, l⟩) (hq : s1.queue core q = s.queue core q) (hc : core < s1.cores.length) :
    ∃ s', o = .next s' ∧ s'.mem = s1.mem ∧ s'.blocks = s1.blocks ∧ (s'.queue core q).q = f c :: r :=
  ⟨_, ho, rfl, rfl, by rw [modHead_queue hc (hq.trans h)]⟩

end

/-! ### The start of a draw (R345, R154) -/

/-- A grid that enters changes nothing of memory, blocks, cores and draws. -/
theorem enterGrid_keeps {s s' : State} {g : Grid} (h : s.enterGrid g = some s') :
    s'.mem = s.mem ∧ s'.blocks = s.blocks ∧ s'.cores = s.cores ∧ s'.draws = s.draws := by
  unfold State.enterGrid at h
  dsimp only at h
  split at h
  · cases h
  · injection h with h
    subst h
    simp

/-- A draw that starts stands behind the others, with no vertex and no primitive. -/
theorem startDraw_adds {s s1 : State} {p core prio : Nat} {v f : Kernel} {oct : List Word} {rec : List Addr} {done : GridDone}
    (h : s.startDraw p core prio v f oct rec done = some s1) :
    s1.mem = s.mem ∧ s1.blocks = s.blocks ∧ s1.cores = s.cores ∧
      ∃ d, s1.draws = s.draws ++ [d] ∧ d.oct = oct ∧ d.record = rec ∧ d.verts = [] ∧ d.prims = [] := by
  unfold State.startDraw at h
  dsimp only at h
  split at h
  · injection h with h
    subst h
    exact ⟨rfl, rfl, rfl, _, rfl, rfl, rfl, rfl, rfl⟩
  · obtain ⟨hmem, hblocks, hcores, hdraws⟩ := enterGrid_keeps h
    exact ⟨hmem, hblocks, hcores, _, hdraws, rfl, rfl, rfl, rfl⟩

section
variable {s : State} {core : Nat} {c : Cmd} {r : List Cmd}

section
variable {oct : List Word} {rec : List Addr}

/-- The draw at the head of the draw queue of a partition that is not exited starts, or ends with the status of its checks. -/
theorem execDrawQueueAdvance_draw (hq : s.queue core 8 = ⟨c :: r, []⟩) (ho : c.op = .draw oct rec) (hf : c.fin = none)
    (hx : (s.part (s.partOf c.blk)).exited = false) :
    (∀ v, s.drawCheck (s.partOf c.blk) oct rec = (v, none) →
      exec (.drawQueueAdvance core) s = .next (s.modHead core 8 fun c => { c with fin := some v })) ∧
    ∀ v f s1, s.drawCheck (s.partOf c.blk) oct rec = (0, some (v, f)) →
      s.startDraw (s.partOf c.blk) core (((s.grid? c.blk).map (·.prio)).getD 0) v f oct rec
        (.token c.blk ((octW oct 6).extractLsb' 0 5).toNat ((octW oct 6).extractLsb' 16 16).toNat) = some s1 →
      exec (.drawQueueAdvance core) s = .next (s1.popQueue core 8) := by
  have hhead := head?_of_queue hq
  obtain ⟨op, blk, started, done, left, fin, since, work⟩ := c
  obtain rfl : op = .draw oct rec := ho
  obtain rfl : fin = none := hf
  have heq : exec (.drawQueueAdvance core) s = execDrawQueueAdvance core s := rfl
  rw [heq, execDrawQueueAdvance, qDraw, hhead]
  dsimp only at hx ⊢
  rw [if_neg (by simp [hx]), field_eq_extractLsb', field_eq_extractLsb']
  exact ⟨fun v hv => by rw [hv]; cases v <;> rfl, fun v f s1 hv hs => by simp only [hv, hs]⟩

theorem drawQueueAdvance_fails (hc : core < s.cores.length) (hq : s.queue core 8 = ⟨c :: r, []⟩) (ho : c.op = .draw oct rec)
    (hf : c.fin = none) (hx : (s.part (s.partOf c.blk)).exited = false) {v : Nat}
    (hv : s.drawCheck (s.partOf c.blk) oct rec = (v, none)) :
    ∃ s', exec (.drawQueueAdvance core) s = .next s' ∧ s'.mem = s.mem ∧ s'.blocks = s.blocks ∧
      (s'.queue core 8).q = { c with fin := some v } :: r :=
  next_modHead ((execDrawQueueAdvance_draw hq ho hf hx).1 v hv) hq rfl hc

theorem drawQueueAdvance_starts (hc : core < s.cores.length) (hq : s.queue core 8 = ⟨c :: r, []⟩) (hj : s.noJoins core)
    (ho : c.op = .draw oct rec) (hf : c.fin = none) (hx : (s.part (s.partOf c.blk)).exited = false) {v f : Kernel} {s1 : State}
    (hv : s.drawCheck (s.partOf c.blk) oct rec = (0, some (v, f)))
    (hs : s.startDraw (s.partOf c.blk) core (((s.grid? c.blk).map (·.prio)).getD 0) v f oct rec
      (.token c.blk ((octW oct 6).extractLsb' 0 5).toNat ((octW oct 6).extractLsb' 16 16).toNat) = some s1) :
    ∃ s' d, exec (.drawQueueAdvance core) s = .next s' ∧ s'.mem = s.mem ∧ s'.blocks = s.blocks ∧ (s'.queue core 8).q = r ∧
      s'.draws = s.draws ++ [d] ∧ d.oct = oct ∧ d.record = rec ∧ d.verts = [] ∧ d.prims = [] := by
  obtain ⟨hmem, hblocks, hcores, d, hdraws, hd⟩ := startDraw_adds hs
  have hcore : s1.core core = s.core core := by rw [State.core, hcores, State.core]
  have hlen : core < s1.cores.length := hcores ▸ hc
  have hpop : s1.popQueue core 8 = s1.modQueue core 8 EQueue.pop :=
    popQueue_noJoins hlen (by rw [State.noJoins, hcore]; exact hj) 8
  have hq1 : s1.queue core 8 = ⟨c :: r, []⟩ := by rw [State.queue, hcore]; exact hq
  refine ⟨_, d, (execDrawQueueAdvance_draw hq ho hf hx).2 v f s1 hv hs, ?_⟩
  rw [hpop, modQueue_queue hlen hq1]
  exact ⟨hmem, hblocks, rfl, hdraws, hd⟩

end

/-! ### A clear advances (R344, R100) -/

/-- A plan of a clear whose address is not aligned, or whose descriptor is bad, fails with FormatInvalid. -/
theorem clearPlan_misaligned (tr : Translate) (blk : Nat) {tgt : Nat} (h : tgt % 32 ≠ 0) (i : Nat) :
    s.clearPlan tr blk tgt i = .error (.fail s 7) := if_pos h

theorem clearPlan_badDescriptor {tr : Translate} {blk tgt : Nat} {s1 : State} {b : List Byte} (h : tgt % 32 = 0)
    (hr : s.engineRead tr tgt 32 = .ok (s1, b)) (hb : targetOf tgt b = none) (i : Nat) :
    s.clearPlan tr blk tgt i = .error (.fail s1 7) := by
  rw [State.clearPlan, if_neg (not_not.mpr h), hr]
  dsimp only
  rw [hb]

section
variable {tgt : Addr} {w : Word}

/-- What a clear at the head of the draw queue does: it waits for the draws ahead, writes a granule, or translates its next chunk. -/
theorem execLclrExec_clear (hq : s.queue core 8 = ⟨c :: r, []⟩) (ho : c.op = .lclr tgt w) (hf : c.fin = none) :
    (s.outstanding core 8 = true → exec (.lclrExec core) s = .next s) ∧
    (s.outstanding core 8 = false → c.work.busy = true → exec (.lclrExec core) s =
      .next ((s.writeOne c.work.outs).1.modHead core 8 fun z => if (s.writeOne c.work.outs).2.isEmpty then z.cleared (!c.left.isEmpty)
        else { z with work := { c.work with outs := (s.writeOne c.work.outs).2 } })) ∧
    (s.outstanding core 8 = false → c.work.busy = false → ∀ plan, s.clearPlan (blockXl core c.blk) c.blk tgt.toNat c.done = plan →
      (∀ s1 v, plan = .error (.fail s1 v) → exec (.lclrExec core) s = .next (s1.modHead core 8 fun z => z.failed v)) ∧
      (∀ s1, plan = .error (.wait s1) → exec (.lclrExec core) s = .next s1) ∧
      ∀ s1 l last, plan = .ok (s1, l, last) → exec (.lclrExec core) s = .next (s1.modHead core 8 fun z =>
        { z with started := true, left := if last then [0] else [], work := ⟨[], [], true, l, 0, [], []⟩ })) := by
  have hhead := head?_of_queue hq
  obtain ⟨op, blk, started, done, left, fin, since, work⟩ := c
  obtain rfl : op = .lclr tgt w := ho
  obtain rfl : fin = none := hf
  have heq : exec (.lclrExec core) s = execLclrExec core s := rfl
  rw [heq, execLclrExec, qDraw, hhead]
  dsimp only
  refine ⟨fun hw => if_pos hw, fun hw hb => ?_, fun hw hb plan hp => ?_⟩
  · rw [if_neg (by simp [hw]), if_pos hb]
  · rw [if_neg (by simp [hw]), if_neg (by simp [hb]), hp]
    exact ⟨fun s1 v h => by rw [h], fun s1 h => by rw [h], fun s1 l last h => by rw [h]⟩

/-- A granule written: more of the chunk is left, or it was the last of a chunk, or of the last chunk. -/
theorem lclrExec_writes (hq : s.queue core 8 = ⟨c :: r, []⟩) (ho : c.op = .lclr tgt w) (hf : c.fin = none)
    (hw : s.outstanding core 8 = false) (hb : c.work.busy = true) {y : State × List (Loc × List Byte)} (hy : s.writeOne c.work.outs = y)
    (hy8 : y.1.queue core 8 = s.queue core 8) (hc : core < y.1.cores.length) :
    ∃ s', exec (.lclrExec core) s = .next s' ∧ s'.mem = y.1.mem ∧ s'.blocks = y.1.blocks ∧
      (s'.queue core 8).q = (if y.2 ≠ [] then { c with work := { c.work with outs := y.2 } }
        else if c.left = [] then { c with started := true, done := c.done + 1, work := .none }
        else { c with fin := some 0, left := [], work := .none }) :: r := by
  obtain ⟨s', he, hmem, hblocks, hhead⟩ := next_modHead ((execLclrExec_clear hq ho hf).2.1 hw hb) hq (hy ▸ hy8) (hy ▸ hc)
  rw [hy] at hmem hblocks hhead
  refine ⟨s', he, hmem, hblocks, hhead.trans (congrArg (· :: r) ?_)⟩
  by_cases hmore : y.2 = []
  · cases hl : c.left with
    | nil => simp [hmore, Cmd.cleared]
    | cons a x => simp [hmore, Cmd.cleared, Cmd.failed]
  · simp [hmore]

end
end

/-! ### The rasteriser (R199, R201) -/

/-- The tiles that each draw has had rasterised. -/
def State.doneTiles (s : State) : List (List Nat) := s.draws.map Draw.tilesDone

theorem doneTiles_of_draws {s s' : State} (h : s'.draws = s.draws) : s'.doneTiles = s.doneTiles := by
  rw [State.doneTiles, h, State.doneTiles]

theorem doneTiles_get {s s' : State} (h : s'.doneTiles = s.doneTiles) {di : Nat} {d : Draw} (hd : s.draws[di]? = some d) :
    ∃ d', s'.draws[di]? = some d' ∧ d'.tilesDone = d.tilesDone := by
  have := congrArg (fun l => l[di]?) h
  simpa [State.doneTiles, hd] using this

theorem foldl_doneTiles {α : Type} {f : State → α → State} (h : ∀ s a, (f s a).doneTiles = s.doneTiles) (l : List α) (s : State) :
    (l.foldl f s).doneTiles = s.doneTiles :=
  foldl_keeps (P := fun x => x.doneTiles = s.doneTiles) (fun a x hs => (h a x).trans hs) l rfl

/-- A change of a draw that marks no tile. -/
theorem modDraw_doneTiles {s s0 : State} (h : s.doneTiles = s0.doneTiles) (di : Nat) {f : Draw → Draw}
    (hf : ∀ d, (f d).tilesDone = d.tilesDone) : (s.modDraw di f).doneTiles = s0.doneTiles := by
  rw [← h]
  apply List.ext_getElem?
  intro n
  simp only [State.doneTiles, State.modDraw, List.getElem?_map, List.getElem?_modify]
  cases s.draws[n]? with
  | none => rfl
  | some d => by_cases hn : di = n <;> simp [hn, hf]

theorem givePool_doneTiles (s : State) (p : Nat) (fs : List Nat) : (s.givePool p fs).doneTiles = s.doneTiles := by
  unfold State.givePool
  split
  · rfl
  · exact doneTiles_of_draws (by simp)

theorem takePool_doneTiles (s : State) (p : Nat) (die : Option Nat) (n : Nat) : (s.takePool p die n).1.doneTiles = s.doneTiles := by
  rcases takePool_cases s p die n with h | ⟨f, h⟩
  · rw [h]
  · rw [h]
    exact doneTiles_of_draws rfl

theorem fillFrames_doneTiles (s : State) (fs : List Nat) (bytes : List Byte) : (s.fillFrames fs bytes).doneTiles = s.doneTiles := by
  unfold State.fillFrames
  refine foldl_doneTiles (fun t x => ?_) _ s
  exact doneTiles_of_draws rfl

theorem launchFrags_doneTiles (di tile : Nat) (l : List Prim) : ∀ s : State, (State.launchFrags di tile l s).1.doneTiles = s.doneTiles := by
  induction l with
  | nil => exact fun s => rfl
  | cons p r ih =>
    intro s
    unfold State.launchFrags
    split
    · dsimp only
      split
      · next s1 h =>
        have h1 : s1.doneTiles = s.doneTiles := by
          split_ifs at h
          · exact Option.some.inj h ▸ rfl
          · obtain ⟨-, -, -, hdraws⟩ := enterGrid_keeps h
            exact (doneTiles_of_draws hdraws).trans (modDraw_doneTiles rfl di fun _ => rfl)
        exact (ih _).trans (modDraw_doneTiles h1 di fun _ => rfl)
      · rfl
    · exact ih s

theorem reloadTile_doneTiles (s : State) (di tile : Nat) : (s.reloadTile di tile).doneTiles = s.doneTiles := by
  unfold State.reloadTile
  split
  · rfl
  · exact modDraw_doneTiles (givePool_doneTiles ..) di fun _ => rfl

theorem relieve_doneTiles (s : State) (di : Nat) : (s.relieve di).doneTiles = s.doneTiles := by
  unfold State.relieve
  split
  · rfl
  · next d _ =>
    split
    · rfl
    · next tile _ =>
      have h := (launchFrags_doneTiles di tile (d.bin tile) _).trans (reloadTile_doneTiles s di tile)
      split
      · rfl
      · split
        · next s1 hs => rw [hs] at h; exact modDraw_doneTiles h di fun _ => rfl
        · next s1 hs => rw [hs] at h; exact h

theorem writeSpills_doneTiles (s : State) (di : Nat) : (s.writeSpills di).doneTiles = s.doneTiles := by
  unfold State.writeSpills
  split
  · rfl
  · refine foldl_doneTiles (fun t x => ?_) _ s
    split
    · rfl
    · dsimp only
      split
      · rfl
      · exact modDraw_doneTiles ((fillFrames_doneTiles ..).trans (takePool_doneTiles ..)) di fun _ => rfl

theorem releasePrims_doneTiles (s : State) (di : Nat) : (s.releasePrims di).doneTiles = s.doneTiles := by
  unfold State.releasePrims
  split
  · rfl
  · split
    · rfl
    · exact modDraw_doneTiles rfl di fun _ => rfl

theorem closeVertices_doneTiles (s : State) (di : Nat) : (s.closeVertices di).doneTiles = s.doneTiles := by
  unfold State.closeVertices
  split
  · split
    · exact modDraw_doneTiles rfl di fun _ => rfl
    · rfl
  · rfl

theorem finishDraw_doneTiles (s : State) (di : Nat) : (s.finishDraw di).doneTiles = s.doneTiles := by
  unfold State.finishDraw
  split
  · rfl
  · split
    · exact (doneTiles_of_draws (want_draws ..)).trans (modDraw_doneTiles (givePool_doneTiles ..) di fun _ => rfl)
    · rfl

/-- A draw that goes on keeps the tiles that it has had rasterised. -/
theorem drawProgress_doneTiles (s : State) (di : Nat) : (s.drawProgress di).doneTiles = s.doneTiles := by
  have hwant : ∀ t : State, t.wantTiles.doneTiles = t.doneTiles := fun t => doneTiles_of_draws (wantAll_draws t _)
  rw [State.drawProgress, hwant, finishDraw_doneTiles, writeSpills_doneTiles, relieve_doneTiles, closeVertices_doneTiles,
    releasePrims_doneTiles]

/-- With bins within their space and no tile flushed there is nothing to relieve and no spill frame to write (R201). -/
theorem relieve_writeSpills_idle {s : State} {di : Nat} {d : Draw} (hd : s.draws[di]? = some d) (hb : d.binsFull = false)
    (hs : d.spills = []) : (s.relieve di).writeSpills di = s := by
  have hr : s.relieve di = s := by
    unfold State.relieve
    rw [hd]
    dsimp only
    split
    · rfl
    · rw [hb]
      rfl
  rw [hr, State.writeSpills, hd]
  dsimp only
  rw [hs, List.foldl_nil]

section
variable {s s0 : State} {di tile : Nat} {d : Draw}

theorem execRasteriseTile_idle (hs : (s.relieve di).writeSpills di = s0) (hd : s0.draws[di]? = some d)
    (h : d.finished = true ∨ s0.drawWaits di = true ∨ tile ∉ d.tilesLeft ∨ d.spilling tile = true ∨ (s0.part d.part).exited = true) :
    exec (.rasteriseTile di tile) s = .next s0 := by
  show execRasteriseTile di tile s = _
  rw [execRasteriseTile, hs, hd]
  refine if_pos ?_
  simpa only [Bool.or_eq_true, Bool.not_eq_true', List.contains_eq_mem, decide_eq_false_iff_not, or_assoc] using h

/-- A draw with one more tile rasterised. -/
def Draw.tileDone (tile : Nat) (d : Draw) : Draw := { d with tilesDone := tile :: d.tilesDone }

/-- A tile of a draw is done, and the draw goes on. -/
def State.tileDone (s : State) (di tile : Nat) : State := (s.modDraw di (Draw.tileDone tile)).drawProgress di

/-- A tile that is left: its bin is launched; where there is room for all of it the tile is done, and the draw goes on. -/
theorem execRasteriseTile_launches (hs : (s.relieve di).writeSpills di = s0) (hd : s0.draws[di]? = some d) (hfin : d.finished = false)
    (hwait : s0.drawWaits di = false) (hleft : tile ∈ d.tilesLeft) (hspill : d.spilling tile = false)
    (hexit : (s0.part d.part).exited = false) {s1 : State} {all : Bool}
    (hl : State.launchFrags di tile (d.bin tile) (s0.reloadTile di tile) = (s1, all)) :
    exec (.rasteriseTile di tile) s = .next (if all then s1.tileDone di tile else s1) := by
  show execRasteriseTile di tile s = _
  rw [execRasteriseTile, hs, hd]
  dsimp only
  rw [if_neg (by simp [hfin, hwait, hleft, hspill, hexit]), hl]
  cases all <;> rfl

/-- The tile is marked, and what the launch has entered and left of the blocks stays so. -/
theorem tileDone_marks (hd : s0.draws[di]? = some d) {s1 : State} {all : Bool}
    (hl : State.launchFrags di tile (d.bin tile) (s0.reloadTile di tile) = (s1, all)) :
    s1.grids <+: (s1.tileDone di tile).grids ∧ (s1.tileDone di tile).blocks = s1.blocks ∧
      ∃ d', (s1.tileDone di tile).draws[di]? = some d' ∧ d'.tilesDone = tile :: d.tilesDone := by
  have haft : Aftermath s1 (s1.tileDone di tile) := (aftermath_modDraw s1 di _).trans (aftermath_drawProgress _ di)
  have h1 : s1.doneTiles = s0.doneTiles := by
    have := (launchFrags_doneTiles di tile (d.bin tile) _).trans (reloadTile_doneTiles s0 di tile)
    rwa [hl] at this
  obtain ⟨d1, hd1, hdone1⟩ := doneTiles_get h1 hd
  have hmark : (s1.modDraw di (Draw.tileDone tile)).draws[di]? = some (d1.tileDone tile) := by
    rw [State.modDraw, List.getElem?_modify_eq, hd1]
    rfl
  obtain ⟨d', hd', hdone'⟩ := doneTiles_get (drawProgress_doneTiles _ di) hmark
  exact ⟨haft.grids, haft.blocks, d', hd', hdone'.trans (congrArg (tile :: ·) hdone1)⟩

end

/-! ### A parked insertion (R204) -/

section
variable {s : State} {t : TRef} {th : Thread} {core n : Nat} {d a : RegName} {st : Stall}

theorem linsDone_single (h : s.isDoubled t.blk = false) (v : Nat) :
    s.linsDone t d v = .next (s.modThread t fun x => x.results d none 0 [Reg.plain (Word.ofNat v)]) := by
  rw [State.linsDone]
  dsimp only
  rw [modThread_isDoubled, h, Bool.false_and]
  exact if_neg Bool.false_ne_true

theorem execLayerInsert_waits (hth : s.thread? t = some th) (hc : s.coreOf t.blk = some core)
    (hp : th.park = some (.layer (.lins d a st) n)) (hw : s.insertWaits t th a (some n) = true) :
    exec (.layerInsert t.blk t.tid) s = .next s := by
  show execLayerInsert t.blk t.tid s = _
  rw [execLayerInsert, hth, hc]
  dsimp only
  rw [hp]
  exact if_pos hw

/-- Its turn has come: it is applied, and its thread goes on with the result. -/
theorem execLayerInsert_inserts (hth : s.thread? t = some th) (hc : s.coreOf t.blk = some core)
    (hp : th.park = some (.layer (.lins d a st) n)) (hw : s.insertWaits t th a (some n) = false) {s1 : State} {v : Nat}
    (hi : State.insertOne { s with issue := ⟨core, 0, [t], th.pc, th.word⟩ } t th a = .ok (s1, v)) (hs : s1.isDoubled t.blk = false) :
    exec (.layerInsert t.blk t.tid) s =
      .next ((s1.modThread t fun x => x.results d none 0 [Reg.plain (Word.ofNat v)]).modThread t fun x => x.unpark.advance) := by
  show execLayerInsert t.blk t.tid s = _
  rw [execLayerInsert, hth, hc]
  dsimp only
  rw [hp]
  dsimp only
  have hdone : orLane ((State.insertOne { s with issue := ⟨core, 0, [t], th.pc, th.word⟩ } t th a).map fun r => r.1.linsDone t d r.2) =
      .next (s1.modThread t fun x => x.results d none 0 [Reg.plain (Word.ofNat v)]) := by
    rw [hi]
    exact linsDone_single hs v
  rw [if_neg (by simp [hw]), hdone]

theorem layerInsert_result (hth : s.thread? t = some th) (hc : s.coreOf t.blk = some core)
    (hp : th.park = some (.layer (.lins d a st) n)) (hw : s.insertWaits t th a (some n) = false) {s1 : State} {v : Nat} {x : Thread}
    (hi : State.insertOne { s with issue := ⟨core, 0, [t], th.pc, th.word⟩ } t th a = .ok (s1, v)) (hs : s1.isDoubled t.blk = false)
    (hx : s1.thread? t = some x) :
    ∃ s', exec (.layerInsert t.blk t.tid) s = .next s' ∧ s'.mem = s1.mem ∧
      s'.thread? t = some { x.results d none 0 [Reg.plain (BitVec.ofNat 32 v)] with park := none, hang := 0, pc := x.pc + 4 } := by
  refine ⟨_, execLayerInsert_inserts hth hc hp hw hi hs, by simp, ?_⟩
  rw [modThread_get, modThread_get, hx, Option.map_some, Option.map_some, Thread.advance, Thread.unpark, results_pc]
  rfl

end

/-! ### Threads parked on an exhausted pool (R206) -/

/-- A thread is parked on the exhausted pool of a target. -/
def Thread.onPool (va : Addr) (th : Thread) : Prop := ∃ d a st, th.park = some (.pool (.lins d a st)) ∧ th.pair a = va

/-- The later state has the same blocks of the same partitions with as many threads, and a thread that is parked on the pool there stands
so in the earlier one. -/
structure PoolLeft (va : Addr) (s s' : State) : Prop where
  parts : ∀ blk, s'.partOf blk = s.partOf blk
  counts : s'.threadCounts = s.threadCounts
  parked : ∀ t th, s'.thread? t = some th → th.onPool va → s.thread? t = some th

theorem PoolLeft.refl (va : Addr) (s : State) : PoolLeft va s s := ⟨fun _ => rfl, rfl, fun _ _ h _ => h⟩

theorem PoolLeft.trans {va : Addr} {a b c : State} (h : PoolLeft va a b) (k : PoolLeft va b c) : PoolLeft va a c :=
  ⟨fun blk => (k.parts blk).trans (h.parts blk), k.counts.trans h.counts,
    fun t th ht hp => h.parked t th (k.parked t th ht hp) hp⟩

theorem poolLeft_foldl {α : Type} {va : Addr} {f : State → α → State} (h : ∀ s a, PoolLeft va s (f s a)) (l : List α) (s : State) :
    PoolLeft va s (l.foldl f s) := foldl_keeps (P := PoolLeft va s) (fun t a ht => ht.trans (h t a)) l (.refl va s)

/-- The step of a fold for one element of the list, with what comes before it and after it. -/
theorem poolLeft_foldl_at {α : Type} {va : Addr} {f : State → α → State} (h : ∀ s a, PoolLeft va s (f s a)) {l : List α} {a : α}
    (ha : a ∈ l) (s : State) : ∃ u, PoolLeft va s u ∧ PoolLeft va (f u a) (l.foldl f s) := by
  obtain ⟨x, y, rfl⟩ := List.append_of_mem ha
  rw [List.foldl_append, List.foldl_cons]
  exact ⟨x.foldl f s, poolLeft_foldl h x s, poolLeft_foldl h y _⟩

/-- A lane on the pool of the target is parked at the layer unit again. -/
def State.retryLane (va : Addr) (b : Nat) (s : State) (i : Nat) : State :=
  match s.thread? ⟨b, i⟩ with
  | some th => match th.park, th.parkedInsert with
    | some (.pool j), some (va', _, _) => if va' = va then (s.parkAt ⟨b, i⟩ (.layer j 0)).want (.layerInsert b i) else s
    | _, _ => s
  | none => s

/-- The lanes of a block of the partition do. -/
def State.retryBlock (p : Nat) (va : Addr) (s : State) (b : Nat) : State :=
  if s.partOf b = p then (List.range (((s.blocks[b]?).map (·.threads.length)).getD 0)).foldl (State.retryLane va b) s else s

theorem retryPool_eq (s : State) (p : Nat) (va : Addr) :
    s.retryPool p va = (List.range s.blocks.length).foldl (State.retryBlock p va) s := rfl

theorem parkAt_get (s : State) (t : TRef) (k : Park) : (s.parkAt t k).thread? t = (s.thread? t).map fun th => { th with park := some k } :=
  modThread_get s t _

theorem modThread_partOf (s : State) (t : TRef) (f : Thread → Thread) (blk : Nat) : (s.modThread t f).partOf blk = s.partOf blk :=
  partOf_congr (modBlock_keeps Block.grid s t.blk (f := fun b => b.modThread t.tid f) (fun _ => rfl) blk) rfl

/-- A lane that retries is parked at the layer unit, and no other lane is touched. -/
theorem poolLeft_retried (va : Addr) (s : State) (b i : Nat) (j : Instr) :
    PoolLeft va s ((s.parkAt ⟨b, i⟩ (.layer j 0)).want (.layerInsert b i)) where
  parts blk := (partOf_congr (by rw [want_blocks]) (want_grids ..)).trans (modThread_partOf s ⟨b, i⟩ _ blk)
  counts := by rw [want_threadCounts, parkAt_threadCounts]
  parked t th ht hp := by
    rw [want_thread] at ht
    by_cases hti : t = ⟨b, i⟩
    · subst hti
      rw [parkAt_get, Option.map_eq_some_iff] at ht
      obtain ⟨x, -, rfl⟩ := ht
      obtain ⟨d, a, st, hpark, -⟩ := hp
      cases hpark
    · rwa [State.parkAt, modThread_other s _ hti] at ht

theorem poolLeft_retryLane (va : Addr) (b : Nat) (s : State) (i : Nat) : PoolLeft va s (s.retryLane va b i) := by
  unfold State.retryLane
  split
  · split
    · split
      · exact poolLeft_retried va s b i _
      · exact .refl va s
    · exact .refl va s
  · exact .refl va s

theorem poolLeft_retryBlock (p : Nat) (va : Addr) (s : State) (b : Nat) : PoolLeft va s (s.retryBlock p va b) := by
  unfold State.retryBlock
  split
  · exact poolLeft_foldl (poolLeft_retryLane va b) _ s
  · exact .refl va s

/-- After its own retry a lane is not on the pool. -/
theorem retryLane_frees {va : Addr} {s : State} {b i : Nat} {th : Thread} (h : (s.retryLane va b i).thread? ⟨b, i⟩ = some th) :
    ¬ th.onPool va := by
  intro hp
  have hs := (poolLeft_retryLane va b s i).parked _ _ h hp
  obtain ⟨d, a, st, hpark, hva⟩ := hp
  have hins : th.parkedInsert = some (va, th.valAt a 2, 0) := by
    rw [Thread.parkedInsert, hpark, ← hva]
    rfl
  have hretry : s.retryLane va b i = (s.parkAt ⟨b, i⟩ (.layer (.lins d a st) 0)).want (.layerInsert b i) := by
    rw [State.retryLane, hs]
    dsimp only
    rw [hpark, hins]
    exact if_pos rfl
  rw [hretry, want_thread, parkAt_get, hs] at h
  rw [← Option.some.inj h] at hpark
  cases hpark

theorem retryBlock_frees {p : Nat} {va : Addr} {s : State} {t : TRef} {th : Thread} (hp : s.partOf t.blk = p)
    (h : (s.retryBlock p va t.blk).thread? t = some th) : ¬ th.onPool va := by
  intro hon
  have hs := (poolLeft_retryBlock p va s t.blk).parked _ _ h hon
  obtain ⟨n, hn, hlt⟩ := (thread?_isSome_iff s t).mp (by rw [hs]; rfl)
  have hlen : ((s.blocks[t.blk]?).map (·.threads.length)).getD 0 = n := by
    rw [State.threadCounts, List.getElem?_map] at hn
    rw [hn, Option.getD_some]
  rw [State.retryBlock, if_pos hp, hlen] at h
  obtain ⟨u, -, hu⟩ := poolLeft_foldl_at (poolLeft_retryLane va t.blk) (List.mem_range.mpr hlt) s
  exact retryLane_frees (hu.parked _ _ h hon) hon

/-- After the retry of a pool no thread of the partition is parked on it. -/
theorem retryPool_frees {p : Nat} {va : Addr} {s : State} {t : TRef} {th : Thread} (hp : (s.retryPool p va).partOf t.blk = p)
    (h : (s.retryPool p va).thread? t = some th) : ¬ th.onPool va := by
  intro hon
  rw [retryPool_eq] at hp h
  have hall := poolLeft_foldl (poolLeft_retryBlock p va) (List.range s.blocks.length) s
  obtain ⟨n, hn, -⟩ := (thread?_isSome_iff s t).mp (by rw [hall.parked _ _ h hon]; rfl)
  have hlt : t.blk < s.blocks.length := by
    have := (List.getElem?_eq_some_iff.mp hn).1
    rwa [State.threadCounts, List.length_map] at this
  obtain ⟨u, hu, hv⟩ := poolLeft_foldl_at (poolLeft_retryBlock p va) (List.mem_range.mpr hlt) s
  have hpu : u.partOf t.blk = p := ((hall.parts t.blk).trans (hu.parts t.blk).symm).symm.trans hp
  exact retryBlock_frees hpu (hv.parked _ _ h hon) hon

/-- Whatever came of its pages, the growth duty ends with the retry of the pool. -/
theorem growPool_retries {s s' : State} {p n : Nat} {va : Addr} (h : s.growPool p n va = some s') : ∃ u : State, s' = u.retryPool p va := by
  unfold State.growPool at h
  dsimp only at h
  split at h
  · split at h
    · obtain ⟨r, -, hr⟩ := Option.bind_eq_some_iff.mp h
      obtain ⟨u, -, rfl⟩ := Option.map_eq_some_iff.mp hr
      exact ⟨u, rfl⟩
    · exact ⟨_, (Option.some.inj h).symm⟩
  · cases h
  · exact ⟨_, (Option.some.inj h).symm⟩

/-- An answer that grows the pool of the event waited for (R395). -/
theorem ackGrow_pool {s : State} {p seq : Nat} {va : Addr} (h : s.waitingEvent p seq = some (.pool va)) (n : Nat) :
    s.ackGrow p seq n = ((s.answered p seq).growPool p n va).getD s := by
  rw [State.ackGrow, h]

theorem ackGrow_none {s : State} {p seq : Nat} (h : s.waitingEvent p seq = none) (n : Nat) : s.ackGrow p seq n = s := by
  rw [State.ackGrow, h]

/-! ### A target created (R202) -/

theorem targetOf_va {va : Nat} {b : List Byte} {d : Target} (h : targetOf va b = some d) : d.va = va := by
  unfold targetOf at h
  dsimp only at h
  split at h
  · cases h
  · rw [← Option.some.inj h]

theorem mem_insertUpAddr (va : Addr) (l : List Addr) : va ∈ execTargetCreate.insertUpAddr va l := by
  unfold execTargetCreate.insertUpAddr
  split
  · next h => exact List.contains_iff_mem.mp h
  · simp

section
variable {s : State} {p : Nat} {va : Addr} {desc : List Byte}

theorem execTargetCreate_ignored (h : s.svc.enabled = false ∨ va.toNat % 32 ≠ 0 ∨ desc.length ≠ 32 ∨ targetOf va.toNat desc = none) :
    exec (.targetCreate p va desc) s = .next s := by
  show execTargetCreate p va desc s = _
  rw [execTargetCreate]
  dsimp only
  split
  · rfl
  · next hok =>
    have hnone : targetOf va.toNat desc = none := by
      simp only [Bool.or_eq_true, Bool.not_eq_true', decide_eq_true_eq, not_or] at hok
      tauto
    rw [hnone]

/-- A valid descriptor: its writes are performed, and the target is noted. -/
theorem execTargetCreate_creates (he : s.svc.enabled = true) (hva : va.toNat % 32 = 0) (hlen : desc.length = 32) {d : Target} {s1 : State}
    (hd : targetOf va.toNat desc = some d) (hw : s.createWrites p d desc = .ok s1) :
    exec (.targetCreate p va desc) s =
      .next (s1.modPart p fun q => { q with targets := execTargetCreate.insertUpAddr va q.targets }) := by
  rw [State.createWrites, targetOf_va hd] at hw
  show execTargetCreate p va desc s = _
  rw [execTargetCreate]
  dsimp only
  rw [if_neg (by simp [he, hva, hlen]), hd]
  dsimp only
  split
  · next s2 h => rw [CopyR.ok.inj (h.symm.trans hw)]
  · next s2 v h => cases h.symm.trans hw
  · next s2 h => cases h.symm.trans hw

theorem targetCreate_creates (he : s.svc.enabled = true) (hva : va.toNat % 32 = 0) (hlen : desc.length = 32) {d : Target} {s1 : State}
    (hd : targetOf va.toNat desc = some d) (hw : s.createWrites p d desc = .ok s1) :
    ∃ s', exec (.targetCreate p va desc) s = .next s' ∧ s'.mem = s1.mem ∧ s'.blocks = s1.blocks ∧ s'.cores = s1.cores ∧
      (p < s1.parts.length → va ∈ (s'.part p).targets) := by
  refine ⟨_, execTargetCreate_creates he hva hlen hd hw, rfl, rfl, rfl, fun hp => ?_⟩
  rw [modPart_part_same hp]
  exact mem_insertUpAddr va _

end

/-! ### O51 -/

/-- Settles O51: each event by its own lemma above; after the growth duty the retry of the pool leaves no thread parked on it. -/
theorem drawEvents : Obligations.DrawEvents := by
  unfold Obligations.DrawEvents
  refine ⟨fun s core c r hc hq hj => ⟨fun oct rec ho hf hx => ?draw, fun tgt w ho hf => ?clear⟩, fun s s0 di tile d hs hd => ?tile,
    fun s t th core n d a st hth hcore hp => ?insert, fun s p va => ?pool, fun s p va desc => ?target⟩
  case draw =>
    exact ⟨fun v hv => drawQueueAdvance_fails hc hq ho hf hx hv, fun v f s1 hv hs => drawQueueAdvance_starts hc hq hj ho hf hx hv hs⟩
  case clear =>
    obtain ⟨hwaits, -, hplans⟩ := execLclrExec_clear hq ho hf
    refine ⟨hwaits, fun hw hb y hy hy8 hcy => lclrExec_writes hq ho hf hw hb hy hy8 hcy, fun hw hb plan hp => ?_⟩
    obtain ⟨hfail, hwait, hready⟩ := hplans hw hb plan hp
    exact ⟨fun s1 v h h8 hc1 => next_modHead (hfail s1 v h) hq h8 hc1, hwait,
      fun s1 l last h h8 hc1 => next_modHead (hready s1 l last h) hq h8 hc1,
      fun h => hp.symm.trans (clearPlan_misaligned _ _ h _),
      fun s1 b h hr hb => hp.symm.trans (clearPlan_badDescriptor h hr hb _)⟩
  case tile =>
    refine ⟨fun e he hb hsp => hs.symm.trans (relieve_writeSpills_idle he hb hsp), execRasteriseTile_idle hs hd,
      fun hfin hwait hleft hspill hexit s1 all hl => ?_⟩
    have hexec := execRasteriseTile_launches hs hd hfin hwait hleft hspill hexit hl
    obtain ⟨hgrids, hblocks, d', hd', hdone⟩ := tileDone_marks hd hl
    exact ⟨fun h => by rw [hexec, h]; rfl, fun h => ⟨_, d', by rw [hexec, h]; rfl, hgrids, hblocks, hd', hdone⟩⟩
  case insert =>
    exact ⟨execLayerInsert_waits hth hcore hp, fun hw s1 v x hi hs hx => layerInsert_result hth hcore hp hw hi hs hx⟩
  case pool =>
    refine ⟨fun n s' t th d a st hg hpart hth hpark hva => ?_, rfl, fun seq n => ⟨fun h => ?_, fun h => ?_⟩⟩
    · obtain ⟨u, rfl⟩ := growPool_retries hg
      exact retryPool_frees hpart hth ⟨d, a, st, hpark, hva⟩
    · exact ⟨congrArg _ (ackGrow_pool h n), congrArg _ (ackGrow_pool h 0)⟩
    · exact ⟨congrArg _ (ackGrow_none h n), congrArg _ (ackGrow_none h 0)⟩
  case target =>
    exact ⟨fun h => execTargetCreate_ignored (.inr h), fun h => execTargetCreate_ignored (.inl h),
      fun he hva hlen d s1 hd hw => targetCreate_creates he hva hlen hd hw⟩

end Sys2Proof.Machine
end

section
namespace Sys2Proof.Machine

/-! ### Every row of the table, and every step of a machine with power, answers a next state (R211, R375, R378) -/

theorem next_goes (s : State) : Goes (.next s) := ⟨s, rfl⟩

theorem Goes.not_fault {o : Host.Outcome State Fault Refusal} (h : Goes o) (f : Fault) : o ≠ .fault f := by
  obtain ⟨s, rfl⟩ := h
  exact nofun

theorem Goes.not_refused {o : Host.Outcome State Fault Refusal} (h : Goes o) (r : Refusal) : o ≠ .refused r := by
  obtain ⟨s, rfl⟩ := h
  exact nofun

/-- An instruction that is performed once for the lanes of its issue goes on, whatever it does for them. -/
theorem runOnce_goes (s : State) (i : Instr) (st : Stall) (f : State → List TRef → TRef → Thread → Once) : Goes (s.runOnce i st f) := by
  unfold State.runOnce
  dsimp only
  split
  · exact next_goes _
  · split
    · exact next_goes _
    · split <;> exact next_goes _

/-- SEAL ends in a match or a mismatch, or finds no pair that has reached its seal. -/
theorem execSeal_goes (blk tid : Nat) (s : State) : Goes (execSeal blk tid s) := by
  unfold execSeal
  dsimp only
  split
  · exact next_goes _
  · split
    · split
      · split <;> exact next_goes _
      · exact next_goes _
    · exact next_goes _

/-- Ordinary data never ends a run (R211): a row of the table is performed lane by lane, or once for its issue, or is one change of the
state, or decides by cases and is such a change in each of them. -/
theorem exec_goes (i : Instr) (s : State) : Goes (exec i s) := by
  cases i
  case bcopy | stream | coll | launch | draw | lclr | mhist | mhclr | mwait =>
    simp only [exec, execBcopy, execStream, execColl, execLaunch, execDraw, execLclr, execMhist, execMhclr, execMwait, runOnce_goes]
  case engineCommandStart | engineChunk | streamElement | collCombine | collPeerTimeout | launchQueueAdvance | queueRefill | tokenDeposit |
      mmaArray | mcJoinTimeout | mdrainArray | mzeroExec | mloadcExec | mhistExec | mhclrExec | mwaitDeposit | msignReleaseComplete |
      drawQueueAdvance | rasteriseTile | layerInsert | lclrExec | targetCreate | migration | dirtyLogDrain | patrolScrub |
      retentionEntry | retentionExit | poisonClear | codeObjectLoad | codeObjectUnload | keyRegister | deal | blockEnd | blockSave |
      blockRestore | queueQuotaRestore | drawGraceExpiry | graphUpload | kick | replayNodeReady | replayNodeComplete |
      completionRecord | serviceCallPerform | controlWindowWrite | hostRepairRequest | firmwareImage | ownershipClaim |
      ownershipHandover | handoverAccept | linkLoss | remoteWindowAccess | retiredEmulation | bobbinDraw | withheldCycle |
      walkMigReread | fixedLatencyResult | hangTimeout | starvationTimeout =>
    simp only [exec, execEngineCommandStart, execEngineChunk, execStreamElement, execCollCombine, execCollPeerTimeout,
      execLaunchQueueAdvance, execQueueRefill, execTokenDeposit, execMmaArray, execMcJoinTimeout, execMdrainArray, execMzeroExec,
      execMloadcExec, execMhistExec, execMhclrExec, execMwaitDeposit, execMsignReleaseComplete, execDrawQueueAdvance,
      execRasteriseTile, execLayerInsert, execLclrExec, execTargetCreate, execMigration, execDirtyLogDrain, execPatrolScrub,
      execRetentionEntry, execRetentionExit, execPoisonClear, execCodeObjectLoad, execCodeObjectUnload, execKeyRegister, execDeal,
      execBlockEnd, execBlockSave, execBlockRestore, execQueueQuotaRestore, execDrawGraceExpiry, execGraphUpload, execKick,
      execReplayNodeReady, execReplayNodeComplete, execCompletionRecord, execServiceCallPerform, execControlWindowWrite,
      execHostRepairRequest, execFirmwareImage, execOwnershipClaim, execOwnershipHandover, execHandoverAccept, execLinkLoss,
      execRemoteWindowAccess, execRetiredEmulation, execBobbinDraw, execWithheldCycle, execWalkMigReread, execFixedLatencyResult,
      execHangTimeout, execStarvationTimeout]
    repeat' split
    all_goals exact next_goes _
  any_goals exact ⟨_, rfl⟩
  -- what is left is the event SEAL, whose constructor's name is a keyword
  exact execSeal_goes _ _ s

theorem runEvent_goes (e : Event) (s : State) : Goes (runEvent e s) := by
  cases e <;> simp [exec_goes _ s]

theorem runWord_goes (w : Word) (s : State) : Goes (runWord w s) := by
  unfold runWord
  split
  · exact exec_goes _ _
  · exact next_goes _

theorem runIssue_goes (s : State) : Goes (runIssue s) := by
  unfold runIssue
  split
  · exact runWord_goes _ _
  · exact next_goes _
  · exact next_goes _

theorem stepCore_goes (core : Nat) (s : State) : Goes (stepCore core s) := by
  unfold stepCore
  split
  · exact runIssue_goes _
  · exact next_goes _

theorem stepQuiet_goes (s : State) : Goes (stepQuiet s) := by
  unfold stepQuiet
  dsimp only
  split
  · exact runEvent_goes _ _
  · exact stepCore_goes _ _

theorem stepEvent_goes (source : Option Nat) (i : Instr) (r : List Turn) (s : State) : Goes (stepEvent source i r s) := by
  unfold stepEvent
  split
  · exact stepQuiet_goes _
  · split
    · exact next_goes _
    · exact exec_goes _ _

/-- A machine with power goes on. -/
theorem step_powered_goes (s : State) (h : s.power = true) : Goes (step s) := by
  unfold step
  rw [h]
  dsimp only
  split
  · exact runEvent_goes _ _
  · split
    · exact stepEvent_goes _ _ _ _
    · exact stepEvent_goes _ _ _ _
    · exact stepCore_goes _ _
    · exact stepQuiet_goes _

/-- Without power nothing but POWER_UP happens. -/
theorem step_dark_cases (s : State) (h : s.power = false) :
    (∃ image r, s.agenda = .event (.powerUp image) :: r ∧ Goes (step s)) ∨
    ((∀ image r, s.agenda ≠ .event (.powerUp image) :: r) ∧ step s = .fault .poweredOff) := by
  rw [step_dark s h]
  split
  · next image r ha => exact .inl ⟨image, r, ha, exec_goes _ _⟩
  · next hn => exact .inr ⟨hn, rfl⟩

/-- Settles O58: every row answers a next state, so a step faults only without power. -/
theorem neverStops : Obligations.NeverStops := by
  unfold Obligations.NeverStops
  refine ⟨exec_goes, fun s => ?_, fun s r => ?_⟩
  · cases h : s.power with
    | true => exact ⟨fun ⟨f, hf⟩ => absurd hf ((step_powered_goes s h).not_fault f), fun ⟨hp, _⟩ => absurd hp (by decide)⟩
    | false =>
      obtain ⟨image, r, ha, hg⟩ | ⟨hn, hf⟩ := step_dark_cases s h
      · exact ⟨fun ⟨f, hf⟩ => absurd hf (hg.not_fault f), fun ⟨_, hn⟩ => absurd ha (hn image r)⟩
      · exact ⟨fun _ => ⟨rfl, hn⟩, fun _ => ⟨_, hf⟩⟩
  · cases h : s.power with
    | true => exact (step_powered_goes s h).not_refused r
    | false =>
      obtain ⟨_, _, _, hg⟩ | ⟨_, hf⟩ := step_dark_cases s h
      · exact hg.not_refused r
      · rw [hf]
        exact nofun

end Sys2Proof.Machine
end

section
namespace Sys2Proof.Machine

/-! ### The delivered cause of an issue (R212, R45) -/

/-- Of two causes that a thread can raise, the one with the lower rank stands first in the order of R212. -/
theorem causeRank_lt_iff : ∀ c ∈ causeOrder, ∀ d ∈ causeOrder, causeRank c < causeRank d ↔ causeOrder.idxOf c < causeOrder.idxOf d := by
  decide

/-- The chosen trap is the first of the list with its cause, and no cause in the list comes before it. -/
theorem chosenTrap_first {l : List LaneTrap} (h : ∀ x ∈ l, x.cause ∈ causeOrder) (hne : l ≠ []) :
    ∃ x ∈ l, chosenTrap l = some x ∧ (∀ y ∈ l, causeOrder.idxOf x.cause ≤ causeOrder.idxOf y.cause) ∧
      (l.find? fun y => y.cause == x.cause) = some x := by
  induction l with
  | nil => exact absurd rfl hne
  | cons a r ih =>
    obtain ⟨ha, hr⟩ := List.forall_mem_cons.mp h
    by_cases hnil : r = []
    · subst hnil
      exact ⟨a, by simp, rfl, by simp, by simp⟩
    · obtain ⟨b, hb, hchosen, hleast, hfind⟩ := ih hr hnil
      have hrank := causeRank_lt_iff b.cause (hr b hb) a.cause ha
      by_cases hlt : causeRank b.cause < causeRank a.cause
      · have hab : a.cause ≠ b.cause := fun e => absurd hlt (by rw [e]; exact Nat.lt_irrefl _)
        refine ⟨b, List.mem_cons_of_mem a hb, by simp [chosenTrap, hchosen, hlt], ?_, by simp [hab, hfind]⟩
        exact List.forall_mem_cons.mpr ⟨(hrank.mp hlt).le, hleast⟩
      · refine ⟨a, by simp, by simp [chosenTrap, hchosen, hlt], ?_, by simp⟩
        have hle : causeOrder.idxOf a.cause ≤ causeOrder.idxOf b.cause := Nat.not_lt.mp (mt hrank.mpr hlt)
        exact List.forall_mem_cons.mpr ⟨le_rfl, fun y hy => hle.trans (hleast y hy)⟩

/-! ### Lanes of an issue that go on beside lanes that raise a cause (R134, R211) -/

section
variable {i : Instr} {st : Stall} {f : TCtx → Thread → TLane} {s : State} {t : TRef} {th th' : Thread}

/-- A lane that raises a cause is as the instruction left it, and its cause is noted. -/
theorem laneStep_local_trap {c sub : Nat} (ht : s.issuable t = some th) (hc : Checked i s t th) (hf : f (s.tctx t) th = .trap th' c sub)
    (l : List LaneTrap) : laneStep i st (localBody f) (s, l) t = (s.modThread t fun _ => th', l ++ [⟨t, c, sub, 0⟩]) := by
  simp only [laneStep, lane_checked hc ht, localBody, hf]

/-- A lane that goes on completes the instruction; the causes noted stay as they are. -/
theorem laneStep_local_next (ht : s.issuable t = some th) (hc : Checked i s t th) (hf : f (s.tctx t) th = .next th')
    (l : List LaneTrap) : laneStep i st (localBody f) (s, l) t = (s.goOn t st th', l) := by
  simp only [laneStep, lane_checked hc ht, localBody, hf, modThread_const]
  rfl

/-- Of two lanes the lower raises a cause and the higher completes. -/
theorem runLocal_trap_next {u : TRef} {a b a' b' : Thread} {c sub : Nat} (hne : t ≠ u) (hl : s.issue.lanes = [t, u])
    (ht : s.issuable t = some a) (hu : s.issuable u = some b) (hct : Checked i s t a) (hcu : Checked i s u b)
    (hft : f (s.tctx t) a = .trap a' c sub) (hfu : f (s.tctx u) b = .next b') :
    s.runLocal i st f = .next (((s.modThread t fun _ => a').goOn u st b').deliverIssued st [⟨t, c, sub, 0⟩] (some i)) := by
  have hs : OnlyThreads s (s.modThread t fun _ => a') := onlyThreads_modThread (.refl s) t _
  have hu' : (s.modThread t fun _ => a').issuable u = some b := by rw [hs.issuable (modThread_other s _ hne.symm), hu]
  rw [State.runLocal, State.runLanes]
  simp only [hl, List.head?_cons, Option.map_some, Option.getD_some, hct.aligned, List.foldl_cons, List.foldl_nil,
    laneStep_local_trap ht hct hft, laneStep_local_next hu' (hs.checked hcu) (by rw [hs.tctx]; exact hfu), List.nil_append]

end

/-- Settles O26: the chosen trap is the first of the least cause, and a lane that goes on does so beside one that traps. -/
theorem causeSelection : Obligations.CauseSelection := by
  unfold Obligations.CauseSelection
  refine ⟨fun l h hne => ?_, fun i st f s t u a b a' b' c sub hexec hne hl ht hu hct hcu hft hfu => ?_⟩
  · obtain ⟨x, hx, hchosen, hleast, hfind⟩ := chosenTrap_first h hne
    exact ⟨x, hx, hleast, hfind, by simp only [deliveredTraps, hchosen]⟩
  · rw [hexec, runLocal_trap_next hne hl ht hu hct hcu hft hfu]
    rfl

end Sys2Proof.Machine
end

section
namespace Sys2Proof.Machine

/-! ### A thread enters its handler (R215) -/

theorem setWidth_eq_append_zero (v : BitVec 48) : v.setWidth 64 = 0#16 ++ v := by
  apply BitVec.eq_of_toNat_eq
  rw [BitVec.toNat_append, BitVec.toNat_setWidth, Nat.mod_eq_of_lt (by omega)]
  simp

theorem truncate_eq_extractLsb' (pc : Addr) : pc.truncate 48 = pc.extractLsb' 0 48 := by
  apply BitVec.eq_of_toNat_eq
  simp

/-- The entries of a rejoin file do not say which threads have arrived (R137). -/
theorem unarrive_entries (k : Strand) (t : TRef) : (k.unarrive t).entries = k.entries := by
  simp [Strand.entries, Strand.unarrive]

section
variable {s : State} {t : TRef} {th : Thread} {cause sub : Nat} {mask : BitVec 64} {first : Nat} {word : Word}

/-- With a handler, and none entered, delivery changes the thread, and the arrival marks of its strand. -/
theorem takeTrap_handler (h : s.thread? t = some th) (hin : th.trap.inHandler = false) (hv : th.trap.vec ≠ 0) :
    ∃ g n, s.takeTrap t cause sub mask first word =
      (s.modThread t fun _ => { th.enterHandler cause sub mask first word with sig := g, recs := n }).modStrand t.blk th.strand
        fun k => k.unarrive t := by
  have hno : (th.trap.inHandler || th.trap.vec == 0#48) = false := by
    rw [hin, Bool.false_or]
    exact beq_false_of_ne hv
  simp only [State.takeTrap, h, hno]
  rw [modThread_known s h]
  exact ⟨_, _, rfl⟩

/-- What stands in the thread once it has entered its handler. -/
theorem takeTrap_thread (h : s.thread? t = some th) (hin : th.trap.inHandler = false) (hv : th.trap.vec ≠ 0) :
    ∃ g n, (s.takeTrap t cause sub mask first word).thread? t = some { th with
      trap := ⟨true, BitVec.ofNat 8 cause, th.pc.extractLsb' 0 48, mask, BitVec.ofNat 6 first, BitVec.ofNat 8 sub, word, th.trap.vec⟩,
      pc := 0#16 ++ th.trap.vec, park := none, hang := 0, again := false, sealed := false, sig := g, recs := n } := by
  obtain ⟨g, n, e⟩ := takeTrap_handler (cause := cause) (sub := sub) (mask := mask) (first := first) (word := word) h hin hv
  refine ⟨g, n, ?_⟩
  rw [e, modStrand_thread, modThread_get, h, Option.map_some, Thread.enterHandler, TrapRegs.taken, ← setWidth_eq_append_zero,
    ← truncate_eq_extractLsb']

/-- What a delivery to a handler leaves of the machine. -/
theorem takeTrap_handler_keeps (h : s.thread? t = some th) (hin : th.trap.inHandler = false) (hv : th.trap.vec ≠ 0) :
    let s' := s.takeTrap t cause sub mask first word
    (∀ u ≠ t, s'.thread? u = s.thread? u) ∧ s'.mem = s.mem ∧ s'.cores = s.cores ∧ s'.grids = s.grids ∧ s'.parts = s.parts ∧
      ∀ b k, (s'.strand? b k).map Strand.entries = (s.strand? b k).map Strand.entries := by
  obtain ⟨g, n, e⟩ := takeTrap_handler (cause := cause) (sub := sub) (mask := mask) (first := first) (word := word) h hin hv
  dsimp only
  rw [e]
  refine ⟨fun u hu => by rw [modStrand_thread, modThread_other s _ hu], by simp, by simp, by simp, by simp, fun b k => ?_⟩
  rw [modStrand_strand_keeps Strand.entries fun x => unarrive_entries x t, modThread_strand]

end

/-! ### A block is stopped (R215, R218) -/

/-- One copy of a block is stopped: a step of `State.stopBlock`. -/
def State.stopCopy (status : Nat) (s : State) (k : Nat) : State :=
  ((((s.splitBlock k).unfile k).forgetLanes k).modBlock k fun b =>
    { b with status := if b.status = 0 then status else b.status,
             threads := b.threads.map fun t => { t with live := false, park := t.park.bind Park.afterStop, filed := false } }).want
    (.blockEnd k)

theorem stopBlock_eq (s : State) (blk status : Nat) : s.stopBlock blk status =
    match (s.blocks[blk]?).bind Block.partner with
    | some p => (s.stopCopy status blk).stopCopy status p
    | none => s.stopCopy status blk := rfl

section
variable {s : State} {k : Nat} {b : Block}

theorem splitBlock_block (hb : s.blocks[k]? = some b) (blk : Nat) :
    ∃ l, (s.splitBlock blk).blocks[k]? = some { b with strands := l } := by
  unfold State.splitBlock
  dsimp only
  split
  · exact ⟨b.strands, hb⟩
  · exact ⟨_, by rw [List.getElem?_map, List.getElem?_zipIdx, hb]; rfl⟩

/-- What a block gives up when another, or itself, is stopped: strands that they share, and operations held together. -/
theorem leftStopped_block (hb : s.blocks[k]? = some b) (blk : Nat) :
    ∃ l h, (((s.splitBlock blk).unfile blk).forgetLanes blk).blocks[k]? = some { b with strands := l, held := h } := by
  obtain ⟨l, hl⟩ := splitBlock_block hb blk
  obtain ⟨h, hh⟩ := forgetLanes_block (s := (s.splitBlock blk).unfile blk) hl blk
  exact ⟨l, h, hh⟩

/-- The stopped block has its status, and no live thread. -/
theorem stopCopy_self (hb : s.blocks[k]? = some b) (status : Nat) : ∃ x, (s.stopCopy status k).blocks[k]? = some x ∧
    x.status = (if b.status = 0 then status else b.status) ∧ ∀ th ∈ x.threads, th.live = false := by
  obtain ⟨l, h, hx⟩ := leftStopped_block hb k
  refine ⟨_, by rw [State.stopCopy, want_blocks, modBlock_get, hx]; rfl, rfl, fun th hth => ?_⟩
  obtain ⟨y, -, rfl⟩ := List.mem_map.mp hth
  rfl

/-- Any other block keeps its status and its threads. -/
theorem stopCopy_other (hb : s.blocks[k]? = some b) (status : Nat) {p : Nat} (hp : k ≠ p) : ∃ x, (s.stopCopy status p).blocks[k]? = some x ∧
    x.status = b.status ∧ x.threads = b.threads := by
  obtain ⟨l, h, hx⟩ := leftStopped_block hb p
  refine ⟨{ b with strands := l, held := h }, ?_, rfl, rfl⟩
  rw [State.stopCopy, want_blocks, modBlock_other _ _ hp, hx]

end

@[simp] theorem splitBlock_work (s : State) (k : Nat) : (s.splitBlock k).work = s.work := by
  unfold State.splitBlock
  dsimp only
  split <;> rfl

theorem stopCopy_asks (s : State) (status k : Nat) : Event.blockEnd k ∈ (s.stopCopy status k).work := want_asked _ _

theorem stopCopy_keeps_asked {s : State} {e : Event} (h : e ∈ s.work) (status k : Nat) : e ∈ (s.stopCopy status k).work :=
  want_keeps _ (show e ∈ (s.splitBlock k).work by rw [splitBlock_work]; exact h)

/-- Every thread of a stopped block has ended, with its status, and its end is asked for. -/
theorem stopBlock_ends {s : State} {blk : Nat} {b : Block} (hb : s.blocks[blk]? = some b) (status : Nat) :
    ∃ x, (s.stopBlock blk status).blocks[blk]? = some x ∧ x.status = (if b.status = 0 then status else b.status) ∧
      (∀ th ∈ x.threads, th.live = false) ∧ Event.blockEnd blk ∈ (s.stopBlock blk status).work := by
  obtain ⟨x, hx, hstatus, hlive⟩ := stopCopy_self hb status
  have hasked := stopCopy_asks s status blk
  rw [stopBlock_eq]
  split
  · next p _ =>
    have hasked' := stopCopy_keeps_asked hasked status p
    by_cases hp : blk = p
    · subst hp
      obtain ⟨y, hy, hys, hyl⟩ := stopCopy_self hx status
      refine ⟨y, hy, ?_, hyl, hasked'⟩
      rw [hys, hstatus]
      split_ifs <;> rfl
    · obtain ⟨y, hy, hys, hyt⟩ := stopCopy_other hx status hp
      exact ⟨y, hy, hys.trans hstatus, by rw [hyt]; exact hlive, hasked'⟩
  · exact ⟨x, hx, hstatus, hlive, hasked⟩

/-- Without a handler, or in one already, the block is stopped with Aborted. -/
theorem takeTrap_aborts {s : State} {t : TRef} {th : Thread} (h : s.thread? t = some th) (hno : th.trap.inHandler = true ∨ th.trap.vec = 0)
    (cause sub : Nat) (mask : BitVec 64) (first : Nat) (word : Word) :
    s.takeTrap t cause sub mask first word = s.stopBlock t.blk 0x0006 := by
  have hc : (th.trap.inHandler || th.trap.vec == 0#48) = true := by rcases hno with h | h <;> simp [h]
  simp only [State.takeTrap, h, hc, if_true]

/-! ### Causes that the system handles leave the trap registers (R79, R206, R246, R272) -/

/-- The trap registers of every thread. -/
def State.traps (s : State) (u : TRef) : Option TrapRegs := (s.thread? u).map (·.trap)

theorem traps_of_threads {s s' : State} (h : ∀ u, s'.thread? u = s.thread? u) : s'.traps = s.traps := by
  funext u
  rw [State.traps, h]
  rfl

theorem foldl_traps {α : Type} {f : State → α → State} (h : ∀ s a, (f s a).traps = s.traps) (l : List α) (s : State) :
    (l.foldl f s).traps = s.traps :=
  foldl_keeps (P := fun x => x.traps = s.traps) (fun a x hs => (h a x).trans hs) l rfl

theorem modThread_traps (s : State) (t : TRef) {f : Thread → Thread} (hf : ∀ x, (f x).trap = x.trap) : (s.modThread t f).traps = s.traps := by
  funext u
  by_cases hu : u = t
  · subst hu
    rw [State.traps, modThread_get, Option.map_map, State.traps]
    congr 1
    funext x
    exact hf x
  · rw [State.traps, modThread_other s f hu, State.traps]

@[simp] theorem setReg_trap (th : Thread) (a : Nat) (r : Reg) : (th.setReg a r).trap = th.trap := by
  unfold Thread.setReg; split <;> rfl

@[simp] theorem settleResults_trap (th : Thread) : th.settleResults.trap = th.trap :=
  foldl_keeps (P := fun x : Thread => x.trap = th.trap) (fun x p hx => by split <;> simp [hx]) th.pend rfl

@[simp] theorem parkAt_traps (s : State) (t : TRef) (p : Park) : (s.parkAt t p).traps = s.traps := modThread_traps s t fun _ => rfl
@[simp] theorem want_traps (s : State) (e : Event) : (s.want e).traps = s.traps := traps_of_threads (want_thread s e)
@[simp] theorem notify_traps (s : State) (p duty : Nat) (args : List Nat) (w : Option HostEvent) : (s.notify p duty args w).traps = s.traps := rfl

@[simp] theorem completeEarlier_traps (s : State) (l : List LaneTrap) : (s.completeEarlier l).traps = s.traps :=
  foldl_traps (f := fun s (x : LaneTrap) => s.modThread x.t Thread.settleResults) (fun s x => modThread_traps s x.t settleResults_trap) l s

theorem askSave_traps (blk : Nat) (why : SaveWhy) (s : State) (k : Nat) : (s.askSave blk why k).traps = s.traps := by
  unfold State.askSave
  split
  · rfl
  · split
    · exact traps_of_threads (modBlock_thread s k fun _ => rfl)
    · rfl

@[simp] theorem requestSave_traps (s : State) (blk : Nat) (why : SaveWhy) : (s.requestSave blk why).traps = s.traps :=
  foldl_traps (askSave_traps blk why) _ s

/-- A save, a wait for a duty or a notice is what such a cause leads to. -/
theorem deliver_traps {x : Nat} (hx : x ∈ [0x04, 0x1A, 0x22, 0x23, 0x40, 0x41]) (s : State) {l : List LaneTrap} (hl : ∀ y ∈ l, y.cause = x)
    (i : Option Instr) : (s.deliver l i).traps = s.traps := by
  cases l with
  | nil => rfl
  | cons y r =>
    have hy : y.cause ∈ [0x04, 0x1A, 0x22, 0x23, 0x40, 0x41] := by rw [hl y (by simp)]; exact hx
    have fold : ∀ {α : Type} {f : State → α → State} (l : List α) {s0 : State}, (∀ s a, (f s a).traps = s.traps) →
        s0.traps = s.traps → (l.foldl f s0).traps = s.traps := fun l s0 hf h => (foldl_traps hf l s0).trans h
    unfold State.deliver
    dsimp only
    split
    case h_1 | h_2 | h_3 => simp
    case h_4 => exact fold _ (fun _ _ => by simp) (by split <;> simp)
    case h_5 => exact fold _ (fun _ _ => by simp) (by simp)
    case h_6 => exact fold _ (fun _ _ => by split <;> simp) (fold _ (fun _ _ => by split <;> simp) (by simp))
    case h_7 hpoison =>
      rw [hpoison] at hy
      exact absurd hy (by decide)
    case h_8 _ h22 h23 h40 h04 h1A h41 _ =>
      simp only [List.mem_cons, List.not_mem_nil, or_false] at hy
      rcases hy with h | h | h | h | h | h
      exacts [(h04 h).elim, (h1A h).elim, (h22 h).elim, (h23 h).elim, (h40 h).elim, (h41 h).elim]

/-- Settles O25: delivery enters the handler, or stops the block, or, where the system handles the cause, leaves the trap registers. -/
theorem trapEntry : Obligations.TrapEntry := by
  unfold Obligations.TrapEntry
  intro s t th cause sub first mask word h
  refine ⟨fun hin hv => ⟨takeTrap_thread h hin hv, takeTrap_handler_keeps h hin hv⟩, fun hno b hb => ?_, fun x hx l i hl u => ?_⟩
  · rw [takeTrap_aborts h hno]
    exact stopBlock_ends hb 6
  · exact congrFun (deliver_traps hx s hl i) u

end Sys2Proof.Machine
end

section
namespace Sys2Proof.Machine

/-! ### The results of a thread's earlier instructions arrive (R211)

Only registers and what is on its way change, so the arrival may be told apart from whatever else an issue does to the thread. -/

/-- Registers after the results on their way have arrived. -/
def settledRegs (l : List Pending) (regs : List Reg) : List Reg :=
  l.foldl (fun r p => if p.held || p.dead || p.reg == 0 then r else r.set p.reg p.res) regs

theorem settleResults_eq (th : Thread) :
    th.settleResults = { th with regs := settledRegs th.pend th.regs, pend := th.pend.filter (·.held) } := by
  have fold : ∀ (l : List Pending) (x : Thread),
      l.foldl (fun t p => if p.held || p.dead then t else t.setReg p.reg p.res) x = { x with regs := settledRegs l x.regs } := by
    intro l
    induction l with
    | nil => exact fun _ => rfl
    | cons p r ih =>
      intro x
      rw [List.foldl_cons, ih, settledRegs, settledRegs, List.foldl_cons, Thread.setReg]
      by_cases hp : p.held || p.dead
      · simp [hp]
      · by_cases h0 : p.reg = 0 <;> simp [hp, h0]
  rw [Thread.settleResults, fold]

/-! ### One delivered lane (R214, R215) -/

/-- The lowest bit of a mask of one lane is that lane. -/
theorem lowestBit_lane {n : Nat} (h : n < 64) : lowestBit (1#64 <<< n) = n := by
  have hfind : (List.range 64).find? (1#64 <<< n).getLsbD = some n := by
    rw [List.find?_range_eq_some]
    refine ⟨by simp [h], List.mem_range.mpr h, fun j hj => ?_⟩
    simp [hj]
  rw [lowestBit, hfind]
  rfl

theorem trapMask_one {s : State} {x : LaneTrap} {th : Thread} (h : s.thread? x.t = some th) : s.trapMask [x] = 1#64 <<< th.lane := by
  simp [State.trapMask, h]

section
variable {s : State} {t : TRef} {th : Thread}

/-- Where one lane has raised a cause, it observes the stall count, and its cause is delivered. -/
theorem deliverIssued_one {c sub : Nat} (hc : c ≠ 0x24) (s : State) (st : Stall) (t : TRef) (aux : Nat) (i : Option Instr) :
    s.deliverIssued st [⟨t, c, sub, aux⟩] i = (s.modThread t (Thread.stalled st)).deliver [⟨t, c, sub, aux⟩] i := by
  simp only [State.deliverIssued, deliveredTraps_one, List.foldl_cons, List.foldl_nil, State.markErrors, hc, false_and, if_false]

/-- The thread of the delivered lane once its earlier instructions have completed. -/
theorem stalled_settled_thread (h : s.thread? t = some th) (st : Stall) :
    ((s.modThread t (Thread.stalled st)).modThread t Thread.settleResults).thread? t = some (th.stalled st).settleResults := by
  rw [modThread_get, modThread_get, h]
  rfl

/-- TRAP and BRK enter the handler of a thread that can take a trap. -/
theorem deliverIssued_handled {c : Nat} (hc : c = 0x18 ∨ c = 0x19) (h : s.thread? t = some th) (hcan : th.canTrap) (st : Stall) (sub : Nat)
    (i : Option Instr) :
    Handled (s.deliverIssued st [⟨t, c, sub, 0⟩] i) t { th with stall := st.toNat } c sub s.issue.word := by
  obtain ⟨hlane, hin, hv⟩ := hcan
  have h1 := stalled_settled_thread h st
  have hsettled := settleResults_eq (th.stalled st)
  have htrap : (th.stalled st).settleResults.trap = th.trap := settleResults_trap _
  obtain ⟨g, n, e⟩ := takeTrap_thread (cause := c) (sub := sub) (mask := 1#64 <<< th.lane) (first := th.lane) (word := s.issue.word) h1
    (by rw [htrap]; exact hin) (by rw [htrap]; exact hv)
  have hmask : ((s.modThread t (Thread.stalled st)).modThread t Thread.settleResults).trapMask [⟨t, c, sub, 0⟩] = 1#64 <<< th.lane := by
    rw [trapMask_one h1, hsettled]
    rfl
  have hdeliver : s.deliverIssued st [⟨t, c, sub, 0⟩] i =
      ((s.modThread t (Thread.stalled st)).modThread t Thread.settleResults).takeTrap t c sub (1#64 <<< th.lane) th.lane s.issue.word := by
    rw [deliverIssued_one (by omega), ← hmask]
    conv_rhs => rw [← lowestBit_lane hlane, ← hmask]
    rcases hc with rfl | rfl <;> rfl
  refine ⟨g, n, ?_⟩
  rw [hdeliver, e, settleResults_eq, settleResults_eq]
  rfl

/-- SVC parks its thread, and its service is asked for. -/
theorem deliverIssued_service (h : s.thread? t = some th) (st : Stall) (code : Nat) (i : Option Instr) :
    (s.deliverIssued st [⟨t, 0x1A, code, 0⟩] i).thread? t =
      some { th.settleResults with park := some (.service code), stall := st.toNat, again := false } ∧
    Event.serviceCallPerform t.blk t.tid ∈ (s.deliverIssued st [⟨t, 0x1A, code, 0⟩] i).work := by
  have hdeliver : s.deliverIssued st [⟨t, 0x1A, code, 0⟩] i =
      (((s.modThread t (Thread.stalled st)).modThread t Thread.settleResults).parkAt t (.service code)).want
        (.serviceCallPerform t.blk t.tid) := deliverIssued_one (by decide) s st t 0 i
  rw [hdeliver]
  refine ⟨?_, want_asked _ _⟩
  rw [want_thread, State.parkAt, modThread_get, stalled_settled_thread h, Option.map_some, settleResults_eq, settleResults_eq]
  rfl

end

/-! ### The return from a handler (R216, R273) -/

theorem resumePc_eq (th : Thread) : th.resumePc = 0#16 ++ th.trap.epc := setWidth_eq_append_zero _

@[simp] theorem putNow_trap (th : Thread) (a : Nat) (r : Reg) : (th.putNow a r).trap = th.trap := setReg_trap _ a r

@[simp] theorem putNow_wb (th : Thread) (a : Nat) (r : Reg) : (th.putNow a r).wb = th.wb := by
  unfold Thread.putNow Thread.setReg
  split <;> rfl

/-- Writing the registers of a group does not move the window that names them. -/
theorem foldl_putNow_wb (d : RegName) (r : Reg) (l : List Nat) (th : Thread) :
    l.foldl (fun t i => t.putNow (archOf t.wb (member d i)) r) th = l.foldl (fun t i => t.putNow (archOf th.wb (member d i)) r) th := by
  have key : ∀ x : Thread, x.wb = th.wb →
      l.foldl (fun t i => t.putNow (archOf t.wb (member d i)) r) x = l.foldl (fun t i => t.putNow (archOf th.wb (member d i)) r) x := by
    induction l with
    | nil => exact fun _ _ => rfl
    | cons i l ih =>
      intro x hx
      rw [List.foldl_cons, List.foldl_cons, hx]
      exact ih _ (by rw [putNow_wb, hx])
  exact key th rfl

section
variable {lw : Nat} {th : Thread} {v : Word}

/-- A substitution without a destination is a skip. -/
theorem resumeSubst_none (h : (decode th.trap.inst).bind (Instr.dest lw) = none) : th.resumeSubst lw v = th.resume true := by
  simp only [Thread.resumeSubst, h]

/-- A substitution writes the destination, and is otherwise a skip. -/
theorem resumeSubst_some {d : RegName} {n : Nat} (h : (decode th.trap.inst).bind (Instr.dest lw) = some (d, n)) :
    th.resumeSubst lw v = ((List.range n).foldl (fun t i => t.putNow (archOf th.wb (member d i)) (Reg.plain v)) th).resume true := by
  simp only [Thread.resumeSubst, h]
  rw [foldl_putNow_wb]

/-- The registers that a substitution writes do not change where it resumes. -/
theorem resume_skip_pc {l : List Nat} {g : Nat → Nat} {r : Reg} :
    ((l.foldl (fun (t : Thread) i => t.putNow (g i) r) th).resume true).pc = 0#16 ++ th.trap.epc + 4 := by
  have htrap : (l.foldl (fun (t : Thread) i => t.putNow (g i) r) th).trap = th.trap :=
    foldl_keeps (P := fun x : Thread => x.trap = th.trap) (fun x i hx => by rw [putNow_trap, hx]) l rfl
  rw [← htrap, ← resumePc_eq]
  rfl

end

section
variable {i : Instr} {st : Stall} {s : State} {t : TRef} {th : Thread} {f : State → TRef → Thread → Thread}

/-- In a handler an ERET form makes its change of the thread. -/
theorem eretForm_returns (h : OneLane i s t th) (hin : th.trap.inHandler = true) (hexec : exec i s = s.run i st (eretForm f)) :
    ∃ s', exec i s = .next s' ∧ s'.mem = s.mem ∧ s'.thread? t = some ((f s t th).issued st s.issue.word) := by
  refine ⟨_, hexec.trans (run_one h st _), ?_⟩
  simp only [eretForm, hin, if_true, transferOut, afterLane]
  refine ⟨by simp, ?_⟩
  rw [modThread_get, modStrand_thread, modThread_get, issuable_thread h.thread, Option.map_some, Option.map_some, modStrand_issue]
  rfl

/-- Outside a handler it raises IllegalInstruction. -/
theorem eretForm_outside (h : OneLane i s t th) (hin : th.trap.inHandler = false) (hexec : exec i s = s.run i st (eretForm f)) :
    exec i s = .next (s.deliverIssued st [⟨t, 0x01, 0x01, 0⟩] (some i)) := by
  rw [hexec, run_one h, eretForm, hin]
  rfl

end

/-- Settles O28: each instruction by what its one lane raises, or by the return that it makes. -/
theorem trapsAndReturns : Obligations.TrapsAndReturns := by
  unfold Obligations.TrapsAndReturns
  intro a code st s t th
  refine ⟨fun hcan => ⟨fun h => ?_, fun h => ?_⟩, fun h => ?_, fun hin => ⟨fun h => ?_, fun h => ?_, fun h => ?_⟩, fun hin i hi h => ?_⟩
  · refine ⟨_, run_one h st _, ?_⟩
    have ht : (s.modStrand t.blk th.strand Strand.leaveLoop).thread? t = some th := by rw [modStrand_thread, issuable_thread h.thread]
    have := deliverIssued_handled (.inl rfl) ht hcan st code.toNat (some (.trap code st))
    rwa [modStrand_issue] at this
  · exact ⟨_, run_one h st _, deliverIssued_handled (.inr rfl) (issuable_thread h.thread) hcan st code.toNat _⟩
  · exact ⟨_, run_one h st _, deliverIssued_service (by rw [modStrand_thread, issuable_thread h.thread]) st code.toNat _⟩
  · obtain ⟨s', he, hm, ht⟩ := eretForm_returns (st := st) h hin rfl
    exact ⟨s', he, hm, by rw [ht, Thread.resume, resumePc_eq]; rfl⟩
  · obtain ⟨s', he, hm, ht⟩ := eretForm_returns (st := st) h hin rfl
    exact ⟨s', he, hm, by rw [ht, Thread.resume, resumePc_eq]; rfl⟩
  · obtain ⟨s', he, hm, ht⟩ := eretForm_returns (st := st) h hin rfl
    refine ⟨s', he, hm, ht, fun hd => ?_, fun d n hd => ?_⟩
    · rw [ht, resumeSubst_none hd, Option.map_some, ← resumePc_eq]
      rfl
    · rw [ht, resumeSubst_some hd, Option.map_some, ← resume_skip_pc]
      rfl
  · simp only [List.mem_cons, List.not_mem_nil, or_false] at hi
    rcases hi with rfl | rfl | rfl <;> exact eretForm_outside h hin rfl

end Sys2Proof.Machine
end

section
namespace Sys2Proof

/-! ### Decoding undoes encoding (R222 to R244)

The fields of every encoded instruction are read back under its major and minor opcode; the lemmas say which codes and joined
immediates the reading meets. -/

@[simp] theorem AtomKind.ofBits_bits (k : AtomKind) : AtomKind.ofBits k.bits = some k := by
  obtain ⟨op, ty, acqrel⟩ := k
  cases op <;> cases ty <;> cases acqrel <;> rfl

/-! The immediates and numbers that the parts of a field join to (R223, R224, R242). -/

section
variable (o d a b : BitVec 7) (w st : BitVec 2)

theorem Fields.imm9_parts (x : BitVec 9) : Fields.imm9 ⟨o, d, a, x.extractLsb' 2 7, x.extractLsb' 0 2, st⟩ = x := imm9_join x

theorem Fields.imm16_parts (x : BitVec 16) : Fields.imm16 ⟨o, d, x.extractLsb' 9 7, x.extractLsb' 2 7, x.extractLsb' 0 2, st⟩ = x :=
  imm16_join x

theorem Fields.off23_parts (x : BitVec 23) :
    Fields.off23 ⟨o, x.extractLsb' 16 7, x.extractLsb' 9 7, x.extractLsb' 2 7, x.extractLsb' 0 2, st⟩ = x := off23_join x

theorem Fields.imm5_parts (x : BitVec 5) : Fields.imm5 ⟨o, d, a, 0#4 ++ x.extractLsb' 2 3, x.extractLsb' 0 2, st⟩ = x := by
  change ((0#4 ++ x.extractLsb' 2 3) ++ x.extractLsb' 0 2).extractLsb' 0 5 = x
  revert x; decide

theorem Fields.code8_parts (x : BitVec 8) : Fields.code8 ⟨o, d, a, 0#1 ++ x.extractLsb' 2 6, x.extractLsb' 0 2, st⟩ = x := by
  change ((0#1 ++ x.extractLsb' 2 6) ++ x.extractLsb' 0 2).extractLsb' 0 8 = x
  revert x; decide

theorem Fields.bLo4_parts (h : BitVec 3) (k : BitVec 4) : Fields.bLo4 ⟨o, d, a, h ++ k, w, st⟩ = k := by
  change (h ++ k).extractLsb' 0 4 = k
  revert h k; decide

theorem Fields.bLo3_parts (h : BitVec 4) (q : BitVec 3) : Fields.bLo3 ⟨o, d, a, h ++ q, w, st⟩ = q := by
  change (h ++ q).extractLsb' 0 3 = q
  revert h q; decide

theorem Fields.wLow_parts (h : BitVec 1) (p : Bool) : (Fields.wLow ⟨o, d, a, b, h ++ BitVec.ofBool p, st⟩ == 1#1) = p := by
  change ((h ++ BitVec.ofBool p).extractLsb' 0 1 == 1#1) = p
  revert h p; decide

theorem Fields.bLow_parts (h : BitVec 6) (p : Bool) : (Fields.bLow ⟨o, d, a, h ++ BitVec.ofBool p, w, st⟩ == 1#1) = p := by
  change ((h ++ BitVec.ofBool p).extractLsb' 0 1 == 1#1) = p
  revert h p; decide

theorem Fields.aLow_parts (h : BitVec 6) (p : Bool) : (Fields.aLow ⟨o, d, h ++ BitVec.ofBool p, b, w, st⟩ == 1#1) = p := by
  change ((h ++ BitVec.ofBool p).extractLsb' 0 1 == 1#1) = p
  revert h p; decide

theorem Fields.bHi3_parts (x y : BitVec 3) (z : BitVec 1) : Fields.bHi3 ⟨o, d, a, x ++ y ++ z, w, st⟩ = x := by
  change (x ++ y ++ z).extractLsb' 4 3 = x
  revert x y z; decide

theorem Fields.bMid3_parts (x y : BitVec 3) (z : BitVec 1) : Fields.bMid3 ⟨o, d, a, x ++ y ++ z, w, st⟩ = y := by
  change (x ++ y ++ z).extractLsb' 1 3 = y
  revert x y z; decide

end

/-! The majors whose minor opcodes are told apart by more than one field, as one chain of choices. -/

section
variable (d a b : BitVec 7) (w st : BitVec 2)

/-- LANE (R236). -/
theorem decodeFields_lane : decodeFields ⟨0x2e#7, d, a, b, w, st⟩ =
      if b == 0#7 && w == 0#2 then some (.voteany d a st) else
      if b == 1#7 && w == 0#2 then some (.voteall d a st) else
      if b == 2#7 && w == 0#2 then some (.ballot d a st) else
      if a == 0#7 && b == 3#7 && w == 0#2 then some (.active d st) else
      if b == 4#7 && w == 0#2 then some (.matchLanes d a st) else
      if b == 5#7 && w == 0#2 then some (.first d a st) else none := rfl

/-- ERET (R273). -/
theorem decodeFields_eret : decodeFields ⟨0x42#7, d, a, b, w, st⟩ =
      if d == 0#7 && a == 0#7 && b == 0#7 && w == 0#2 then some (.eretRetry st) else
      if d == 0#7 && a == 0#7 && b == 0#7 && w == 1#2 then some (.eretSkip st) else
      if d == 0#7 && b == 0#7 && w == 2#2 then some (.eretSubst a st) else none := rfl

/-- PLY (R239). -/
theorem decodeFields_ply : decodeFields ⟨0x57#7, d, a, b, w, st⟩ =
      if b &&& 0x70#7 == 0#7 && w == 0#2 then some (.plyget d a (Fields.bLo4 ⟨0x57#7, d, a, b, w, st⟩) st) else
      if b &&& 0x70#7 == 0x10#7 && w == 0#2 then some (.plyset d a (Fields.bLo4 ⟨0x57#7, d, a, b, w, st⟩) st) else
      if a == 0#7 && b &&& 0x70#7 == 0x20#7 && w == 0#2 then some (.plyzero d (Fields.bLo4 ⟨0x57#7, d, a, b, w, st⟩) st) else
      if a == 0#7 && b == 0x30#7 && w == 0#2 then some (.plylose d st) else
      if b == 0x40#7 && w == 0#2 then some (.plytag d a st) else
      if a == 0#7 && b == 0x50#7 && w == 0#2 then some (.plyclrk d st) else none := rfl

/-- FENCE (R240). -/
theorem decodeFields_fence : decodeFields ⟨0x69#7, d, a, b, w, st⟩ =
      if d == 0#7 && a == 0#7 && b &&& 0x70#7 == 0#7 && w == 0#2 then (Scope.ofCode (Fields.bLo4 ⟨0x69#7, d, a, b, w, st⟩).toNat).bind fun sc => some (.fenceAcq sc st) else
      if d == 0#7 && a == 0#7 && b &&& 0x70#7 == 0x10#7 && w == 0#2 then (Scope.ofCode (Fields.bLo4 ⟨0x69#7, d, a, b, w, st⟩).toNat).bind fun sc => some (.fenceRel sc st) else
      if d == 0#7 && a == 0#7 && b &&& 0x70#7 == 0x20#7 && w == 0#2 then (Scope.ofCode (Fields.bLo4 ⟨0x69#7, d, a, b, w, st⟩).toNat).bind fun sc => some (.fenceAcqrel sc st) else
      if d == 0#7 && a == 0#7 && b &&& 0x70#7 == 0x30#7 && w == 0#2 then (Scope.ofCode (Fields.bLo4 ⟨0x69#7, d, a, b, w, st⟩).toNat).bind fun sc => some (.fenceSc sc st) else
      if d == 0#7 && a == 0#7 && b &&& 0x70#7 == 0x40#7 && w == 0#2 then (Scope.ofCode (Fields.bLo4 ⟨0x69#7, d, a, b, w, st⟩).toNat).bind fun sc => some (.fenceIfetch sc st) else
      if d == 0#7 && a == 0#7 && b &&& 0x70#7 == 0x50#7 && w == 0#2 then (Scope.ofCode (Fields.bLo4 ⟨0x69#7, d, a, b, w, st⟩).toNat).bind fun sc => some (.fenceTable sc st) else none := rfl

/-- SYNC (R242). -/
theorem decodeFields_sync : decodeFields ⟨0x71#7, d, a, b, w, st⟩ =
      if d == 0#7 && a &&& 0x7e#7 == 0#7 then some (.qacq ((Fields.aLow ⟨0x71#7, d, a, b, w, st⟩) == 1#1) (Fields.imm9 ⟨0x71#7, d, a, b, w, st⟩) st) else
      if a &&& 0x7e#7 == 8#7 then some (.qfill d ((Fields.aLow ⟨0x71#7, d, a, b, w, st⟩) == 1#1) (Fields.imm9 ⟨0x71#7, d, a, b, w, st⟩) st) else
      if a &&& 0x7e#7 == 0x10#7 then some (.qtake d ((Fields.aLow ⟨0x71#7, d, a, b, w, st⟩) == 1#1) (Fields.imm9 ⟨0x71#7, d, a, b, w, st⟩) st) else
      if d == 0#7 && a &&& 0x7e#7 == 0x18#7 then some (.qdone ((Fields.aLow ⟨0x71#7, d, a, b, w, st⟩) == 1#1) (Fields.imm9 ⟨0x71#7, d, a, b, w, st⟩) st) else
      if a &&& 0x7e#7 == 0x20#7 then some (.qtry d ((Fields.aLow ⟨0x71#7, d, a, b, w, st⟩) == 1#1) (Fields.imm9 ⟨0x71#7, d, a, b, w, st⟩) st) else
      if a &&& 0x78#7 == 0x28#7 then (BarLevel.ofBits (Fields.aLo3 ⟨0x71#7, d, a, b, w, st⟩)).bind fun l => some (.bararr d l (Fields.imm9 ⟨0x71#7, d, a, b, w, st⟩) st) else
      if d == 0#7 && a &&& 0x78#7 == 0x30#7 then (BarLevel.ofBits (Fields.aLo3 ⟨0x71#7, d, a, b, w, st⟩)).bind fun l => some (.barwait l (Fields.imm9 ⟨0x71#7, d, a, b, w, st⟩) st) else
      if a &&& 0x78#7 == 0x38#7 then (BarLevel.ofBits (Fields.aLo3 ⟨0x71#7, d, a, b, w, st⟩)).bind fun l => some (.bar d l (Fields.imm9 ⟨0x71#7, d, a, b, w, st⟩) st) else
      if d == 0#7 && a == 0x40#7 then some (.qfence (Fields.imm9 ⟨0x71#7, d, a, b, w, st⟩) st) else none := rfl

/-- MCTL (R243). -/
theorem decodeFields_mctl : decodeFields ⟨0x79#7, d, a, b, w, st⟩ =
      if d == 0#7 && a == 0#7 && b == 0#7 && w == 0#2 then some (.mzero st) else
      if d == 0#7 && b == 1#7 && w == 0#2 then some (.mloadc a st) else
      if b == 2#7 && w == 0#2 then some (.mhist d a st) else
      if a == 0#7 && b == 3#7 && w == 0#2 then some (.mhclr d st) else
      if a == 0#7 && b == 4#7 && w == 0#2 then some (.mwait d st) else none := rfl

/-- GFX (R243). -/
theorem decodeFields_gfx : decodeFields ⟨0x7b#7, d, a, b, w, st⟩ =
      if b == 0#7 && w &&& 2#2 == 0#2 then some (.texf d a ((Fields.wLow ⟨0x7b#7, d, a, b, w, st⟩) == 1#1) st) else
      if b == 1#7 && w == 0#2 then some (.lins d a st) else
      if b == 2#7 && w == 0#2 then some (.lres d a st) else
      if b == 3#7 && w == 0#2 then some (.lcnt d a st) else
      if d == 0#7 && b == 4#7 && w == 0#2 then some (.lclr a st) else
      if b == 5#7 && w == 0#2 then some (.ztest d a st) else
      if d == 0#7 && b == 6#7 && w == 0#2 then some (.omerge a st) else
      if b == 7#7 && w == 0#2 then some (.vemit d a st) else
      if d == 0#7 && b == 8#7 && w == 0#2 then some (.pemit a st) else
      if b == 9#7 && w == 0#2 then some (.draw d a st) else
      if b == 10#7 && w == 0#2 then some (.lcomp d a st) else none := rfl

/-- TRV (R243). -/
theorem decodeFields_trv : decodeFields ⟨0x7c#7, d, a, b, w, st⟩ =
      if b == 0#7 && w == 0#2 then some (.trvbox d a st) else
      if b == 1#7 && w == 0#2 then some (.trvtri d a st) else
      if b == 2#7 && w == 0#2 then some (.trvomm d a st) else
      if d == 0#7 && b == 3#7 && w == 0#2 then some (.trvpush a st) else
      if a == 0#7 && b == 4#7 && w == 0#2 then some (.trvpop d st) else
      if b == 5#7 && w == 0#2 then some (.trvstep d a st) else none := rfl

end

/-! The bits of a field above a part of it. -/

theorem imm5_high (x : BitVec 5) : (0#4 ++ x.extractLsb' 2 3) &&& 0x78#7 = 0#7 := by
  revert x; decide

theorem code8_high (x : BitVec 8) : (0#1 ++ x.extractLsb' 2 6) &&& 0x40#7 = 0#7 := by
  revert x; decide

theorem number4_high (h : BitVec 3) (k : BitVec 4) : (h ++ k) &&& 0x70#7 = h ++ 0#4 := by
  revert h k; decide

theorem number7_high (h : BitVec 4) (k : BitVec 3) : (h ++ k) &&& 0x78#7 = h ++ 0#3 := by
  revert h k; decide

theorem flag2_high (p : Bool) : (0#1 ++ BitVec.ofBool p) &&& 2#2 = 0#2 := by cases p <;> rfl

theorem flag7_high (h : BitVec 6) (p : Bool) : (h ++ BitVec.ofBool p) &&& 0x7e#7 = h ++ 0#1 := by
  revert h p; decide

/-- The fields of an instruction decode to it (R233 to R243). -/
theorem decodeFields_fields {i : Instr} {f : Fields} (h : i.fields = some f) : decodeFields f = some i := by
  cases i
  case iadd | isub | imul | imulh | imulhn | imad | and | or | xor | andn | shl | shr | sar | imin | imax | iminn | imaxn | sel | bfx |
      bfi | mov | fadd | fsub | fmul | ffma | fmin | fmax | fdiv | drev | dflip | ldw | stw | ldfe | ldfec | stfe | ldwv | stwv =>
    obtain rfl := Option.some.inj h
    show some _ = some _; rw [Width.ofBits_bits]
  case iset | isetn | fcmp | fcmpm =>
    obtain rfl := Option.some.inj h
    show some _ = some _; rw [Cond.ofBits_bits]
  case fabs | fneg | ffloor | fceil | fround | ftrunc | ffrac | fsqrt | frcp | frsq | fexp2 | flog2 | fexp | flog | fsinpi | fcospi |
      ftanh | fsigm | fgelu | ferf =>
    obtain rfl := Option.some.inj h
    show some _ = some _; rw [FunFmt.ofBits_bits]
  case ldt | stt =>
    obtain rfl := Option.some.inj h
    show some _ = some _; rw [FrameFmt.ofBits_bits]
  case redmax d a t st | redmin d a t st | rediadd d a t st | redand d a t st | redor d a t st | redxor d a t st =>
    obtain rfl := Option.some.inj h
    cases t <;> rfl
  case addi | andi | ori | xori | isetlti | muli | addpi | spl | fil =>
    obtain rfl := Option.some.inj h
    show some _ = some _; rw [Fields.imm9_parts]
  case lui | orlo | movi | movs | movts | winb | brz | brnz | brltz | brgez | brkn =>
    obtain rfl := Option.some.inj h
    show some _ = some _; rw [Fields.imm16_parts]
  case jmp | call | jpush =>
    obtain rfl := Option.some.inj h
    show some _ = some _; rw [Fields.off23_parts]
  case add64 | sub64 | mul64 | madw | shfr | not | ineg | iabs | popc | clz | ctz | brev | sext8 | sext16 | zext8 | zext16 | idiv |
      idivn | irem | iremn | voteany | voteall | ballot | active | shflIdx | shflUp | shflDown | shflXor | rejoin |
      exit | reform | yield | nop | eretRetry | eretSkip | isync | cycles | launch | fsqrtx | frcpx | frsqx | fexp2x |
      flog2x | fsinpix | fcospix | ftanhx | redsum | redvar | ldb | ldbs | ldh | ldhs | stb | sth | bcopy |
      stream | coll | msignBind | msignRelease | mma | mdrain | mzero | lins | lres | lcnt | lclr |
      omerge | pemit | trvbox | trvtri | trvomm | trvpush =>
    obtain rfl := Option.some.inj h
    rfl
  case calli p _ | jmpi p _ | padd2 p _ | pmul2 p _ | pfma2 p _ | pmax2 p _ | pmin2 p _ =>
    obtain rfl := Option.some.inj h
    show (if (0#1 ++ BitVec.ofBool p) &&& 2#2 == 0#2 then some _ else none) = some _
    rw [flag2_high, Fields.wLow_parts]
    rfl
  case icinv p _ =>
    obtain rfl := Option.some.inj h
    show (if (0#6 ++ BitVec.ofBool p) &&& 0x7e#7 == 0#7 && true then some _ else none) = some _
    rw [flag7_high, Fields.bLow_parts]
    rfl
  case tex p q _ =>
    obtain rfl := Option.some.inj h
    show (if (0#6 ++ BitVec.ofBool p) &&& 0x7e#7 == 0#7 && (0#1 ++ BitVec.ofBool q) &&& 2#2 == 0#2 then some _ else none) = some _
    rw [flag7_high, flag2_high, Fields.bLow_parts, Fields.wLow_parts]
    rfl
  case lda sc p _ | stl sc p _ =>
    obtain rfl := Option.some.inj h
    show (if (0#1 ++ BitVec.ofBool p) &&& 2#2 == 0#2 then _ else none) = some _
    rw [flag2_high, Fields.wLow_parts]
    cases sc <;> rfl
  case fenceAcq sc _ | fenceRel sc _ | fenceAcqrel sc _ | fenceSc sc _ | fenceIfetch sc _ | fenceTable sc _ =>
    obtain rfl := Option.some.inj h
    rw [decodeFields_fence, number4_high, Fields.bLo4_parts]
    cases sc <;> rfl
  case matchLanes | first =>
    obtain rfl := Option.some.inj h
    simp [decodeFields_lane]
  case eretSubst =>
    obtain rfl := Option.some.inj h
    simp [decodeFields_eret]
  case plyget k _ | plyset k _ | plyzero k _ =>
    obtain rfl := Option.some.inj h
    simp [decodeFields_ply, number4_high, Fields.bLo4_parts]
  case plylose | plytag | plyclrk =>
    obtain rfl := Option.some.inj h
    simp [decodeFields_ply]
  case mloadc | mhist | mhclr | mwait =>
    obtain rfl := Option.some.inj h
    simp [decodeFields_mctl]
  case texf p _ =>
    obtain rfl := Option.some.inj h
    simp [decodeFields_gfx, flag2_high, Fields.wLow_parts]
  case ztest | vemit | draw | lcomp =>
    obtain rfl := Option.some.inj h
    simp [decodeFields_gfx]
  case trvpop | trvstep =>
    obtain rfl := Option.some.inj h
    simp [decodeFields_trv]
  case qacq | qfill | qtake | qdone | qtry =>
    obtain rfl := Option.some.inj h
    simp [decodeFields_sync, flag7_high, Fields.aLow_parts, Fields.imm9_parts]
  case bararr l _ _ | barwait l _ _ | bar l _ _ =>
    obtain rfl := Option.some.inj h
    cases l <;> simp [decodeFields_sync, BarLevel.bits, BarLevel.ofBits, Fields.aLo3, Fields.imm9_parts]
  case qfence =>
    obtain rfl := Option.some.inj h
    simp [decodeFields_sync, Fields.imm9_parts]
  case shli x _ | shri x _ | sari x _ =>
    obtain rfl := Option.some.inj h
    show (if (0#4 ++ x.extractLsb' 2 3) &&& 0x78#7 == 0#7 then some _ else none) = some _
    rw [imm5_high, Fields.imm5_parts]
    rfl
  case trap x _ | brk x _ | svc x _ =>
    obtain rfl := Option.some.inj h
    show (if (0#1 ++ x.extractLsb' 2 6) &&& 0x40#7 == 0#7 then some _ else none) = some _
    rw [code8_high, Fields.code8_parts]
    rfl
  case qld q w _ =>
    obtain rfl := Option.some.inj h
    show (if (0#4 ++ q) &&& 0x78#7 == 0#7 then some _ else none) = some _
    rw [number7_high, Fields.bLo3_parts, Width.ofBits_bits]
    rfl
  case atomc | atomq | atomd | atomp =>
    obtain rfl := Option.some.inj h
    show (AtomKind.ofBits _).bind _ = some _
    rw [AtomKind.ofBits_bits, Width.ofBits_bits]
    rfl
  case atomx p _ =>
    obtain rfl := Option.some.inj h
    show (if (0#1 ++ BitVec.ofBool p) &&& 2#2 == 0#2 then (AtomKind.ofBits _).bind _ else none) = some _
    rw [flag2_high, AtomKind.ofBits_bits]
    simp only [Fields.wLow_parts]
    rfl
  case cvt src dst sat _ _ =>
    obtain rfl := Option.some.inj h
    show (NumFmt.ofBits _).bind (fun _ => (NumFmt.ofBits _).bind fun _ => some _) = some _
    rw [Fields.bHi3_parts, Fields.bMid3_parts, NumFmt.ofBits_bits, NumFmt.ofBits_bits, Fields.bLow_parts, Rnd.ofBits_bits]
    rfl
  all_goals nomatch h

/-- The word that an encoded well-formed instruction stands in decodes to it. -/
theorem decode_encode {i : Instr} {w : Word} (hwf : i.wf = true) (h : encode i = some w) : decode w = some i := by
  obtain ⟨f, hf, rfl⟩ := Option.map_eq_some_iff.mp h
  rw [decode, fieldsOf_pack, decodeFields_fields hf]
  exact Option.filter_some_pos hwf

/-- Settles O56: the fields of a joined word are those joined, and they decode to the instruction; the decoder keeps only
well-formed instructions. -/
theorem encodeRoundTrip : Obligations.EncodeRoundTrip := by
  unfold Obligations.EncodeRoundTrip
  exact ⟨fun i w hwf h => decode_encode hwf h, fun w i h => (Option.filter_eq_some_iff.mp h).2⟩

/-- Settles O55: every word is the encoding of its instruction. -/
theorem decodeWords : Obligations.DecodeWords := by
  unfold Obligations.DecodeWords
  refine ⟨?_, ?_, ?_, ?_, ?_, ?_, ?_, ?_, ?_, ?_, ?_, ?_, ?_, ?_, ?_, ?_, ?_, ?_, ?_, ?_, ?_, ?_, ?_, ?_⟩
  all_goals exact decode_encode rfl (by decide)

end Sys2Proof
end

section
namespace Sys2Proof.Machine

/-! ### Integer instructions of one lane (R248 to R254, R257)

Each is one of a few shared forms over a function of values; the form completes with every function that agrees with it. -/

section
variable {i : Instr} {st : Stall} {d a b : RegName} {k : Nat} {due : TCtx → Due}

/-- A form with three groups of registers (R228, R248). -/
theorem completes_op3 {f : Reg → Reg → Reg → Reg} {g : State → TRef → Thread → Thread} (hexec : ∀ s, exec i s = s.runLocal i st (op3 d a b k due f))
    (hg : ∀ s t th, th.results d (due (s.tctx t)) 0
      ((List.range k).map fun j => f (th.get (member a j)) (th.get (member b j)) (th.get (member d j))) = g s t th) :
    Completes i st g := by
  intro s t th h
  rw [hexec, ← hg]
  exact runLocal_next h st rfl

/-- An operation on the values of two groups. -/
theorem completes_int2 {f g : Word → Word → Word} (hexec : ∀ s, exec i s = s.runLocal i st (op3 d a b k due (int2 f))) (hf : ∀ x y, f x y = g x y) :
    Completes i st (each2 d a b k due g) := by
  obtain rfl : f = g := funext₂ hf
  exact completes_op3 hexec fun _ _ _ => rfl

/-- An operation that also reads the old destination. -/
theorem completes_int3 {f g : Word → Word → Word → Word} (hexec : ∀ s, exec i s = s.runLocal i st (op3 d a b k due (int3 f)))
    (hf : ∀ x y z, f x y z = g x y z) : Completes i st (each3 d a b k due g) := by
  obtain rfl : f = g := by funext x y z; exact hf x y z
  exact completes_op3 hexec fun _ _ _ => rfl

/-- An operation on one register. -/
theorem completes_int1 {f g : Word → Word} (hexec : ∀ s, exec i s = s.runLocal i st (op2 d a due (int1 f))) (hf : ∀ x, f x = g x) :
    Completes i st (one1 d a due g) := by
  obtain rfl : f = g := funext hf
  intro s t th h
  rw [hexec]
  exact runLocal_next h st rfl

/-- The two words of a pair result (R252). -/
theorem pairReg_words (ins : List Reg) (v : Addr) :
    pairReg ins v = [intReg ins (v.extractLsb' 0 32), intReg ins (v.extractLsb' 32 32)] := by
  have hlow : Addr.low v = v.extractLsb' 0 32 := BitVec.setWidth_eq_extractLsb' (by decide)
  have hhigh : Addr.high v = v.extractLsb' 32 32 := rfl
  rw [pairReg, hlow, hhigh]

/-- An operation whose result is a pair. -/
theorem completes_pair {ins : Thread → List Reg} {f g : Thread → Addr}
    (hexec : ∀ s, exec i s = s.runLocal i st fun c th => .next (th.results d (due c) 0 (pairReg (ins th) (f th)))) (hf : ∀ th, f th = g th) :
    Completes i st (onePair d due ins g) := by
  obtain rfl : f = g := funext hf
  intro s t th h
  rw [hexec, onePair, ← pairReg_words]
  exact runLocal_next h st rfl

/-- A constant in one register (R254). -/
theorem completes_const {x y : Reg} (hexec : ∀ s, exec i s = s.runLocal i st fun c th => .next (th.result (archOf th.wb d) x (due c))) (hx : x = y) :
    Completes i st fun s t th => th.result (archOf th.wb d) y (due (s.tctx t)) := by
  subst hx
  intro s t th h
  rw [hexec]
  exact runLocal_next h st rfl

end

/-! Values of words as integers (R248). -/

theorem nar_toInt (x : Word) : nar x.toInt = x := BitVec.ofInt_toInt

theorem nar_add (x y : Word) : x + y = nar (x.toInt + y.toInt) := by simp [nar, BitVec.ofInt_add]

theorem sub_ofInt {n : Nat} (x y : BitVec n) : x - y = BitVec.ofInt n (x.toInt - y.toInt) :=
  BitVec.eq_of_toInt_eq (by rw [BitVec.toInt_sub, BitVec.toInt_ofInt])

theorem nar_sub (x y : Word) : x - y = nar (x.toInt - y.toInt) := sub_ofInt x y

theorem nar_mul (x y : Word) : x * y = nar (x.toInt * y.toInt) := by simp [nar, BitVec.ofInt_mul]

theorem nar_natCast (n : Nat) : nar n = BitVec.ofNat 32 n := BitVec.ofInt_natCast 32 n

theorem mulHigh_nar (x y : Word) : mulHigh x y = nar (x.toInt * y.toInt / 2 ^ 32) := by
  rw [mulHigh, Word.ofNat, ← nar_natCast, Int.toNat_of_nonneg (Int.emod_nonneg _ (by decide))]
  apply BitVec.eq_of_toInt_eq
  rw [nar, nar, BitVec.toInt_ofInt, BitVec.toInt_ofInt]
  exact Int.emod_bmod _ _

theorem mulHighU_nar (x y : Word) : mulHighU x y = nar (x.toNat * y.toNat / 2 ^ 32) := by
  rw [mulHighU, Word.ofNat, ← nar_natCast]
  push_cast
  rfl

theorem madw_exact (x y : Word) (z : Addr) : x.zeroExtend 64 * y.zeroExtend 64 + z = BitVec.ofNat 64 (x.toNat * y.toNat + z.toNat) := by
  apply BitVec.eq_of_toNat_eq
  simp

theorem sext32_toInt {n : Nat} (imm : BitVec n) (hn : n ≤ 32) : (sext32 imm).toInt = imm.toInt := BitVec.toInt_signExtend_of_le hn

theorem zext32_ofNat {n : Nat} (imm : BitVec n) : zext32 imm = BitVec.ofNat 32 imm.toNat := (BitVec.ofNat_toNat ..).symm

theorem shl_exact (x : Word) (n : Nat) : x <<< n = BitVec.ofNat 32 (x.toNat * 2 ^ n) := by
  apply BitVec.eq_of_toNat_eq
  simp [Nat.shiftLeft_eq]

theorem shr_exact (x : Word) (n : Nat) : x >>> n = BitVec.ofNat 32 (x.toNat / 2 ^ n) := by
  apply BitVec.eq_of_toNat_eq
  have h : x.toNat / 2 ^ n < 2 ^ 32 := lt_of_le_of_lt (Nat.div_le_self _ _) x.isLt
  rw [BitVec.toNat_ushiftRight, Nat.shiftRight_eq_div_pow, BitVec.toNat_ofNat, Nat.mod_eq_of_lt h]

theorem sar_exact (x : Word) (n : Nat) : x.sshiftRight n = nar (x.toInt / 2 ^ n) := by
  rw [BitVec.sshiftRight, Int.shiftRight_eq_div_pow, nar]
  norm_cast

theorem slt_flag (x y : Word) : flagWord (x.slt y) = if x.toInt < y.toInt then 1 else 0 := by
  simp [flagWord, BitVec.slt]

theorem lui_exact (imm : BitVec 16) : zext32 imm <<< 16 = BitVec.ofNat 32 (imm.toNat * 65536) := by
  rw [shl_exact, zext32_ofNat, BitVec.toNat_ofNat, Nat.mod_eq_of_lt (by omega)]
  rfl

theorem sext32_nar {n : Nat} (imm : BitVec n) : sext32 imm = nar imm.toInt := rfl

/-- Settles O1: each instruction is a form over a function of values, and the function is the exact one, narrowed. -/
theorem integerSums : Obligations.IntegerSums := by
  unfold Obligations.IntegerSums
  refine ⟨⟨fun d a b w st => ⟨?iadd, ?isub, ?imul, ?imulh, ?imulhn, ?imad⟩, fun d a b imm st => ⟨?add64, ?sub64, ?mul64, ?madw, ?addpi⟩⟩,
    fun d a i9 i5 i16 st => ⟨?addi, ?andi, ?ori, ?xori, ?shli, ?shri, ?sari, ?isetlti, ?muli, ?lui, ?orlo, ?movi⟩⟩
  case iadd => exact completes_int2 (fun _ => rfl) nar_add
  case isub => exact completes_int2 (fun _ => rfl) nar_sub
  case imul => exact completes_int2 (fun _ => rfl) nar_mul
  case imulh => exact completes_int2 (fun _ => rfl) mulHigh_nar
  case imulhn => exact completes_int2 (fun _ => rfl) mulHighU_nar
  case imad => exact completes_int3 (fun _ => rfl) fun x y z => by simp [nar, BitVec.ofInt_add, BitVec.ofInt_mul]
  case add64 => exact completes_pair (fun _ => rfl) fun th => by simp [BitVec.ofInt_add]
  case sub64 => exact completes_pair (fun _ => rfl) fun th => sub_ofInt ..
  case mul64 => exact completes_pair (fun _ => rfl) fun th => by simp [BitVec.ofInt_mul]
  case madw => exact completes_pair (fun _ => rfl) fun th => madw_exact ..
  case addpi => exact completes_pair (fun _ => rfl) fun th => by rw [BitVec.ofInt_add, BitVec.ofInt_toInt]; rfl
  case addi => exact completes_int1 (fun _ => rfl) fun x => by rw [nar_add, sext32_toInt i9 (by decide)]
  case andi | ori | xori => exact completes_int1 (fun _ => rfl) fun x => by rw [zext32_ofNat]
  case shli => exact completes_int1 (fun _ => rfl) fun x => shl_exact x _
  case shri => exact completes_int1 (fun _ => rfl) fun x => shr_exact x _
  case sari => exact completes_int1 (fun _ => rfl) fun x => sar_exact x _
  case isetlti => exact completes_int1 (fun _ => rfl) fun x => by rw [slt_flag, sext32_toInt i9 (by decide)]
  case muli => exact completes_int1 (fun _ => rfl) fun x => by rw [nar_mul, sext32_toInt i9 (by decide)]
  case lui => exact completes_const (fun _ => rfl) (congrArg Reg.plain (lui_exact i16))
  case orlo => exact fun s t th h => runLocal_next h st (by rw [zext32_ofNat]; rfl)
  case movi => exact completes_const (fun _ => rfl) (congrArg Reg.plain (sext32_nar i16))

end Sys2Proof.Machine
end

section
namespace Sys2Proof.Machine

/-! ### Words bit by bit (R250, R252) -/

/-- A word is given by its bits. -/
theorem eq_ofFnLE {n : Nat} {x : BitVec n} {f : Fin n → Bool} (h : ∀ j : Fin n, x.getLsbD j = f j) : x = BitVec.ofFnLE f := by
  ext j hj
  rw [BitVec.getElem_ofFnLE, ← h, BitVec.getLsbD_eq_getElem]

section
variable (x y z : Word)

theorem and_bits : x &&& y = BitVec.ofFnLE fun j => x[j] && y[j] := eq_ofFnLE fun j => by simp [BitVec.getLsbD_eq_getElem]

theorem or_bits : x ||| y = BitVec.ofFnLE fun j => x[j] || y[j] := eq_ofFnLE fun j => by simp [BitVec.getLsbD_eq_getElem]

theorem xor_bits : x ^^^ y = BitVec.ofFnLE fun j => x[j] ^^ y[j] := eq_ofFnLE fun j => by simp [BitVec.getLsbD_eq_getElem]

theorem andn_bits : x &&& ~~~y = BitVec.ofFnLE fun j => x[j] && !y[j] := eq_ofFnLE fun j => by simp [BitVec.getLsbD_eq_getElem]

theorem shl_bits (n : Nat) : x <<< n = BitVec.ofFnLE fun j => decide (n ≤ j) && x.getLsbD (j - n) :=
  eq_ofFnLE fun j => by rw [BitVec.getLsbD_shiftLeft, decide_eq_true j.isLt, Bool.true_and, ← decide_not]; simp only [not_lt]

theorem shr_bits (n : Nat) : x >>> n = BitVec.ofFnLE fun j => x.getLsbD (j + n) :=
  eq_ofFnLE fun j => by rw [BitVec.getLsbD_ushiftRight, Nat.add_comm]

theorem sar_bits (n : Nat) : x.sshiftRight n = BitVec.ofFnLE fun j => x.getLsbD (min 31 (j + n)) := by
  refine eq_ofFnLE fun j => ?_
  have hj : ¬ 32 ≤ (j : Nat) := not_le.mpr j.isLt
  rw [BitVec.getLsbD_sshiftRight]
  by_cases h : n + j < 32
  · simp only [hj, h, decide_false, Bool.not_false, Bool.true_and, if_true]
    rw [Nat.add_comm, Nat.min_eq_right (by omega)]
  · simp [hj, h, Nat.min_eq_left (show 31 ≤ (j : Nat) + n by omega), BitVec.msb_eq_getLsbD_last]

/-- The mask of a field's length (R250). -/
theorem onesMask_bit (n j : Nat) : (onesMask n).getLsbD j = (decide (j < 32) && decide (j < n)) := by
  rw [onesMask, Word.ofNat, BitVec.getLsbD_ofNat, Nat.testBit_two_pow_sub_one]

theorem bfx_bits : bfxVal x y = BitVec.ofFnLE fun j => decide (j < min (y.field 8 6) 32) && x.getLsbD (j + y.toNat % 32) :=
  eq_ofFnLE fun j => by
    rw [bfxVal, BitVec.getLsbD_and, onesMask_bit, BitVec.getLsbD_ushiftRight, shiftCount, fieldLen, Nat.add_comm]
    simp [j.isLt, Bool.and_comm]

theorem bfi_bits : bfiVal x y z = BitVec.ofFnLE fun j =>
    if y.toNat % 32 ≤ j ∧ j < y.toNat % 32 + min (y.field 8 6) 32 then x.getLsbD (j - y.toNat % 32) else z[j] := by
  refine eq_ofFnLE fun j => ?_
  have hj : (j : Nat) < 32 := j.isLt
  rw [bfiVal]
  simp only [BitVec.getLsbD_or, BitVec.getLsbD_and, BitVec.getLsbD_not, BitVec.getLsbD_shiftLeft, onesMask_bit, shiftCount, fieldLen]
  by_cases hlo : (j : Nat) < y.toNat % 32
  · simp [hlo, hj, Nat.not_le.mpr hlo, BitVec.getLsbD_eq_getElem]
  · by_cases hhi : (j : Nat) - y.toNat % 32 < min (y.field 8 6) 32
    · have h1 : (j : Nat) < y.toNat % 32 + min (y.field 8 6) 32 := by omega
      simp only [hlo, hj, hhi, h1]
      simp [Nat.not_lt.mp hlo, show (j : Nat) - y.toNat % 32 < 32 by omega]
    · have h1 : ¬ (j : Nat) < y.toNat % 32 + min (y.field 8 6) 32 := by omega
      simp only [hlo, hj, hhi, h1]
      simp [BitVec.getLsbD_eq_getElem]

/-- The low word of a pair shifted right (R252). -/
theorem shfr_bits (v : Addr) (n : Nat) : Addr.low (v >>> n) = BitVec.ofFnLE fun j => v.getLsbD (j + n) :=
  eq_ofFnLE fun j => by simp [Addr.low, BitVec.getLsbD_ushiftRight, j.isLt, Nat.add_comm]

theorem imin_exact : (if y.slt x then y else x) = nar (min x.toInt y.toInt) := by
  by_cases h : y.toInt < x.toInt
  · simp [BitVec.slt, h, min_eq_right h.le, nar_toInt]
  · simp [BitVec.slt, h, min_eq_left (not_lt.mp h), nar_toInt]

theorem imax_exact : (if x.slt y then y else x) = nar (max x.toInt y.toInt) := by
  by_cases h : x.toInt < y.toInt
  · simp [BitVec.slt, h, max_eq_right h.le, nar_toInt]
  · simp [BitVec.slt, h, max_eq_left (not_lt.mp h), nar_toInt]

theorem iminn_exact : (if y.ult x then y else x) = BitVec.ofNat 32 (min x.toNat y.toNat) := by
  by_cases h : y.toNat < x.toNat
  · simp [BitVec.ult, h, min_eq_right h.le]
  · simp [BitVec.ult, h, min_eq_left (not_lt.mp h)]

theorem imaxn_exact : (if x.ult y then y else x) = BitVec.ofNat 32 (max x.toNat y.toNat) := by
  by_cases h : x.toNat < y.toNat
  · simp [BitVec.ult, h, max_eq_right h.le]
  · simp [BitVec.ult, h, max_eq_left (not_lt.mp h)]

/-- The conditions on words are those on their integers (R240, R251). -/
theorem cmpSigned_holds (c : Cond) : cmpSigned c x y = condHolds c x.toInt y.toInt := by
  cases c
  case lt | le => rfl
  case eq | ne => simp [cmpSigned, condHolds, BitVec.toInt_inj, Bool.beq_eq_decide_eq, bne]

theorem cmpUnsigned_holds (c : Cond) : cmpUnsigned c x y = condHolds c x.toNat y.toNat := by
  cases c
  case lt | le => simp [cmpUnsigned, condHolds, BitVec.ult, BitVec.ule]
  case eq | ne => simp [cmpUnsigned, condHolds, BitVec.toNat_inj, Bool.beq_eq_decide_eq, bne]

end

theorem group_two (th : Thread) (a : RegName) : th.group a 2 = [th.get a, th.get (member a 1)] := by
  simp [Thread.group, List.range_succ]

/-- Settles O2: each instruction is a form over a function of values, given bit by bit or as the exact choice. -/
theorem integerBitsAndChoices : Obligations.IntegerBitsAndChoices := by
  unfold Obligations.IntegerBitsAndChoices
  refine ⟨fun d a b w st => ⟨?and, ?or, ?xor, ?andn, ?shl, ?shr, ?sar, ?shfr⟩,
    fun d a b w c st => ⟨?imin, ?imax, ?iminn, ?imaxn, ?iset, ?isetn, ?sel, ?bfx, ?bfi⟩⟩
  case and => exact completes_int2 (fun _ => rfl) and_bits
  case or => exact completes_int2 (fun _ => rfl) or_bits
  case xor => exact completes_int2 (fun _ => rfl) xor_bits
  case andn => exact completes_int2 (fun _ => rfl) andn_bits
  case shl => exact completes_int2 (fun _ => rfl) fun x y => shl_bits x _
  case shr => exact completes_int2 (fun _ => rfl) fun x y => shr_bits x _
  case sar => exact completes_int2 (fun _ => rfl) fun x y => sar_bits x _
  case shfr => exact fun s t th h => runLocal_next h st (by rw [shfr_bits, group_two]; rfl)
  case imin => exact completes_int2 (fun _ => rfl) imin_exact
  case imax => exact completes_int2 (fun _ => rfl) imax_exact
  case iminn => exact completes_int2 (fun _ => rfl) iminn_exact
  case imaxn => exact completes_int2 (fun _ => rfl) imaxn_exact
  case iset => exact completes_int2 (fun _ => rfl) fun x y => by rw [cmpSigned_holds]; rfl
  case isetn => exact completes_int2 (fun _ => rfl) fun x y => by rw [cmpUnsigned_holds]; rfl
  case sel => exact completes_op3 (fun _ => rfl) fun s t th => by simp only [ne_eq, ite_not]; rfl
  case bfx => exact completes_int2 (fun _ => rfl) bfx_bits
  case bfi => exact completes_int3 (fun _ => rfl) bfi_bits

/-! ### The one-source operations and the divisions (R257) -/

section
variable (x n : Word)

theorem not_exact : ~~~x = nar (-1 - x.toInt) := by
  have h := nar_sub (-1#32) x
  rwa [show (-1#32 : Word) = BitVec.allOnes 32 by decide, BitVec.allOnes_sub_eq_not] at h

theorem neg_exact : 0 - x = nar (-x.toInt) := by
  rw [nar_sub, show (0 : Word).toInt = 0 by rfl, zero_sub]

theorem abs_exact : absVal x = nar |x.toInt| := by
  rw [absVal, BitVec.msb_eq_toInt]
  by_cases h : x.toInt < 0
  · simp [h, abs_of_neg h, nar, BitVec.ofInt_neg]
  · simp [h, abs_of_nonneg (not_lt.mp h), nar]

theorem popc_exact : popCount x = BitVec.ofNat 32 ((List.range 32).countP fun j => x.getLsbD j) := by
  rw [popCount, Word.ofNat]

theorem ctz_exact : trailingZeros x = BitVec.ofNat 32 (((List.range 32).find? fun j => x.getLsbD j).getD 32) := by
  rw [trailingZeros, Word.ofNat]

/-- The first index of a one bit from above. -/
theorem clz_exact : leadingZeros x = BitVec.ofNat 32 (if x = 0 then 32 else 31 - x.toNat.log2) := by
  rw [leadingZeros, Word.ofNat]
  congr 1
  by_cases hx : x = 0
  · subst hx; rfl
  · have h0 : x.toNat ≠ 0 := fun h => hx (BitVec.eq_of_toNat_eq h)
    have hlog : x.toNat.log2 < 32 := (Nat.log2_lt h0).mpr x.isLt
    rw [if_neg hx]
    have hfind : (List.range 32).find? (fun i => x.getLsbD (31 - i)) = some (31 - x.toNat.log2) := by
      rw [List.find?_range_eq_some]
      refine ⟨?_, List.mem_range.mpr (by omega), fun j hj => ?_⟩
      · rw [show 31 - (31 - x.toNat.log2) = x.toNat.log2 by omega]
        exact Nat.testBit_log2 h0
      · have hlt : x.toNat < 2 ^ (31 - j) := (Nat.log2_lt h0).mp (by omega)
        simp [BitVec.getLsbD, Nat.testBit_lt_two_pow hlt]
    rw [hfind, Option.getD_some]

theorem brev_bits : bitReverse x = BitVec.ofFnLE fun j => x.getLsbD (31 - j) :=
  eq_ofFnLE fun j => by rw [bitReverse, BitVec.getLsbD_reverse, BitVec.getMsbD, decide_eq_true j.isLt, Bool.true_and]

theorem zext_exact (k : Nat) : (x.truncate k).zeroExtend 32 = BitVec.ofNat 32 (x.toNat % 2 ^ k) := by
  apply BitVec.eq_of_toNat_eq
  rw [BitVec.toNat_setWidth, BitVec.toNat_setWidth, BitVec.toNat_ofNat]

theorem sext8_exact : (x.truncate 8).signExtend 32 = nar (x.extractLsb' 0 8).toInt := by
  rw [BitVec.truncate_eq_setWidth, BitVec.setWidth_eq_extractLsb' (by decide)]; rfl

theorem sext16_exact : (x.truncate 16).signExtend 32 = nar (x.extractLsb' 0 16).toInt := by
  rw [BitVec.truncate_eq_setWidth, BitVec.setWidth_eq_extractLsb' (by decide)]; rfl

theorem idiv_exact : divSigned n x = if x = 0 then 0xFFFFFFFF else nar (n.toInt.tdiv x.toInt) := by
  refine if_congr Iff.rfl rfl (BitVec.eq_of_toInt_eq ?_)
  rw [nar, BitVec.toInt_ofInt, BitVec.toInt_sdiv]

theorem idivn_exact : divUnsigned n x = if x = 0 then 0xFFFFFFFF else BitVec.ofNat 32 (n.toNat / x.toNat) := by
  refine if_congr Iff.rfl rfl (BitVec.eq_of_toNat_eq ?_)
  have h : n.toNat / x.toNat < 2 ^ 32 := lt_of_le_of_lt (Nat.div_le_self _ _) n.isLt
  rw [BitVec.udiv_eq, BitVec.toNat_udiv, BitVec.toNat_ofNat, Nat.mod_eq_of_lt h]

theorem irem_exact : remSigned n x = if x = 0 then n else nar (n.toInt.tmod x.toInt) := by
  refine if_congr Iff.rfl rfl (BitVec.eq_of_toInt_eq ?_)
  rw [nar, ← BitVec.toInt_srem, BitVec.ofInt_toInt]

theorem iremn_exact : remUnsigned n x = if x = 0 then n else BitVec.ofNat 32 (n.toNat % x.toNat) := by
  refine if_congr Iff.rfl rfl (BitVec.eq_of_toNat_eq ?_)
  have h : n.toNat % x.toNat < 2 ^ 32 := lt_of_le_of_lt (Nat.mod_le _ _) n.isLt
  rw [BitVec.umod_eq, BitVec.toNat_umod, BitVec.toNat_ofNat, Nat.mod_eq_of_lt h]

end

/-- A division reads the old destination, then its divisor (R257). -/
theorem completes_div {i : Instr} {st : Stall} {d a : RegName} {f g : Word → Word → Word}
    (hexec : ∀ s, exec i s = s.runLocal i st (op2 d a dueV (intD f))) (hf : ∀ n x, f n x = g n x) :
    Completes i st fun _ _ th => th.result (archOf th.wb d) (intReg [th.get a, th.get d] (g (th.val d) (th.val a))) none := by
  obtain rfl : f = g := funext₂ hf
  intro s t th h
  rw [hexec]
  exact runLocal_next h st rfl

/-- Settles O3: each instruction is a form over a function of values, and the function is that of its row. -/
theorem integerUnaryAndDivision : Obligations.IntegerUnaryAndDivision := by
  unfold Obligations.IntegerUnaryAndDivision
  refine ⟨fun d a w st => ⟨?mov, ?not, ?ineg, ?iabs, ?popc, ?clz, ?ctz, ?brev, ?sext8, ?sext16, ?zext8, ?zext16⟩,
    fun d a st => ⟨?idiv, ?idivn, ?irem, ?iremn⟩⟩
  case mov => exact completes_op3 (fun _ => rfl) fun _ _ _ => rfl
  case not => exact completes_int1 (fun _ => rfl) not_exact
  case ineg => exact completes_int1 (fun _ => rfl) neg_exact
  case iabs => exact completes_int1 (fun _ => rfl) abs_exact
  case popc => exact completes_int1 (fun _ => rfl) popc_exact
  case clz => exact completes_int1 (fun _ => rfl) clz_exact
  case ctz => exact completes_int1 (fun _ => rfl) ctz_exact
  case brev => exact completes_int1 (fun _ => rfl) brev_bits
  case sext8 => exact completes_int1 (fun _ => rfl) sext8_exact
  case sext16 => exact completes_int1 (fun _ => rfl) sext16_exact
  case zext8 => exact completes_int1 (fun _ => rfl) fun x => zext_exact x 8
  case zext16 => exact completes_int1 (fun _ => rfl) fun x => zext_exact x 16
  case idiv => exact (completes_div (i := .idiv d a st) (fun _ => rfl) fun n x => idiv_exact x n :)
  case idivn => exact (completes_div (i := .idivn d a st) (fun _ => rfl) fun n x => idivn_exact x n :)
  case irem => exact (completes_div (i := .irem d a st) (fun _ => rfl) fun n x => irem_exact x n :)
  case iremn => exact (completes_div (i := .iremn d a st) (fun _ => rfl) fun n x => iremn_exact x n :)

end Sys2Proof.Machine
end

section
namespace Sys2Proof.Machine

/-! ### Bits cleared below an address, and the formats of the control instructions (R214, R223, R264) -/

/-- Bits [1:0] cleared. -/
theorem clearLow2 {n : Nat} (v : BitVec (n + 2)) : v &&& ~~~3#(n + 2) = v.extractLsb' 2 n ++ 0#2 := by
  have h3 : ∀ i, i < n + 2 → (3#(n + 2)).getLsbD i = decide (i < 2) := fun i hi => by
    rw [BitVec.getLsbD_ofNat, decide_eq_true hi, Bool.true_and]
    exact Nat.testBit_two_pow_sub_one 2 i
  ext i hi
  rw [BitVec.getElem_and, BitVec.getElem_not, ← BitVec.getLsbD_eq_getElem (x := 3#(n + 2)), h3 i hi, BitVec.getElem_append]
  by_cases h : i < 2
  · simp [h]
  · simp [h, ← BitVec.getLsbD_eq_getElem, show 2 + (i - 2) = i by omega, show i - 2 < n by omega]

theorem low_eq (v : Addr) : Addr.low v = v.extractLsb' 0 32 := BitVec.setWidth_eq_extractLsb' (by decide)

/-- An address at or above 2^48 has a bit above them (R264). -/
theorem beyond48_iff (v : Addr) : (v.extractLsb' 48 16 != 0#16) = true ↔ 2 ^ 48 ≤ v.toNat := by
  have hlt : v.toNat < 2 ^ 64 := v.isLt
  rw [bne_iff_ne, ne_eq, ← BitVec.toNat_inj, BitVec.extractLsb'_toNat, BitVec.toNat_ofNat, Nat.shiftRight_eq_div_pow]
  omega

theorem append_split {l m n : Nat} (x : BitVec m) (v : BitVec (n + 2)) (z : BitVec l) :
    (z ++ x ++ v : BitVec (l + m + (n + 2))).extractLsb' 2 (l + m + n) = z ++ x ++ v.extractLsb' 2 n := by
  ext i hi
  simp only [BitVec.getElem_append, BitVec.getElem_extractLsb', BitVec.getLsbD_append]
  by_cases h : i < n
  · simp [h, show 2 + i < n + 2 by omega]
  · have h1 : ¬ 2 + i < n + 2 := by omega
    have h2 : 2 + i - (n + 2) = i - n := by omega
    simp only [h, h1, h2, dif_neg, if_neg, not_false_eq_true]
    split <;> rfl

theorem singleTarget_eq (pc : Addr) (v : Word) :
    singleTarget pc v = 0#16 ++ pc.extractLsb' 32 16 ++ v.extractLsb' 2 30 ++ 0#2 := by
  rw [singleTarget, clearLow2 (n := 62), append_split (l := 16) (m := 16) (n := 30)]

/-- The word of the B format (R223). -/
theorem pack_branch (o : BitVec 7) (a : RegName) (off : BitVec 16) (st : Stall) :
    pack ⟨o, a, off.extractLsb' 9 7, off.extractLsb' 2 7, off.extractLsb' 0 2, st⟩ = o ++ a ++ off ++ st := by
  conv_rhs => rw [← imm16_join off]
  apply BitVec.eq_of_toNat_eq
  simp only [pack, BitVec.toNat_append, Nat.shiftLeft_or_distrib, ← Nat.shiftLeft_add, Nat.or_assoc]

/-- The word of the J format (R223). -/
theorem pack_jump (o : BitVec 7) (off : BitVec 23) (st : Stall) :
    pack ⟨o, off.extractLsb' 16 7, off.extractLsb' 9 7, off.extractLsb' 2 7, off.extractLsb' 0 2, st⟩ = o ++ off ++ st := by
  conv_rhs => rw [← off23_join off]
  apply BitVec.eq_of_toNat_eq
  simp only [pack, BitVec.toNat_append, Nat.shiftLeft_or_distrib, ← Nat.shiftLeft_add, Nat.or_assoc]

/-! ### Control transfers of one lane (R223, R262 to R264) -/

section
variable {i : Instr} {s : State} {t : TRef} {th : Thread} {st : Stall} (h : OneLane i s t th)
include h

/-- A body that changes its thread and the loop buffer of its strand, and sets the pc. -/
theorem afterLane_sent (f : Thread → Thread) (l : Strand → Strand) :
    afterLane i t st (.go ((s.modThread t f).modStrand t.blk th.strand l)) = s.sent t st th (f th) l := by
  rw [State.sent, modThread_known s (issuable_thread h.thread)]
  simp only [afterLane, modStrand_issue, modThread_issue]

/-- A body that changes the loop buffer of its strand alone, and goes on at PC + 4. -/
theorem afterLane_fell (l : Strand → Strand) :
    afterLane i t st (.next (s.modStrand t.blk th.strand l)) = s.sent t st th { th with pc := th.pc + 4 } l := by
  have hth : (s.modStrand t.blk th.strand l).thread? t = some th := by rw [modStrand_thread, issuable_thread h.thread]
  rw [State.sent, modStrand_modThread, modThread_const, afterLane, modThread_known _ hth, modStrand_issue]
  rfl

end

/-- A branch goes where its test says (R262). -/
theorem branchesOn_of_exec {i : Instr} {st : Stall} {a : RegName} {off : BitVec 16} {test : Word → Bool} {p : Thread → Prop}
    (hexec : ∀ s, exec i s = s.run i st (branch a off test)) (hp : ∀ th, p th ↔ test (th.val a) = true) : BranchesOn i st off p := by
  intro s t th h
  have htgt : relTarget th.pc off = th.pc + 4 + BitVec.ofInt 64 (off.toInt * 4) := relTarget_eq th.pc off (by decide)
  rw [hexec, run_one h, branch, ← htgt]
  refine ⟨fun ht => ?_, fun ht => ?_⟩
  · rw [if_pos ((hp th).mp ht), afterLane_sent h]
    rfl
  · rw [if_neg fun hc => ht ((hp th).mpr hc), afterLane_fell h]

/-- Settles O10: each is a branch on a test of one word, and its word is that of the B format. -/
theorem branches : Obligations.Branches := by
  unfold Obligations.Branches
  intro a off st
  refine ⟨?brz, ?brnz, ?brltz, ?brgez, ?w30, ?w31, ?w32, ?w33⟩
  case brz => exact branchesOn_of_exec (fun _ => rfl) fun th => beq_iff_eq.symm
  case brnz => exact branchesOn_of_exec (fun _ => rfl) fun th => bne_iff_ne.symm
  case brltz => exact branchesOn_of_exec (fun _ => rfl) fun th => by rw [BitVec.msb_eq_toInt, decide_eq_true_iff]
  case brgez => exact branchesOn_of_exec (fun _ => rfl) fun th => by simp [BitVec.msb_eq_toInt]
  case w30 | w31 | w32 | w33 => exact decode_encode rfl (congrArg some (pack_branch ..))

/-- The word of a jump to a register has no other field. -/
theorem decode_indirect (a : RegName) (st : Stall) (pair : Bool) :
    decode (0x36#7 ++ 0#7 ++ a ++ 0#7 ++ (0#1 ++ BitVec.ofBool pair) ++ st) = some (.calli a pair st) ∧
    decode (0x37#7 ++ 0#7 ++ a ++ 0#7 ++ (0#1 ++ BitVec.ofBool pair) ++ st) = some (.jmpi a pair st) :=
  ⟨decode_encode rfl rfl, decode_encode rfl rfl⟩

section
variable {i : Instr} {s : State} {t : TRef} {th : Thread} {st : Stall} {a : RegName} {f : Addr → Thread → Thread}

/-- A jump to the value of one register (R264). -/
theorem exec_indirect_single (h : OneLane i s t th) (hexec : exec i s = s.run i st (indirect a false f)) : exec i s =
    .next (s.sent t st th (f (0#16 ++ th.pc.extractLsb' 32 16 ++ (th.val a).extractLsb' 2 30 ++ 0#2) th) Strand.leaveLoop) := by
  rw [hexec, run_one h, ← singleTarget_eq]
  exact congrArg _ (afterLane_sent h _ _)

/-- A jump to the value of a pair below 2^48 (R264). -/
theorem exec_indirect_pair (h : OneLane i s t th) (hexec : exec i s = s.run i st (indirect a true f)) (hlt : (th.pair a).toNat < 2 ^ 48) :
    exec i s = .next (s.sent t st th (f ((th.pair a).extractLsb' 2 62 ++ 0#2) th) Strand.leaveLoop) := by
  rw [hexec, run_one h, ← clearLow2 (n := 62), indirect, if_pos rfl, if_neg (mt (beyond48_iff _).mp (Nat.not_le.mpr hlt))]
  exact congrArg _ (afterLane_sent h _ _)

/-- A pair beyond 48 bits raises AddressFault 0x01 (R264). -/
theorem exec_indirect_beyond (h : OneLane i s t th) (hexec : exec i s = s.run i st (indirect a true f)) (hle : 2 ^ 48 ≤ (th.pair a).toNat) :
    exec i s = .next (s.deliverIssued st [⟨t, 0x20, 0x01, (th.pair a).toNat⟩] (some i)) := by
  rw [hexec, run_one h, indirect, if_pos rfl, if_pos ((beyond48_iff _).mpr hle), afterLane]

end

/-- Settles O11: a jump or call is a transfer of one lane to its target, with its link written; its word is that of its format. -/
theorem jumpsAndCalls : Obligations.JumpsAndCalls := by
  unfold Obligations.JumpsAndCalls
  intro a off st s t th linked near single paired
  have hnear : relTarget th.pc off = near := relTarget_eq th.pc off (by decide)
  have hlink : th.link = linked := by rw [Thread.link, low_eq]; rfl
  refine ⟨fun h => ?jmp, fun h => ?call, fun h => exec_indirect_single h rfl, fun h => ?calli, fun h hlt => exec_indirect_pair h rfl hlt,
    fun h hlt => ?callip, fun i hi h hle => ?beyond, decode_encode rfl (congrArg some (pack_jump ..)),
    decode_encode rfl (congrArg some (pack_jump ..)), (decode_indirect a st false).1, (decode_indirect a st true).1,
    (decode_indirect a st false).2, (decode_indirect a st true).2⟩
  case jmp =>
    rw [← hnear]
    exact (run_one h st _).trans (congrArg _ (afterLane_sent h _ _))
  case call =>
    rw [← hnear, ← hlink]
    exact (run_one h st _).trans (congrArg _ (afterLane_sent h _ _))
  case calli =>
    rw [← hlink]
    exact exec_indirect_single h rfl
  case callip =>
    rw [← hlink]
    exact exec_indirect_pair h rfl hlt
  case beyond =>
    simp only [List.mem_cons, List.not_mem_nil, or_false] at hi
    rcases hi with rfl | rfl <;> exact exec_indirect_beyond h rfl hle

/-! ### Special registers, the window base, the cycle count (R214, R230, R232, R255, R256, R276) -/

/-- An instruction that makes one thread of its thread, by its state. -/
theorem completesWhen_run {i : Instr} {st : Stall} {body : Body} {p : State → TRef → Thread → Prop} {f : State → TRef → Thread → Thread}
    (hexec : ∀ s, exec i s = s.run i st body) (hbody : ∀ s t th, p s t th → body s t th = .next (s.modThread t fun _ => f s t th)) :
    CompletesWhen i st p f := by
  intro s t th h hp
  rw [hexec, run_one h, hbody s t th hp, afterLane, modThread_const]
  rfl

theorem completes_run {i : Instr} {st : Stall} {body : Body} {f : State → TRef → Thread → Thread}
    (hexec : ∀ s, exec i s = s.run i st body) (hbody : ∀ s t th, body s t th = .next (s.modThread t fun _ => f s t th)) : Completes i st f :=
  fun s t th h => completesWhen_run (p := fun _ _ _ => True) hexec (fun s t th _ => hbody s t th) s t th h trivial

/-- MOVTS to %reformage writes the age of the block, and no register of the thread (R144). -/
theorem exec_movts_reformAge {d : RegName} {st : Stall} {s : State} {t : TRef} {th : Thread} (h : OneLane (.movts d 0x0500#16 st) s t th) :
    exec (.movts d 0x0500#16 st) s = .next (((s.modThread t fun _ => th).modBlock t.blk fun b =>
      { b with reformAge := min (max ((th.val d).toNat % 2 ^ 17) 256) 65536 }).modThread t fun x =>
        (x.issued st s.issue.word).advance) :=
  run_one h st _

/-- Settles O7: each makes one thread of its thread; a write of %reformage changes the block too. -/
theorem specialRegisters : Obligations.SpecialRegisters := by
  unfold Obligations.SpecialRegisters
  intro d n imm st
  refine ⟨?movs, ?movts, fun s t th h => exec_movts_reformAge h, ?winb, ?cycles⟩
  case movs => exact completes_run (fun _ => rfl) fun _ _ _ => rfl
  case movts => exact completesWhen_run (fun _ => rfl) fun s t th hn => congrArg Lane.next (if_neg hn)
  case winb => exact fun s t th h => runLocal_next h st rfl
  case cycles => exact completes_run (fun _ => rfl) fun s t th => by simp only [low_eq]; rfl

/-- Settles O8: each number of the list by its own write, every other by none. -/
theorem specialRegisterWrites : Obligations.SpecialRegisterWrites := by
  unfold Obligations.SpecialRegisterWrites
  intro th v n trapped
  have hclear : v &&& 0xFFFFFFFC#32 = v.extractLsb' 2 30 ++ 0#2 := clearLow2 (n := 30) v
  have htrunc : ∀ k, k ≤ 32 → v.truncate k = v.extractLsb' 0 k := fun k hk => BitVec.setWidth_eq_extractLsb' hk
  refine ⟨?epc, rfl, ?vec, rfl, ?stride, ?fpctl, ?fpflags, rfl, fun hn => ?other⟩
  case epc =>
    show { th with trap := { th.trap with epc := setLow48 th.trap.epc v } } = _
    rw [setLow48, hclear]
  case vec =>
    show { th with trap := { th.trap with vec := setLow48 th.trap.vec v } } = _
    rw [setLow48, hclear]
  case stride => rw [← htrunc 24 (by decide)]; rfl
  case fpctl | fpflags => rw [← htrunc 5 (by decide)]; rfl
  case other =>
    simp only [List.mem_cons, List.not_mem_nil, or_false, not_or] at hn
    obtain ⟨h1, h2, h3, h4, h5, h6, h7, h8⟩ := hn
    simp only [Thread.setSpecial, h1, h2, h3, h4, h5, h6, h7, h8, if_false]

/-! ### NOP, YIELD and ISYNC (R270, R274) -/

/-- A thread whose yield count is not 0 is not ready (R270). -/
theorem ready_yield {s : State} {t : TRef} {th : Thread} (h : s.thread? t = some th) (hy : th.yield ≠ 0) (c : Nat) :
    s.ready c t = false := by
  unfold State.ready
  rw [h]
  cases s.blocks[t.blk]? with
  | none => rfl
  | some b => simp [hy]

/-- Settles O13. -/
theorem threadControl : Obligations.ThreadControl := by
  unfold Obligations.ThreadControl
  refine ⟨fun st => ⟨fun s t th h => runLocal_next h st rfl, fun s t th h => runLocal_next h st rfl, fun s t th h => ?_⟩,
    fun s c t th h hy => ready_yield h hy c, fun th r i h => if_pos h⟩
  rw [State.stranded, modThread_id, ← modStrand_issue s t.blk th.strand]
  exact run_one h st _

end Sys2Proof.Machine
end

section
namespace Sys2Proof.Machine

/-! ### The checks of an issue (R226, R228, R229, R231, R244, R245) -/

/-- Groups in the order d, a, b. -/
def FieldsSorted (l : List Group) : Prop := l.Pairwise fun g h => g.field.sub ≤ h.field.sub

/-- The groups of an instruction stand in the order d, a, b. -/
theorem groups_sorted (lw : Nat) (i : Instr) : FieldsSorted (Instr.groups lw i) := by
  unfold FieldsSorted
  cases i <;> simp only [Instr.groups, List.pairwise_cons, List.Pairwise.nil, List.mem_cons, List.not_mem_nil, or_false, forall_eq_or_imp,
    forall_eq, RegField.sub, IsEmpty.forall_iff, implies_true, and_self, Nat.reduceLeDiff]

/-- The subcode of misaligned groups that stand in order: that of the first field that has one (R245). -/
theorem misalignedSub_sorted {l : List Group} (hs : FieldsSorted l) (h : ∃ g ∈ l, g.base.toNat % g.size ≠ 0) :
    misalignedSub l = some (if l.any (fun g => g.field == .d && g.base.toNat % g.size != 0) then 1
      else if l.any (fun g => g.field == .a && g.base.toNat % g.size != 0) then 2 else 3) := by
  induction l with
  | nil => simp at h
  | cons g r ih =>
    obtain ⟨hg, hr⟩ := List.pairwise_cons.mp hs
    by_cases hm : g.base.toNat % g.size = 0
    · have hex : ∃ x ∈ r, x.base.toNat % x.size ≠ 0 := by simpa [hm] using h
      simp [misalignedSub, Group.misaligned, hm, ih hr hex]
    · have hnone : ∀ f : RegField, f.sub < g.field.sub → r.any (fun x => x.field == f && x.base.toNat % x.size != 0) = false := by
        intro f hf
        rw [List.any_eq_false]
        intro x hx
        have hne : x.field ≠ f := fun e => by have := hg x hx; rw [e] at this; omega
        simp [hne]
      have hmis : misalignedSub (g :: r) = some g.field.sub := by simp [misalignedSub, Group.misaligned, hm]
      rw [hmis]
      cases hf : g.field with
      | d => simp [hf, hm, RegField.sub]
      | a => simp [hf, hm, RegField.sub, hnone .d (by rw [hf]; decide)]
      | b => simp [hf, RegField.sub, hnone .d (by rw [hf]; decide), hnone .a (by rw [hf]; decide)]

theorem misalignedSub_none {l : List Group} (h : ∀ g ∈ l, g.base.toNat % g.size = 0) : misalignedSub l = none := by
  induction l with
  | nil => rfl
  | cons g r ih =>
    obtain ⟨hg, hr⟩ := List.forall_mem_cons.mp h
    simp [misalignedSub, Group.misaligned, hg, ih hr]

section
variable {i : Instr} {st : Stall} {body : Body} {s : State} {t : TRef} {th : Thread}

theorem issuing_one (hl : s.issue.lanes = [t]) (ht : s.issuable t = some th) : s.issuing = [t] := by
  simp [State.issuing, hl, ht]

/-- An issue of one lane with a misaligned group raises its subcode. -/
theorem run_misaligned {sub : Nat} (hl : s.issue.lanes = [t]) (ht : s.issuable t = some th)
    (hm : misalignedSub (Instr.groups (s.laneWords t.blk) i) = some sub) :
    s.run i st body = .next (s.deliverIssued st [⟨t, 0x02, sub, 0⟩] (some i)) := by
  simp only [State.run, State.runLanes, hl, List.head?_cons, Option.map_some, Option.getD_some, hm, issuing_one hl ht, List.map_cons,
    List.map_nil]

/-- An issue of one lane whose groups are aligned and whose lane raises a cause. -/
theorem run_lane_trap {c sub aux : Nat} (hl : s.issue.lanes = [t]) (hm : misalignedSub (Instr.groups (s.laneWords t.blk) i) = none)
    (hlane : s.lane i body t = .trap s c sub aux) : s.run i st body = .next (s.deliverIssued st [⟨t, c, sub, aux⟩] (some i)) := by
  simp only [State.run, State.runLanes, hl, List.head?_cons, Option.map_some, Option.getD_some, hm, List.foldl_cons, List.foldl_nil, laneStep,
    hlane, List.nil_append]

/-- Does an operand name a register beyond the allocation (R231)? -/
theorem any_beyond_iff {l : List Nat} {n : Nat} : (l.any fun a => decide (n ≤ a)) = true ↔ ∃ a ∈ l, n ≤ a := by
  simp

theorem lane_beyond (ht : s.issuable t = some th)
    (hb : ∃ a ∈ (Instr.rangeGroups (s.laneWords t.blk) i).flatMap (Group.archs th.wb), max 1 th.regs.length ≤ a) :
    s.lane i body t = .trap s 0x05 0x01 0 := by
  simp only [State.lane, ht, any_beyond_iff.mpr hb, if_true]

theorem lane_early (ht : s.issuable t = some th)
    (hb : ¬ ∃ a ∈ (Instr.rangeGroups (s.laneWords t.blk) i).flatMap (Group.archs th.wb), max 1 th.regs.length ≤ a) (hk : th.chk = true)
    (he : th.early (s.core s.issue.core).cycles (Instr.archs (s.laneWords t.blk) th.wb i) = true) :
    s.lane i body t = .trap s 0x06 0 0 := by
  simp only [State.lane, ht, mt any_beyond_iff.mp hb, hk, he, Bool.and_true, if_true]
  rfl

end

/-- Settles O27: each check by the lane that it stops, where the checks before it hold. -/
theorem issueChecks : Obligations.IssueChecks := by
  unfold Obligations.IssueChecks
  intro i st body s t th hexec hl ht groups beyond sub
  refine ⟨fun hm => ?_, fun hm hb => ?_, fun hm hb hk he => ?_⟩
  · rw [hexec, run_misaligned hl ht (misalignedSub_sorted (groups_sorted _ i) hm)]
  · rw [hexec, run_lane_trap hl (misalignedSub_none hm) (lane_beyond ht hb)]
  · rw [hexec, run_lane_trap hl (misalignedSub_none hm) (lane_early ht hb hk he)]

/-! ### Causes that enter the handler without an instruction (R215, R244, R245) -/

/-- A cause of these is taken by its thread once its earlier instructions have completed (R211, R215). -/
theorem deliver_takes {c : Nat} (hc : c ∈ [0x01, 0x03, 0x20, 0x21, 0x30, 0x31]) {s : State} {t : TRef} {th : Thread}
    (h : s.thread? t = some th) (hlane : th.lane < 64) (sub aux : Nat) (i : Option Instr) : s.deliver [⟨t, c, sub, aux⟩] i =
      (s.modThread t Thread.settleResults).takeTrap t c sub (1#64 <<< th.lane) th.lane s.issue.word := by
  have h1 : (s.modThread t Thread.settleResults).thread? t = some th.settleResults := by rw [modThread_get, h]; rfl
  have hmask : (s.modThread t Thread.settleResults).trapMask [⟨t, c, sub, aux⟩] = 1#64 <<< th.lane := by
    rw [trapMask_one h1, settleResults_eq]
  rw [← hmask]
  conv_rhs => rw [← lowestBit_lane hlane, ← hmask]
  simp only [List.mem_cons, List.not_mem_nil, or_false] at hc
  rcases hc with rfl | rfl | rfl | rfl | rfl | rfl <;> rfl

/-- A cause of these enters the handler of a thread that can take a trap; memory and the cores stay. -/
theorem deliver_handled {c : Nat} (hc : c ∈ [0x01, 0x03, 0x20, 0x21, 0x30, 0x31]) {s : State} {t : TRef} {th : Thread}
    (h : s.thread? t = some th) (hcan : th.canTrap) (sub aux : Nat) (i : Option Instr) :
    Handled (s.deliver [⟨t, c, sub, aux⟩] i) t th c sub s.issue.word ∧ (s.deliver [⟨t, c, sub, aux⟩] i).mem = s.mem ∧
      (s.deliver [⟨t, c, sub, aux⟩] i).cores = s.cores := by
  obtain ⟨hlane, hin, hv⟩ := hcan
  have hsettled := settleResults_eq th
  have htrap : th.settleResults.trap = th.trap := settleResults_trap _
  have h1 : (s.modThread t Thread.settleResults).thread? t = some th.settleResults := by rw [modThread_get, h]; rfl
  have hdeliver := deliver_takes hc h hlane sub aux i
  obtain ⟨g, n, e⟩ := takeTrap_thread (cause := c) (sub := sub) (mask := 1#64 <<< th.lane) (first := th.lane) (word := s.issue.word) h1
    (by rw [htrap]; exact hin) (by rw [htrap]; exact hv)
  obtain ⟨-, hmem, hcores, -⟩ := takeTrap_handler_keeps (cause := c) (sub := sub) (mask := 1#64 <<< th.lane) (first := th.lane)
    (word := s.issue.word) h1 (by rw [htrap]; exact hin) (by rw [htrap]; exact hv)
  rw [hdeliver]
  refine ⟨⟨g, n, ?_⟩, hmem, hcores⟩
  rw [e, hsettled]

/-- Settles O30: both raise their cause in the one lane that may issue, and it enters its handler. -/
theorem fetchTraps : Obligations.FetchTraps := by
  unfold Obligations.FetchTraps
  intro s t th word hl ht hcan
  have hth : s.thread? t = some th := issuable_thread ht
  have hissuing : ∀ w, ({ s with issue := { s.issue with word := w } } : State).issuing = [t] := fun w => issuing_one (s := _) hl ht
  refine ⟨⟨_, rfl, ?_⟩, fun cause hcause sub => ⟨_, rfl, ?_⟩⟩
  case refine_1 =>
    have hc : (if illegalFields (fieldsOf word) then 0x01 else 0x03) =
        if word.extractLsb' 25 7 = 0 ∨ word.extractLsb' 25 7 = 0x7F then 0x01 else 0x03 := by
      simp [illegalFields, fieldsOf]
    rw [← hc, hissuing word]
    obtain ⟨hh, hmem, hcores⟩ := deliver_handled (s := { s with issue := { s.issue with word := word } })
      (c := if illegalFields (fieldsOf word) then 0x01 else 0x03) (by split <;> simp) hth hcan 0 0 none
    exact ⟨hmem, hcores, hh⟩
  case refine_2 =>
    have hmem : cause ∈ [0x01, 0x03, 0x20, 0x21, 0x30, 0x31] := by
      simp only [List.mem_cons, List.not_mem_nil, or_false] at hcause ⊢
      omega
    rw [State.fetchFault, hissuing 0]
    obtain ⟨hh, hmem, hcores⟩ := deliver_handled (s := { s with issue := { s.issue with word := 0 } }) hmem hth hcan sub
      (if cause = 0x24 then _ else s.issue.pc.toNat) none
    exact ⟨hmem, hcores, hh⟩

end Sys2Proof.Machine
end

section
namespace Sys2Proof.Machine

/-! ### Bytes as words (R297) -/

/-- Whole words, cut from their bytes. -/
theorem wordsOf_eq (n : Nat) : ∀ bs : List Byte, bs.length = 4 * n → wordsOf bs = (List.range n).map (leWord bs) := by
  induction n with
  | zero =>
    intro bs h
    rw [List.eq_nil_of_length_eq_zero h]
    rfl
  | succ n ih =>
    intro bs h
    match bs, h with
    | a :: b :: c :: d :: r, h =>
      have hr : r.length = 4 * n := by simp only [List.length_cons] at h; omega
      rw [wordsOf, ih r hr, List.range_succ_eq_map, List.map_cons, List.map_map]
      refine congrArg₂ _ rfl (List.map_congr_left fun i _ => ?_)
      simp [leWord, Nat.mul_succ]

/-- The words of a load of whole words. -/
theorem loadWords_words {n : Nat} {bs : List Byte} (h : bs.length = 4 * n) : loadWords bs = (List.range n).map (leWord bs) := by
  have hrem : bs.length % 4 = 0 := by omega
  rw [loadWords, hrem, ← wordsOf_eq n bs h]
  exact congrArg wordsOf (List.append_nil _)

/-- The word of a load of fewer bytes than a word. -/
theorem loadWords_one {bs : List Byte} (h : bs.length = 1) : loadWords bs = [BitVec.ofNat 32 (leNat bs)] := by
  obtain ⟨a, rfl⟩ := List.length_eq_one_iff.mp h
  simp [loadWords, List.replicate, wordsOf, leNat, Word.ofNat]

theorem loadWords_two {bs : List Byte} (h : bs.length = 2) : loadWords bs = [BitVec.ofNat 32 (leNat bs)] := by
  obtain ⟨a, b, rfl⟩ := List.length_eq_two.mp h
  simp [loadWords, List.replicate, wordsOf, leNat, Word.ofNat]

/-- A number below 2^(w + 1), read as a signed one. -/
theorem toInt_ofNat_below {w v : Nat} (h : v < 2 ^ (w + 1)) :
    (BitVec.ofNat (w + 1) v).toInt = if v < 2 ^ w then (v : Int) else v - 2 ^ (w + 1) := by
  have hpow : 2 ^ (w + 1) = 2 * 2 ^ w := Nat.pow_succ'
  rw [BitVec.toInt_eq_toNat_cond, BitVec.toNat_ofNat, Nat.mod_eq_of_lt h, hpow]
  push_cast
  by_cases hv : v < 2 ^ w
  · rw [if_pos (by omega), if_pos hv]
  · rw [if_neg (by omega), if_neg hv, pow_succ']

/-- A sign-extended byte, and a sign-extended half-word. -/
theorem sextBytes_one {bs : List Byte} (h : bs.length = 1) : sextBytes bs = [BitVec.ofInt 32 (BitVec.ofNat 8 (leNat bs)).toInt] := by
  have hlt : leNat bs < 256 ^ bs.length := leNat_lt bs
  rw [h] at hlt
  rw [toInt_ofNat_below (w := 7) hlt, sextBytes, h]
  simp

theorem sextBytes_two {bs : List Byte} (h : bs.length = 2) : sextBytes bs = [BitVec.ofInt 32 (BitVec.ofNat 16 (leNat bs)).toInt] := by
  have hlt : leNat bs < 256 ^ bs.length := leNat_lt bs
  rw [h] at hlt
  rw [toInt_ofNat_below (w := 15) hlt, sextBytes, h]
  simp

/-- The bytes of a register group, least significant first. -/
theorem wordBytes_eq (w : Word) : wordBytes w = (List.range 4).map fun j => w.extractLsb' (8 * j) 8 := by
  simp only [wordBytes, leBytes, List.range, List.range.loop, List.map]
  refine congrArg₂ _ ?_ (congrArg₂ _ ?_ (congrArg₂ _ ?_ (congrArg₂ _ ?_ rfl))) <;>
    (apply BitVec.eq_of_toNat_eq; simp [BitVec.extractLsb'_toNat, Nat.shiftRight_eq_div_pow, Nat.div_div_eq_div_mul])

theorem groupBytes_eq (d : RegName) (k : Nat) (th : Thread) : groupBytes d k th =
    (List.range k).flatMap fun i => (List.range 4).map fun j => (th.valAt d i).extractLsb' (8 * j) 8 := by
  simp only [groupBytes, Thread.vals, List.flatMap_map, wordBytes_eq]

@[simp] theorem groupBytes_length (d : RegName) (k : Nat) (th : Thread) : (groupBytes d k th).length = 4 * k := by
  simp [groupBytes_eq, List.length_flatMap, Nat.mul_comm]

/-! ### Loads and stores of one lane (R297, R298, R367) -/

/-- A load that reaches a location without an uncorrectable error. -/
theorem loadBody_reaches {d a : RegName} {imm : BitVec 7} {n : Nat} {ext : List Byte → List Word} {s s' : State} {t : TRef} {th : Thread}
    {l : Loc} (hr : Reaches s t .load (effAddr th a imm n) n s' l) (hgood : s'.homeBad l n = false) : loadBody d a imm n ext s t th =
      .next ((s'.correct l n).modThread t fun _ => th.results d none 0 ((ext (s'.visible t th l n)).map Reg.plain)) := by
  have herr : s'.readError l n = none := by simp [State.readError, hgood]
  simp only [loadBody, access_ok _ hr.below hr.aligned hr.here, herr]

/-- A load, by what it makes of as many bytes as it moves. -/
theorem loadsFrom_of_exec {i : Instr} {st : Stall} {d a : RegName} {imm : BitVec 7} {n : Nat} {ext v : List Byte → List Word}
    {ea : Thread → Addr} (hexec : ∀ s, exec i s = s.run i st (loadBody d a imm n ext)) (hea : ∀ th, ea th = effAddr th a imm n)
    (hv : ∀ bs, bs.length = n → ext bs = v bs) : LoadsFrom i st .load d ea n v := by
  intro s t th s' l h hr hgood
  rw [hea] at hr
  rw [hexec, run_one h, loadBody_reaches hr hgood, afterLane, modThread_const, hv _ (visible_length ..)]
  rfl

/-- Settles O15: each load is one body, and its words are those of the bytes that it moves. -/
theorem loads : Obligations.Loads := by
  unfold Obligations.Loads
  intro d a imm w st
  have hea : ∀ n th, mAddr th a imm n = effAddr th a imm n := fun n th => (effAddr_eq th a imm n).symm
  exact ⟨loadsFrom_of_exec (fun _ => rfl) (hea 1) fun _ => loadWords_one, loadsFrom_of_exec (fun _ => rfl) (hea 1) fun _ => sextBytes_one,
    loadsFrom_of_exec (fun _ => rfl) (hea 2) fun _ => loadWords_two, loadsFrom_of_exec (fun _ => rfl) (hea 2) fun _ => sextBytes_two,
    loadsFrom_of_exec (fun _ => rfl) (hea _) fun _ => loadWords_words⟩

/-- A store in block memory, or outside a doubled block, enters its write and folds nothing (R367). -/
theorem storeAt_unfolded {s : State} {t : TRef} {l : Loc} (h : s.isDoubled t.blk = false ∨ ∃ b o, l = .win b o) (th : Thread) (ea : Addr)
    (bytes : List Byte) (fill : Bool) : s.storeAt t th ea l bytes fill = .next (s.enqueueWrite t th ⟨t, l, bytes, fill⟩) := by
  rcases h with hd | ⟨b, o, rfl⟩
  · exact storeAt_single hd th ea l bytes fill
  · rfl

/-- A store, by the bytes that it moves. -/
theorem storesTo_of_exec {i : Instr} {st : Stall} {a : RegName} {imm : BitVec 7} {n : Nat} {bytes v : Thread → List Byte}
    {ea : Thread → Addr} (hexec : ∀ s, exec i s = s.run i st (storeBody a imm n bytes)) (hea : ∀ th, ea th = effAddr th a imm n)
    (hv : ∀ th, bytes th = v th) (hn : ∀ th, (v th).length = n) : StoresTo i st ea v := by
  intro s t th s' l h hr hplace
  rw [hn, hea] at hr
  rw [hexec, run_one h, storeBody, access_ok _ hr.below hr.aligned hr.here, storeAt_unfolded hplace, hv, afterLane, enqueueWrite_issue]

@[simp] theorem enqueueWrite_blockMem (s : State) (t : TRef) (th : Thread) (w : QWrite) :
    (s.enqueueWrite t th w).blocks.map (·.mem) = s.blocks.map (·.mem) := by
  apply List.ext_getElem?
  intro n
  simp only [List.getElem?_map]
  exact enqueueWrite_keeps Block.mem (fun _ _ _ => rfl) s t th w n

@[simp] theorem modThread_blockMem (s : State) (t : TRef) (f : Thread → Thread) :
    (s.modThread t f).blocks.map (·.mem) = s.blocks.map (·.mem) := by
  apply List.ext_getElem?
  intro n
  simp only [List.getElem?_map]
  exact modBlock_keeps (·.mem) s t.blk (f := fun b => b.modThread t.tid f) (fun _ => rfl) n

/-- A store to pod memory in a doubled block folds its write into the signature of its thread and changes no memory, whether
its record is the last before a seal or not (R367, R368). -/
theorem afterLane_storeAt_doubled {i : Instr} {st : Stall} {s : State} {t : TRef} {th : Thread} (hd : s.isDoubled t.blk = true)
    (ht : s.thread? t = some th) (ea : Addr) (pa : Nat) (bytes : List Byte) (fill : Bool) :
    (afterLane i t st (s.storeAt t th ea (.phys pa) bytes fill)).mem = s.mem ∧
    (afterLane i t st (s.storeAt t th ea (.phys pa) bytes fill)).blocks.map (·.mem) = s.blocks.map (·.mem) ∧
    ((afterLane i t st (s.storeAt t th ea (.phys pa) bytes fill)).thread? t).map (fun x => (x.sig, x.regs, x.pc)) =
      some ((th.fold ea.toNat bytes).sig, th.regs, th.pc + 4) := by
  simp only [State.storeAt, enqueueWrite_isDoubled, hd]
  split
  · refine ⟨by simp [afterLane], by simp [afterLane], ?_⟩
    simp only [afterLane, modThread_get, want_thread, enqueueWrite_thread, ht, Option.map_some]
    rfl
  · refine ⟨by simp [afterLane], by simp [afterLane], ?_⟩
    simp only [afterLane, modThread_get, enqueueWrite_thread, ht, Option.map_some]
    rfl

/-- Settles O16: each store is one body, with the bytes that it moves. -/
theorem stores : Obligations.Stores := by
  unfold Obligations.Stores
  intro d a imm w st
  have hea : ∀ n th, mAddr th a imm n = effAddr th a imm n := fun n th => (effAddr_eq th a imm n).symm
  have hbyte : ∀ th : Thread, wordBytes (th.val d) = (List.range 4).map fun j => (th.val d).extractLsb' (8 * j) 8 := fun th => wordBytes_eq _
  refine ⟨storesTo_of_exec (n := 1) (fun _ => rfl) (hea 1) (fun th => ?_) fun _ => rfl,
    storesTo_of_exec (n := 2) (fun _ => rfl) (hea 2) (fun th => ?_) fun _ => rfl,
    storesTo_of_exec (n := 4 * w.k) (fun _ => rfl) (hea _) (groupBytes_eq d w.k) fun th => groupBytes_eq d w.k th ▸ groupBytes_length d w.k th,
    fun s t th s' pa h hr hd ht => ⟨_, run_one h st _, ?_⟩⟩
  · exact congrArg (List.take 1) (hbyte th)
  · exact congrArg (List.take 2) (hbyte th)
  · rw [hea] at hr ⊢
    rw [storeBody, access_ok _ hr.below hr.aligned hr.here]
    exact afterLane_storeAt_doubled hd ht ..

end Sys2Proof.Machine
end

section
namespace Sys2Proof.Machine

/-! ### The checks of an access (R28, R298) and the block aperture (R57, R58) -/

section
variable {s s' : State} {t : TRef} {k : Access} {ea : Addr} {n : Nat} {f : State → Loc → Lane}

theorem access_beyond (h : 2 ^ 48 ≤ ea.toNat) : s.access t k ea n f = .trap s 0x20 0x01 ea.toNat := if_pos h

theorem access_misaligned (h : ea.toNat < 2 ^ 48) (hn : ea.toNat % n ≠ 0) : s.access t k ea n f = .trap s 0x20 0x02 ea.toNat := by
  rw [State.access, if_neg (Nat.not_le.mpr h), if_pos hn]

theorem access_fault (h : ea.toNat < 2 ^ 48) (hn : ea.toNat % n = 0) {c sub aux : Nat} (hf : s.translate t k ea = .fault s' c sub aux) :
    s.access t k ea n f = .trap s' c sub aux := by
  rw [State.access, if_neg (Nat.not_le.mpr h), if_neg (not_not_intro hn), hf]

end

/-- What an instruction of one lane that is one access delivers where a check of R298 fails. -/
theorem exec_access_checks {i : Instr} {st : Stall} {k : Access} {s : State} {t : TRef} {th : Thread} {ea : Addr} {n : Nat}
    {f : State → Loc → Lane} {body : Body} (h : OneLane i s t th) (hexec : exec i s = s.run i st body) (hbody : body s t th = s.access t k ea n f) :
    (2 ^ 48 ≤ ea.toNat → exec i s = .next (s.deliverIssued st [⟨t, 0x20, 0x01, ea.toNat⟩] (some i))) ∧
    (ea.toNat < 2 ^ 48 → ea.toNat % n ≠ 0 → exec i s = .next (s.deliverIssued st [⟨t, 0x20, 0x02, ea.toNat⟩] (some i))) ∧
    (ea.toNat < 2 ^ 48 → ea.toNat % n = 0 → ∀ s' c sub aux, s.translate t k ea = .fault s' c sub aux →
      exec i s = .next (s'.deliverIssued st [⟨t, c, sub, aux⟩] (some i))) := by
  rw [hexec, run_one h, hbody]
  refine ⟨fun h1 => ?_, fun h1 h2 => ?_, fun h1 h2 s' c sub aux hf => ?_⟩
  · rw [access_beyond h1, afterLane]
  · rw [access_misaligned h1 h2, afterLane]
  · rw [access_fault h1 h2 hf, afterLane]

/-- A window that names no block of a quad group (R58). -/
theorem window_ungrouped {s : State} {blk : Nat} {b : Block} (hb : s.blocks[blk]? = some b) (hg : b.group = 0) {win : Nat} (hw : win ≠ 0) :
    s.window blk win = none := by
  rw [State.window, if_neg hw, hb]
  cases s.coreOf blk with
  | none => rfl
  | some c => simp [hg]

/-- An access to the aperture is what its fields say (R28, R57). -/
theorem xlat_aperture {s : State} {core blk : Nat} {engine : Bool} {k : Access} {ea : Addr} (hk : k ≠ .fetch) (ha : inAperture ea.toNat = true) :
    s.xlat core blk engine k ea = match s.aperture blk ea.toNat with
      | .ok l => .ok s l
      | .error sub => .fault s 0x21 sub ea.toNat := by
  have hlt : ¬ 2 ^ 48 ≤ ea.toNat := by
    have : ea.toNat / 2 ^ 32 = 0xFF00 := beq_iff_eq.mp ha
    omega
  have hfetch : (k == Access.fetch) = false := beq_eq_false_iff_ne.mpr hk
  simp only [State.xlat, if_neg hlt, ha, hfetch, Bool.and_false, if_true, Bool.false_eq_true, if_false] <;> rfl

section
variable {s : State} {blk ea : Nat} {b : Block}

/-- Reserved bits, and the windows that name nothing (R57). -/
theorem aperture_reserved (h : ea / 2 ^ 22 % 2 ^ 10 ≠ 0 ∨ (1 ≤ ea / 2 ^ 19 % 8 ∧ ea / 2 ^ 19 % 8 ≤ 3)) : s.aperture blk ea = .error 0x0A :=
  if_pos (by simpa using h)

/-- The own window (R57). -/
theorem aperture_own (hb : s.blocks[blk]? = some b) (hres : ea / 2 ^ 22 % 2 ^ 10 = 0) (hwin : ea / 2 ^ 19 % 8 = 0) :
    s.aperture blk ea = if ea % 2 ^ 19 < b.memSize then .ok (.win blk (ea % 2 ^ 19)) else .error 0x0A := by
  have hown : s.window blk 0 = some blk := if_pos rfl
  simp [-Nat.reducePow, State.aperture, hres, hwin, hown, hb]

/-- A peer window of a block that is in no quad group (R58). -/
theorem aperture_ungrouped (hb : s.blocks[blk]? = some b) (hres : ea / 2 ^ 22 % 2 ^ 10 = 0) (hwin : 3 < ea / 2 ^ 19 % 8) (hg : b.group = 0) :
    s.aperture blk ea = .error 0x0B := by
  simp [-Nat.reducePow, State.aperture, hres, Nat.not_le.mpr hwin, window_ungrouped hb hg (Nat.ne_of_gt (Nat.zero_lt_of_lt hwin))]

end

/-- Settles O19: the checks of one access in their order; and the aperture by its fields. -/
theorem accessChecks : Obligations.AccessChecks := by
  unfold Obligations.AccessChecks
  refine ⟨fun d a imm w st x hx s t th h => ?checks, fun s core blk k ea b hk hb hea => ?aperture⟩
  case checks =>
    simp only [List.mem_cons, List.not_mem_nil, or_false] at hx
    rw [mAddr, ← effAddr_eq]
    rcases hx with rfl | rfl <;> exact exec_access_checks h rfl rfl
  case aperture =>
    have hfield : ∀ lo w, (ea.extractLsb' lo w).toNat = ea.toNat / 2 ^ lo % 2 ^ w := fun lo w => by
      rw [BitVec.extractLsb'_toNat, Nat.shiftRight_eq_div_pow]
    have hin : inAperture ea.toNat = true := by
      have hlt : ea.toNat < 2 ^ 64 := ea.isLt
      have htop : ea.toNat / 2 ^ 32 % 2 ^ 32 = 0xFF00 := hfield 32 32 ▸ congrArg BitVec.toNat hea
      rw [inAperture, beq_iff_eq]
      omega
    simp only [hfield, pow_zero, Nat.div_one]
    rw [xlat_aperture hk hin]
    by_cases hbad : ea.toNat / 2 ^ 22 % 2 ^ 10 ≠ 0 ∨ (1 ≤ ea.toNat / 2 ^ 19 % 2 ^ 3 ∧ ea.toNat / 2 ^ 19 % 2 ^ 3 ≤ 3)
    · rw [aperture_reserved hbad, if_pos hbad]
    · have hres : ea.toNat / 2 ^ 22 % 2 ^ 10 = 0 := by omega
      rw [if_neg hbad]
      by_cases hown : ea.toNat / 2 ^ 19 % 2 ^ 3 = 0
      · rw [aperture_own hb hres hown, if_pos hown]
        by_cases hsize : ea.toNat % 2 ^ 19 < b.memSize
        · rw [if_pos hsize, if_pos hsize]
        · rw [if_neg hsize, if_neg hsize]
      · rw [if_neg hown]
        by_cases hg : b.group = 0
        · rw [aperture_ungrouped hb hres (by omega) hg, if_pos hg]
        · rw [if_neg hg]

end Sys2Proof.Machine
end

section
namespace Sys2Proof.Machine

/-! ### Retired words and their emulation (R246) -/

/-- RetiredOpcode parks its thread with the word, whatever its registers, and asks for the emulation. -/
theorem deliverIssued_retired {s : State} {t : TRef} {th : Thread} (h : s.thread? t = some th) (st : Stall) (i : Option Instr) :
    let s' := s.deliverIssued st [⟨t, 0x04, 0, 0⟩] i
    s'.thread? t = some { th.settleResults with park := some (.retired s.issue.word), stall := st.toNat, again := false } ∧
    (∀ u ≠ t, s'.thread? u = s.thread? u) ∧ s'.mem = s.mem ∧ Event.retiredEmulation t.blk t.tid ∈ s'.work := by
  intro s'
  let s1 := (s.modThread t (Thread.stalled st)).modThread t Thread.settleResults
  have hs1 : s1.thread? t = some (th.stalled st).settleResults := stalled_settled_thread h st
  have hother : ∀ u ≠ t, s1.thread? u = s.thread? u := fun u hu => by rw [modThread_other _ _ hu, modThread_other _ _ hu]
  have hdeliver : s' = State.want ((if s1.hostDuty (s1.partOf t.blk) 4 then s1.notify (s1.partOf t.blk) 4 [s.issue.word.toNat] none
      else s1).parkAt t (.retired s.issue.word)) (.retiredEmulation t.blk t.tid) := deliverIssued_one (by decide) s st t 0 i
  have hnotify : ∀ (c : Bool) (p : Nat) (l : List Nat), (∀ u, (if c then s1.notify p 4 l none else s1).thread? u = s1.thread? u) ∧
      (if c then s1.notify p 4 l none else s1).mem = s.mem := fun c p l => by cases c <;> exact ⟨fun _ => rfl, rfl⟩
  obtain ⟨hthreads, hmem⟩ := hnotify (s1.hostDuty (s1.partOf t.blk) 4) (s1.partOf t.blk) [s.issue.word.toNat]
  rw [hdeliver]
  refine ⟨?_, fun u hu => ?_, ?_, want_asked _ _⟩
  · rw [want_thread, State.parkAt, modThread_get, hthreads, hs1, Option.map_some, settleResults_eq, settleResults_eq]
    rfl
  · rw [want_thread, State.parkAt, modThread_other _ _ hu, hthreads, hother u hu]
  · rw [want_mem, State.parkAt, modThread_mem, hmem]

/-- The machine in which the emulation performs the native form of a retired word. -/
def State.emulating (s : State) (t : TRef) (core : Nat) (pc : Addr) (word : Word) : State :=
  { s.modThread t fun x => { x with park := none, hang := 0 } with issue := ⟨core, 0, [t], pc, word⟩ }

section
variable {s : State} {t : TRef} {th : Thread} {word : Word} {core : Nat}

theorem exec_retiredEmulation (ht : s.thread? t = some th) (hcore : s.coreOf t.blk = some core) (hp : th.park = some (.retired word)) :
    exec (.retiredEmulation t.blk t.tid) s = .next ((s.emulating t core th.pc word).emulate word) := by
  have hexec : exec (.retiredEmulation t.blk t.tid) s = execRetiredEmulation t.blk t.tid s := rfl
  rw [hexec, execRetiredEmulation, ht, hcore]
  dsimp only
  rw [hp]
  rfl

end

/-- The native form of each retired word. -/
def nativeForms (d a : RegName) (imm : BitVec 7) (w : Width) (st : Stall) : List (Instr × Instr) :=
  [(Instr.ldwv d a imm w st, Instr.ldw d a imm w st), (.stwv d a imm w st, .stw d a imm w st),
    (.fsqrtx d a st, .fsqrt d a .v1 st), (.frcpx d a st, .frcp d a .v1 st), (.frsqx d a st, .frsq d a .v1 st),
    (.fexp2x d a st, .fexp2 d a .v1 st), (.flog2x d a st, .flog2 d a .v1 st), (.fsinpix d a st, .fsinpi d a .v1 st),
    (.fcospix d a st, .fcospi d a .v1 st), (.ftanhx d a st, .ftanh d a .v1 st)]

/-- The emulation of a retired word is its native form. -/
theorem emulate_native {d a : RegName} {imm : BitVec 7} {w : Width} {st : Stall} {y : Instr × Instr} (hy : y ∈ nativeForms d a imm w st)
    {word : Word} (hd : decode word = some y.1) (s : State) : .next (s.emulate word) = exec y.2 s := by
  simp only [nativeForms, List.mem_cons, List.not_mem_nil, or_false] at hy
  rcases hy with rfl | rfl | rfl | rfl | rfl | rfl | rfl | rfl | rfl | rfl <;> (rw [State.emulate, hd]; rfl)

/-- A grid is what the number in its block says. -/
theorem grid?_congr {s s' : State} {b : Nat} (hb : (s'.blocks[b]?).map (·.grid) = (s.blocks[b]?).map (·.grid)) (hg : s'.grids = s.grids) :
    s'.grid? b = s.grid? b := by
  have hgrid : ∀ z : State, z.grid? b = ((z.blocks[b]?).map (·.grid)).bind (z.grids[·]?) := fun z => by rw [Option.bind_map]; rfl
  rw [hgrid, hgrid, hb, hg]

@[simp] theorem modThread_grid? (s : State) (t : TRef) (f : Thread → Thread) (b : Nat) : (s.modThread t f).grid? b = s.grid? b :=
  grid?_congr (modBlock_keeps (·.grid) s t.blk (f := fun b => b.modThread t.tid f) (fun _ => rfl) b) rfl

theorem emulating_plyN (s : State) (t : TRef) (core : Nat) (pc : Addr) (word : Word) (b : Nat) :
    (s.emulating t core pc word).plyN b = s.plyN b :=
  congrArg (fun g : Option Grid => ((g.map fun x : Grid => x.kernel).getD Kernel.blank).d)
    (modThread_grid? s t (fun x => { x with park := none, hang := 0 }) b)

/-- Settles O29: the issue parks its thread, and the emulation runs the native form, which completes where its checks hold. -/
theorem retiredWords : Obligations.RetiredWords := by
  unfold Obligations.RetiredWords
  intro d a imm w st s t th
  refine ⟨fun i hi hl ht => ?parks, fun word core ht hcore hp y hy hd => ?native, fun word core ht hcore hp => ?completes⟩
  case parks =>
    have hexec : exec i s = s.retire i st := by
      simp only [List.mem_cons, List.not_mem_nil, or_false] at hi
      rcases hi with rfl | rfl | rfl | rfl | rfl | rfl | rfl | rfl | rfl | rfl <;> rfl
    refine ⟨_, ?_, deliverIssued_retired (issuable_thread ht) st (some i)⟩
    rw [hexec, State.retire, issuing_one hl ht]
    rfl
  case native =>
    rw [exec_retiredEmulation ht hcore hp]
    exact emulate_native hy hd _
  case completes =>
    have hrun : ∀ y ∈ nativeForms d a imm w st, decode word = some y.1 →
        exec (.retiredEmulation t.blk t.tid) s = exec y.2 (s.emulating t core th.pc word) :=
      fun y hy hd => (exec_retiredEmulation ht hcore hp).trans (emulate_native hy hd _)
    refine ⟨fun s' l hd h hr hgood => ?ldwv, fun s' l hd h hr hplace => ?stwv, fun y hy hd h hn => ?function⟩
    case ldwv =>
      obtain ⟨-, -, -, -, hldw⟩ := loads d a imm w st
      refine (hrun (.ldwv d a imm w st, .ldw d a imm w st) (by simp [nativeForms]) hd).trans ((hldw _ t _ s' l h hr hgood).trans ?_)
      rw [List.map_map]
      rfl
    case stwv =>
      obtain ⟨-, -, hstw, -⟩ := stores d a imm w st
      rw [hrun (.stwv d a imm w st, .stw d a imm w st) (by simp [nativeForms]) hd, groupBytes_eq]
      refine hstw _ t _ s' l h ?_ hplace
      dsimp only
      rw [← groupBytes_eq, groupBytes_length]
      exact hr
    case function =>
      have hy' : (y.1, y.2.1) ∈ nativeForms d a imm w st ∧ FpOutcome y.2.1 st d dueV (fpOne a (funReg y.2.2 .v1)) := by
        simp only [List.mem_cons, List.not_mem_nil, or_false] at hy
        rcases hy with rfl | rfl | rfl | rfl | rfl | rfl | rfl | rfl <;> exact ⟨by simp [nativeForms], fpOutcome_fp1 fun _ => rfl⟩
      have hfun := (hy'.2 _ t _ h).1
      simp only [fpOne, flagsOf_one] at hfun
      rw [← emulating_plyN s t core th.pc word] at hn ⊢
      exact (hrun _ hy'.1 hd).trans (hfun hn)

end Sys2Proof.Machine
end

section
namespace Sys2Proof.Machine

/-! ### The correction of single-bit errors, and a strand with nothing queued (R68, R104) -/

section
variable (s : State) (l : Loc) (n : Nat)

@[simp] theorem correct_mem : (s.correct l n).mem = s.mem := (congrArg State.mem (correct_hard s l n) :)
@[simp] theorem correct_issue : (s.correct l n).issue = s.issue := (congrArg State.issue (correct_hard s l n) :)
@[simp] theorem correct_nextJoin : (s.correct l n).nextJoin = s.nextJoin := (congrArg State.nextJoin (correct_hard s l n) :)

/-- Of a block, a correction changes the single-bit errors alone. -/
theorem correct_keeps {α : Type} (g : Block → α) (hg : ∀ b, g { b with softMem := [] } = g b) (c : Nat) :
    ((s.correct l n).blocks[c]?).map g = (s.blocks[c]?).map g := by
  have h := congrArg (fun z : State => (z.blocks[c]?).map g) (correct_hard s l n)
  have hhard : ∀ z : State, (z.hard.blocks[c]?).map g = (z.blocks[c]?).map g := fun z => by
    rw [State.hard, List.getElem?_map, Option.map_map]
    exact congrArg (Option.map · _) (funext hg)
  rw [hhard, hhard] at h
  exact h

@[simp] theorem correct_thread (t : TRef) : (s.correct l n).thread? t = s.thread? t :=
  thread?_congr (correct_keeps s l n (·.threads) (fun _ => rfl) t.blk)

end

/-- A strand with nothing queued has nothing to perform. -/
theorem drainStrand_empty {s : State} {blk k : Nat} {st : Strand} (h : s.strand? blk k = some st) (hj : st.joint = none)
    (hq : st.queue = []) : s.drainStrand blk k = s := by
  simp only [State.drainStrand, h, Option.map_some, hq, List.foldl_nil]
  rw [modStrand_single s blk k _ (by rw [h]; exact hj)]
  refine modBlock_self fun b hb => ?_
  have hst : b.strands[k]? = some st := by rwa [State.strand?, hb] at h
  have hl : b.strands.modify k (fun y => { y with queue := [] }) = b.strands := by
    apply List.ext_getElem?
    intro n
    rw [List.getElem?_modify]
    by_cases hn : k = n
    · subst hn
      simp only [hst, if_true, Option.map_eq_map, Option.map_some, ← hq]
    · simp [hn]
  rw [Block.modStrand, hl]

/-! ### Full/empty accesses of the own window (R59, R300) -/

/-- The results of a load that has waited are those of its group (R300). -/
theorem give_eq_results (d : RegName) (vs : List Word) : ∀ (th : Thread) (i : Nat),
    th.give ((List.range' i vs.length).map fun j => archOf th.wb (member d j)) vs = th.results d none i (vs.map Reg.plain) := by
  induction vs with
  | nil => exact fun _ _ => rfl
  | cons v r ih =>
    intro th i
    rw [List.map_cons, results_cons, ← ih, result_wb]
    rfl

theorem give_words (d : RegName) (k : Nat) (th : Thread) {bytes : List Byte} (h : bytes.length = 4 * k) :
    th.give ((List.range k).map fun i => archOf th.wb (member d i)) (wordsOf bytes) =
      th.results d none 0 ((List.range k).map fun i => Reg.plain (leWord bytes i)) := by
  have hw := wordsOf_eq k bytes h
  have hlen : (wordsOf bytes).length = k := by rw [hw, List.length_map, List.length_range]
  have hg := give_eq_results d (wordsOf bytes) th 0
  rw [hlen, ← List.range_eq_range'] at hg
  rw [hg, hw, List.map_map]
  rfl

/-- An aligned offset of the own window is reached (R57, R300). -/
theorem ownAccess_own {s : State} {t : TRef} {b : Block} {ea : Addr} {off n : Nat} {f : Nat → Lane} (hb : s.blocks[t.blk]? = some b)
    (hea : ea = BitVec.ofNat 64 (0xFF0000000000 + off)) (hin : off < b.memSize) (hoff : off < 2 ^ 19) (hal : ea.toNat % n = 0) :
    s.ownAccess t ea n f = f off := by
  have hnat : ea.toNat = 0xFF0000000000 + off := by rw [hea, BitVec.toNat_ofNat, Nat.mod_eq_of_lt (by omega)]
  have haper : inAperture (0xFF0000000000 + off) = true := by rw [inAperture, beq_iff_eq]; omega
  have hrem : (0xFF0000000000 + off) % 2 ^ 19 = off := by omega
  have hloc : s.aperture t.blk (0xFF0000000000 + off) = .ok (.win t.blk off) := by
    rw [aperture_own hb (by omega) (by omega), hrem, if_pos hin]
  rw [hnat] at hal
  rw [State.ownAccess, hnat, if_neg (by omega), if_neg (by omega), haper, hloc, hrem]
  simp only [Bool.not_true, Bool.false_eq_true, if_false]
  exact if_pos (by omega)

theorem mem_granulesOf {off n g : Nat} (h : 0 < n) : g ∈ granulesOf off n ↔ off / 16 ≤ g ∧ g ≤ (off + n - 1) / 16 := by
  have hle : off / 16 ≤ (off + n - 1) / 16 := Nat.div_le_div_right (by omega)
  simp only [granulesOf, Nat.ne_of_gt h, if_false, List.mem_map, List.mem_range]
  constructor
  · rintro ⟨x, hx, rfl⟩
    omega
  · intro hg
    exact ⟨g - off / 16, by omega, by omega⟩

/-- What an LDFE or LDFEC waits for, and what it does once it is performed. -/
def feWaitOf (s : State) (d : RegName) (k off : Nat) (empties : Bool) (th : Thread) : FeWait :=
  ⟨(List.range k).map fun i => archOf th.wb (member d i), off, k, empties, s.nextJoin⟩

section
variable {s : State} {t : TRef} {th : Thread} {b : Block}

/-- A performed full/empty load: the words are on their way, and the bits of its granules are cleared where it empties. -/
theorem feDone_spec (ht : s.thread? t = some th) (hb : s.blocks[t.blk]? = some b) (x : FeWait) :
    (s.feDone t x).mem = s.mem ∧ (s.feDone t x).issue = s.issue ∧
    (s.feDone t x).thread? t = some (th.give x.dst (wordsOf (Mem.getN b.mem x.off (4 * x.words)))) ∧
    ((s.feDone t x).blocks[t.blk]?).map Block.memFull =
      some (b.mem, if x.empties then b.full.filter fun g => !(granulesOf x.off (4 * x.words)).contains g else b.full) := by
  let l : Loc := .win t.blk x.off
  let s1 := s.correct l (4 * x.words)
  have hread : s.homeRead l (4 * x.words) = Mem.getN b.mem x.off (4 * x.words) := by simp [l, State.homeRead, hb]
  have hblk : (s1.blocks[t.blk]?).map Block.memFull = some b.memFull := by
    rw [correct_keeps s l _ Block.memFull (fun _ => rfl), hb, Option.map_some]
  have hthread : s1.thread? t = some th := (correct_thread s l _ t).trans ht
  obtain ⟨b1, hb1, hmf⟩ := Option.map_eq_some_iff.mp hblk
  obtain ⟨hm, hf⟩ := Prod.mk.inj hmf
  have hkeep : ∀ (z : State) (f : Thread → Thread), ((z.modThread t f).blocks[t.blk]?).map Block.memFull = (z.blocks[t.blk]?).map Block.memFull :=
    fun z f => modBlock_keeps Block.memFull z t.blk (f := fun b => b.modThread t.tid f) (fun _ => rfl) t.blk
  cases he : x.empties with
  | false =>
    have hdone : s.feDone t x = s1.modThread t fun th => th.give x.dst (wordsOf (s.homeRead l (4 * x.words))) := by
      simp [State.feDone, he, s1, l]
    rw [hdone, hread]
    refine ⟨correct_mem s l _, correct_issue s l _, ?_, ?_⟩
    · rw [modThread_get, hthread, Option.map_some]
    · rw [hkeep, hblk]
      rfl
  | true =>
    let clear : Block → Block := fun b => { b with full := b.full.filter fun g => !(granulesOf x.off (4 * x.words)).contains g }
    have hdone : s.feDone t x = (s1.modBlock t.blk clear).modThread t
        fun th => th.give x.dst (wordsOf (s.homeRead l (4 * x.words))) := by
      simp [State.feDone, he, s1, l, clear]
    rw [hdone, hread]
    refine ⟨correct_mem s l _, correct_issue s l _, ?_, ?_⟩
    · rw [modThread_get, modBlock_thread s1 t.blk (f := clear) (fun _ => rfl), hthread, Option.map_some]
    · rw [hkeep, modBlock_get, hb1, ← hm, ← hf]
      rfl

variable {d a : RegName} {imm : BitVec 7} {k off : Nat}

section
variable (hown : ∀ f, s.ownAccess t (effAddr th a imm (4 * k)) (4 * k) f = f off) (hdrained : s.drainStrand t.blk th.strand = s)
  (hb : s.blocks[t.blk]? = some b)
include hown hdrained hb

/-- With every granule full and no uncorrectable word the load is performed. -/
theorem feBody_full (hfull : b.spanFull off (4 * k) = true) (hgood : s.homeBad (.win t.blk off) (4 * k) = false) (empties : Bool) :
    feBody d a imm k empties s t th = .next (s.feDone t (feWaitOf s d k off empties th)) := by
  have herr : s.readError (.win t.blk off) (4 * k) = none := by simp [State.readError, hgood]
  simp only [feBody, hown, hdrained, hb, Option.map_some, Option.getD_some, hfull, if_true, herr, feWaitOf]

/-- With a granule empty the thread waits at the bank. -/
theorem feBody_empty (hfull : b.spanFull off (4 * k) = false) (empties : Bool) : feBody d a imm k empties s t th =
    .go (State.parkAt { s with nextJoin := s.nextJoin + 1 } t (.granule (feWaitOf s d k off empties th))) := by
  simp only [feBody, hown, hdrained, hb, Option.map_some, Option.getD_some, hfull, Bool.false_eq_true, if_false, feWaitOf]

end

/-- What an issue leaves that has performed its full/empty load. -/
theorem afterLane_feDone (i : Instr) (st : Stall) (ht : s.thread? t = some th) (hb : s.blocks[t.blk]? = some b) (empties : Bool) :
    let s' := afterLane i t st (.next (s.feDone t (feWaitOf s d k off empties th)))
    s'.mem = s.mem ∧
    s'.thread? t = some ((th.results d none 0 ((List.range k).map fun i =>
      Reg.plain (leWord (Mem.getN b.mem off (4 * k)) i))).issued st s.issue.word).advance ∧
    (s'.blocks[t.blk]?).map Block.memFull = some (b.mem, if empties then b.full.filter fun g => !(granulesOf off (4 * k)).contains g else b.full) := by
  obtain ⟨hmem, hissue, hth, hblk⟩ := feDone_spec ht hb (feWaitOf s d k off empties th)
  refine ⟨hmem, ?_, ?_⟩
  · rw [afterLane, modThread_get, hth, hissue, Option.map_some]
    exact congrArg (fun x : Thread => some (x.issued st s.issue.word).advance) (give_words d k th (Mem.getN_length ..))
  · rw [afterLane]
    exact (modBlock_keeps Block.memFull _ t.blk (f := fun b => b.modThread t.tid _) (fun _ => rfl) t.blk).trans hblk

end

/-- The bits that an LDFEC clears (R300). -/
theorem filter_granulesOf (full : List Nat) {off n : Nat} (h : 0 < n) : (full.filter fun g => !(granulesOf off n).contains g) =
    full.filter fun g => decide (¬(off / 16 ≤ g ∧ g ≤ (off + n - 1) / 16)) := by
  refine List.filter_congr fun g _ => ?_
  rw [Bool.eq_iff_iff]
  simp [mem_granulesOf h]

/-- Settles O20: the load is performed or waits by the bits of its granules; STFE enters a write that fills. -/
theorem fullEmpty : Obligations.FullEmpty := by
  unfold Obligations.FullEmpty
  intro d a imm w st s t th b k off hb hea hin hoff hal
  have hpos : 0 < 4 * w.k := by cases w <;> decide
  have hown : ∀ f, s.ownAccess t (effAddr th a imm (4 * w.k)) (4 * w.k) f = f off := by
    intro f
    have heff : effAddr th a imm (4 * w.k) = BitVec.ofNat 64 (0xFF0000000000 + off) := (effAddr_eq th a imm _).trans hea
    refine ownAccess_own hb heff hin hoff ?_
    have hnat : (BitVec.ofNat 64 (0xFF0000000000 + off)).toNat = 0xFF0000000000 + off := Nat.mod_eq_of_lt (by omega)
    have hbase : 0xFF0000000000 % (4 * w.k) = 0 := by cases w <;> rfl
    rw [heff, hnat, Nat.add_mod, hbase, hal, Nat.zero_mod]
  refine ⟨fun h => ?stfe, fun hk hj hq => ⟨fun hfull hgood => ⟨fun h => ?ldfe, fun h => ?ldfec⟩, fun hfull i hi h => ?waits⟩⟩
  case stfe =>
    refine (run_one h st _).trans ?_
    dsimp only
    rw [hown, storeAt_unfolded (.inr ⟨_, _, rfl⟩), afterLane, enqueueWrite_issue]
  case ldfe =>
    refine ⟨_, (run_one h st _).trans (congrArg _ (congrArg _ (feBody_full hown (drainStrand_empty hk hj hq) hb hfull hgood false))), ?_⟩
    exact afterLane_feDone _ st (issuable_thread h.thread) hb false
  case ldfec =>
    refine ⟨_, (run_one h st _).trans (congrArg _ (congrArg _ (feBody_full hown (drainStrand_empty hk hj hq) hb hfull hgood true))), ?_⟩
    rw [← filter_granulesOf b.full hpos]
    exact afterLane_feDone _ st (issuable_thread h.thread) hb true
  case waits =>
    have hexec : exec i.1 s = s.run i.1 st (feBody d a imm w.k i.2) := by
      simp only [List.mem_cons, List.not_mem_nil, or_false] at hi
      rcases hi with rfl | rfl <;> rfl
    refine ⟨_, hexec.trans ((run_one h st _).trans (congrArg _ (congrArg _ (feBody_empty hown (drainStrand_empty hk hj hq) hb hfull i.2)))), ?_, ?_⟩
    · rw [afterLane, State.parkAt, modThread_get, modThread_get]
      have ht : ({ s with nextJoin := s.nextJoin + 1 } : State).thread? t = some th := issuable_thread h.thread
      rw [ht]
      rfl
    · rw [afterLane, State.parkAt]
      refine (modBlock_keeps Block.memFull _ t.blk (f := fun b => b.modThread t.tid _) (fun _ => rfl) t.blk).trans ?_
      refine (modBlock_keeps Block.memFull _ t.blk (f := fun b => b.modThread t.tid _) (fun _ => rfl) t.blk).trans ?_
      exact congrArg (Option.map Block.memFull) hb

end Sys2Proof.Machine
end

section
namespace Sys2Proof.Machine

/-! ### LDA, STL and the fences (R301, R302) -/

theorem effAddr_zero (th : Thread) (a : RegName) (n : Nat) : effAddr th a 0 n = th.pair a := by simp [effAddr]

/-- The body of a fence outside a doubled block: the writes of the strand are performed, then what the kind of fence does (R302). -/
theorem fenceBody_single {sc : Scope} {f : State → State} {s : State} {t : TRef} {th : Thread} (hd : s.isDoubled t.blk = false)
    (hs : th.sealed = false) : fenceBody sc f s t th = .next (f (s.drainStrand t.blk th.strand)) := sealIf_single hd hs _ _

/-- The cores after an ifetch fence held on a core (R92, R302). -/
theorem ifetch_icache (s : State) (sc : Scope) {c : Nat} (h : c < s.cores.length) :
    (({ s with cores := s.cores.zipIdx.map fun x => if Scope.covers sc s.issue.core x.2 then { x.1 with icache := [] } else x.1 } : State).core
      c).icache = if Scope.covers sc s.issue.core c then [] else (s.core c).icache := by
  simp only [State.core, List.getElem?_map, List.getElem?_zipIdx, List.getElem?_eq_getElem h, Option.map_some, Option.getD_some, Nat.zero_add]
  split <;> rfl

/-- Settles O21: each by its body, where no seal comes first. -/
theorem acquireRelease : Obligations.AcquireRelease := by
  unfold Obligations.AcquireRelease
  intro d a sc pair st
  refine ⟨?lda, fun s t th s' l h hs hd hd' hr => ?stl, fun i hi s t th h hs hd => ?fence, fun s t th h hs hd => ?table,
    fun s t th h hs hd => ⟨_, (run_one h st _).trans (congrArg _ (congrArg _ (fenceBody_single hd hs))), ?mem, ?pc, fun c hc => ?ifetch⟩⟩
  case lda =>
    refine loadsFrom_of_exec (d := d) (a := a) (imm := 0) (ext := loadWords) (fun s => ?_) (fun th => (effAddr_zero th a _).symm) fun bs hbs =>
      loadWords_words ?_
    · rfl
    · cases pair <;> exact hbs
  case stl =>
    refine (run_one h st _).trans ?_
    rw [sealIf_single hd hs, issuable_thread h.thread, Option.getD_some, storeBody, effAddr_zero]
    rw [access_ok (n := pairBytes pair) _ hr.below hr.aligned hr.here, storeAt_single hd', afterLane, enqueueWrite_issue]
  case fence =>
    have hexec : exec i s = s.run i st (fenceBody sc id) := by
      simp only [List.mem_cons, List.not_mem_nil, or_false] at hi
      rcases hi with rfl | rfl | rfl | rfl <;> rfl
    rw [hexec, run_one h, fenceBody_single hd hs]
    rfl
  case table =>
    exact (run_one h st _).trans (congrArg _ (congrArg _ (fenceBody_single hd hs)))
  case mem => rfl
  case pc =>
    rw [afterLane, modThread_get, Option.map_map]
    rfl
  case ifetch => exact ifetch_icache _ sc hc

end Sys2Proof.Machine
end

section
namespace Sys2Proof.Machine

/-! ### What a translation that writes nothing leaves (R37, R40, R42) -/

section
variable {s : State} {core part : Nat} {engine : Bool} {k : Access} {va : Nat}

theorem sameRest_setAccessed {s1 : State} (h : SameRest s s1) (c : Bool) (ent : Nat) (e : Addr) :
    SameRest s (if c then s1 else s1.writeEntry ent e) := by
  split
  · exact h
  · exact h.trans (sameRest_writeEntry ..)

/-- The walk of an access that sets no dirty bit, whatever it ends in. -/
theorem sameRest_xlatWalk_read (hk : (k == .store || k == .rmw) = false) : SameRest s (s.xlatWalk core part engine k va).after := by
  have hw := sameRest_walk s core part va
  unfold State.xlatWalk
  split
  case h_1 e | h_2 e => rw [e] at hw; exact hw
  case h_3 s1 pte level ent e =>
    rw [e] at hw
    have hset := sameRest_setAccessed (s1 := s1) hw (Pte.ac pte) ent (pte ||| 0x20#64)
    dsimp only
    generalize (if Pte.ac pte then s1 else s1.writeEntry ent (pte ||| 0x20#64)) = s2 at hset
    rw [hk, Bool.false_and]
    split
    · exact hset
    · rw [if_neg Bool.false_ne_true]
      split
      · exact hset
      · exact hset.trans (sameRest_fillTlb ..)

theorem sameRest_xlatPage_read (hk : (k == .store || k == .rmw) = false) : SameRest s (s.xlatPage core part engine k va).after := by
  have ht := sameRest_tlbHit s core part k va
  unfold State.xlatPage
  split
  · exact .refl s
  · split
    case h_1 e => rw [e] at ht; exact ht.trans (sameRest_xlatWalk_read hk)
    case h_2 e =>
      rw [e] at ht
      dsimp only
      split
      · exact ht
      · split
        · exact ht.trans (sameRest_xlatWalk_read hk)
        · exact ht

end

theorem sameRest_lined_after {s : State} {x : Xl} (core : Nat) (h : SameRest s x.after) : SameRest s (x.lined core).after := by
  cases x with
  | ok s1 l =>
    cases l with
    | win b o => exact h
    | phys pa => exact h.trans (sameRest_fillPoison ..)
  | fault | wait | exit => exact h

/-- A translation for an access that is no write changes no block, whatever it ends in. -/
theorem sameRest_xlat_read (s : State) (core blk : Nat) (engine : Bool) {k : Access} (hk : (k == .store || k == .rmw) = false) (ea : Addr) :
    SameRest s (s.xlat core blk engine k ea).after := by
  unfold State.xlat
  dsimp only
  split
  · exact .refl s
  · split
    · exact .refl s
    · split
      · split <;> exact .refl s
      · split
        · split
          · exact .refl s
          · split
            · exact .refl s
            · exact sameRest_lined_after core (.refl s)
        · exact sameRest_lined_after core (sameRest_xlatPage_read hk)

/-! ### ICINV (R275) -/

/-- The pages that a range touches. -/
def touchedPages (lo len : Nat) : List Nat :=
  if len = 0 then [] else (List.range ((lo + len - 1) / 4096 - lo / 4096 + 1)).map (· + lo / 4096)

theorem mem_touchedPages {lo len p : Nat} (h : p ∈ touchedPages lo len) : lo / 4096 ≤ p ∧ 4096 * p < lo + len := by
  unfold touchedPages at h
  split at h
  · simp at h
  · obtain ⟨x, hx, rfl⟩ := List.mem_map.mp h
    have := List.mem_range.mp hx
    omega

/-- One page's part, unless a page before it waits. -/
def icinvStep (core blk lo len : Nat) (r : State × Option Nat) (p : Nat) : State × Option Nat :=
  match r.2 with
  | some w => (r.1, some w)
  | none => match r.1.icinvPage core blk lo len p with
    | some s => (s, none)
    | none => (r.1, some p)

theorem sameRest_icinvPage {s s1 : State} {core blk lo len p : Nat} (h : s.icinvPage core blk lo len p = some s1) : SameRest s s1 := by
  have hx := sameRest_xlat_read s core blk false (k := .fetch) rfl (Addr.ofNat (4096 * p))
  unfold State.icinvPage at h
  split at h
  case h_1 e => rw [e] at hx; exact Option.some.inj h ▸ hx.trans (sameRest_modCore ..)
  case h_2 e | h_3 e | h_5 e => rw [e] at hx; exact Option.some.inj h ▸ hx
  case h_4 => cases h

/-- The whole range: no block changes, and it waits at none but one of its pages. -/
theorem icinvPages_spec (core blk lo len : Nat) (l : List Nat) : ∀ r : State × Option Nat,
    SameRest r.1 (l.foldl (icinvStep core blk lo len) r).1 ∧
      ∀ p, (l.foldl (icinvStep core blk lo len) r).2 = some p → r.2 = some p ∨ p ∈ l := by
  induction l with
  | nil => exact fun r => ⟨.refl _, fun p h => .inl h⟩
  | cons q l ih =>
    intro r
    have hstep : SameRest r.1 (icinvStep core blk lo len r q).1 ∧
        ∀ p, (icinvStep core blk lo len r q).2 = some p → r.2 = some p ∨ p = q := by
      unfold icinvStep
      split
      case h_1 w hw => exact ⟨.refl _, fun p h => .inl (hw.trans h)⟩
      case h_2 =>
        split
        case h_1 h => exact ⟨sameRest_icinvPage h, nofun⟩
        case h_2 => exact ⟨.refl _, fun p h => .inr (Option.some.inj h).symm⟩
    obtain ⟨hrest, hwait⟩ := ih (icinvStep core blk lo len r q)
    refine ⟨hstep.1.trans hrest, fun p h => ?_⟩
    rcases hwait p h with h | h
    · exact (hstep.2 p h).imp id fun e => by simp [e]
    · exact .inr (List.mem_cons_of_mem q h)

/-- What ICINV does in its lane. -/
theorem exec_icinv {d a : RegName} {sync : Bool} {st : Stall} {s : State} {t : TRef} {th : Thread} (h : OneLane (.icinv d a sync st) s t th) :
    let r := (touchedPages (th.pair a).toNat (th.val d).toNat).foldl
      (icinvStep s.issue.core t.blk (th.pair a).toNat (th.val d).toNat) (s, none)
    exec (.icinv d a sync st) s = .next (afterLane (.icinv d a sync st) t st (match r with
      | (s1, some p) => .stay (s1.waitWalk t (Addr.ofNat (4096 * p)))
      | (s1, none) => .next (if sync then s1.discardAll s.issue.core else s1))) := run_one h st _

@[simp] theorem discardAll_thread (s : State) (core : Nat) (t : TRef) : (s.discardAll core).thread? t = s.thread? t := by
  refine thread?_congr ?_
  rw [State.discardAll, List.getElem?_map, Option.map_map]
  congr 1
  funext b
  rw [Function.comp_apply]
  split <;> rfl

/-- No strand on the core keeps a word (R91). -/
theorem discardAll_discards {s : State} {core k : Nat} {b : Block} (hb : (s.discardAll core).blocks[k]? = some b) (hp : b.place = .onCore core) :
    ∀ x ∈ b.strands, x.loopBuf = none ∧ x.prefetched = [] := by
  rw [State.discardAll, List.getElem?_map] at hb
  obtain ⟨b0, -, rfl⟩ := Option.map_eq_some_iff.mp hb
  by_cases h0 : b0.place = .onCore core
  · rw [if_pos h0]
    intro x hx
    obtain ⟨y, -, rfl⟩ := List.mem_map.mp hx
    exact ⟨rfl, rfl⟩
  · rw [if_neg h0] at hp
    exact absurd hp h0

/-- The part of one page whose page translates. -/
theorem icinvPage_ok {s s1 : State} {core blk lo len p pa : Nat}
    (hx : s.xlat core blk false .fetch (Addr.ofNat (4096 * p)) = .ok s1 (.phys pa)) : s.icinvPage core blk lo len p =
      some (s1.modCore core fun c => { c with icache := c.icache.filter fun x =>
        !(x.1 / 4096 == pa / 4096 && decide (lo < 4096 * p + x.1 % 4096 + 4) && decide (4096 * p + x.1 % 4096 < lo + len)) }) := by
  simp only [State.icinvPage, hx]

/-- Settles O31: the fold over the pages of the range changes no block, and of one page that translates it drops what overlaps. -/
theorem instructionCache : Obligations.InstructionCache := by
  unfold Obligations.InstructionCache
  intro d a st s t th sync h lo len
  have ht : s.thread? t = some th := issuable_thread h.thread
  refine ⟨⟨_, exec_icinv h, ?any⟩, fun hlen hsync => ?empty, fun hlen hpage s1 pa hx hcore => ?page⟩
  case any =>
    obtain ⟨hrest, hwait⟩ := icinvPages_spec s.issue.core t.blk lo len (touchedPages lo len) (s, none)
    revert hrest hwait
    generalize (touchedPages lo len).foldl (icinvStep s.issue.core t.blk lo len) (s, none) = r
    intro hrest hwait
    have hth : r.1.thread? t = some th := (hrest.thread t).trans ht
    match r, hrest, hwait, hth with
    | (s1, some p), hrest, hwait, hth =>
      obtain ⟨h1, h2⟩ := mem_touchedPages ((hwait p rfl).resolve_left nofun)
      exact .inr ⟨p, h1, h2, by rw [afterLane, State.waitWalk, modThread_get, hth]; rfl⟩
    | (s1, none), hrest, hwait, hth =>
      refine .inl ?_
      have hissue : (if sync then s1.discardAll s.issue.core else s1).issue = s.issue := by
        rw [← hrest.issue]
        split <;> rfl
      have hth' : (if sync then s1.discardAll s.issue.core else s1).thread? t = some th := by
        split
        · rw [discardAll_thread, hth]
        · exact hth
      rw [afterLane, modThread_get, hth', hissue]
      rfl
  case empty =>
    have hnone : touchedPages lo len = [] := if_pos hlen
    refine (exec_icinv h).trans ?_
    rw [hnone, hsync]
    exact congrArg _ (modThread_known s ht _)
  case page =>
    have hone : touchedPages lo len = [lo / 4096] := by
      rw [touchedPages, if_neg (Nat.ne_of_gt hlen), ← hpage, Nat.sub_self]
      simp
    let s2 := s1.modCore s.issue.core fun c => { c with icache := c.icache.filter fun x =>
      !(x.1 / 4096 == pa / 4096 && decide (lo < 4096 * (lo / 4096) + x.1 % 4096 + 4) && decide (4096 * (lo / 4096) + x.1 % 4096 < lo + len)) }
    let s3 := if sync then s2.discardAll s.issue.core else s2
    have hstep : icinvStep s.issue.core t.blk lo len (s, none) (lo / 4096) = (s2, none) := by
      simp only [icinvStep, icinvPage_ok hx, s2]
    have hexec : exec (.icinv d a sync st) s = .next (s3.modThread t fun x => (x.issued st s3.issue.word).advance) := by
      refine (exec_icinv h).trans ?_
      rw [hone, List.foldl_cons, List.foldl_nil, hstep]
      rfl
    have hrest : SameRest s s1 := sameRest_xlat hx
    have hkeep : s3.mem = s1.mem ∧ s3.issue = s.issue ∧ s3.cores = s2.cores ∧ s3.thread? t = some th := by
      have hs2 : s2.thread? t = some th := (hrest.thread t).trans ht
      rw [← hrest.issue]
      cases sync
      · exact ⟨rfl, rfl, rfl, hs2⟩
      · exact ⟨rfl, rfl, rfl, (discardAll_thread s2 _ t).trans hs2⟩
    obtain ⟨hmem, hissue, hcores, hthread⟩ := hkeep
    have hcache : ∀ x, x ∈ ((s3.modThread t fun x => (x.issued st s3.issue.word).advance).core s.issue.core).icache ↔
        x ∈ (s1.core s.issue.core).icache ∧ ¬ (x.1 / 4096 = pa / 4096 ∧ lo < 4096 * (lo / 4096) + x.1 % 4096 + 4 ∧
          4096 * (lo / 4096) + x.1 % 4096 < lo + len) := by
      intro x
      rw [State.core, modThread_cores, hcores, ← State.core, modCore_core_same hcore, List.mem_filter, Bool.not_eq_true', Bool.eq_false_iff]
      simp only [ne_eq, Bool.and_eq_true, beq_iff_eq, decide_eq_true_iff, and_assoc]
    refine ⟨_, hexec, hmem, ?thread, fun hsync k b hb hp x hxs => ?sync, fun x hxc => ((hcache x).mp hxc).1, fun x hxc => ?cached⟩
    case thread =>
      rw [modThread_get, hthread, hissue]
      rfl
    case sync =>
      have hs3 : s3 = s2.discardAll s.issue.core := if_pos hsync
      have hkept := modBlock_keeps (fun b : Block => (b.place, b.strands)) s3 t.blk
        (f := fun b => b.modThread t.tid fun x => (x.issued st s3.issue.word).advance) (fun _ => rfl) k
      have hsame : (s3.blocks[k]?).map (fun b : Block => (b.place, b.strands)) = some (b.place, b.strands) := hkept.symm.trans (congrArg _ hb)
      rw [hs3] at hsame
      obtain ⟨b0, hb0, heq⟩ := Option.map_eq_some_iff.mp hsame
      obtain ⟨hplace, hstrands⟩ := Prod.mk.inj heq
      exact discardAll_discards hb0 (hplace.trans hp) x (hstrands ▸ hxs)
    case cached => rw [hcache x, and_iff_right hxc]

end Sys2Proof.Machine
end

section
namespace Sys2Proof.Machine

/-! ### The tree of R176 as a fold over the lanes that are present -/

section
variable {α : Type} (comb : α → α → α × Flags)

/-- Two nodes together, without their flags. -/
def joined (x y : Option α) : Option α := (treeNode comb x y).1

/-- The nodes of a level, combined from the left one on. -/
def foldNodes (l : List (Option α)) : Option α := l.foldr (joined comb) none

@[simp] theorem joined_none_left (x : Option α) : joined comb none x = x := rfl
@[simp] theorem joined_none_right (x : Option α) : joined comb x none = x := by cases x <;> rfl
@[simp] theorem foldNodes_nil : foldNodes comb [] = none := rfl
@[simp] theorem foldNodes_cons (x : Option α) (l : List (Option α)) : foldNodes comb (x :: l) = joined comb x (foldNodes comb l) := rfl

variable (hassoc : ∀ x y z, (comb (comb x y).1 z).1 = (comb x (comb y z).1).1)

include hassoc in
theorem joined_assoc (x y z : Option α) : joined comb (joined comb x y) z = joined comb x (joined comb y z) := by
  match x, y, z with
  | none, _, _ => rfl
  | some _, none, _ => rfl
  | some _, some _, none => rfl
  | some a, some b, some c => exact congrArg some (hassoc a b c)

theorem treeLevel_length (l : List (Option α)) : (treeLevel comb l).1.length = (l.length + 1) / 2 := by
  induction l using treeLevel.induct with
  | case1 x y r ih => simp only [treeLevel, List.length_cons, ih]; omega
  | case2 x => simp [treeLevel]
  | case3 => simp [treeLevel]

include hassoc

/-- A level combines to what the level below does. -/
theorem foldNodes_treeLevel (l : List (Option α)) : foldNodes comb (treeLevel comb l).1 = foldNodes comb l := by
  induction l using treeLevel.induct with
  | case1 x y r ih => rw [treeLevel, foldNodes_cons, ih, foldNodes_cons, foldNodes_cons, ← joined_assoc comb hassoc]; rfl
  | case2 x => rfl
  | case3 => rfl

/-- The root over no more leaves than the tree has. -/
theorem treeRoot_eq_foldNodes (n : Nat) : ∀ l : List (Option α), l.length ≤ 2 ^ n → (treeRoot comb n l).1 = foldNodes comb l := by
  induction n with
  | zero =>
    intro l h
    match l, h with
    | [], _ => rfl
    | [x], _ => simp [treeRoot]
    | _ :: _ :: _, h => simp at h
  | succ n ih =>
    intro l h
    rw [treeRoot, ih _ (by rw [treeLevel_length, Nat.div_le_iff_le_mul_add_pred (by decide)]; omega), foldNodes_treeLevel comb hassoc]

omit hassoc

/-- Absent lanes pass nothing. -/
theorem foldNodes_reduceOption (l : List (Option α)) : foldNodes comb l = foldNodes comb (l.reduceOption.map some) := by
  induction l with
  | nil => rfl
  | cons x r ih => cases x <;> simp [ih]

end

/-! ### The leaves of a set (R176) -/

/-- The members of a set in order of their lanes. -/
def LanesSorted (m : Members) : Prop := (m.map fun x => x.2.lane).Pairwise (· < ·)

/-- The leaves from a lane on, those present, are the members. -/
theorem reduceOption_leaves {α : Type} (f : Thread → α) (n : Nat) : ∀ (k : Nat) (m : Members), LanesSorted m →
    (∀ x ∈ m, k ≤ x.2.lane ∧ x.2.lane < k + n) →
    ((List.range' k n).map fun i => (m.find? fun x => x.2.lane == i).map fun x => f x.2).reduceOption = m.map fun x => f x.2 := by
  induction n with
  | zero =>
    intro k m _ h
    cases m with
    | nil => rfl
    | cons x r => exact absurd (h x (by simp)) (by omega)
  | succ n ih =>
    intro k m hs h
    rw [List.range'_succ, List.map_cons]
    match m, hs, h with
    | [], hs, h => simp
    | x :: r, hs, h =>
      obtain ⟨hx, hr⟩ := List.pairwise_cons.mp hs
      have hx' : ∀ y ∈ r, x.2.lane < y.2.lane := fun y hy => hx _ (List.mem_map_of_mem hy)
      by_cases hk : x.2.lane = k
      · have hrest : ∀ i ∈ List.range' (k + 1) n, ((x :: r).find? fun y => y.2.lane == i) = r.find? fun y => y.2.lane == i := by
          intro i hi
          have hne : x.2.lane ≠ i := by have := List.mem_range'_1.mp hi; omega
          rw [List.find?_cons_of_neg (by simpa using hne)]
        have htail := ih (k + 1) r hr fun y hy => by
          have := h y (by simp [hy])
          have := hx' y hy
          omega
        rw [List.map_congr_left fun i hi => by rw [hrest i hi], List.find?_cons_of_pos (by simpa using hk), Option.map_some,
          List.reduceOption_cons_of_some, htail, List.map_cons]
      · have hnone : ((x :: r).find? fun y => y.2.lane == k) = none := by
          rw [List.find?_eq_none]
          intro y hy
          have hlo := (h x (by simp)).1
          have : k < y.2.lane := by
            rcases List.mem_cons.mp hy with rfl | hy
            · omega
            · have := hx' y hy; omega
          simp; omega
        rw [hnone, Option.map_none, List.reduceOption_cons_of_none]
        refine ih (k + 1) (x :: r) hs fun y hy => ?_
        have hy' := h y hy
        have hlo := (h x (by simp)).1
        rcases List.mem_cons.mp hy with rfl | hy
        · omega
        · have := hx' y hy; omega

/-- The root over a set is the fold over its members. -/
theorem redRoot_eq {α : Type} {m : Members} (hs : LanesSorted m) (hlt : ∀ x ∈ m, x.2.lane < 64) (f : Thread → α) {comb : α → α → α × Flags}
    (hassoc : ∀ x y z, (comb (comb x y).1 z).1 = (comb x (comb y z).1).1) :
    (redRoot m f comb).1 = foldNodes comb ((m.map fun x => f x.2).map some) := by
  rw [redRoot, treeRoot_eq_foldNodes comb hassoc 6 _ (by simp [leaves]), foldNodes_reduceOption, leaves, List.range_eq_range',
    reduceOption_leaves f 64 0 m hs fun x hx => ⟨Nat.zero_le _, by have := hlt x hx; omega⟩]

/-- A fold with a value that combines with none to nothing. -/
theorem foldNodes_unit {α : Type} {comb : α → α → α × Flags} {e : α} (he : ∀ x, (comb x e).1 = x) {l : List α} (hl : l ≠ []) :
    foldNodes comb (l.map some) = some (l.foldr (fun x y => (comb x y).1) e) := by
  induction l with
  | nil => exact absurd rfl hl
  | cons x r ih =>
    rw [List.map_cons, foldNodes_cons, List.foldr_cons]
    by_cases hr : r = []
    · subst hr
      simp [he]
    · rw [ih hr]
      rfl

/-- A fold with a choice of one of two values that is no smaller than either is the largest of all. -/
theorem foldNodes_largest {α : Type} {comb : α → α → α × Flags} {key : α → Int} (hkey : ∀ x y, key x = key y → x = y)
    (hone : ∀ x y, (comb x y).1 = x ∨ (comb x y).1 = y) (hmax : ∀ x y, key (comb x y).1 = max (key x) (key y)) {l : List α} {v : α}
    (hv : v ∈ l) (hle : ∀ x ∈ l, key x ≤ key v) : foldNodes comb (l.map some) = some v := by
  have hfold : ∀ l : List α, l ≠ [] → ∃ r ∈ l, foldNodes comb (l.map some) = some r ∧ ∀ x ∈ l, key x ≤ key r := by
    intro l
    induction l with
    | nil => exact fun h => absurd rfl h
    | cons x r ih =>
      intro _
      by_cases hr : r = []
      · subst hr
        exact ⟨x, by simp, by simp, by simp⟩
      · obtain ⟨y, hy, hfy, hley⟩ := ih hr
        refine ⟨(comb x y).1, ?_, ?_, fun z hz => ?_⟩
        · rcases hone x y with h | h <;> rw [h] <;> simp [hy]
        · rw [List.map_cons, foldNodes_cons, hfy]
          rfl
        · rw [hmax]
          rcases List.mem_cons.mp hz with rfl | hz
          · exact le_max_left _ _
          · exact (hley z hz).trans (le_max_right _ _)
  obtain ⟨r, hr, hfr, hler⟩ := hfold l (List.ne_nil_of_mem hv)
  rw [hfr, hkey r v (le_antisymm (hle r hr) (hler v hv))]

/-! ### The integer reductions (R176, R188) -/

section
variable {m : Members} (hs : LanesSorted m) (hlt : ∀ x ∈ m, x.2.lane < 64) (hne : m ≠ []) (a : RegName)

/-- The values of a register over a set. -/
def valuesOf (m : Members) (a : RegName) : List Word := m.map fun x => x.2.val a

include hs hlt hne in
/-- A reduction with an operation that has a unit is a fold over the values. -/
theorem redInt_fold {op : RedInt} {e : Word} (he : ∀ x, redIntVal op false x e = x)
    (hassoc : ∀ x y z, redIntVal op false (redIntVal op false x y) z = redIntVal op false x (redIntVal op false y z)) :
    redInt op false m a = intReg (m.map fun x => x.2.get a) ((valuesOf m a).foldr (redIntVal op false) e) := by
  have hroot := redRoot_eq hs hlt (fun th => th.val a) (comb := fun x y => (redIntVal op false x y, Flags.none)) hassoc
  rw [redInt, hroot, foldNodes_unit he (by simpa using hne)]
  rfl

include hs hlt in
/-- A reduction to the largest value by a key. -/
theorem redInt_largest {op : RedInt} {signed : Bool} {key : Word → Int} (hkey : ∀ x y, key x = key y → x = y)
    (hone : ∀ x y, redIntVal op signed x y = x ∨ redIntVal op signed x y = y)
    (hmax : ∀ x y, key (redIntVal op signed x y) = max (key x) (key y)) {v : Word} (hv : ∃ x ∈ m, x.2.val a = v)
    (hle : ∀ x ∈ m, key (x.2.val a) ≤ key v) : redInt op signed m a = intReg (m.map fun x => x.2.get a) v := by
  have hassoc : ∀ x y z, redIntVal op signed (redIntVal op signed x y) z = redIntVal op signed x (redIntVal op signed y z) :=
    fun x y z => hkey _ _ (by rw [hmax, hmax, hmax, hmax, max_assoc])
  have hroot := redRoot_eq hs hlt (fun th => th.val a) (comb := fun x y => (redIntVal op signed x y, Flags.none)) hassoc
  rw [redInt, hroot, foldNodes_largest (comb := fun x y => (redIntVal op signed x y, Flags.none)) hkey hone hmax (List.mem_map.mpr hv)
    (List.forall_mem_map.mpr hle)]
  rfl

end

/-- The sum modulo 2^32. -/
theorem foldr_add_eq (l : List Word) : l.foldr (· + ·) 0 = BitVec.ofNat 32 (l.map BitVec.toNat).sum := by
  induction l with
  | nil => rfl
  | cons x r ih => rw [List.foldr_cons, ih, List.map_cons, List.sum_cons, BitVec.ofNat_add, BitVec.ofNat_toNat, BitVec.setWidth_eq]

/-- The bitwise results, bit by bit. -/
theorem foldr_and_eq (l : List Word) : l.foldr (· &&& ·) (BitVec.allOnes 32) = BitVec.ofFnLE fun j => l.all fun x => x[j] := by
  refine eq_ofFnLE fun j => ?_
  induction l with
  | nil => rw [List.foldr_nil, List.all_nil, BitVec.getLsbD_allOnes, decide_eq_true j.isLt]
  | cons x r ih =>
    rw [List.foldr_cons, BitVec.getLsbD_and, ih]
    rfl

theorem foldr_or_eq (l : List Word) : l.foldr (· ||| ·) 0 = BitVec.ofFnLE fun j => l.any fun x => x[j] := by
  refine eq_ofFnLE fun j => ?_
  induction l with
  | nil => exact BitVec.getLsbD_zero
  | cons x r ih =>
    rw [List.foldr_cons, BitVec.getLsbD_or, ih]
    rfl

theorem foldr_xor_eq (l : List Word) : l.foldr (· ^^^ ·) 0 = BitVec.ofFnLE fun j => (l.countP fun x => x[j]) % 2 == 1 := by
  refine eq_ofFnLE fun j => ?_
  induction l with
  | nil => simp
  | cons x r ih =>
    have hbit : x[j] = x.getLsbD j := rfl
    rw [List.foldr_cons, BitVec.getLsbD_xor, ih, List.countP_cons, hbit]
    cases x.getLsbD j
    · rw [Bool.false_xor, if_neg Bool.false_ne_true, Nat.add_zero]
    · rw [Bool.true_xor, if_pos rfl, Bool.eq_iff_iff]
      simp only [Bool.not_eq_true', beq_eq_false_iff_ne, beq_iff_eq]
      omega

/-! ### The other collectives (R260, R261) -/

/-- One lane of a mask. -/
theorem shiftedOne_bit (n : Nat) (j : Fin 64) : (1#64 <<< n).getLsbD j = (n == j) := by
  have hj : (j : Nat) < 64 := j.isLt
  rw [BitVec.getLsbD_shiftLeft, decide_eq_true hj, Bool.true_and, Bool.eq_iff_iff]
  simp
  omega

/-- A mask, bit by bit. -/
theorem maskWhere_eq (m : Members) (p : Thread → Bool) :
    maskWhere m p = BitVec.ofFnLE fun (j : Fin 64) => m.any fun x => x.2.lane == j && p x.2 := by
  have fold : ∀ (l : Members) (v : Addr) (j : Fin 64),
      (l.foldl (fun a x => if p x.2 then a ||| (1#64 <<< x.2.lane) else a) v).getLsbD j = (v.getLsbD j || l.any fun x => x.2.lane == j && p x.2) := by
    intro l
    induction l with
    | nil => simp
    | cons x r ih =>
      intro v j
      rw [List.foldl_cons, ih, List.any_cons, ← Bool.or_assoc]
      refine congrArg (· || _) ?_
      cases p x.2 with
      | false => simp
      | true => rw [if_pos rfl, BitVec.getLsbD_or, shiftedOne_bit, Bool.and_true]
  exact eq_ofFnLE fun j => by rw [maskWhere, fold, BitVec.getLsbD_zero, Bool.false_or]

/-- The register of a source lane, or the own one where it is not in the set (R261). -/
theorem shflReg_eq (mode : ShflMode) (w : Nat) (m : Members) (th : Thread) (a b : RegName) : shflReg mode w m th a b =
    (((shflSrc mode w th.lane ((th.val b).toNat % 64)).bind fun l => m.find? fun x => x.2.lane == l).map fun x => x.2.get a).getD (th.get a) := by
  have hcount : (th.val b).field 0 6 = (th.val b).toNat % 64 := by simp [Word.field]
  rw [shflReg, hcount]
  cases shflSrc mode w th.lane ((th.val b).toNat % 64) with
  | none => rfl
  | some l =>
    dsimp only [Option.bind_some]
    cases m.find? fun x => x.2.lane == l <;> rfl

/-! ### The smaller and the larger of two words -/

theorem slt_iff_toInt (x y : Word) : x.slt y = true ↔ x.toInt < y.toInt := by rw [BitVec.slt_eq_decide, decide_eq_true_iff]

theorem ult_iff_toNat (x y : Word) : x.ult y = true ↔ (x.toNat : Int) < y.toNat := by rw [BitVec.ult_eq_decide, decide_eq_true_iff, Int.ofNat_lt]

/-- Each of the four is a choice of one of its words, by the key that its type and direction give. -/
theorem redIntVal_choice (op : RedInt) (signed : Bool) (lt : Word → Word → Bool) (key : Word → Int)
    (hop : ∀ x y, redIntVal op signed x y = if lt x y then y else x) (hlt : ∀ x y, lt x y = true ↔ key x < key y) :
    (∀ x y, redIntVal op signed x y = x ∨ redIntVal op signed x y = y) ∧
      ∀ x y, key (redIntVal op signed x y) = max (key x) (key y) := by
  refine ⟨fun x y => ?_, fun x y => ?_⟩
  · rw [hop]
    split
    · exact .inr rfl
    · exact .inl rfl
  · rw [hop]
    by_cases h : key x < key y
    · rw [if_pos ((hlt x y).mpr h), max_eq_right (le_of_lt h)]
    · rw [if_neg (mt (hlt x y).mp h), max_eq_left (le_of_not_gt h)]

/-- Settles O33: masks bit by bit, the tree as a fold over the members, the source lane of a shuffle. -/
theorem collectiveResults : Obligations.CollectiveResults := by
  unfold Obligations.CollectiveResults
  intro d a b ty st w n m th hs hlt hne flag mask src c red
  have hflag : ∀ (q : Bool) (p : Prop) [Decidable p], (q = true ↔ p) → Reg.plain (flagWord q) = flag p := by
    intro q p _ h
    refine congrArg Reg.plain ?_
    by_cases hp : p
    · rw [if_pos hp, h.mpr hp]; rfl
    · rw [if_neg hp, Bool.eq_false_iff.mpr (mt h.mp hp)]; rfl
  have hmask : ∀ p : Thread → Bool, maskRegs w (maskWhere m p) = mask p := fun p => by rw [maskWhere_eq]
  have hred : ∀ (op : RedInt) (signed : Bool) (v : Word), redInt op signed m a = intReg (m.map fun x => x.2.get a) v →
      some (d, [redInt op signed m a], Flags.none) = some (d, red v, 0) := fun op signed v h => by rw [h]; rfl
  refine ⟨?voteany, ?voteall, ?ballot, ?active, ?matchLanes, ?first, ?idx, ?up, ?down, ?xor, ?add, ?and, ?or, ?rxor, ?maxi, ?mini, ?maxn, ?minn⟩
  case voteany => exact congrArg (fun r => some (d, [r], (0 : Flags))) (hflag _ _ (by simp))
  case voteall => exact congrArg (fun r => some (d, [r], (0 : Flags))) (hflag _ _ (by simp))
  case ballot | active | matchLanes => exact congrArg (fun r => some (d, r, (0 : Flags))) (hmask _)
  case first =>
    rintro x r rfl
    rfl
  case idx | up | down | xor => exact congrArg (fun r => some (d, [r], (0 : Flags))) (shflReg_eq _ w m th a b)
  case add =>
    refine hred .add false _ ?_
    rw [redInt_fold hs hlt hne a (op := .add) (e := 0) (fun x => BitVec.add_zero x) fun x y z => BitVec.add_assoc x y z]
    exact congrArg _ ((foldr_add_eq _).trans (by simp [valuesOf, Function.comp_def]))
  case and =>
    refine hred .and false _ ?_
    rw [redInt_fold hs hlt hne a (op := .and) (e := BitVec.allOnes 32) (fun x => BitVec.and_allOnes) fun x y z => BitVec.and_assoc x y z]
    exact congrArg _ ((foldr_and_eq _).trans (by simp [valuesOf, Function.comp_def]))
  case or =>
    refine hred .or false _ ?_
    rw [redInt_fold hs hlt hne a (op := .or) (e := 0) (fun x => BitVec.or_zero) fun x y z => BitVec.or_assoc x y z]
    exact congrArg _ ((foldr_or_eq _).trans (by simp [valuesOf, Function.comp_def]))
  case rxor =>
    refine hred .xor false _ ?_
    rw [redInt_fold hs hlt hne a (op := .xor) (e := 0) (fun x => BitVec.xor_zero) fun x y z => BitVec.xor_assoc x y z]
    exact congrArg _ ((foldr_xor_eq _).trans (by simp [valuesOf, Function.comp_def]))
  case maxi =>
    intro v hv hle
    obtain ⟨hone, hmax⟩ := redIntVal_choice .max true BitVec.slt BitVec.toInt (fun _ _ => rfl) slt_iff_toInt
    exact hred .max true v (redInt_largest hs hlt a (fun x y h => BitVec.eq_of_toInt_eq h) hone hmax hv hle)
  case mini =>
    intro v hv hle
    obtain ⟨hone, hmax⟩ := redIntVal_choice .min true (fun x y => y.slt x) (fun x => -x.toInt) (fun _ _ => rfl) fun x y => by
      rw [slt_iff_toInt, neg_lt_neg_iff]
    exact hred .min true v (redInt_largest hs hlt a (fun x y h => BitVec.eq_of_toInt_eq (neg_inj.mp h)) hone hmax hv
      fun x hx => neg_le_neg (hle x hx))
  case maxn =>
    intro v hv hle
    obtain ⟨hone, hmax⟩ := redIntVal_choice .max false BitVec.ult (fun x => (x.toNat : Int)) (fun _ _ => rfl) ult_iff_toNat
    exact hred .max false v (redInt_largest hs hlt a (fun x y h => BitVec.eq_of_toNat_eq (Int.ofNat_inj.mp h)) hone hmax hv
      fun x hx => Int.ofNat_le.mpr (hle x hx))
  case minn =>
    intro v hv hle
    obtain ⟨hone, hmax⟩ := redIntVal_choice .min false (fun x y => y.ult x) (fun x => -(x.toNat : Int)) (fun _ _ => rfl) fun x y => by
      rw [ult_iff_toNat, neg_lt_neg_iff]
    exact hred .min false v (redInt_largest hs hlt a (fun x y h => BitVec.eq_of_toNat_eq (Int.ofNat_inj.mp (neg_inj.mp h))) hone hmax hv
      fun x hx => neg_le_neg (Int.ofNat_le.mpr (hle x hx)))

end Sys2Proof.Machine
end

section
namespace Sys2Proof.Machine

/-! ### Instructions performed once for their issue (R110, R277, R278, R312) -/

/-- What an issue of one lane leaves, by what its instruction did once. -/
def onceLeaves (i : Instr) (st : Stall) (t : TRef) : Once → State
  | .done s g => s.modThread t fun x => ((g t x).issued st s.issue.word).advance
  | .trap s c sub => s.deliverIssued st [⟨t, c, sub, 0⟩] (some i)
  | .fault s c sub aux => s.deliverIssued st [⟨t, c, sub, aux⟩] (some i)
  | .stay s => s

/-- An issue of one lane whose checks hold performs its instruction in the state in which the earlier writes of its strand
have been performed. -/
theorem runOnce_one {i : Instr} {s : State} {t : TRef} {th : Thread} (h : OneLane i s t th) (st : Stall)
    (f : State → List TRef → TRef → Thread → Once) :
    s.runOnce i st f = .next (onceLeaves i st t (f (s.drainStrand t.blk th.strand) [t] t th)) := by
  have hlane := lane_checked h.toChecked h.thread fun s _ _ => Lane.next s
  have ht := issuable_thread h.thread
  simp only [State.runOnce, h.lanes, List.head?_cons, Option.map_some, Option.getD_some, h.aligned, List.foldl_cons, List.foldl_nil, checkLane,
    hlane, List.nil_append, Option.bind_some, ht, State.drainLanes]
  cases f (s.drainStrand t.blk th.strand) [t] t th <;> rfl

section
variable {s : State} {core q : Nat}

theorem full_hasRoom (h : s.hasRoom core q) : (s.queue core q).full = false := by
  obtain ⟨hstand, hspill, -, -⟩ := h
  rw [EQueue.full, hspill, queueCap, decide_eq_false (Nat.not_le.mpr hstand)]
  rfl

/-- A queue with room takes an entry at its end. -/
theorem push_hasRoom (h : s.hasRoom core q) (op : CmdOp) (blk now : Nat) :
    (s.queue core q).push (Cmd.fresh op blk now) = (s.queue core q).with op blk now := by
  rw [EQueue.push, full_hasRoom h]
  rfl

/-- A command enters a queue that has room (R155). -/
theorem enterQueue_hasRoom (h : s.hasRoom core q) (blk : Nat) (op : CmdOp) :
    s.enterQueue core blk q op = some (s.modQueue core q fun x => x.with op blk (s.core core).cycles) := by
  have hfits : ∀ p, s.spillFits p 0 = true := fun _ => rfl
  simp only [State.enterQueue, State.enterQueues, List.countP_cons, List.countP_nil, full_hasRoom h, Bool.false_eq_true, if_false, hfits, if_true,
    List.foldl_cons, List.foldl_nil]
  exact congrArg some (modQueue_congr (push_hasRoom h op blk _))

/-- A changed queue. -/
theorem modQueue_queue_same (h : s.hasRoom core q) (f : EQueue → EQueue) : (s.modQueue core q f).queue core q = f (s.queue core q) := by
  obtain ⟨-, -, hcore, hq⟩ := h
  rw [State.queue, State.queue, State.modQueue, modCore_core_same hcore, List.getElem?_modify_eq, List.getElem?_eq_getElem hq]
  rfl

end

section
variable {s : State} {t : TRef} {oct : List Word} {q : Nat} {op : CmdOp} {lanes : List TRef}

/-- The spindle that an octet names. -/
theorem octSpindle_eq (s : State) (blk : Nat) (oct : List Word) :
    s.octSpindle blk oct = (s.spindle? blk false ((oct.getD 6 0).extractLsb' 0 5).toNat).isSome := by
  rw [State.octSpindle, field_eq_extractLsb']

/-- With its spindle claimed and room in its queue an octet enters the queue. -/
theorem issueOctet_enters (hclaimed : s.octSpindle t.blk oct = true) (hd : s.isDoubled t.blk = false) (h : s.hasRoom s.issue.core q) :
    s.issueOctet lanes t oct q op =
      .done (s.modQueue s.issue.core q fun x => x.with op t.blk (s.core s.issue.core).cycles) fun _ th => th := by
  simp only [State.issueOctet, hclaimed, Bool.not_true, Bool.false_eq_true, if_false, State.issueCmd, hd, enterQueue_hasRoom h]

/-- With its spindle not claimed it raises IllegalWait 0x02. -/
theorem issueOctet_unclaimed (hclaimed : s.octSpindle t.blk oct = false) : s.issueOctet lanes t oct q op = .trap s 0x30 0x02 := by
  simp only [State.issueOctet, hclaimed, Bool.not_false, if_true]

end

/-- Settles O36: each instruction is performed once, in the state in which the earlier writes have been performed. -/
theorem engineIssue : Obligations.EngineIssue := by
  unfold Obligations.EngineIssue
  intro d a st s t th oct core copyQ s1 now claimed hd hcore
  have hspindle : s1.octSpindle t.blk oct = claimed := octSpindle_eq s1 t.blk oct
  have hcopy : (oct.getD 6 0).field 8 2 = copyQ := field_eq_extractLsb' _ 8 2
  have hnow : (s1.core s1.issue.core).cycles = now := by rw [hcore]
  have hlaunch : exec (.launch d a st) s = execLaunch d a st s := rfl
  refine ⟨fun hc => ⟨fun h hroom => ?bcopy, fun h hroom => ?stream, fun h hroom b hb ht => ?coll⟩, fun hc i hi h => ?unclaimed,
    fun h => ⟨fun v hv => ?refused, fun k hk hroom ht => ?launched⟩⟩
  case bcopy =>
    have hexec : exec (.bcopy a st) s = execBcopy a st s := rfl
    rw [← hcore] at hroom
    rw [hexec, execBcopy, runOnce_one h]
    dsimp only
    rw [hcopy, issueOctet_enters (hspindle.trans hc) hd hroom]
    rfl
  case stream =>
    have hexec : exec (.stream a st) s = execStream a st s := rfl
    rw [← hcore] at hroom
    rw [hexec, execStream, runOnce_one h, issueOctet_enters (q := qStream) (hspindle.trans hc) hd hroom]
    rfl
  case coll =>
    have hexec : exec (.coll a st) s = execColl a st s := rfl
    have hgroup : (oct.getD 5 0).field 16 8 = ((oct.getD 5 0).extractLsb' 16 8).toNat := field_eq_extractLsb' _ 16 8
    rw [← hcore] at hroom
    rw [hexec, execColl, runOnce_one h]
    dsimp only
    rw [issueOctet_enters (q := qColl) (hspindle.trans hc) hd hroom, hgroup, hb]
    dsimp only [onceLeaves, Option.map_some, Option.getD_some]
    refine ⟨_, rfl, ?_, rfl, ?_⟩
    · rw [← hnow, ← hcore]
      exact modQueue_queue_same hroom fun x =>
        x.with (.coll oct (b.collCount ((oct.getD 5 0).extractLsb' 16 8).toNat)) t.blk (s1.core s1.issue.core).cycles
    · rw [modThread_get]
      exact (congrArg _ ((modBlock_thread _ t.blk (f := fun b => b.countColl _) (fun _ => rfl) t).trans ht) :)
  case unclaimed =>
    have hexec : exec (.bcopy a st) s = execBcopy a st s ∧ exec (.stream a st) s = execStream a st s ∧ exec (.coll a st) s = execColl a st s :=
      ⟨rfl, rfl, rfl⟩
    simp only [List.mem_cons, List.not_mem_nil, or_false] at hi
    rcases hi with rfl | rfl | rfl
    · rw [hexec.1, execBcopy, runOnce_one h]
      dsimp only
      rw [issueOctet_unclaimed (hspindle.trans hc)]
      rfl
    · rw [hexec.2.1, execStream, runOnce_one h]
      rw [issueOctet_unclaimed (hspindle.trans hc)]
      rfl
    · rw [hexec.2.2, execColl, runOnce_one h]
      dsimp only
      rw [issueOctet_unclaimed (hspindle.trans hc)]
      rfl
  case refused =>
    rw [hlaunch, execLaunch, runOnce_one h]
    dsimp only
    rw [hd, if_neg Bool.false_ne_true, hv]
    cases v <;> rfl
  case launched =>
    rw [← hcore] at hroom
    have henter : (s.drainStrand t.blk th.strand).enterQueue (s.drainStrand t.blk th.strand).issue.core t.blk qLaunch (.launch k (th.vals a 8)) =
        some (s1.modQueue s1.issue.core qLaunch fun x => x.with (.launch k oct) t.blk (s1.core s1.issue.core).cycles) :=
      enterQueue_hasRoom hroom t.blk _
    rw [hlaunch, execLaunch, runOnce_one h]
    dsimp only
    rw [hd, if_neg Bool.false_ne_true, hk]
    simp only [oct, henter]
    refine ⟨_, rfl, ?_, rfl, rfl, ?_⟩
    · rw [← hnow, ← hcore]
      exact modQueue_queue_same hroom _
    · rw [onceLeaves, modThread_get]
      exact congrArg _ ht

end Sys2Proof.Machine
end

section
namespace Sys2Proof.Machine

/-! ### The performing of queued writes that fill nothing (R104) -/

/-- What is a block's apart from its memory, its errors, its quarantine and its strands. -/
def Block.StoreFree {α : Type} (g : Block → α) : Prop := ∀ (b : Block) mem full bad soft quarantine strands,
  g { b with mem := mem, full := full, badMem := bad, softMem := soft, quarantine := quarantine, strands := strands } = g b

section
variable {α : Type} {g : Block → α} (hg : Block.StoreFree g)
include hg

theorem modStrand_storeFree (s : State) (blk k : Nat) (f : Strand → Strand) (c : Nat) :
    ((s.modStrand blk k f).blocks[c]?).map g = (s.blocks[c]?).map g :=
  modStrand_keeps (fun s => (s.blocks[c]?).map g) (fun s b k f => modBlock_keeps g s b
    (f := fun x => x.modStrand k f) (fun x => hg x x.mem x.full x.badMem x.softMem x.quarantine (x.strands.modify k f)) c) s blk k f

theorem performWrite_storeFree (s : State) {w : QWrite} (hw : w.fill = false) (c : Nat) :
    ((s.performWrite w).blocks[c]?).map g = (s.blocks[c]?).map g := by
  unfold State.performWrite
  split
  · exact modBlock_keeps g s _ (fun x => hg x x.mem x.full x.badMem x.softMem (x.quarantine ++ [w]) x.strands) c
  · rw [hw]
    cases w.loc with
    | phys p => rfl
    | win b off => exact modBlock_keeps g s b (fun x => hg x _ _ _ _ x.quarantine x.strands) c

end

theorem performWrite_keeps_issue (s : State) {w : QWrite} (hw : w.fill = false) : (s.performWrite w).issue = s.issue := by
  unfold State.performWrite
  split
  · rfl
  · rw [hw]
    cases w.loc <;> rfl

/-- The queue of a strand holds no fill. -/
def State.noFills (s : State) (blk k : Nat) : Prop := ∀ st, s.strand? blk k = some st → ∀ w ∈ st.queue, w.fill = false

/-- What every performed write that fills nothing keeps, the performing of a strand without fills keeps. -/
theorem drainStrand_keeps {α : Type} (p : State → α) (hstrand : ∀ s blk k f, p (State.modStrand s blk k f) = p s)
    (hwrite : ∀ s w, w.fill = false → p (State.performWrite s w) = p s) {s : State} {blk k : Nat} (h : s.noFills blk k) :
    p (s.drainStrand blk k) = p s := by
  unfold State.drainStrand
  cases hst : s.strand? blk k with
  | none => rfl
  | some st =>
    have fold : ∀ (l : List QWrite) (z : State), (∀ w ∈ l, w.fill = false) → p (l.foldl State.performWrite z) = p z := by
      intro l
      induction l with
      | nil => exact fun _ _ => rfl
      | cons w r ih =>
        intro z hl
        obtain ⟨hw, hr⟩ := List.forall_mem_cons.mp hl
        rw [List.foldl_cons, ih _ hr, hwrite z w hw]
    exact (fold _ _ (h st hst)).trans (hstrand ..)

section
variable {s : State} {blk k : Nat} (h : s.noFills blk k)
include h

theorem drainStrand_block {α : Type} {g : Block → α} (hg : Block.StoreFree g) (c : Nat) :
    ((s.drainStrand blk k).blocks[c]?).map g = (s.blocks[c]?).map g :=
  drainStrand_keeps (fun s => (s.blocks[c]?).map g) (fun s blk k f => modStrand_storeFree hg s blk k f c)
    (fun s _ hw => performWrite_storeFree hg s hw c) h

theorem drainStrand_thread (t : TRef) : (s.drainStrand blk k).thread? t = s.thread? t :=
  thread?_congr (drainStrand_block h (g := (·.threads)) (fun _ _ _ _ _ _ _ => rfl) t.blk)

theorem drainStrand_issue : (s.drainStrand blk k).issue = s.issue :=
  drainStrand_keeps State.issue (fun _ _ _ _ => modStrand_issue ..) (fun s _ hw => performWrite_keeps_issue s hw) h

theorem drainStrand_qspindles : (s.drainStrand blk k).qspindles = s.qspindles := (sameShape_drainStrand s blk k h).qspindles

end

/-! ### Spindles (R306, R307) -/

/-- What a spindle's place in its block is. -/
def Block.spindleView (b : Block) : Nat × Nat × List (Nat × Spindle) := (b.grid, b.group, b.spindles)

theorem spindle?_congr {s s' : State} {blk : Nat} (hq : s'.qspindles = s.qspindles)
    (hb : (s'.blocks[blk]?).map Block.spindleView = (s.blocks[blk]?).map Block.spindleView) (quad : Bool) (id : Nat) :
    s'.spindle? blk quad id = s.spindle? blk quad id := by
  unfold State.spindle?
  cases h' : s'.blocks[blk]? with
  | none =>
    rw [h', Option.map_none, eq_comm, Option.map_eq_none_iff] at hb
    rw [hb]
  | some b' =>
    rw [h', Option.map_some, eq_comm, Option.map_eq_some_iff] at hb
    obtain ⟨b, hb, he⟩ := hb
    obtain ⟨hgrid, hgroup, hsp⟩ := by simpa only [Block.spindleView, Prod.mk.injEq] using he
    rw [hb, hq]
    dsimp only
    rw [hgrid, hgroup, hsp]

@[simp] theorem modThread_spindle? (s : State) (t : TRef) (f : Thread → Thread) (blk : Nat) (quad : Bool) (id : Nat) :
    (s.modThread t f).spindle? blk quad id = s.spindle? blk quad id :=
  spindle?_congr (s := s) (s' := s.modThread t f) rfl (modBlock_keeps Block.spindleView s t.blk (f := fun b => b.modThread t.tid f) (fun _ => rfl) blk) quad id

@[simp] theorem modStrand_spindle? (s : State) (b k : Nat) (f : Strand → Strand) (blk : Nat) (quad : Bool) (id : Nat) :
    (s.modStrand b k f).spindle? blk quad id = s.spindle? blk quad id :=
  spindle?_congr (modStrand_qspindles ..) (modStrand_storeFree (g := Block.spindleView) (fun _ _ _ _ _ _ _ => rfl) s b k f blk) quad id

theorem find?_map_where {β : Type} {p : β → Bool} {g : β → β} (hg : ∀ q, p (g q) = p q) (l : List β) :
    (l.map fun q => if p q then g q else q).find? p = (l.find? p).map g := by
  induction l with
  | nil => rfl
  | cons q r ih =>
    rw [List.map_cons]
    by_cases hq : p q = true
    · rw [if_pos hq, List.find?_cons_of_pos ((hg q).trans hq), List.find?_cons_of_pos hq, Option.map_some]
    · rw [if_neg hq, List.find?_cons_of_neg hq, List.find?_cons_of_neg hq, ih]

/-- A changed spindle. -/
theorem modSpindle_spindle? (s : State) (blk : Nat) (quad : Bool) (id : Nat) (f : Spindle → Spindle) :
    (s.modSpindle blk quad id f).spindle? blk quad id = (s.spindle? blk quad id).map f := by
  cases quad with
  | false =>
    rw [modSpindle_eq, spindle?_eq, spindle?_eq, modBlock_get]
    cases s.blocks[blk]? with
    | none => rfl
    | some b => exact find?_map_same f
  | true =>
    unfold State.modSpindle State.spindle?
    cases hb : s.blocks[blk]? with
    | none => rw [hb]; rfl
    | some b =>
      simp only [if_true, hb]
      split
      · rfl
      · rw [find?_map_where (p := fun q : QuadSpindle => q.grid == b.grid && q.group == b.group && q.id == id)
          (g := fun q => { q with sp := f q.sp }) fun _ => rfl, Option.map_map, Option.map_map]
        rfl

@[simp] theorem modSpindle_thread (s : State) (blk : Nat) (quad : Bool) (id : Nat) (f : Spindle → Spindle) (t : TRef) :
    (s.modSpindle blk quad id f).thread? t = s.thread? t := by
  unfold State.modSpindle
  split
  · rfl
  · split
    · rfl
    · refine modBlock_thread s blk ?_ t
      exact fun _ => rfl

/-! ### A collective of one thread that is the whole of its set (R139, R146) -/

section
variable {i : Instr} {st : Stall} {s : State} {t : TRef} {th : Thread}

/-- The one member of such a set. -/
theorem membersAt_alone (hset : s.collSet t = [t]) : s.membersAt t th i st = [(t, th.atSet i st s.issue.word)] := by
  simp [State.membersAt, hset]

/-- A thread that is the whole of its set has its collective performed when it arrives, where it may wait for it. -/
theorem exec_alone (hexec : exec i s = s.collective i st) (hclaim : ∀ q n, spindleOf i = some (q, n) → (s.spindle? t.blk q n).isSome)
    (h : OneLane i s t th) (hset : s.collSet t = [t]) :
    exec i s = .next ((s.arrived t i st).perform s.issue.core t.blk i [(t, th.atSet i st s.issue.word)]) := by
  have ht := issuable_thread h.thread
  have hr : s.runLanes i st (parkCollective i) = s.arrived t i st := by
    have hpark : parkCollective i s t th = .go (s.parkAt t (.collective i)) := by
      unfold parkCollective
      split
      · next q n hq => rw [if_neg (by simpa using Option.isSome_iff_ne_none.mp (hclaim q n hq))]
      · rfl
    rw [runLanes_one h, hpark]
    simp only [afterLane, State.parkAt, modThread_modThread, modThread_issue]
    rfl
  have hfound : (s.arrived t i st).found (s.collSet t) = [(t, th.atSet i st s.issue.word)] := by
    simp [State.found, hset, arrived_self ht]
  rw [hexec, State.collective, hr, State.settleIssue, (onlyThreads_arrived s t i st).issue, h.lanes, List.foldl_cons, List.foldl_nil,
    State.tryCollective, arrived_self ht, complete_arrived ht, hfound, membersAt_alone hset]
  have hall : ([(t, th.atSet i st s.issue.word)] : Members).all (fun x => x.2.atCollective.isSome && x.2.pc == th.pc) = true := by
    simp [Thread.atSet, Thread.atCollective]
  rw [if_pos hall]
  rfl

/-- Results that go to a group are the same wherever the thread is parked. -/
theorem results_park (d : RegName) (due : Due) (p : Option Park) (l : List Reg) : ∀ (x : Thread) (k : Nat),
    ({ x with park := p } : Thread).results d due k l = { x.results d due k l with park := p } := by
  induction l with
  | nil => exact fun _ _ => rfl
  | cons r l ih =>
    intro x k
    have hone : ∀ a, ({ x with park := p } : Thread).result a r due = { x.result a r due with park := p } := fun a => by
      unfold Thread.result
      split <;> rfl
    rw [results_cons, results_cons, ← ih, ← hone]

/-- The member that goes on with results in its registers. -/
theorem atSet_results_wentOn (d : RegName) (l : List Reg) (w : Word) :
    (((th.atSet i st w).results d none 0 l).unpark).advance = th.wentOn st w fun z => z.results d none 0 l := by
  let x : Thread := { th with stall := st.toNat, word := w, again := false }
  have hpark : (th.atSet i st w).results d none 0 l = { x.results d none 0 l with park := some (.collective i) } :=
    results_park d none (some (.collective i)) l x 0
  rw [hpark]
  exact congrArg (fun p : Addr => ({ x.results d none 0 l with pc := p + 4, park := none, hang := 0 } : Thread)) (results_pc x d none 0 l)

theorem atSet_wentOn (w : Word) : ((th.atSet i st w).unpark).advance = th.wentOn st w fun z => z := rfl

end

/-! ### Spindle operations over a set of one thread (R307) -/

section
variable {z : State} {t : TRef} {y : Thread} {quad : Bool} {id : Nat}

theorem echo_keeps (s : State) (blk : Nat) (m : Members) (quad : Bool) (id : Nat) (vs : List Word) (trap : Option Nat) :
    (∀ u, (s.echo blk m quad id vs trap).thread? u = s.thread? u) ∧ (s.echo blk m quad id vs trap).issue = s.issue ∧
      ∀ b q n, (s.echo blk m quad id vs trap).spindle? b q n = s.spindle? b q n := by
  unfold State.echo
  split
  · next p _ =>
    refine ⟨fun u => modBlock_thread s p (f := fun b => { b with echoes := b.echoes ++ [⟨id, m.lead, vs, trap⟩] }) (fun _ => rfl) u, rfl,
      fun b q n => ?_⟩
    refine spindle?_congr ?_ ?_ q n
    · rfl
    · exact modBlock_keeps Block.spindleView s p (f := fun b => { b with echoes := b.echoes ++ [⟨id, m.lead, vs, trap⟩] }) (fun _ => rfl) b
  · exact ⟨fun _ => rfl, rfl, fun _ _ _ => rfl⟩

/-- A performed spindle operation: its member goes on with the result words. -/
theorem spun_alone (hz : z.thread? t = some y) (i : Instr) (vs : List Word) :
    (z.spun t.blk i [(t, y)] quad id vs).thread? t = some ((giveSpindle i vs y).unpark).advance ∧
      (z.spun t.blk i [(t, y)] quad id vs).spindle? t.blk quad id = z.spindle? t.blk quad id := by
  obtain ⟨hth, -, hsp⟩ := echo_keeps z t.blk [(t, y)] quad id vs none
  have hspun : z.spun t.blk i [(t, y)] quad id vs =
      (z.echo t.blk [(t, y)] quad id vs none).modThread t fun th => ((giveSpindle i vs th).unpark).advance := rfl
  rw [hspun]
  exact ⟨by rw [modThread_get, hth, hz]; rfl, by rw [modThread_spindle?, hsp]⟩

/-- A set that begins to wait. -/
theorem waitReady_alone (hz : z.thread? t = some y) (i : Instr) :
    (z.waitReady i [(t, y)]).thread? t = some { y with park := some (.ready i) } ∧
      (z.waitReady i [(t, y)]).spindle? t.blk quad id = z.spindle? t.blk quad id :=
  ⟨by rw [State.waitReady, List.foldl_cons, List.foldl_nil, modThread_get, hz]; rfl, modThread_spindle? ..⟩

/-- A wait in order of arrival on a spindle that no set waits for (R307). -/
theorem waitSpindle_alone {x : Spindle} (hz : z.thread? t = some y) (hx : z.spindle? t.blk quad id = some x) (hw : x.waiters = [])
    (i : Instr) (f : Spindle → Option (Spindle × List Word)) :
    (∀ x' vs, f x = some (x', vs) →
      (z.waitSpindle t.blk i [(t, y)] quad id f).thread? t = some ((giveSpindle i vs y).unpark).advance ∧
      (z.waitSpindle t.blk i [(t, y)] quad id f).spindle? t.blk quad id = some { x' with waiters := [] }) ∧
    (f x = none →
      (z.waitSpindle t.blk i [(t, y)] quad id f).thread? t = some { y with park := some (.ready i) } ∧
      (z.waitSpindle t.blk i [(t, y)] quad id f).spindle? t.blk quad id = some { x with waiters := [(t.blk, t.tid, y.pc)] }) := by
  refine ⟨fun x' vs hf => ?_, fun hf => ?_⟩
  · have hdone : z.waitSpindle t.blk i [(t, y)] quad id f = (z.modSpindle t.blk quad id fun w =>
        { x' with waiters := w.waiters.erase (t.blk, t.tid, y.pc) }).spun t.blk i [(t, y)] quad id vs := by
      simp only [State.waitSpindle, hx, hw, List.filter_nil, if_true, hf]
      rfl
    obtain ⟨hth, hsp⟩ := spun_alone (quad := quad) (id := id) (z := z.modSpindle t.blk quad id fun w =>
      { x' with waiters := w.waiters.erase (t.blk, t.tid, y.pc) }) ((modSpindle_thread ..).trans hz) i vs
    rw [hdone]
    refine ⟨hth, hsp.trans ?_⟩
    rw [modSpindle_spindle?, hx, Option.map_some, hw]
    rfl
  · have hdone : z.waitSpindle t.blk i [(t, y)] quad id f = (z.modSpindle t.blk quad id fun w =>
        if w.waiters.contains (t.blk, t.tid, y.pc) then w else { w with waiters := w.waiters ++ [(t.blk, t.tid, y.pc)] }).waitReady i [(t, y)] := by
      simp only [State.waitSpindle, hx, hw, List.filter_nil, if_true, hf]
      rfl
    obtain ⟨hth, hsp⟩ := waitReady_alone (quad := quad) (id := id) (z := z.modSpindle t.blk quad id fun w =>
      if w.waiters.contains (t.blk, t.tid, y.pc) then w else { w with waiters := w.waiters ++ [(t.blk, t.tid, y.pc)] })
      ((modSpindle_thread ..).trans hz) i
    rw [hdone]
    refine ⟨hth, hsp.trans ?_⟩
    rw [modSpindle_spindle?, hx, Option.map_some, hw]
    rfl

end

section
variable {i : Instr} {st : Stall} {s : State} {t : TRef} {th : Thread} {x : Spindle} {quad : Bool} {n : Nat}

/-- A spindle operation of a thread that is the whole of its set, on a claimed spindle. -/
theorem exec_spindle_alone (hexec : exec i s = s.collective i st) (hof : spindleOf i = some (quad, n)) (h : OneLane i s t th)
    (hset : s.collSet t = [t]) (hx : s.spindle? t.blk quad n = some x) (htrail : quad = true → s.trails t.blk = false) :
    exec i s = .next ((s.arrived t i st).performSpindle t.blk i [(t, th.atSet i st s.issue.word)] quad n) := by
  have hclaim : ∀ q k, spindleOf i = some (q, k) → (s.spindle? t.blk q k).isSome := by
    intro q k hq
    obtain ⟨rfl, rfl⟩ := Prod.mk.inj (Option.some.inj (hof.symm.trans hq))
    rw [hx]
    rfl
  have htrails : (s.arrived t i st).trails t.blk = s.trails t.blk :=
    congrArg (·.getD false) ((onlyThreads_arrived s t i st).block Block.trailing (fun _ => rfl) t.blk)
  have hlead : (quad && (s.arrived t i st).trails t.blk) = false := by
    rw [htrails]
    cases quad with
    | false => rfl
    | true => exact htrail rfl
  rw [exec_alone hexec hclaim h hset]
  unfold State.perform
  rw [hof]
  dsimp only
  rw [hlead, if_neg Bool.false_ne_true]

/-- The earlier writes of the strand, performed on the release side, leave the thread and the spindle (R98). -/
theorem releaseSet_alone {z : State} {y : Thread} (hfill : z.noFills t.blk y.strand) (hz : z.thread? t = some y) :
    (z.releaseSet [(t, y)]).thread? t = some y ∧ (z.releaseSet [(t, y)]).issue = z.issue ∧
      ∀ q k, (z.releaseSet [(t, y)]).spindle? t.blk q k = z.spindle? t.blk q k :=
  ⟨(drainStrand_thread hfill t).trans hz, drainStrand_issue hfill, fun q k =>
    spindle?_congr (drainStrand_qspindles hfill) (drainStrand_block hfill (g := Block.spindleView) (fun _ _ _ _ _ _ _ => rfl) t.blk) q k⟩

/-- A spindle operation that is performed after the release side. -/
theorem released_spun {z : State} {y : Thread} (hfill : z.noFills t.blk y.strand) (hz : z.thread? t = some y)
    (hx : z.spindle? t.blk quad n = some x) (i : Instr) (f : Spindle → Spindle) (vs : List Word) :
    (((z.releaseSet [(t, y)]).modSpindle t.blk quad n f).spun t.blk i [(t, y)] quad n vs).thread? t =
        some ((giveSpindle i vs y).unpark).advance ∧
      (((z.releaseSet [(t, y)]).modSpindle t.blk quad n f).spun t.blk i [(t, y)] quad n vs).spindle? t.blk quad n = some (f x) := by
  obtain ⟨hth, -, hsp⟩ := releaseSet_alone hfill hz
  obtain ⟨h1, h2⟩ := spun_alone (quad := quad) (id := n) (z := (z.releaseSet [(t, y)]).modSpindle t.blk quad n f)
    ((modSpindle_thread ..).trans hth) i vs
  exact ⟨h1, h2.trans (by rw [modSpindle_spindle?, hsp, hx, Option.map_some])⟩

/-- A trap of a performed collective of one member (R294). -/
theorem trapAll_alone {z : State} {y : Thread} {sub : Nat} (hz : z.thread? t = some y) (hcan : y.canTrap) :
    Handled (z.trapAll [(t, y)] 0x30 sub) t y.unpark 0x30 sub y.word ∧ (z.trapAll [(t, y)] 0x30 sub).mem = z.mem ∧
      ∀ q k, (z.trapAll [(t, y)] 0x30 sub).spindle? t.blk q k = z.spindle? t.blk q k := by
  let z1 : State := { z with issue := { z.issue with word := y.word } }.modThread t Thread.unpark
  have hz1 : z1.thread? t = some y.unpark := by
    have hw : ({ z with issue := { z.issue with word := y.word } } : State).thread? t = some y := hz
    rw [modThread_get, hw]
    rfl
  have htrap : z.trapAll [(t, y)] 0x30 sub = z1.deliver [⟨t, 0x30, sub, 0⟩] none := by
    simp only [State.trapAll, State.trapMembers, List.map_cons, List.map_nil, hz, Option.map_some, Option.getD_some, List.foldl_cons,
      List.foldl_nil, deliveredTraps_one]
    rfl
  have hcan1 : y.unpark.canTrap := hcan
  obtain ⟨hlane, hin, hv⟩ := hcan
  obtain ⟨hh, hmem, -⟩ := deliver_handled (c := 0x30) (by decide) hz1 hcan1 sub 0 none
  rw [htrap]
  refine ⟨hh, hmem, fun q k => ?_⟩
  have hsettled : (z1.modThread t Thread.settleResults).thread? t = some y.unpark.settleResults := by rw [modThread_get, hz1]; rfl
  have htr : y.unpark.settleResults.trap = y.trap := settleResults_trap _
  obtain ⟨g, m, e⟩ := takeTrap_handler (cause := 0x30) (sub := sub) (mask := 1#64 <<< y.lane) (first := y.lane) (word := y.word)
    hsettled (by rw [htr]; exact hin) (by rw [htr]; exact hv)
  have htakes := deliver_takes (c := 0x30) (by decide) hz1 hlane sub 0 none
  rw [htakes]
  exact (congrArg (fun w : State => w.spindle? t.blk q k) e).trans (by
    rw [modStrand_spindle?, modThread_spindle?, modThread_spindle?, modThread_spindle?]
    rfl)

/-- What the handler's entry says of a thread does not rest on its wait. -/
theorem handled_unpark {s' : State} {y : Thread} {cause sub : Nat} {w : Word} {p : Option Park} {k : Nat} {r : Bool}
    (hh : Handled s' t { y with park := p, hang := k, again := r } cause sub w) : Handled s' t y cause sub w := by
  obtain ⟨g, m, e⟩ := hh
  refine ⟨g, m, e.trans ?_⟩
  rw [settleResults_eq, settleResults_eq]

end

section
variable {z : State} {t : TRef} {y : Thread} {x x' : Spindle} {q : Bool} {n : Nat} {d : RegName} {quad : Bool} {id : BitVec 9} {st : Stall} {v : Word}

theorem performSpindle_qfill (hx : z.spindle? t.blk q n = some x) (hf : x.fill (y.val d) = some x') :
    z.performSpindle t.blk (.qfill d quad id st) [(t, y)] q n =
      ((z.releaseSet [(t, y)]).modSpindle t.blk q n fun _ => x').spun t.blk (.qfill d quad id st) [(t, y)] q n [] := by
  simp only [State.performSpindle, List.head?_cons, Option.map_some, Option.getD_some, hx, Option.bind_some, hf]

theorem performSpindle_qfill_none (hx : z.spindle? t.blk q n = some x) (hf : x.fill (y.val d) = none) :
    z.performSpindle t.blk (.qfill d quad id st) [(t, y)] q n = (z.echo t.blk [(t, y)] q n [] (some 0x03)).trapAll [(t, y)] 0x30 0x03 := by
  simp only [State.performSpindle, List.head?_cons, Option.map_some, Option.getD_some, hx, Option.bind_some, hf]

theorem performSpindle_qtry (hx : z.spindle? t.blk q n = some x) (ht : x.take = some (v, x')) :
    z.performSpindle t.blk (.qtry d quad id st) [(t, y)] q n =
      (z.modSpindle t.blk q n fun _ => x').spun t.blk (.qtry d quad id st) [(t, y)] q n [v, 1] := by
  simp only [State.performSpindle, hx, Option.bind_some, ht]

theorem performSpindle_qtry_none (hx : z.spindle? t.blk q n = some x) (ht : x.take = none) :
    z.performSpindle t.blk (.qtry d quad id st) [(t, y)] q n = z.spun t.blk (.qtry d quad id st) [(t, y)] q n [0, 0] := by
  simp only [State.performSpindle, hx, Option.bind_some, ht]

end

/-- On a spindle that the block has not claimed no operation waits (R146, R308). -/
theorem exec_unclaimed {i : Instr} {st : Stall} {s : State} {t : TRef} {th : Thread} {quad : Bool} {n : Nat}
    (hexec : exec i s = s.collective i st) (hof : spindleOf i = some (quad, n)) (h : OneLane i s t th)
    (hx : s.spindle? t.blk quad n = none) : exec i s = .next (s.deliverIssued st [⟨t, 0x30, 0x02, 0⟩] (some i)).settleIssue := by
  have hpark : parkCollective i s t th = .trap s 0x30 0x02 0 := by
    simp only [parkCollective, hof, hx, Option.isNone_none, if_true]
  rw [hexec, State.collective, runLanes_one h, hpark, afterLane]

/-- Settles O34: the operation of a set of one thread on a spindle that no set waits for. -/
theorem spindles : Obligations.Spindles := by
  unfold Obligations.Spindles
  intro d quad id st s t th x ops out waits
  refine ⟨fun hx i hi h => ?unclaimed, fun hset hx hw htrail hfill => ?claimed⟩
  case unclaimed =>
    simp only [ops, List.mem_cons, List.not_mem_nil, or_false] at hi
    rcases hi with rfl | rfl | rfl | rfl | rfl <;> exact exec_unclaimed (quad := quad) (n := id.toNat) rfl rfl h hx
  case claimed =>
    have hX : ∀ i, (OneLane i s t th → (s.arrived t i st).thread? t = some (th.atSet i st s.issue.word)) ∧
        (s.arrived t i st).spindle? t.blk quad id.toNat = some x ∧ (s.arrived t i st).noFills t.blk th.strand := by
      intro i
      refine ⟨fun h => arrived_self (issuable_thread h.thread), ?_, fun k hk w hwq => hfill w ?_⟩
      · rw [State.arrived, modThread_spindle?, hx]
      · rw [State.arrived, modThread_strand] at hk
        rw [State.strandOf, hk]
        exact hwq
    have hperformed : ∀ (i : Instr) (y : Spindle) (f : Thread → Thread), exec i s = s.collective i st → spindleOf i = some (quad, id.toNat) →
        (OneLane i s t th →
          ((s.arrived t i st).performSpindle t.blk i [(t, th.atSet i st s.issue.word)] quad id.toNat).thread? t =
            some (th.wentOn st s.issue.word f) ∧
          ((s.arrived t i st).performSpindle t.blk i [(t, th.atSet i st s.issue.word)] quad id.toNat).spindle? t.blk quad id.toNat = some y) →
        y.total = x.total → out i y f := fun i y f hexec hof hperf htot h =>
      ⟨_, exec_spindle_alone hexec hof h hset hx htrail, (hperf h).2, (hperf h).1, htot⟩
    have hwaits : ∀ (i : Instr), exec i s = s.collective i st → spindleOf i = some (quad, id.toNat) →
        (OneLane i s t th →
          ((s.arrived t i st).performSpindle t.blk i [(t, th.atSet i st s.issue.word)] quad id.toNat).thread? t =
            some { th.atSet i st s.issue.word with park := some (.ready i) } ∧
          ((s.arrived t i st).performSpindle t.blk i [(t, th.atSet i st s.issue.word)] quad id.toNat).spindle? t.blk quad id.toNat =
            some { x with waiters := [(t.blk, t.tid, th.pc)] }) → waits i := fun i hexec hof hperf h =>
      ⟨_, exec_spindle_alone hexec hof h hset hx htrail, (hperf h).2, (hperf h).1⟩
    have hfilled : ∀ x', x.fill (th.val d) = some x' → x'.total = x.total → out (.qfill d quad id st) x' fun z => z := by
      intro x' hx' htot
      refine hperformed _ _ _ rfl rfl (fun h => ?_) htot
      obtain ⟨hth, hsp, hnf⟩ := hX (.qfill d quad id st)
      rw [performSpindle_qfill (y := th.atSet (.qfill d quad id st) st s.issue.word) hsp hx']
      exact released_spun (y := th.atSet _ st s.issue.word) hnf (hth h) hsp _ (fun _ => x') []
    have hdone : ∀ x', x.finish = x' → x'.total = x.total → out (.qdone quad id st) x' fun z => z := by
      intro x' hx' htot
      refine hperformed _ _ _ rfl rfl (fun h => ?_) htot
      obtain ⟨hth, hsp, hnf⟩ := hX (.qdone quad id st)
      rw [← hx']
      exact released_spun (y := th.atSet _ st s.issue.word) hnf (hth h) hsp _ Spindle.finish []
    refine ⟨fun hfree => ?acquired, fun hfree => ?qacqWaits, fun hacq => ?fillAcquired, fun hacq hfree => ?fillFree, fun hacq hfree h hcan => ?illegal,
      fun v r hf => ⟨?taken, ?tried⟩, fun hf => ?qtakeWaits, fun hf => ?qtryEmpty, fun ht => ?returned, fun ht => ?idle⟩
    case acquired =>
      refine hperformed _ _ _ rfl rfl (fun h => ?_) (by simp only [Spindle.total]; omega)
      obtain ⟨hth, hsp, -⟩ := hX (.qacq quad id st)
      obtain ⟨h1, h2⟩ := (waitSpindle_alone (hth h) hsp hw (.qacq quad id st)
        fun x => if 0 < x.free then some (x.acquire, []) else none).1 x.acquire [] (if_pos hfree)
      exact ⟨h1, h2.trans (by rw [← hw]; rfl)⟩
    case qacqWaits =>
      refine hwaits _ rfl rfl fun h => ?_
      obtain ⟨hth, hsp, -⟩ := hX (.qacq quad id st)
      exact (waitSpindle_alone (hth h) hsp hw (.qacq quad id st) fun x => if 0 < x.free then some (x.acquire, []) else none).2
        (if_neg (by omega))
    case fillAcquired => exact hfilled _ (if_pos hacq) (by simp only [Spindle.total, List.length_append, List.length_singleton]; omega)
    case fillFree =>
      refine hfilled _ ?_ (by simp only [Spindle.total, List.length_append, List.length_singleton]; omega)
      rw [Spindle.fill, if_neg (by omega), if_pos hfree]
    case illegal =>
      obtain ⟨hth, hsp, -⟩ := hX (.qfill d quad id st)
      have hnone : x.fill ((th.atSet (.qfill d quad id st) st s.issue.word).val d) = none := by
        rw [Spindle.fill, if_neg (by omega), if_neg (by omega)]
      obtain ⟨hkeep, -, hspin⟩ := echo_keeps (s.arrived t (.qfill d quad id st) st) t.blk
        [(t, th.atSet (.qfill d quad id st) st s.issue.word)] quad id.toNat [] (some 0x03)
      obtain ⟨hh, -, hsame⟩ := trapAll_alone (sub := 0x03) ((hkeep t).trans (hth h)) hcan
      refine ⟨_, exec_spindle_alone rfl rfl h hset hx htrail, ?_, ?_⟩
      · rw [performSpindle_qfill_none hsp hnone, hsame, hspin, hsp]
      · rw [performSpindle_qfill_none hsp hnone]
        exact handled_unpark (y := { th with stall := st.toNat, word := s.issue.word }) hh
    case taken =>
      refine hperformed _ _ _ rfl rfl (fun h => ?_) (by simp only [Spindle.total, hf, List.length_cons]; omega)
      obtain ⟨hth, hsp, -⟩ := hX (.qtake d quad id st)
      have htake : (x.take).map (fun r => (r.2, [r.1])) = some ({ x with fifo := r, taken := x.taken + 1 }, [v]) := by
        simp only [Spindle.take, hf, Option.map_some]
      obtain ⟨h1, h2⟩ := (waitSpindle_alone (hth h) hsp hw (.qtake d quad id st) fun x => (x.take).map fun r => (r.2, [r.1])).1 _ _ htake
      exact ⟨h1.trans (congrArg some (atSet_results_wentOn d [Reg.plain v] _)), h2.trans (by rw [← hw])⟩
    case tried =>
      refine hperformed _ _ _ rfl rfl (fun h => ?_) (by simp only [Spindle.total, hf, List.length_cons]; omega)
      obtain ⟨hth, hsp, -⟩ := hX (.qtry d quad id st)
      have htake : x.take = some (v, { x with fifo := r, taken := x.taken + 1 }) := by simp only [Spindle.take, hf]
      rw [performSpindle_qtry hsp htake]
      obtain ⟨h1, h2⟩ := spun_alone (quad := quad) (id := id.toNat) ((modSpindle_thread ..).trans (hth h)) (.qtry d quad id st) [v, 1]
      exact ⟨h1.trans (congrArg some (atSet_results_wentOn d [Reg.plain v, Reg.plain 1] _)), h2.trans (by
        rw [modSpindle_spindle?, hsp, Option.map_some])⟩
    case qtakeWaits =>
      refine hwaits _ rfl rfl fun h => ?_
      obtain ⟨hth, hsp, -⟩ := hX (.qtake d quad id st)
      exact (waitSpindle_alone (hth h) hsp hw (.qtake d quad id st) fun x => (x.take).map fun r => (r.2, [r.1])).2
        (by simp only [Spindle.take, hf, Option.map_none])
    case qtryEmpty =>
      refine hperformed _ _ _ rfl rfl (fun h => ?_) rfl
      obtain ⟨hth, hsp, -⟩ := hX (.qtry d quad id st)
      rw [performSpindle_qtry_none hsp (by simp only [Spindle.take, hf])]
      obtain ⟨h1, h2⟩ := spun_alone (quad := quad) (id := id.toNat) (hth h) (.qtry d quad id st) [0, 0]
      exact ⟨h1.trans (congrArg some (atSet_results_wentOn d [Reg.plain 0, Reg.plain 0] _)), h2.trans hsp⟩
    case returned => exact hdone _ (if_pos ht) (by simp only [Spindle.total]; omega)
    case idle => exact hdone _ (if_neg (by omega)) rfl

end Sys2Proof.Machine
end

section
namespace Sys2Proof.Machine

/-! ### QFENCE of one thread (R101, R311) -/

/-- Where the head of no queue of a core is a join entry there is none to pass (R101). -/
theorem passJoins_noHead {s : State} {core : Nat} (h : ∀ q ∈ (s.core core).queues, ∀ c, q.all.head? = some c → ∀ n, c.op ≠ .join n) :
    s.passJoins core = s := by
  unfold State.passJoins
  rw [List.flatMap_eq_nil_iff.mpr]
  · rfl
  · intro q hq
    cases hall : q.all with
    | nil => rfl
    | cons c r =>
      dsimp only
      split
      · next id hid => exact absurd hid (h q hq c (by rw [hall]; rfl) id)
      · rfl

theorem modQueue_queue_other (s : State) (core : Nat) {q k : Nat} (h : k ≠ q) (f : EQueue → EQueue) (hc : core < s.cores.length) :
    (s.modQueue core q f).queue core k = s.queue core k := by
  rw [State.queue, State.queue, State.modQueue, modCore_core_same hc]
  dsimp only
  rw [List.getElem?_modify]
  simp [Ne.symm h]

/-- The entries of several queues of a core, entered one after the other. -/
theorem foldl_modQueue (core : Nat) (f : EQueue → EQueue) (qs : List Nat) : ∀ (z : State),
    qs.Nodup → (∀ k ∈ qs, core < z.cores.length ∧ k < (z.core core).queues.length) →
    let z' := qs.foldl (fun s q => s.modQueue core q f) z
    z'.blocks = z.blocks ∧ z'.mem = z.mem ∧ z'.issue = z.issue ∧ z'.cores.length = z.cores.length ∧
      (z'.core core).queues.length = (z.core core).queues.length ∧
      ∀ k, z'.queue core k = if k ∈ qs then f (z.queue core k) else z.queue core k := by
  induction qs with
  | nil => exact fun z _ _ => ⟨rfl, rfl, rfl, rfl, rfl, fun k => by simp⟩
  | cons q r ih =>
    intro z hn hlen
    obtain ⟨hz, hqlen⟩ := hlen q (by simp)
    obtain ⟨hq, hr⟩ := List.nodup_cons.mp hn
    have hz1 : core < (z.modQueue core q f).cores.length := by simpa [State.modQueue, State.modCore] using hz
    have hcount : ((z.modQueue core q f).core core).queues.length = (z.core core).queues.length := by
      rw [State.modQueue, modCore_core_same hz]
      exact List.length_modify ..
    obtain ⟨h1, h2, h3, h4, h5, h6⟩ := ih (z.modQueue core q f) hr fun k hk =>
      ⟨hz1, by rw [hcount]; exact (hlen k (by simp [hk])).2⟩
    have hlength : (z.modQueue core q f).cores.length = z.cores.length := by simp [State.modQueue, State.modCore]
    refine ⟨h1, h2, h3, h4.trans hlength, h5.trans hcount, fun k => ?_⟩
    rw [List.foldl_cons, h6 k]
    by_cases hk : k = q
    · subst hk
      rw [if_neg hq, if_pos (by simp)]
      rw [State.queue, State.queue, State.modQueue, modCore_core_same hz, List.getElem?_modify_eq,
        List.getElem?_eq_getElem hqlen]
      rfl
    · rw [modQueue_queue_other z core hk f hz]
      simp [hk]


/-- The queues that a mask names. -/
def maskQueues (mask : BitVec 9) : List Nat := (List.range 9).filter mask.getLsbD

theorem mem_maskQueues {mask : BitVec 9} {k : Nat} : k ∈ maskQueues mask ↔ k < 9 ∧ mask.getLsbD k = true := by
  simp [maskQueues]

section
variable {s : State} {core : Nat} {mask : BitVec 9}

/-- What a QFENCE finds: nine queues without a join entry, and a command and room in each queue of its mask. -/
structure FenceReady (s : State) (core : Nat) (mask : BitVec 9) : Prop where
  nine : (s.core core).queues.length = 9
  noJoin : ∀ k < 9, ∀ c ∈ (s.queue core k).all, ∀ id, c.op ≠ .join id
  room : ∀ k < 9, mask.getLsbD k = true → s.hasRoom core k ∧ (s.queue core k).q ≠ []

/-- Only a core of the machine has a queue with a command. -/
theorem FenceReady.isCore (h : FenceReady s core mask) {k : Nat} (hk : k < 9) (hbit : mask.getLsbD k = true) : core < s.cores.length := by
  by_contra hout
  refine (h.room k hk hbit).2 ?_
  rw [State.queue, State.core, List.getElem?_eq_none (Nat.le_of_not_lt hout)]
  have hreset : (Core.reset.queues[k]?).getD ⟨[], []⟩ = ⟨[], []⟩ := by
    rw [Core.reset, List.getElem?_replicate, if_pos hk]
    rfl
  exact congrArg EQueue.q hreset

/-- A queue with an entry behind a command has that command at its head. -/
theorem with_head {q : EQueue} (h : q.q ≠ []) (op : CmdOp) (blk now : Nat) : (q.with op blk now).all.head? = q.all.head? := by
  obtain ⟨c, r, hq⟩ := List.exists_cons_of_ne_nil h
  simp [EQueue.with, EQueue.all, hq]

/-- A QFENCE enters its join entry in each queue of its mask; none is passed yet. -/
theorem enterFence_enters (h : FenceReady s core mask) (blk : Nat) :
    ∃ z, s.enterFence core blk mask = some z ∧ z.blocks = s.blocks ∧ z.mem = s.mem ∧ z.issue = s.issue ∧
      ∀ k < 9, z.queue core k = if mask.getLsbD k then
        (s.queue core k).with (.join s.nextJoin) blk (s.core core).cycles else s.queue core k := by
  have hcount : ((maskQueues mask).countP fun q => (s.queue core q).full) = 0 := by
    rw [List.countP_eq_zero]
    intro k hk
    obtain ⟨hk9, hbit⟩ := mem_maskQueues.mp hk
    rw [full_hasRoom (h.room k hk9 hbit).1]
    exact Bool.false_ne_true
  have hfits : ∀ p, s.spillFits p 0 = true := fun _ => rfl
  obtain ⟨hblocks, hmem, hissue, hcores, hnine, hqueue⟩ := foldl_modQueue core
    (fun x => x.push (Cmd.fresh (.join s.nextJoin) blk (s.core core).cycles)) (maskQueues mask) s
    (List.nodup_range.filter _) fun k hk => ⟨h.isCore (mem_maskQueues.mp hk).1 (mem_maskQueues.mp hk).2, h.nine ▸ (mem_maskQueues.mp hk).1⟩
  let z0 := (maskQueues mask).foldl (fun z q => z.modQueue core q fun x =>
    x.push (Cmd.fresh (.join s.nextJoin) blk (s.core core).cycles)) s
  let z : State := { z0 with nextJoin := s.nextJoin + 1 }
  have henter : s.enterQueues core blk (maskQueues mask) (.join s.nextJoin) = some z0 := by
    simp only [State.enterQueues, hcount, hfits, if_true]
    rfl
  have hz : ∀ k < 9, z.queue core k = if mask.getLsbD k then
      (s.queue core k).with (.join s.nextJoin) blk (s.core core).cycles else s.queue core k := by
    intro k hk
    refine (hqueue k).trans ?_
    by_cases hbit : mask.getLsbD k = true
    · rw [if_pos (mem_maskQueues.mpr ⟨hk, hbit⟩), if_pos hbit, push_hasRoom (h.room k hk hbit).1]
    · rw [if_neg (fun hm => hbit (mem_maskQueues.mp hm).2), if_neg hbit]
  have hpass : z.passJoins core = z := by
    refine passJoins_noHead fun q hq c hc n => ?_
    obtain ⟨k, hk, hget⟩ := List.mem_iff_getElem.mp hq
    have hk9 : k < 9 := by rw [← h.nine, ← hnine]; exact hk
    have hqk : z.queue core k = q := by rw [State.queue, List.getElem?_eq_getElem hk, hget]; rfl
    have hhead : (s.queue core k).all.head? = some c := by
      rw [← hc, ← hqk, hz k hk9]
      split
      · next hbit => rw [with_head (h.room k hk9 hbit).2]
      · rfl
    exact h.noJoin k hk9 c (List.mem_of_mem_head? hhead) n
  have hfence : s.enterFence core blk mask = some (z.passJoins core) := by
    rw [State.enterFence]
    exact congrArg (fun o : Option State => match o with
      | some s' => some ((State.passJoins { s' with nextJoin := s.nextJoin + 1 } core))
      | none => none) henter
  exact ⟨z, by rw [hfence, hpass], hblocks, hmem, hissue, hz⟩

end

/-! ### QLD of one thread (R314, R315) -/

/-- The streams that fill an operand queue do not rest on the threads. -/
theorem OnlyThreads.streamLive {s s' : State} (h : OnlyThreads s s') (core blk k q : Nat) : s'.streamLive core blk k q = s.streamLive core blk k q := by
  have hblocks : ∀ {α : Type} (g : Block → α), (∀ b, g b.unthreaded = g b) → s'.blocks.map g = s.blocks.map g := by
    intro α g hg
    have := congrArg (List.map g) h.blocks
    simpa only [List.map_map, Function.comp_def, hg] using this
  have hparts : ∀ b, s'.strandParts b k = s.strandParts b k := fun b => strandParts_congr (hblocks (·.strands) fun _ => rfl) b k
  have hcopy : (s'.blocks[blk]?).map Block.copy = (s.blocks[blk]?).map Block.copy := h.block Block.copy (fun _ => rfl) blk
  have hcoreOf : ∀ b, s'.coreOf b = s.coreOf b := by
    intro b
    have hplace := h.block Block.place (fun _ => rfl) b
    have hof : ∀ z : State, z.coreOf b = ((z.blocks[b]?).map Block.place).bind fun p => match p with | .onCore c => some c | _ => none := by
      intro z
      rw [State.coreOf]
      cases z.blocks[b]? <;> rfl
    rw [hof, hof, hplace]
  have hqueue : ∀ c n, s'.queue c n = s.queue c n := fun c n => by rw [State.queue, h.core]; rfl
  have hheld : ∀ f : Held → Bool, (s'.blocks.any fun x => x.held.any f) = s.blocks.any fun x => x.held.any f := by
    intro f
    have := congrArg (fun l : List Bool => l.any id) (hblocks (fun b => b.held.any f) fun _ => rfl)
    simpa only [List.any_map, Function.comp_def, id] using this
  simp only [State.streamLive, hparts, hcopy, hcoreOf, hqueue, hheld]

/-- One element taken, with the mark of the end that stands behind it (log 68). -/
theorem popElements_one {e : List Word} (r : OperandQueue) {n : Nat} (hn : 0 < n) :
    popElements 1 n (e :: r) = if r.head? = some [] then r.tail else r := by
  rw [popElements, if_neg (by omega)]
  match r with
  | [] => rfl
  | [] :: _ => rfl
  | (_ :: _) :: _ => rfl

section
variable {d : RegName} {q : BitVec 3} {w : Width} {st : Stall} {s X : State} {t : TRef} {y : Thread} {k : Strand} {core : Nat}

/-- A QLD of one thread with an element in its queue takes it. -/
theorem performQld_element (hX : X.thread? t = some y) (hk : X.strand? t.blk y.strand = some k) (hj : k.joint = none)
    {e : List Word} {r : OperandQueue} (hq : k.opQueue q.toNat = e :: r) (he : e ≠ []) (i : Instr) (n : Nat) :
    let s' := X.performQld core t.blk i [(t, y)] d q.toNat n
    s'.mem = X.mem ∧ (s'.strand? t.blk y.strand).map (·.opQueue q.toNat) = some (if r.head? = some [] then r.tail else r) ∧
      s'.thread? t = some (((y.results d none 0 ((List.range n).map fun j => Reg.plain (e.getD j 0))).unpark).advance) := by
  have hels : ((e :: r).takeWhile fun e => !e.isEmpty) = e :: r.takeWhile fun e => !e.isEmpty := by simp [he]
  have hsingle : (X.strand? t.blk y.strand).bind Strand.joint = none := by rw [hk]; exact hj
  have hin : q.toNat < k.opq.length := by
    by_contra hout
    rw [Strand.opQueue, List.getElem?_eq_none (by omega)] at hq
    cases hq
  have hperf : X.performQld core t.blk i [(t, y)] d q.toNat n =
      (X.modBlock t.blk fun b => b.modStrand y.strand fun x =>
        { x with opq := x.opq.modify q.toNat (popElements 1 (r.takeWhile fun e => !e.isEmpty).length.succ) }).release t fun th =>
          th.results d none 0 ((List.range n).map fun j => Reg.plain (e.getD j 0)) := by
    simp [State.performQld, hk, hq, hels, modStrand_single X _ _ _ hsingle]
  intro s'
  have hs' : s' = _ := hperf
  rw [hs', State.release]
  refine ⟨rfl, ?_, ?_⟩
  · rw [modThread_strand, modBlock_modStrand_strand, hk, Option.map_some, Option.map_some, Strand.opQueue, List.getElem?_modify_eq,
      List.getElem?_eq_getElem hin]
    have hget : k.opq[q.toNat] = e :: r := by rw [← hq, Strand.opQueue, List.getElem?_eq_getElem hin]; rfl
    rw [hget]
    exact congrArg some (popElements_one r (Nat.succ_pos _))
  · rw [modThread_get, modBlock_thread X t.blk (by exact fun _ => rfl) t, hX]
    rfl

/-- A QLD of one thread on an empty queue that a stream will fill waits. -/
theorem performQld_waits (hk : X.strand? t.blk y.strand = some k) (hq : k.opQueue q.toNat = [])
    (hlive : X.streamLive core t.blk y.strand q.toNat = true) {i : Instr} {n : Nat} :
    X.performQld core t.blk i [(t, y)] d q.toNat n = X.waitReady i [(t, y)] := by
  simp [State.performQld, hk, hq, hlive]

/-- A QLD of one thread that has not waited, on an empty queue that no stream will fill, traps. -/
theorem performQld_nothing (hk : X.strand? t.blk y.strand = some k) (hq : k.opQueue q.toNat = [])
    (hdead : X.streamLive core t.blk y.strand q.toNat = false) {i j : Instr} (hp : y.park = some (.collective j)) {n : Nat} :
    X.performQld core t.blk i [(t, y)] d q.toNat n = X.trapAll [(t, y)] 0x30 0x04 := by
  simp [State.performQld, hk, hq, hdead, hp]

end

/-- Settles O37: a QFENCE and a QLD of a thread that is the whole of its set. -/
theorem queueFenceAndQld : Obligations.QueueFenceAndQld := by
  unfold Obligations.QueueFenceAndQld
  intro d q w mask st s t th hset
  have hX : ∀ i, OnlyThreads s (s.arrived t i st) := fun i => onlyThreads_arrived s t i st
  refine ⟨fun h hdouble hnine hnoJoin hroom => ?qfence, fun h k hk hj => ⟨fun e r hq he => ?element, fun hq hlive => ?waits,
    fun hq hdead hcan => ?nothing⟩⟩
  case qfence =>
    have hshape := hX (.qfence mask st)
    let X := s.arrived t (.qfence mask st) st
    have hth : X.thread? t = some (th.atSet (.qfence mask st) st s.issue.word) := arrived_self (issuable_thread h.thread)
    have hd : X.isDoubled t.blk = false := hdouble ▸ modThread_isDoubled s t _ t.blk
    obtain ⟨z, hfence, hblocks, hmem, -, hqueue⟩ := enterFence_enters (s := X) (core := s.issue.core)
      (mask := mask) ⟨hnine, hnoJoin, hroom⟩ t.blk
    have hperf : X.perform s.issue.core t.blk (.qfence mask st) [(t, th.atSet (.qfence mask st) st s.issue.word)] = z.release t id := by
      change X.performQfence s.issue.core t.blk _ mask = _
      rw [State.performQfence, hd, hfence]
      rfl
    refine ⟨_, exec_alone rfl (fun _ _ hq => by cases hq) h hset, ?_, ?_, fun k hk => ?_⟩
    · rw [hperf]
      exact hmem
    · rw [hperf, State.release, modThread_get, thread?_congr (s := X) (by rw [hblocks]), hth]
      rfl
    · rw [hperf]
      exact hqueue k hk
  all_goals
    have hth : (s.arrived t (.qld d q w st) st).thread? t = some (th.atSet (.qld d q w st) st s.issue.word) :=
      arrived_self (issuable_thread h.thread)
    have hstrand : (s.arrived t (.qld d q w st) st).strand? t.blk th.strand = some k := by rw [State.arrived, modThread_strand, hk]
    refine ⟨_, exec_alone rfl (fun _ _ hq => by cases hq) h hset, ?_⟩
  case element =>
    obtain ⟨hmem, hop, hgo⟩ := performQld_element (d := d) (q := q) (core := s.issue.core) hth hstrand hj hq he (.qld d q w st) w.k
    exact ⟨hmem, hop, hgo.trans (congrArg some (atSet_results_wentOn d _ _))⟩
  case waits =>
    have hlive' : (s.arrived t (.qld d q w st) st).streamLive s.issue.core t.blk th.strand q.toNat = true := by
      rw [(hX _).streamLive, hlive]
    have hperf : (s.arrived t (.qld d q w st) st).perform s.issue.core t.blk (.qld d q w st)
        [(t, th.atSet (.qld d q w st) st s.issue.word)] = (s.arrived t (.qld d q w st) st).waitReady (.qld d q w st)
          [(t, th.atSet (.qld d q w st) st s.issue.word)] :=
      performQld_waits (y := th.atSet (.qld d q w st) st s.issue.word) hstrand hq hlive'
    rw [hperf]
    exact ⟨rfl, (waitReady_alone (quad := false) (id := 0) hth _).1⟩
  case nothing =>
    have hperf : (s.arrived t (.qld d q w st) st).perform s.issue.core t.blk (.qld d q w st)
        [(t, th.atSet (.qld d q w st) st s.issue.word)] = (s.arrived t (.qld d q w st) st).trapAll
          [(t, th.atSet (.qld d q w st) st s.issue.word)] 0x30 0x04 :=
      performQld_nothing (y := th.atSet (.qld d q w st) st s.issue.word) (j := .qld d q w st) hstrand hq
        (((hX _).streamLive ..).trans hdead) rfl
    obtain ⟨hh, hmem, -⟩ := trapAll_alone (sub := 0x04) hth hcan
    rw [hperf]
    exact ⟨hmem, handled_unpark (y := { th with stall := st.toNat, word := s.issue.word }) hh⟩

end Sys2Proof.Machine
end

section
namespace Sys2Proof.Machine

/-! ### Barriers of one thread (R309, R310) -/

/-- A phase is complete (R310) once every participant has arrived in it or has exited, where every joined grid has been dealt. -/
theorem phaseDone_iff {s : State} {blk : Nat} {l : BarLevel} {n p : Nat} (h : s.undealt blk l = []) :
    s.phaseDone blk l n p = true ↔
      ∀ k ∈ s.participants blk l, ∀ b, s.blocks[k]? = some b → ∀ x ∈ b.threads, x.live = false ∨ p < x.phase l n := by
  rw [State.phaseDone, h, List.isEmpty_nil, Bool.true_and, List.all_eq_true]
  refine forall_congr' fun k => forall_congr' fun _ => ?_
  cases s.blocks[k]? with
  | none => simp
  | some b => simp [List.all_eq_true]

/-- A result leaves the arrivals of its thread. -/
@[simp] theorem results_phases (th : Thread) (d : RegName) (due : Due) (i : Nat) (l : List Reg) : (th.results d due i l).phases = th.phases := by
  induction l generalizing th i with
  | nil => rfl
  | cons r l ih =>
    rw [results_cons, ih, Thread.result]
    split <;> rfl

@[simp] theorem results_sealed (th : Thread) (d : RegName) (due : Due) (i : Nat) (l : List Reg) : (th.results d due i l).sealed = th.sealed := by
  induction l generalizing th i with
  | nil => rfl
  | cons r l ih =>
    rw [results_cons, ih, Thread.result]
    split <;> rfl

/-- A thread with a count in d that has arrived at a barrier once more. -/
def Thread.counted (th : Thread) (d : RegName) (v : Word) (l : BarLevel) (n : Nat) : Thread :=
  { th.results d none 0 [Reg.plain v] with
    phases := (l, n, th.phase l n + 1) :: th.phases.filter fun x => !(x.1 == l && x.2.1 == n) }

theorem arrive_giveOne (th : Thread) (d : RegName) (v : Word) (l : BarLevel) (n : Nat) :
    (giveOne d v th).arrive l n = th.counted d v l n := by
  have hphase : (th.results d none 0 [Reg.plain v]).phase l n = th.phase l n := by rw [Thread.phase, results_phases]; rfl
  rw [giveOne, Thread.arrive, hphase, results_phases]
  rfl

/-- The seal of a thread of a block that is not doubled. -/
theorem sealGate_single {s : State} {t : TRef} {th : Thread} (hd : s.isDoubled t.blk = false) (hs : th.sealed = false) (k : State → Lane) :
    s.sealGate t th k = k s := by
  have hd' : ((s.blocks[t.blk]?).map Block.doubled).getD false = false := hd
  simp [State.sealGate, hd', hs]

section
variable {s : State} {t : TRef} {th : Thread} {l : BarLevel} {n p : Nat} {i : Instr} {st : Stall}

/-- A thread that leaves a barrier in its own issue. -/
def Thread.leftBar (th : Thread) (st : Stall) (w : Word) : Thread :=
  { th with pc := th.pc + 4, park := none, hang := 0, barAt := none, stall := st.toNat, word := w, again := false }

/-- A thread that parks at a barrier in its own issue. -/
def Thread.atBar (th : Thread) (st : Stall) (w : Word) (l : BarLevel) (n p : Nat) : Thread :=
  { th with park := some (.barrier l n p), stall := st.toNat, word := w, again := false }

theorem afterLane_leaves (ht : s.thread? t = some th) :
    (afterLane i t st (.go (s.modThread t Thread.leaveBar))).thread? t = some (th.leftBar st s.issue.word) := by
  rw [afterLane, modThread_get, modThread_get, ht]
  rfl

/-- What the wait of a thread on a phase makes of it (R310). -/
theorem barWait_single (hd : s.isDoubled t.blk = false) (hs : th.sealed = false) (ht : s.thread? t = some th) :
    (afterLane i t st (s.barWait t th l n p)).mem = s.mem ∧
    (s.phaseDone t.blk l n p = true →
      (afterLane i t st (s.barWait t th l n p)).thread? t = some (th.leftBar st s.issue.word)) ∧
    (s.phaseDone t.blk l n p = false →
      (afterLane i t st (s.barWait t th l n p)).thread? t = some (th.atBar st s.issue.word l n p)) := by
  rw [State.barWait, sealGate_single hd hs]
  refine ⟨?_, fun hdone => ?_, fun hopen => ?_⟩
  · split <;> rfl
  · rw [if_pos hdone]
    exact afterLane_leaves ht
  · rw [hopen, if_neg Bool.false_ne_true, afterLane, State.parkAt, modThread_get, modThread_get, ht]
    rfl

end

/-- Settles O35: the arrival and the waits of one thread at a barrier. -/
theorem barriers : Obligations.Barriers := by
  unfold Obligations.Barriers
  intro d l id st s t th n s1 counted left parked
  refine ⟨fun p => phaseDone_iff, fun hun i hi h => ?unclaimed, fun hclaim => ⟨fun hth1 h => ?arrives, fun hbad i hi h => ?illegal,
    fun hlegal hd hs => ⟨fun h => ?waits, fun h hnew hth1 hd1 => ?counts, fun h hat => ?again⟩⟩⟩
  case unclaimed =>
    simp only [List.mem_cons, List.not_mem_nil, or_false] at hi
    rcases hi with rfl | rfl | rfl
    · exact (run_one h ..).trans (by rw [hun]; rfl)
    · exact (run_one h ..).trans (by rw [hun]; rfl)
    · exact (run_one h ..).trans (by rw [hun]; rfl)
  case illegal =>
    simp only [List.mem_cons, List.not_mem_nil, or_false] at hi
    rcases hi with rfl | rfl
    · exact (run_one h ..).trans (by rw [hclaim, hbad]; rfl)
    · exact (run_one h ..).trans (by rw [hclaim, hbad]; rfl)
  case arrives =>
    refine ⟨_, run_one h .., ?_⟩
    simp only [show id.toNat = n from rfl, hclaim, Bool.not_true, Bool.false_eq_true, if_false]
    refine ⟨rfl, ?_⟩
    rw [afterLane, modThread_get, modThread_get, State.releaseSide, hth1]
    exact congrArg (fun x => some ((Thread.issued st s1.issue.word x).advance)) (arrive_giveOne th d _ l n)
  case waits =>
    have ht := issuable_thread h.thread
    cases hphase : th.phase l n with
    | zero =>
      have hrun : exec (.barwait l id st) s = .next (afterLane (.barwait l id st) t st (.go (s.modThread t Thread.leaveBar))) := by
        refine (run_one h ..).trans ?_
        simp only [show id.toNat = n from rfl, hclaim, hlegal, Bool.not_true, Bool.false_eq_true, if_false, hphase, sealGate_single hd hs]
      exact ⟨fun _ => ⟨_, hrun, rfl, afterLane_leaves ht⟩, fun hpos => absurd hpos (Nat.lt_irrefl 0)⟩
    | succ p =>
      have hrun : exec (.barwait l id st) s = .next (afterLane (.barwait l id st) t st (s.barWait t th l n p)) := by
        refine (run_one h ..).trans ?_
        simp only [show id.toNat = n from rfl, hclaim, hlegal, Bool.not_true, Bool.false_eq_true, if_false, hphase]
      obtain ⟨hmem, hdone, hopen⟩ := barWait_single (l := l) (n := n) (p := p) (i := .barwait l id st) (st := st) hd hs ht
      exact ⟨fun hor => ⟨_, hrun, hmem, hdone (hor.resolve_left (Nat.succ_ne_zero p))⟩, fun _ hph => ⟨_, hrun, hmem, hopen hph⟩⟩
  case again =>
    have hrun : exec (.bar d l id st) s = .next (afterLane (.bar d l id st) t st (s.barWait t th l n (th.phase l n - 1))) := by
      refine (run_one h ..).trans ?_
      simp only [show id.toNat = n from rfl, hclaim, hlegal, Bool.not_true, Bool.false_eq_true, if_false, hat, beq_self_eq_true, if_true]
    obtain ⟨hmem, hdone, hopen⟩ := barWait_single (l := l) (n := n) (p := th.phase l n - 1) (i := .bar d l id st) (st := st) hd hs
      (issuable_thread h.thread)
    rw [hrun]
    exact ⟨fun hph => ⟨_, rfl, hmem, hdone hph⟩, fun hph => ⟨_, rfl, hmem, hopen hph⟩⟩
  case counts =>
    intro s2
    let x : Thread := { counted with barAt := some th.pc }
    have hx : s2.thread? t = some x := by
      have hs2 : s2 = s1.modThread t fun _ => x := rfl
      rw [hs2, modThread_get, hth1]
      rfl
    have hd2 : s2.isDoubled t.blk = false := hd1 ▸ modThread_isDoubled s1 t _ t.blk
    have hs2 : x.sealed = false := (results_sealed th d none 0 _).trans hs
    have hpc : x.pc = th.pc := results_pc th d none 0 _
    have hrun : exec (.bar d l id st) s = .next (afterLane (.bar d l id st) t st (s2.barWait t x l n (th.phase l n))) := by
      refine (run_one h ..).trans ?_
      simp only [show id.toNat = n from rfl, hclaim, hlegal, Bool.not_true, Bool.false_eq_true, if_false, beq_iff_eq, hnew, arrive_giveOne]
      rfl
    obtain ⟨hmem, hdone, hopen⟩ := barWait_single (l := l) (n := n) (p := th.phase l n) (i := .bar d l id st) (st := st) hd2 hs2 hx
    rw [hrun]
    exact ⟨fun hph => ⟨_, rfl, hmem, (hdone hph).trans (by rw [Thread.leftBar, hpc]; rfl)⟩, fun hph => ⟨_, rfl, hmem, hopen hph⟩⟩

end Sys2Proof.Machine
end

section
namespace Sys2Proof.Machine

/-! ### Convergence registers and bindings (R317 to R319) -/

section
variable {s : State} {core cv : Nat}

/-- A convergence register that has been set. -/
theorem cvReg_set (hcore : core < s.cores.length) (hcv : cv < (s.core core).cvs.length) (c : CvReg) :
    (s.modCore core fun k => { k with cvs := k.cvs.set cv c }).cvReg core cv = c := by
  rw [State.cvReg, modCore_core_same hcore]
  dsimp only
  rw [List.getElem?_set_self hcv]
  rfl

/-- A convergence register that has been changed. -/
theorem cvReg_modify (hcore : core < s.cores.length) (hcv : cv < (s.core core).cvs.length) (f : CvReg → CvReg) :
    (s.modCore core fun k => { k with cvs := k.cvs.modify cv f }).cvReg core cv = f (s.cvReg core cv) := by
  rw [State.cvReg, State.cvReg, modCore_core_same hcore, List.getElem?_modify_eq, List.getElem?_eq_getElem hcv]
  rfl

/-- What does not touch the cores leaves the convergence registers. -/
theorem cvReg_congr {s' : State} (h : s'.cores = s.cores) (core cv : Nat) : s'.cvReg core cv = s.cvReg core cv := by
  rw [State.cvReg, State.core, h]
  rfl

/-- The releases of R319 in words. -/
theorem release_eq (c : CvReg) : c.release = if c.bound ≤ 1 ∧ c.rounds = [] then CvReg.free else { c with bound := c.bound - 1 } := by
  simp [CvReg.release]

end

/-- The binding words that R319 accepts. -/
theorem bindBad_accepts {w : Word} (h18 : w.extractLsb' 18 14 = 0) (h14 : w.extractLsb' 14 2 = 0)
    (h1 : 1 ≤ (w.extractLsb' 0 14).toNat) (h2 : (w.extractLsb' 0 14).toNat ≤ 8192) : bindBad w = false := by
  have h0 : (w.extractLsb' 0 14).toNat ≠ 0 := Nat.ne_of_gt h1
  simp only [bindBad, field_eq_extractLsb', h18, h14]
  simpa using ⟨h0, h2⟩

/-- The binding of one thread to a convergence register that has become c. -/
def State.bindTo (s : State) (t : TRef) (core cv : Nat) (c : CvReg) : State :=
  (s.modCore core fun k => { k with cvs := k.cvs.set cv c }).modThread t fun th => { th with cv := some (cv, c.firstRound) }

section
variable {s : State} {t : TRef} {th : Thread} {cv : Nat} {w : Word}
  (hok : bindBad w = false) (hfree : th.cv = none) (hacc : s.accTaken s.issue.core (w.extractLsb' 16 2).toNat t.blk = false)
include hok hfree hacc

/-- A bind of a free register gives it the count, the accumulator and the block (R319). -/
theorem bind_free (hholder : (s.cvReg s.issue.core cv).holder = none) :
    s.bind t th cv w = .next ((s.modCore s.issue.core fun k =>
        { k with accs := k.accs.modify (w.extractLsb' 16 2).toNat fun a => { a with holder := some t.blk } }).bindTo t s.issue.core cv
      ⟨(w.extractLsb' 0 14).toNat, (w.extractLsb' 16 2).toNat, some t.blk, 1, 0, []⟩) := by
  simp only [State.bind, field_eq_extractLsb', hok, hfree, hholder, hacc, Option.isSome_none, Bool.false_eq_true, if_false]
  rfl

/-- A bind of a register that the block holds, with the same count and accumulator and room (R319). -/
theorem bind_held {c : CvReg} (hc : s.cvReg s.issue.core cv = c) (hholder : c.holder = some t.blk)
    (hn : c.n = (w.extractLsb' 0 14).toNat) (ha : c.acc = (w.extractLsb' 16 2).toNat) (hroom : c.bound < c.n) :
    s.bind t th cv w = .next (s.bindTo t s.issue.core cv { c with bound := c.bound + 1 }) := by
  have hne : c.bound ≠ c.n := Nat.ne_of_lt hroom
  subst hc
  rw [← ha] at hacc
  simp only [State.bind, field_eq_extractLsb', hok, hfree, hholder, hacc, Option.isSome_none, Bool.false_eq_true, if_false, ← hn, ← ha, hne,
    ne_eq, not_true_eq_false, decide_false, Bool.or_false]
  rfl

end

section
variable {s : State} {t : TRef} {th : Thread} {core cv : Nat} {i : Instr} {st : Stall}

/-- A bound thread goes on. -/
theorem bindTo_goes (ht : s.thread? t = some th) (hcore : core < s.cores.length) (hcv : cv < (s.core core).cvs.length) (c : CvReg) :
    let s' := afterLane i t st (.next (s.bindTo t core cv c))
    s'.cvReg core cv = c ∧ s'.thread? t = some (({ th with cv := some (cv, c.firstRound) }.issued st s.issue.word).advance) ∧ s'.mem = s.mem := by
  refine ⟨cvReg_set hcore hcv c, ?_, rfl⟩
  rw [afterLane, State.bindTo, modThread_get, modThread_get]
  exact congrArg (fun x : Option Thread => (x.map _).map _) ht

end

/-! ### Commands of the matrix queue entered once for an issue (R329, R330) -/

section
variable {s : State} {t : TRef}

/-- A slot register names a slot below 16 (R329). -/
theorem slotBad_eq (v : Word) : slotBad v = decide (16 ≤ v.toNat) := by
  have hlt := v.isLt
  rw [slotBad, Word.field, Bool.eq_iff_iff, bne_iff_ne, decide_eq_true_eq]
  omega

theorem field_slot {v : Word} (h : v.toNat < 16) : v.field 0 4 = v.toNat := by
  rw [Word.field]
  omega

/-- A matrix command whose operands pass their checks enters the matrix queue, where there is room. -/
theorem issueMatrix_enters {op : CmdOp} (hop : s.opFault t.blk op = none) (h : s.hasRoom s.issue.core 7) :
    s.issueMatrix t op = .done (s.modQueue s.issue.core 7 fun x => x.with op t.blk (s.core s.issue.core).cycles) fun _ th => th := by
  rw [State.issueMatrix, hop]
  simp only [qMatrix, enterQueue_hasRoom h]

end

/-- Settles O38: binding and release of one thread, and the matrix commands of an issue. -/
theorem matrixIssue : Obligations.MatrixIssue := by
  unfold Obligations.MatrixIssue
  refine ⟨fun d a st s t th => ?bindings, fun d a st s t th => ?commands⟩
  case bindings =>
    intro core cv w n acc hcore hcv bound
    refine ⟨fun h hfree h18 h14 h1 h2 hacc => ?bind, fun h r c hbound hc => ?release⟩
    case bind =>
      have ht := issuable_thread h.thread
      have hok : bindBad w = false := bindBad_accepts h18 h14 h1 h2
      refine ⟨fun hholder => ?_, fun c hc hholder hn ha hroom => ?_⟩
      · let s0 := s.modCore core fun k => { k with accs := k.accs.modify acc fun a => { a with holder := some t.blk } }
        have hcvs : (s0.core core).cvs.length = (s.core core).cvs.length := by rw [modCore_core_same hcore]
        exact ⟨_, (run_one h ..).trans (by rw [bind_free hok hfree hacc hholder]),
          bindTo_goes (s := s0) (i := .msignBind d a st) (st := st) ht (by simpa [s0, State.modCore] using hcore) (hcvs ▸ hcv)
            ⟨n, acc, some t.blk, 1, 0, []⟩⟩
      · exact ⟨_, (run_one h ..).trans (by rw [bind_held hok hfree hacc hc hholder hn ha (hn ▸ hroom)]),
          bindTo_goes (i := .msignBind d a st) (st := st) ht hcore hcv { c with bound := c.bound + 1 }⟩
    case release =>
      have ht := issuable_thread h.thread
      have hrun : ∀ x, s.cvReg core cv = c → c.signedBy t = x → exec (.msignRelease d st) s = .next (afterLane (.msignRelease d st) t st
          (if x = true then .go ((s.parkAt t (.unbind cv)).want (.msignReleaseComplete t.blk t.tid)) else .next (s.unbind core t th))) := by
        intro x hc hx
        refine (run_one h ..).trans ?_
        simp only [hbound, show s.issue.core = core from rfl, hc, hx, show d.toNat = cv from rfl, ne_eq, not_true_eq_false, if_false]
      refine ⟨fun hx => ⟨_, hrun _ hc hx, ?_⟩, fun hx => ⟨_, hrun _ hc hx, ?_⟩⟩
      · rw [if_neg Bool.false_ne_true, State.unbind, hbound]
        refine ⟨rfl, ?_, ?_⟩
        · rw [afterLane, modThread_get, modThread_get]
          exact congrArg (fun x : Option Thread => (x.map _).map _) ht
        · rw [← release_eq, ← hc]
          exact cvReg_modify hcore hcv CvReg.release
      · rw [if_pos rfl]
        refine ⟨by simp [afterLane, State.parkAt], ?_, want_asked _ _, ?_⟩
        · rw [← hc]
          exact cvReg_congr (want_cores _ _) core cv
        · rw [afterLane, modThread_get, want_issue, thread?_congr (s := s.parkAt t (.unbind cv)) (by rw [want_blocks]), State.parkAt,
            modThread_get, ht]
          rfl
  case commands =>
    intro v s1 raises hroom hcore
    have henters : ∀ (i : Instr) (op : CmdOp), s1.opFault t.blk op = none →
        onceLeaves i st t (s1.issueMatrix t op) = s1.entered t st 7 op := by
      intro i op hop
      rw [issueMatrix_enters hop (hcore ▸ hroom)]
      rfl
    have hslot : ∀ (i : Instr) (op : Nat → CmdOp) (z : Host.Outcome State Fault Refusal),
        z = .next (onceLeaves i st t (if slotBad v then .trap s1 0x38 0x02 else s1.issueMatrix t (op (v.field 0 4)))) →
        (v.toNat < 16 → s1.opFault t.blk (op v.toNat) = none → z = .next (s1.entered t st 7 (op v.toNat))) ∧
        (16 ≤ v.toNat → z = .next (s1.deliverIssued st [⟨t, 0x38, 0x02, 0⟩] (some i))) := by
      intro i op z hz
      refine ⟨fun hv hop => ?_, fun hv => ?_⟩
      · rw [hz, slotBad_eq, decide_eq_false (Nat.not_le.mpr hv), if_neg Bool.false_ne_true, field_slot hv]
        rw [henters i _ hop]
      · rw [hz, slotBad_eq, decide_eq_true hv, if_pos rfl]
        rfl
    have hexec : exec (.mhist d a st) s = execMhist d a st s ∧ exec (.mhclr d st) s = execMhclr d st s ∧
        exec (.mwait d st) s = execMwait d st s := ⟨rfl, rfl, rfl⟩
    obtain ⟨hmhist, hmhclr, hmwait⟩ := hexec
    refine ⟨fun h => ?mhist, fun h => ?mhclr, fun h => ?mwait⟩
    case mhist =>
      exact hslot (.mhist d a st) (fun n => .mhist n (th.pair a)) _ (hmhist.trans (by rw [execMhist, runOnce_one h]))
    case mhclr =>
      obtain ⟨h1, h2⟩ := hslot (.mhclr d st) .mhclr _ (hmhclr.trans (by rw [execMhclr, runOnce_one h]))
      exact ⟨fun hv => h1 hv rfl, h2⟩
    case mwait =>
      have hrun : exec (.mwait d st) s = .next (onceLeaves (.mwait d st) st t (if v.field 5 11 != 0 then .trap s1 0x38 0x02
          else if (s1.spindle? t.blk false (v.field 0 5)).isNone then .trap s1 0x30 0x02 else s1.issueMatrix t (.mwait v))) := by
        rw [hmwait, execMwait, runOnce_one h]
      simp only [field_eq_extractLsb'] at hrun
      refine ⟨fun hv => ?_, fun hv hno => ?_, fun hv hsome => ?_⟩
      · have hne : (v.extractLsb' 5 11).toNat ≠ 0 := fun h0 => hv (BitVec.eq_of_toNat_eq h0)
        exact hrun.trans (by rw [if_pos (by simpa using hne)]; rfl)
      · exact hrun.trans (by rw [hv, if_neg (by decide), hno]; rfl)
      · refine hrun.trans ?_
        rw [hv, if_neg (by decide), if_neg (by simpa using Option.isSome_iff_ne_none.mp hsome)]
        rw [henters _ _ rfl]

end Sys2Proof.Machine
end

section
namespace Sys2Proof.Machine

/-! ### Signatures of one thread (R320) -/

/-- The machine after a signature counted: the convergence register has become c, and the thread signs round n next. -/
def State.signedTo (s : State) (t : TRef) (core cv : Nat) (c : CvReg) (n : Nat) : State :=
  (s.modCore core fun k => { k with cvs := k.cvs.set cv c }).modThread t fun th => { th with cv := some (cv, n) }

section
variable {s : State} {t : TRef} {cv : Nat} {c : CvReg} {rd : Round} {op : CmdOp}

/-- The first signature of a register that counts more threads opens its round. -/
theorem countSignature_opens (hr : c.rounds = []) (hn : 1 < c.n) :
    s.countSignature t cv c ⟨c.nextRound, op, []⟩ = .next (s.signedTo t s.issue.core cv
      { c with rounds := [⟨c.nextRound, op, [t]⟩], nextRound := c.nextRound + 1 } (c.nextRound + 1)) := by
  have hmore : ¬c.n ≤ 1 := Nat.not_le.mpr hn
  simp only [State.countSignature, hr, List.nil_append, List.length_cons, List.length_nil, Nat.zero_add, hmore, if_false, if_true,
    List.filter_nil]
  rfl

/-- A later signature joins the one open round of its register. -/
theorem countSignature_joins (hr : c.rounds = [rd]) (hlt : rd.num < c.nextRound) (hn : rd.signed.length + 1 < c.n) :
    s.countSignature t cv c rd = .next (s.signedTo t s.issue.core cv { c with rounds := [{ rd with signed := rd.signed ++ [t] }] } (rd.num + 1)) := by
  have hmore : ¬c.n ≤ (rd.signed ++ [t]).length := by simpa using hn
  have hne : rd.num ≠ c.nextRound := Nat.ne_of_lt hlt
  simp only [State.countSignature, hr, hmore, hne, if_false, List.map_cons, List.map_nil, if_true]
  rfl

/-- The last signature of its count enters the operation in the matrix queue. -/
theorem countSignature_enters {next : Nat} (hr : ∀ x ∈ c.rounds, x.num = rd.num)
    (hnext : (if rd.num = c.nextRound then c.nextRound + 1 else c.nextRound) = next) (hn : c.n ≤ (rd.signed ++ [t]).length)
    (hroom : s.hasRoom s.issue.core 7) :
    s.countSignature t cv c rd = .next ((s.modQueue s.issue.core 7 fun x => x.with rd.op t.blk (s.core s.issue.core).cycles).signedTo t
      s.issue.core cv { c with rounds := [], nextRound := next } (rd.num + 1)) := by
  have hrest : (c.rounds.filter fun x => x.num != rd.num) = [] := List.filter_eq_nil_iff.mpr fun x hx => by simp [hr x hx]
  simp only [State.countSignature, hn, if_true, qMatrix, enterQueue_hasRoom hroom, hrest, hnext]
  rfl

end

section
variable {s : State} {t : TRef} {th : Thread} {core cv : Nat} {i : Instr} {st : Stall}

/-- What the signing thread and its core become. -/
theorem signedTo_goes (ht : s.thread? t = some th) (hcore : core < s.cores.length) (hcv : cv < (s.core core).cvs.length) (c : CvReg) (n : Nat) :
    let s' := afterLane i t st (.next (s.signedTo t core cv c n))
    s'.mem = s.mem ∧ s'.cvReg core cv = c ∧ (∀ k, s'.queue core k = s.queue core k) ∧
      s'.thread? t = some (({ th with cv := some (cv, n) }.issued st s.issue.word).advance) := by
  refine ⟨rfl, cvReg_set hcore hcv c, fun k => ?_, ?_⟩
  · have hcores : (afterLane i t st (.next (s.signedTo t core cv c n))).core core =
        (s.modCore core fun k => { k with cvs := k.cvs.set cv c }).core core := rfl
    rw [State.queue, State.queue, hcores, modCore_core_same hcore]
  · rw [afterLane, State.signedTo, modThread_get, modThread_get]
    exact congrArg (fun x : Option Thread => (x.map _).map _) ht

end

/-! ### The signature of a thread (R320, R332) -/

section
variable {s : State} {t : TRef} {th : Thread} {mk : Nat → CmdOp} {cv r : Nat}

theorem sign_unbound (h : th.cv = none) : s.sign t th mk = .trap s 0x39 0x03 0 := by
  rw [State.sign, h]

/-- A signature on a register without an open round, whose operands pass their checks. -/
theorem sign_first {s1 : State} (hs1 : s.drainStrand t.blk th.strand = s1) {c : CvReg} (hc : s1.cvReg s1.issue.core cv = c)
    (h : th.cv = some (cv, r)) (hr : c.rounds = []) (hop : s1.opFault t.blk (mk c.acc) = none) :
    s.sign t th mk = s1.countSignature t cv c ⟨c.nextRound, mk c.acc, []⟩ := by
  simp [State.sign, h, hs1, hc, hr, hop]

/-- A later signature, with the operation of the one open round of its register. -/
theorem sign_joins {s1 : State} (hs1 : s.drainStrand t.blk th.strand = s1) {c : CvReg} (hc : s1.cvReg s1.issue.core cv = c)
    (h : th.cv = some (cv, r)) {rd : Round} (hr : c.rounds = [rd]) (hnum : rd.num = r) (hsame : signDivergence rd.op (mk c.acc) = none) :
    s.sign t th mk = s1.countSignature t cv c rd := by
  simp only [State.sign, h, hs1, hc, hr, List.find?_cons, hnum, beq_self_eq_true, hsame]

/-- A later signature that differs from its round. -/
theorem sign_diverges {s1 : State} (hs1 : s.drainStrand t.blk th.strand = s1) {c : CvReg} (hc : s1.cvReg s1.issue.core cv = c)
    (h : th.cv = some (cv, r)) {rd : Round} (hr : c.rounds = [rd]) (hnum : rd.num = r) {cause sub : Nat}
    (hdiv : signDivergence rd.op (mk c.acc) = some (cause, sub)) : s.sign t th mk = .trap s1 cause sub 0 := by
  simp only [State.sign, h, hs1, hc, hr, List.find?_cons, hnum, beq_self_eq_true, hdiv]

end

/-- The instructions that sign run one signature each, of their own operation (R322, R327, R329). -/
theorem signs_own {d a b : RegName} {st : Stall} {s : State} {t : TRef} {th : Thread} {acc : Nat} {x : Instr × CmdOp}
    (hx : x ∈ signedOps d a b st th acc) (h : OneLane x.1 s t th)
    (hfits : ∀ y ∈ drainArchs th (th.val d) b, y < max 1 th.regs.length) (hpend : th.pend = []) :
    ∃ mk : Nat → CmdOp, mk acc = x.2 ∧ signDivergence x.2 x.2 = none ∧ exec x.1 s = .next (afterLane x.1 t st (s.sign t th mk)) := by
  simp only [signedOps, List.mem_cons, List.not_mem_nil, or_false] at hx
  rcases hx with rfl | rfl | rfl | rfl
  case inl => exact ⟨_, rfl, by simp [signDivergence], run_one h ..⟩
  case inr.inl => exact ⟨_, rfl, rfl, run_one h ..⟩
  case inr.inr.inl => exact ⟨_, rfl, by simp [signDivergence], run_one h ..⟩
  case inr.inr.inr =>
    have hin : ((drainArchs th (th.val d) b).any fun y => decide (max 1 th.regs.length ≤ y)) = false := by
      rw [List.any_eq_false]
      intro y hy
      simpa using Nat.not_le.mpr (hfits y hy)
    have hearly : ∀ now l, th.early now l = false := fun now l => by rw [Thread.early, hpend]; rfl
    have hawaits : ∀ now l, th.awaits now l = false := fun now l => by rw [Thread.awaits, hpend]; rfl
    have hrow : (if drainRow (th.val d) then th.pair b else 0) = if 2 ≤ ((th.val d).extractLsb' 4 2).toNat then th.pair b else 0 :=
      if_congr (by rw [drainRow, drainPass, field_eq_extractLsb', decide_eq_true_eq]) rfl rfl
    refine ⟨.mdrain (th.val d) (th.pair a) (if drainRow (th.val d) then th.pair b else 0)
      (if drainCsc (th.val d) then th.pair (member b 2) else 0), ?_, by simp [signDivergence], ?_⟩
    · rw [hrow]
      rfl
    · refine (run_one h ..).trans ?_
      simp only [hin, hearly, hawaits, Bool.and_false, Bool.false_eq_true, if_false]

/-- Settles O39: the first and the later signatures of one thread. -/
theorem matrixSignatures : Obligations.MatrixSignatures := by
  unfold Obligations.MatrixSignatures
  intro d a b st s t th cv r core s1 c fits hcore hin hcv hth x hx h hfits hpend signed entered
  obtain ⟨mk, hmk, hself, hexec⟩ := signs_own hx h hfits hpend
  have hc : s1.cvReg s1.issue.core cv = c := by rw [hcore]
  have hstays : ∀ c' n, s.sign t th mk = .next (s1.signedTo t s1.issue.core cv c' (n + 1)) → signed c' n (s1.queue core 7) := by
    intro c' n hsign
    obtain ⟨hmem, hcvr, hqueue, hgo⟩ := signedTo_goes (i := x.1) (st := st) hth hin hcv c' (n + 1)
    exact ⟨_, hexec.trans (by rw [hsign, hcore]), hmem, hcvr, hqueue 7, fun k _ => hqueue k, hgo⟩
  have henters : ∀ c' n, s1.hasRoom core 7 → s.sign t th mk = .next
      ((s1.modQueue s1.issue.core 7 fun q => q.with x.2 t.blk (s1.core s1.issue.core).cycles).signedTo t s1.issue.core cv c' (n + 1)) →
      signed c' n entered := by
    intro c' n hroom hsign
    let z := s1.modQueue core 7 fun q => q.with x.2 t.blk (s1.core core).cycles
    have hzlen : core < z.cores.length := by simpa [z, State.modQueue, State.modCore] using hin
    have hzcv : cv < (z.core core).cvs.length := by
      have hz : (z.core core).cvs = (s1.core core).cvs := by
        rw [show z.core core = _ from modCore_core_same hin _]
      rw [hz]
      exact hcv
    obtain ⟨hmem, hcvr, hqueue, hgo⟩ := signedTo_goes (s := z) (i := x.1) (st := st) hth hzlen hzcv c' (n + 1)
    refine ⟨_, hexec.trans (by rw [hsign, hcore]), hmem, hcvr, ?_, fun k hk => ?_, hgo⟩
    · exact (hqueue 7).trans (modQueue_queue_same hroom _)
    · exact (hqueue k).trans (modQueue_queue_other s1 core hk _ hin)
  refine ⟨fun hnot => ?unbound, fun hbound => ⟨fun hr hop => ?first, fun rd hr hnum hlt => ⟨fun hop => ?joins, fun f a' b' acc' hrd hmma => ?mma⟩⟩⟩
  case unbound => rw [hexec, sign_unbound hnot]; rfl
  case first =>
    have hsign := sign_first rfl hc hbound hr (hmk ▸ hop)
    rw [hmk] at hsign
    refine ⟨fun hn => hstays _ _ (hsign.trans (countSignature_opens hr hn)), fun hn hroom => henters _ _ hroom (hsign.trans ?_)⟩
    exact countSignature_enters (by simp [hr]) (if_pos rfl) hn (hcore ▸ hroom)
  case joins =>
    have hsign := sign_joins (mk := mk) rfl hc hbound hr hnum (by rw [hmk, hop, hself])
    refine ⟨fun hn => ?_, fun hn hroom => ?_⟩
    · rw [← hnum] at hlt ⊢
      exact hstays _ _ (hsign.trans (countSignature_joins hr hlt hn))
    · have hold : (if rd.num = c.nextRound then c.nextRound + 1 else c.nextRound) = c.nextRound := if_neg (by omega)
      rw [← hnum]
      refine henters _ _ hroom (hsign.trans ?_)
      rw [countSignature_enters (by simp [hr]) hold (by simpa using hn) (hcore ▸ hroom), hop]
  case mma =>
    have hop : x.2 = .mma (th.val d) (th.pair a) (th.pair b) c.acc := by
      simp only [signedOps, List.mem_cons, List.not_mem_nil, or_false] at hx
      rcases hx with rfl | rfl | rfl | rfl
      · rfl
      · cases hmma
      · cases hmma
      · cases hmma
    refine ⟨fun hf => ?_, fun hf hab => ?_⟩
    · have hdiv : signDivergence rd.op (mk c.acc) = some (0x38, 0x01) := by rw [hmk, hrd, hop, signDivergence, if_pos hf]
      rw [hexec, sign_diverges rfl hc hbound hr hnum hdiv]
      rfl
    · have hdiv : signDivergence rd.op (mk c.acc) = some (0x39, 0x01) := by
        rw [hmk, hrd, hop, signDivergence, if_neg (not_not_intro hf), if_pos (by simpa using hab)]
      rw [hexec, sign_diverges rfl hc hbound hr hnum hdiv]
      rfl

end Sys2Proof.Machine
end

section
namespace Sys2Proof.Machine

/-! ### Graphics results of one thread (R335) -/

section
variable {i : Instr} {s : State} {t : TRef} {th : Thread} {st : Stall} {d : RegName}

/-- A graphics instruction of one thread whose lane gives results. -/
theorem run_gdone (h : OneLane i s t th) {body : Body} {z : State} {rs : List Reg} (hb : body s t th = z.gdone t d rs) :
    s.run i st body = .next (z.gave t st d rs) := by
  rw [run_one h, hb, State.gdone, afterLane, modThread_modThread]
  rfl

end

/-! ### The traversal stack (R209, R352) -/

section
variable {s : State} {t : TRef} {th : Thread}

/-- A stack within the allocation, with no result on its way, can be used. -/
theorem withStack_goes (f : Nat × Nat → Lane) (he : 0 < (s.kernel t.blk).trvN)
    (hfit : (s.kernel t.blk).trvBase + (s.kernel t.blk).trvN ≤ th.regs.length) (hp : th.pend = []) :
    withStack s t th f = f ((s.kernel t.blk).trvBase, (s.kernel t.blk).trvN) := by
  have hok : stackOk th ((s.kernel t.blk).trvBase, (s.kernel t.blk).trvN) = true := decide_eq_true (le_max_of_le_right hfit)
  have hwait : ∀ now l, th.awaits now l = false := fun now l => by rw [Thread.awaits, hp]; rfl
  simp [withStack, Kernel.stack, Nat.ne_of_gt he, hok, hwait]

theorem withStack_none (f : Nat × Nat → Lane) (he : (s.kernel t.blk).trvN = 0) : withStack s t th f = .trap s 0x05 0x05 0 := by
  simp [withStack, Kernel.stack, he]

end

/-! ### The entries of a stack (R352) -/

section
variable (th : Thread)

theorem putNow_reg {a : Nat} (h0 : a ≠ 0) (h : a < th.regs.length) (v : Reg) (r : Nat) :
    (th.putNow a v).reg r = if r = a then v else th.reg r := by
  have hregs : (th.overtake a).regs = th.regs := rfl
  split
  · next hr => rw [hr]; exact setReg_same _ v h0 h
  · next hr => exact setReg_other _ v hr

/-- A write to a register leaves the rest of its thread. -/
theorem putNow_rest (a : Nat) (v : Reg) : (th.putNow a v).regs.length = th.regs.length ∧ (th.putNow a v).pc = th.pc ∧
    (th.putNow a v).trvCount = th.trvCount ∧ (th.putNow a v).trvRestart = th.trvRestart := by
  refine ⟨setReg_length .., ?_⟩
  unfold Thread.putNow Thread.setReg
  split <;> exact ⟨rfl, rfl, rfl⟩

/-- The entries of a stack from n, each taking the one above it, over k entries. -/
def Thread.shifted (n k : Nat) : Thread :=
  (List.range k).foldl (fun t i => t.putNow (n + i) (Reg.plain ((th.reg (n + i + 1)).val))) th

theorem shifted_succ (n k : Nat) : th.shifted n (k + 1) = (th.shifted n k).putNow (n + k) (Reg.plain (th.reg (n + k + 1)).val) := by
  rw [Thread.shifted, List.range_succ, List.foldl_append]
  rfl

theorem shifted_rest (n k : Nat) : (th.shifted n k).regs.length = th.regs.length ∧ (th.shifted n k).pc = th.pc ∧
    (th.shifted n k).trvCount = th.trvCount := by
  induction k with
  | zero => exact ⟨rfl, rfl, rfl⟩
  | succ k ih =>
    obtain ⟨hlen, hpc, hcount, -⟩ := putNow_rest (th.shifted n k) (n + k) (Reg.plain (th.reg (n + k + 1)).val)
    obtain ⟨ilen, ipc, icount⟩ := ih
    rw [shifted_succ]
    exact ⟨hlen.trans ilen, hpc.trans ipc, hcount.trans icount⟩

theorem shifted_reg {n k : Nat} (h0 : 0 < n) (h : n + k ≤ th.regs.length) (r : Nat) :
    (th.shifted n k).reg r = if n ≤ r ∧ r < n + k then Reg.plain (th.reg (r + 1)).val else th.reg r := by
  induction k with
  | zero => rw [if_neg (by omega)]; rfl
  | succ k ih =>
    rw [shifted_succ, putNow_reg _ (by omega) (by rw [(shifted_rest th n k).1]; omega), ih (by omega)]
    by_cases hr : r = n + k
    · rw [if_pos hr, if_pos (by omega), hr]
    · rw [if_neg hr]
      exact if_congr (by omega) rfl rfl

end

section
variable {th : Thread} {n e : Nat} (h0 : 0 < n) (hfit : n + e ≤ th.regs.length) (v : Word)
include h0 hfit

/-- A push onto a stack with room. -/
theorem push_room (h : th.trvCount < e) :
    (th.push (n, e) v).trvCount = th.trvCount + 1 ∧ (th.push (n, e) v).trvRestart = th.trvRestart ∧ (th.push (n, e) v).pc = th.pc ∧
      ∀ r, (th.push (n, e) v).reg r = if r = n + th.trvCount then Reg.plain v else th.reg r := by
  have hpush : th.push (n, e) v = { th.putNow (n + th.trvCount) (Reg.plain v) with trvCount := th.trvCount + 1 } := if_pos h
  obtain ⟨-, hpc, -, hrestart⟩ := putNow_rest th (n + th.trvCount) (Reg.plain v)
  rw [hpush]
  exact ⟨rfl, hrestart, hpc, putNow_reg th (by omega) (by omega) _⟩

/-- A push onto a full stack drops its deepest entry. -/
theorem push_full (h : th.trvCount = e) (he : 0 < e) :
    (th.push (n, e) v).trvCount = e ∧ (th.push (n, e) v).trvRestart = true ∧ (th.push (n, e) v).pc = th.pc ∧
      ∀ r, ((th.push (n, e) v).reg r).val = if r = n + (e - 1) then v else if n ≤ r ∧ r < n + (e - 1) then (th.reg (r + 1)).val
        else (th.reg r).val := by
  have hpush : th.push (n, e) v = { (th.shifted n (e - 1)).putNow (n + e - 1) (Reg.plain v) with trvRestart := true } :=
    if_neg (Nat.not_lt.mpr (Nat.le_of_eq h.symm))
  obtain ⟨slen, spc, scount⟩ := shifted_rest th n (e - 1)
  obtain ⟨-, hpc, hcount, -⟩ := putNow_rest (th.shifted n (e - 1)) (n + e - 1) (Reg.plain v)
  rw [hpush]
  refine ⟨hcount.trans (scount.trans h), rfl, hpc.trans spc, fun r => ?_⟩
  have hlast : n + e - 1 = n + (e - 1) := by omega
  have hreg := putNow_reg (th.shifted n (e - 1)) (a := n + e - 1) (by omega) (by rw [slen]; omega) (Reg.plain v) r
  rw [shifted_reg th h0 (by omega)] at hreg
  refine (congrArg Reg.val hreg).trans ?_
  rw [apply_ite Reg.val, apply_ite Reg.val, hlast]
  rfl

end

/-- Settles O43: the traversal instructions, and the stack of a thread. -/
theorem traversal : Obligations.Traversal := by
  unfold Obligations.Traversal
  intro d a st s t th node tri
  refine ⟨fun h s1 b hread => ?trvbox, fun h s1 b hread => ?trvtri, fun h s1 b hread => ?trvomm, fun h hend => ?ends,
    fun h hmore s1 c base s2 b hlook hread => ?steps, fun hnone i hi h => ?noStack, fun n e hn he hpos h0 hfit hp => ⟨fun h => ?pushes, fun h => ?pops⟩⟩
  case trvbox => exact run_gdone h (by rw [hread]; rfl)
  case trvtri => exact run_gdone h (by rw [hread]; rfl)
  case trvomm =>
    have hread' : s.readNode t th (th.pair (member a 2)).toNat 48 16 = .ok (s1, b) := hread
    refine ⟨fun h1 => run_gdone h ?seeThrough, fun h1 h2 => run_gdone h ?noMap, fun h1 h2 h3 => run_gdone h ?deep, fun h1 h2 h3 => ?mapped⟩
    case seeThrough =>
      simp only [hread', bind, Except.bind, if_pos h1]
      rfl
    case noMap =>
      simp only [hread', bind, Except.bind, if_neg (show ¬fieldAt b 40 4 % 2 = 1 by omega), if_pos h2]
      rfl
    case deep =>
      simp only [hread', bind, Except.bind, if_neg (show ¬fieldAt b 40 4 % 2 = 1 by omega), if_neg (show ¬fieldAt b 40 4 / 256 % 2 = 0 by omega),
        if_pos h3]
      rfl
    case mapped =>
      intro n s2 m hm
      refine run_gdone h ?_
      simp only [hread', bind, Except.bind, if_neg (show ¬fieldAt b 40 4 % 2 = 1 by omega), if_neg (show ¬fieldAt b 40 4 / 256 % 2 = 0 by omega),
        if_neg (Nat.not_lt.mpr h3)]
      have hm' : s1.gread t th (Config.treeBase (Addr.ofNat (th.pair (member a 2)).toNat) + Addr.ofNat (fieldAt b 44 4) +
        BitVec.ofInt 64 (microIndex (th.val a) (th.valAt a 1) (fieldAt b 40 4 / 16 % 16) / 4)).toNat 1 1 = .ok (s2, m) := hm
      rw [hm']
      rfl
  case ends =>
    have hrun : exec (.trvstep d a st) s = .next (afterLane (.trvstep d a st) t st
        (.next (s.modThread t fun x => x.result (archOf th.wb (member d 3)) (Reg.plain 0) none))) :=
      (run_one h ..).trans (congrArg (fun x => Host.Outcome.next (afterLane (.trvstep d a st) t st x)) (if_pos hend))
    rw [hrun, afterLane, modThread_modThread]
    rfl
  case steps =>
    intro boxes out hfew
    have hrun : exec (.trvstep d a st) s = .next (afterLane (.trvstep d a st) t st (.next (s2.modThread t fun x =>
        (x.result (archOf th.wb (member d 2)) (Reg.plain (boxes.headD 0xFFFFFFFF)) none).result (archOf th.wb (member d 3))
          (Reg.plain (BitVec.ofNat 32 out)) none))) := by
      refine (run_one h ..).trans (congrArg (fun x => Host.Outcome.next (afterLane (.trvstep d a st) t st x)) ((if_neg hmore).trans ?_))
      have hread' : s1.readNode t th (Addr.ofNat base + Addr.ofNat (64 * (th.valAt d 2).toNat)).toNat 128 64 = .ok (s2, b) := hread
      have hfew' : ((stepChildren (rayOf th a) b 1).map (·.2)).length ≤ 1 := hfew
      simp only [hlook, bind, Except.bind, hread', if_pos hfew']
      rfl
    rw [hrun, afterLane, modThread_modThread]
    rfl
  case noStack =>
    simp only [List.mem_cons, List.not_mem_nil, or_false] at hi
    rcases hi with rfl | rfl
    · exact (run_one h ..).trans (by rw [withStack_none _ hnone]; rfl)
    · exact (run_one h ..).trans (by rw [withStack_none _ hnone]; rfl)
  all_goals subst hn he
  case pushes =>
    let k := ((s.kernel t.blk).trvBase, (s.kernel t.blk).trvN)
    have hrun : exec (.trvpush a st) s = .next (afterLane (.trvpush a st) t st (.next (s.modThread t fun _ => th.push k (th.val a)))) :=
      (run_one h ..).trans (by rw [withStack_goes _ hpos hfit hp])
    have hth : (afterLane (.trvpush a st) t st (.next (s.modThread t fun _ => th.push k (th.val a)))).thread? t =
        some (((th.push k (th.val a)).issued st s.issue.word).advance) := by
      rw [afterLane, modThread_get, modThread_get, issuable_thread h.thread]
      rfl
    refine ⟨fun hroom => ?_, fun hfull => ?_⟩
    · obtain ⟨hcount, hrestart, hpc, hreg⟩ := push_room h0 hfit (th.val a) hroom
      exact ⟨_, _, hrun, rfl, hth, hcount, hrestart, congrArg (· + 4) hpc, hreg⟩
    · obtain ⟨hcount, hrestart, hpc, hreg⟩ := push_full h0 hfit (th.val a) hfull hpos
      exact ⟨_, _, hrun, rfl, hth, hcount, hrestart, congrArg (· + 4) hpc, hreg⟩
  case pops =>
    let k := ((s.kernel t.blk).trvBase, (s.kernel t.blk).trvN)
    have hrun : ∀ x v, th.pop k = (x, v) → exec (.trvpop d st) s = .next (s.modThread t fun _ =>
        ((x.results d none 0 [Reg.plain v]).issued st s.issue.word).advance) := by
      intro x v hpop
      refine (run_one h ..).trans ?_
      rw [withStack_goes _ hpos hfit hp, hpop, State.gdone, afterLane, modThread_modThread, modThread_modThread]
      rfl
    refine ⟨fun hsome => hrun _ _ (if_pos hsome), fun hzero hover => hrun _ _ ?_, fun hzero hno => hrun _ _ ?_⟩
    · rw [Thread.pop, if_neg (by omega), if_pos hover]
    · rw [Thread.pop, if_neg (by omega), if_neg (by simp [hno])]

end Sys2Proof.Machine
end

section
namespace Sys2Proof.Machine

/-- Settles O40: the results of TEX and TEXF for each outcome of their reads. -/
theorem textures : Obligations.Textures := by
  unfold Obligations.Textures
  intro d a ply half st s t th entry k u v x y l
  refine ⟨fun s1 hdesc => ⟨fun h => run_gdone h ?texInvalid, fun h => run_gdone h ?texfInvalid⟩, fun s1 td hdesc =>
    ⟨fun hout h => run_gdone h ?outside, fun hl hx hy h s2 c hread => run_gdone h ?inside,
      fun h s2 ch hread => ⟨_, s2.free + 4, run_gdone h (z := s2.texFree k.d) ?sampled⟩⟩⟩
  all_goals
    have hdesc' : s.texDescAt t th (th.pair (member a 2)) = _ := hdesc
    simp only [hdesc', bind, Except.bind, field_eq_extractLsb']
  case texInvalid => rfl
  case texfInvalid => rfl
  case outside =>
    have hout' : (decide (td.levels ≤ l) || decide (td.w l ≤ x) || decide (td.h l ≤ y)) = true := by simpa [or_assoc] using hout
    exact congrArg orLane (if_pos hout')
  case inside =>
    have hin : ¬(decide (td.levels ≤ l) || decide (td.w l ≤ x) || decide (td.h l ≤ y)) = true := by
      simp only [Bool.or_eq_true, decide_eq_true_eq]
      omega
    refine (congrArg orLane (if_neg hin)).trans ?_
    have hread' : s1.texel t th td (th.valAt a 1).toNat ((th.val a).extractLsb' 0 16).toNat ((th.val a).extractLsb' 16 16).toNat =
      .ok (s2, c) := hread
    simp only [hread']
    rfl
  case sampled =>
    have hread' : s1.texChannels t th (s.kernel t.blk) td ply (th.get a) (th.get (member a 1)) = .ok (s2, ch) := hread
    simp only [hread']
    rfl

end Sys2Proof.Machine
end

section
namespace Sys2Proof.Machine

/-! ### The outcomes of an insertion (R204, R341) -/

section
variable {s s2 : State} {t : TRef} {th : Thread} {a : RegName}

/-- With a descriptor that is invalid or of a pixel outside it. -/
theorem insertOne_invalid (h : s.targetAt t th (th.pair a).toNat (th.valAt a 2).toNat = .ok (s2, none)) :
    s.insertOne t th a = .ok (s2.noteDid t 0, 7) := by
  have h' : s.targetAt t th (linsTarget th a).toNat (th.valAt a 2).toNat = _ := h
  simp only [State.insertOne, h', bind, Except.bind]

/-- Of a fragment without coverage (log 94). -/
theorem insertOne_uncovered {tg : Target} (h : s.targetAt t th (th.pair a).toNat (th.valAt a 2).toNat = .ok (s2, some tg))
    (hcov : (s2.fragNode t th a).cov = 0) : s.insertOne t th a = .ok (s2.noteDid t 0, 2) := by
  have h' : s.targetAt t th (linsTarget th a).toNat (th.valAt a 2).toNat = _ := h
  simp only [State.insertOne, h', bind, Except.bind, hcov, if_true]

end

section
variable {s s1 s2 : State} {t : TRef} {th : Thread} {d a : RegName} {st : Stall} {v : Nat}

/-- A LINS that need not wait gives what its insertion gives. -/
theorem exec_lins_inserts (h : OneLane (.lins d a st) s t th) (hs1 : s.drainStrand t.blk th.strand = s1)
    (hwait : s1.insertWaits t th a none = false) (hi : s1.insertOne t th a = .ok (s2, v)) (hd : s2.isDoubled t.blk = false) :
    exec (.lins d a st) s = .next (s2.gave t st d [Reg.plain (BitVec.ofNat 32 v)]) := by
  refine run_gdone h ?_
  subst hs1
  dsimp only
  rw [hwait, if_neg Bool.false_ne_true, hi]
  exact linsDone_single hd v

/-- A LINS that must wait parks at the layer unit, whose event it asks for (R204). -/
theorem exec_lins_waits (h : OneLane (.lins d a st) s t th) (hs1 : s.drainStrand t.blk th.strand = s1)
    (hwait : s1.insertWaits t th a none = true) : exec (.lins d a st) s = .next (afterLane (.lins d a st) t st
      (.go ((State.parkAt { s1 with nextJoin := s1.nextJoin + 1 } t (.layer (.lins d a st) (s1.nextJoin + 1))).want (.layerInsert t.blk t.tid)))) := by
  subst hs1
  refine (run_one h ..).trans ?_
  dsimp only
  rw [hwait, if_pos rfl]

end

/-! ### Reads of a pixel (R343) -/

section
variable {i : Instr} {s s1 s2 s3 : State} {t : TRef} {th : Thread} {d a : RegName} {st : Stall} {n : Nat}
  {f : Kernel → Thread → Target → List LayerNode → List Reg}

/-- A read of a pixel that must wait parks at the layer unit. -/
theorem pixelBody_waits (hs1 : s.drainStrand t.blk th.strand = s1) (hwait : s1.layerWaits th (layerPixel th i) = true) :
    pixelBody i d a n f s t th = .go (s1.parkAt t (.layer i 0)) := by
  subst hs1
  exact if_pos hwait

variable (hs1 : s.drainStrand t.blk th.strand = s1) (hwait : s1.layerWaits th (layerPixel th i) = false)
include hs1 hwait

/-- A read with an invalid descriptor gives zeros. -/
theorem pixelBody_invalid (htg : s1.targetAt t th (th.pair a).toNat (th.valAt a 2).toNat = .ok (s2, none)) :
    pixelBody i d a n f s t th = s2.gdone t d (List.replicate n (Reg.plain 0)) := by
  subst hs1
  have htg' : (s.drainStrand t.blk th.strand).targetAt t th (linsTarget th a).toNat (th.valAt a 2).toNat = _ := htg
  simp only [pixelBody, hwait, Bool.false_eq_true, if_false, htg', bind, Except.bind]
  rfl

/-- A read of the list of its pixel. -/
theorem pixelBody_reads {tg : Target} {l : List LayerNode}
    (htg : s1.targetAt t th (th.pair a).toNat (th.valAt a 2).toNat = .ok (s2, some tg))
    (hl : s2.seenList t th tg (th.valAt a 2).toNat = .ok (s3, l)) :
    pixelBody i d a n f s t th = s3.gdone t d (f (s3.kernel t.blk) th tg l) := by
  subst hs1
  have htg' : (s.drainStrand t.blk th.strand).targetAt t th (linsTarget th a).toNat (th.valAt a 2).toNat = _ := htg
  simp only [pixelBody, hwait, Bool.false_eq_true, if_false, htg', hl, bind, Except.bind]
  rfl

end

/-- What LCNT gives, in words (R343). -/
theorem lcnt_value (tg : Target) (l : List LayerNode) :
    l.length % 16 + (if tg.moi then 256 else 0) + (if tg.drop then 512 else 0) =
      l.length % 16 + (if tg.status % 2 = 1 then 256 else 0) + (if tg.status / 2 % 2 = 1 then 512 else 0) := by
  simp [Target.moi, Target.drop]

/-- What LCOMP gives: the composite of the list, front to back, as two f16 pairs (R343). -/
theorem compositeOut_eq (l : List LayerNode) : compositeOut l =
    (let c := fun (k : Nat) => toHalf ((l.foldl (fun (acc : List Word) n => (List.range 4).map fun k =>
        add32 (acc.getD k 0) (mul32 (sub32 0x3F800000 (acc.getD 3 0)) (n.chan k))) [0, 0, 0, 0]).getD k 0)
     [halves (c 0) (c 1), halves (c 2) (c 3)]) := rfl

/-- Settles O41: LINS, the reads of a pixel, and LCLR of one thread. -/
theorem layerAccesses : Obligations.LayerAccesses := by
  unfold Obligations.LayerAccesses
  intro d a st s t th s1 va pixel k parked
  refine ⟨fun h => ⟨fun hwait hth => ?linsWaits, fun hwait => ⟨fun s2 htg hd => ?linsInvalid, fun s2 tg htg hcov hd => ?linsUncovered,
      fun s2 v hi hd => exec_lins_inserts h rfl hwait hi hd⟩⟩,
    fun hwait hth i hi h => ?waits, fun hwait => ⟨fun s2 htg => ?invalid, fun s2 tg s3 l htg hl hk => ?reads⟩,
    fun h hd hcore hw hclaim hroom => ?clears⟩
  case linsWaits =>
    refine ⟨_, s1.nextJoin + 1, exec_lins_waits h rfl hwait, want_mem _ _, ?_, want_asked _ _⟩
    rw [afterLane, modThread_get, want_issue, thread?_congr
      (s := State.parkAt { s1 with nextJoin := s1.nextJoin + 1 } t (.layer (.lins d a st) (s1.nextJoin + 1))) (by rw [want_blocks]),
      State.parkAt, modThread_get]
    exact congrArg (fun x : Option Thread => (x.map _).map _) hth
  case linsInvalid => exact exec_lins_inserts h rfl hwait (insertOne_invalid htg) ((modThread_isDoubled ..).trans hd)
  case linsUncovered => exact exec_lins_inserts h rfl hwait (insertOne_uncovered htg hcov) ((modThread_isDoubled ..).trans hd)
  case waits =>
    have hparks : ∀ (j : Instr) (n : Nat) f, j = i → layerPixel th j = pixel → exec j s = s.run j st (pixelBody j d a n f) →
        ∃ s', exec i s = .next s' ∧ s'.mem = s1.mem ∧ s'.thread? t = parked i 0 := by
      rintro j n f rfl hpix hexec
      refine ⟨afterLane j t st (.go (s1.parkAt t (.layer j 0))), hexec.trans ((run_one h ..).trans ?_), rfl, ?_⟩
      · rw [pixelBody_waits rfl (hpix ▸ hwait)]
      rw [afterLane, State.parkAt, modThread_get, modThread_get]
      exact congrArg (fun x : Option Thread => (x.map _).map _) hth
    simp only [List.mem_cons, List.not_mem_nil, or_false] at hi
    rcases hi with rfl | rfl | rfl
    · exact hparks (.lres d a st) _ _ rfl rfl rfl
    · exact hparks (.lcnt d a st) _ _ rfl rfl rfl
    · exact hparks (.lcomp d a st) _ _ rfl rfl rfl
  case invalid =>
    exact ⟨fun h => run_gdone h (pixelBody_invalid rfl hwait htg), fun h => run_gdone h (pixelBody_invalid rfl hwait htg),
      fun h => run_gdone h (pixelBody_invalid rfl hwait htg)⟩
  case reads =>
    refine ⟨fun h => ⟨fun hnone => ?_, fun n hn => ?_⟩, fun h => ?_, fun h => ?_⟩
    · refine run_gdone h ((pixelBody_reads (i := .lres d a st) rfl hwait htg hl).trans ?_)
      rw [lresOut, hnone]
    · refine run_gdone h ((pixelBody_reads (i := .lres d a st) rfl hwait htg hl).trans ?_)
      rw [lresOut, hn, hk]
      rfl
    · refine run_gdone h ((pixelBody_reads (i := .lcnt d a st) rfl hwait htg hl).trans ?_)
      rw [lcnt_value]
      rfl
    · refine run_gdone h ((pixelBody_reads (i := .lcomp d a st) rfl hwait htg hl).trans ?_)
      rw [compositeOut_eq]
  case clears =>
    have hexec : exec (.lclr a st) s = execLclr a st s := rfl
    rw [hexec, execLclr, runOnce_one h]
    have hne : ((th.valAt a 2).extractLsb' 5 11).toNat != 0 → False := by rw [hw]; exact fun h => by cases h
    simp only [field_eq_extractLsb']
    rw [if_neg hne, if_neg (by simpa using Option.isSome_iff_ne_none.mp hclaim)]
    have hcmd : s1.issueCmd s1.issue.core [t] t qDraw (.lclr (th.pair a) (th.valAt a 2)) =
        some (s1.modQueue s1.issue.core 8 fun x => x.with (.lclr (th.pair a) (th.valAt a 2)) t.blk (s1.core s1.issue.core).cycles) := by
      rw [State.issueCmd, hd, if_neg Bool.false_ne_true]
      exact enterQueue_hasRoom (hcore ▸ hroom) _ _
    rw [hcmd]
    rfl

end Sys2Proof.Machine
end

section
namespace Sys2Proof.Machine

/-! ### What the binner's work leaves (R199, R201, R346) -/

/-- What launching, relieving and numbering keep of the machine: memory, the blocks and the issue. -/
structure BinWork (s s' : State) : Prop where
  mem : s'.mem = s.mem
  blocks : s'.blocks = s.blocks
  issue : s'.issue = s.issue

theorem BinWork.trans {a b c : State} (h : BinWork a b) (k : BinWork b c) : BinWork a c :=
  ⟨k.mem.trans h.mem, k.blocks.trans h.blocks, k.issue.trans h.issue⟩

/-- Such work that also keeps the primitives of every draw. -/
structure KeepsPrims (s s' : State) : Prop extends BinWork s s' where
  prims : s'.draws.map (·.prims) = s.draws.map (·.prims)

theorem KeepsPrims.refl (s : State) : KeepsPrims s s := ⟨⟨rfl, rfl, rfl⟩, rfl⟩

theorem KeepsPrims.trans {a b c : State} (h : KeepsPrims a b) (k : KeepsPrims b c) : KeepsPrims a c :=
  ⟨h.toBinWork.trans k.toBinWork, k.prims.trans h.prims⟩

theorem keepsPrims_modDraw (s : State) (di : Nat) {f : Draw → Draw} (hf : ∀ d, (f d).prims = d.prims := by intro; rfl) :
    KeepsPrims s (s.modDraw di f) := by
  refine ⟨⟨rfl, rfl, rfl⟩, List.ext_getElem? fun n => ?_⟩
  simp only [State.modDraw, List.getElem?_map, List.getElem?_modify]
  cases s.draws[n]? with
  | none => rfl
  | some d => by_cases hn : di = n <;> simp [hn, hf]

theorem keepsPrims_givePool (s : State) (p : Nat) (fs : List Nat) : KeepsPrims s (s.givePool p fs) := by
  unfold State.givePool
  split
  · exact .refl s
  · exact ⟨⟨by simp, by simp, by simp⟩, by simp⟩

theorem keepsPrims_enterGrid {s s' : State} {g : Grid} (h : s.enterGrid g = some s') : KeepsPrims s s' := by
  obtain ⟨hmem, hblocks, -, hdraws⟩ := enterGrid_keeps h
  refine ⟨⟨hmem, hblocks, ?_⟩, by rw [hdraws]⟩
  unfold State.enterGrid at h
  dsimp only at h
  split at h
  · cases h
  · rw [← Option.some.inj h]
    simp

theorem keepsPrims_launchFrags (di tile : Nat) (l : List Prim) : ∀ s : State, KeepsPrims s (State.launchFrags di tile l s).1 := by
  induction l with
  | nil => exact fun s => .refl s
  | cons p r ih =>
    intro s
    unfold State.launchFrags
    split
    · dsimp only
      split
      · next s1 h =>
        refine KeepsPrims.trans ?_ ((keepsPrims_modDraw s1 di).trans (ih _))
        split_ifs at h
        · exact Option.some.inj h ▸ .refl s
        · exact (keepsPrims_modDraw s di).trans (keepsPrims_enterGrid h)
      · exact .refl s
    · exact ih s

theorem keepsPrims_reloadTile (s : State) (di tile : Nat) : KeepsPrims s (s.reloadTile di tile) := by
  unfold State.reloadTile
  split
  · exact .refl s
  · exact (keepsPrims_givePool s _ _).trans (keepsPrims_modDraw _ di)

theorem keepsPrims_relieve (s : State) (di : Nat) : KeepsPrims s (s.relieve di) := by
  unfold State.relieve
  split
  · exact .refl s
  · next d _ =>
    split
    · exact .refl s
    · next tile _ =>
      have h := (keepsPrims_reloadTile s di tile).trans (keepsPrims_launchFrags di tile (d.bin tile) _)
      split
      · exact .refl s
      · split
        · next s1 hs => rw [hs] at h; exact h.trans (keepsPrims_modDraw s1 di)
        · next s1 hs => rw [hs] at h; exact h

theorem KeepsPrims.get {s s' : State} (h : KeepsPrims s s') {di : Nat} {d : Draw} (hd : s.draws[di]? = some d) :
    ∃ d', s'.draws[di]? = some d' ∧ d'.prims = d.prims := by
  have := congrArg (fun l => l[di]?) h.prims
  simpa [hd] using this

/-! ### The numbering of primitives (R346) -/

/-- A primitive without its number. -/
def Prim.unnumbered (p : Prim) : Prim := { p with num := none }

/-- The binner numbers primitives and reorders them; it takes none away and adds none. -/
theorem number_perm (upTo : Nat) (d : Draw) : ((d.number upTo).prims.map Prim.unnumbered).Perm (d.prims.map Prim.unnumbered) := by
  let held := d.prims.filter fun p => p.num.isNone
  let old := d.prims.filter fun p => p.num.isSome
  let now := (held.filter fun p => decide (p.blk ≤ upTo)).insertionSort fun x y => x.blk ≤ y.blk
  let late := held.filter fun p => decide (upTo < p.blk)
  have hnum : ((now.zipIdx.map fun x => { x.1 with num := some (old.length + x.2) }).map Prim.unnumbered) = now.map Prim.unnumbered := by
    rw [List.map_map]
    exact (List.map_map (l := now.zipIdx) (f := Prod.fst) (g := Prim.unnumbered)).symm.trans (by rw [List.zipIdx_map_fst])
  have hsplit : (now ++ late).Perm held := by
    have hlate : late = held.filter fun p => !decide (p.blk ≤ upTo) := List.filter_congr fun p _ => by rw [← decide_not, decide_eq_decide]; omega
    rw [hlate]
    exact ((List.perm_insertionSort ..).append_right _).trans (List.filter_append_perm ..)
  have hall : (old ++ held).Perm d.prims := by
    have hheld : held = d.prims.filter fun p => !p.num.isSome := List.filter_congr fun p _ => by simp
    rw [hheld]
    exact List.filter_append_perm ..
  have hlist : (d.number upTo).prims.map Prim.unnumbered = (old ++ (now ++ late)).map Prim.unnumbered := by
    have hprims : (d.number upTo).prims = (old ++ now.zipIdx.map fun (x : Prim × Nat) => { x.1 with num := some (old.length + x.2) }) ++ late := rfl
    rw [hprims, List.map_append, List.map_append, hnum, List.map_append, List.map_append, List.append_assoc]
  rw [hlist]
  exact ((hsplit.append_left old).trans hall).map _

/-- Releasing the primitives of a draw numbers some of them and does nothing else. -/
theorem releasePrims_get {s : State} {di : Nat} {d : Draw} (hd : s.draws[di]? = some d) :
    BinWork s (s.releasePrims di) ∧ ∃ d', (s.releasePrims di).draws[di]? = some d' ∧
      (d'.prims.map Prim.unnumbered).Perm (d.prims.map Prim.unnumbered) := by
  unfold State.releasePrims
  rw [hd]
  dsimp only
  split
  · exact ⟨⟨rfl, rfl, rfl⟩, d, hd, .refl _⟩
  · next g _ =>
    refine ⟨⟨rfl, rfl, rfl⟩, d.number (((List.range g.count).find? fun b => !g.ended.any fun e => e.1 == b).getD g.count), ?_, number_perm _ d⟩
    rw [State.modDraw, List.getElem?_modify_eq, hd]
    rfl

/-! ### The stages of a draw (R346, R347) -/

/-- The draw of a thread stands among the draws. -/
theorem drawOf_get {s : State} {blk di : Nat} {frag : Bool} {d : Draw} (h : s.drawOf blk frag = some (di, d)) : s.draws[di]? = some d := by
  unfold State.drawOf at h
  split at h
  · next x k _ =>
    split at h
    · obtain ⟨y, hy, he⟩ := Option.map_eq_some_iff.mp h
      obtain ⟨rfl, rfl⟩ := Prod.mk.inj he
      exact hy
    · cases h
  · cases h

/-- A vertex that has been put is there. -/
theorem putVertex_vertex (d : Draw) (v : Vertex) : (d.putVertex v).vertex v.blk v.index = some v.vals := by
  simp [Draw.putVertex, Draw.vertex]

section
variable {i : Instr} {s s1 : State} {t : TRef} {th : Thread} {kind di : Nat} {d : Draw} {fr : Frag}
  {f : State → TRef → Thread → Nat → Draw → Frag → Except Lane Lane}

theorem fragBody_outside (h : s.drawOf t.blk true = none ∨ th.frag = none) : fragBody i kind f s t th = .trap s 0x01 0x02 0 := by
  unfold fragBody
  rcases h with h | h
  · rw [h]
  · rw [h]
    cases s.drawOf t.blk true <;> rfl

variable (hd : s.drawOf t.blk true = some (di, d)) (hf : th.frag = some fr) (hs1 : s.drainStrand t.blk th.strand = s1)
include hd hf hs1

theorem fragBody_waits (h : s1.earlierPending th kind = true) : fragBody i kind f s t th = .go (s1.parkAt t (.layer i 0)) := by
  subst hs1
  simp only [fragBody, hd, hf, h, if_true]

theorem fragBody_acts (h : s1.earlierPending th kind = false) : fragBody i kind f s t th = orLane (f s1 t th di d fr) := by
  subst hs1
  simp only [fragBody, hd, hf, h, Bool.false_eq_true, if_false]

end

section
variable {i : Instr} {s : State} {t : TRef} {th : Thread} {st : Stall}

/-- A thread that parks at the layer unit in its issue. -/
theorem afterLane_parks (p : Park) (ht : s.thread? t = some th) : (afterLane i t st (.go (s.parkAt t p))).thread? t =
    some { th with park := some p, stall := st.toNat, word := s.issue.word, again := false } := by
  rw [afterLane, State.parkAt, modThread_get, modThread_get, ht]
  rfl

end

/-! ### DRAW of one thread (R345) -/

section
variable {s s1 s2 : State} {t : TRef} {th : Thread} {d a : RegName} {st : Stall} {b : List Byte}
  (h : OneLane (.draw d a st) s t th) (hs1 : s.drainStrand t.blk th.strand = s1) (hd : s1.isDoubled t.blk = false)
include h hs1 hd

/-- A record that is not 64-byte aligned gives FormatInvalid. -/
theorem exec_draw_misaligned (ha : drawRecordAt (th.vals a 8) % 64 ≠ 0) :
    exec (.draw d a st) s = .next (onceLeaves (.draw d a st) st t (.done s1 (giveStatus d 7))) := by
  subst hs1
  have hexec : exec (.draw d a st) s = execDraw d a st s := rfl
  rw [hexec, execDraw, runOnce_one h]
  simp only [hd, Bool.false_eq_true, if_false, if_pos ha]

variable (ha : drawRecordAt (th.vals a 8) % 64 = 0) (hread : s1.gread t th (drawRecordAt (th.vals a 8)) 64 64 = .ok (s2, b))
include ha hread

/-- A draw that its checks refuse gives their status. -/
theorem exec_draw_refused {v : Nat} (hv : s2.drawIssue t.blk (th.vals a 8) (drawRecord b) = (v, none)) :
    exec (.draw d a st) s = .next (onceLeaves (.draw d a st) st t (.done s2 (giveStatus d v))) := by
  subst hs1
  have hexec : exec (.draw d a st) s = execDraw d a st s := rfl
  rw [hexec, execDraw, runOnce_one h]
  simp only [hd, Bool.false_eq_true, if_false, if_neg (not_not_intro ha), hread, hv]

/-- A draw that passes them enters the draw queue. -/
theorem exec_draw_enters {ks : Kernel × Kernel} (hv : s2.drawIssue t.blk (th.vals a 8) (drawRecord b) = (0, some ks))
    (hroom : s2.hasRoom s2.issue.core 8) : exec (.draw d a st) s = .next (onceLeaves (.draw d a st) st t (.done
      (s2.modQueue s2.issue.core 8 fun x => x.with (.draw (th.vals a 8) (drawRecord b)) t.blk (s2.core s2.issue.core).cycles)
      (giveStatus d 0))) := by
  subst hs1
  have hexec : exec (.draw d a st) s = execDraw d a st s := rfl
  rw [hexec, execDraw, runOnce_one h]
  simp only [hd, Bool.false_eq_true, if_false, if_neg (not_not_intro ha), hread, hv, qDraw, enterQueue_hasRoom hroom]

end

/-- The vertices that a primitive names: three, or none where one has not been emitted (R346). -/
theorem primVertices {d : Draw} {num : Nat} {w : Nat → Nat} :
    let vs := (List.range 3).filterMap fun i => d.vertex num (w i)
    (∀ x y z, d.vertex num (w 0) = some x → d.vertex num (w 1) = some y → d.vertex num (w 2) = some z →
      (if vs.length = 3 then vs else []) = [x, y, z]) ∧
    ((∃ i < 3, d.vertex num (w i) = none) → (if vs.length = 3 then vs else []) = []) := by
  intro vs
  refine ⟨fun x y z hx hy hz => ?_, fun ⟨i, hi, hnone⟩ => if_neg ?_⟩
  · have hvs : vs = [x, y, z] := by simp [vs, List.range_succ, hx, hy, hz]
    rw [hvs]
    rfl
  · have hshort : vs.length < (List.range 3).length :=
      (List.length_filterMap_lt_length_iff_exists (f := fun i => d.vertex num (w i))).mpr ⟨i, List.mem_range.mpr hi, hnone⟩
    simpa using Nat.ne_of_lt hshort

/-- The two halves of a word as numbers. -/
theorem word_halves (w : Word) : (w.extractLsb' 0 16).toNat = w.toNat % 65536 ∧ (w.extractLsb' 16 16).toNat = w.toNat / 65536 := by
  have hlt := w.isLt
  rw [← field_eq_extractLsb', ← field_eq_extractLsb', Word.field, Word.field]
  omega

/-- Settles O42: DRAW, the emitting instructions, and the two operations of a fragment. -/
theorem drawStages : Obligations.DrawStages := by
  unfold Obligations.DrawStages
  intro d a st s t th s1 oct at_ num gives
  refine ⟨fun h hd => ?draw, fun i hi h hno => ?noVertexGrid, fun i hi h hno => ?noFragmentGrid,
    fun di dr hdraw => ⟨fun h hidx => ?vemit, fun h => ?pemit⟩, fun di dr fr hdraw hfr => ?fragment⟩
  case draw =>
    refine ⟨fun hodd => exec_draw_misaligned h rfl hd hodd, fun heven s2 b hread => ?_⟩
    intro record
    refine ⟨fun v hv => exec_draw_refused h rfl hd heven hread hv,
      fun ks hks hroom hth => ⟨_, exec_draw_enters h rfl hd heven hread hks hroom, rfl, modQueue_queue_same hroom _, ?_⟩⟩
    rw [onceLeaves, modThread_get]
    exact congrArg (Option.map _) hth
  case noVertexGrid =>
    simp only [List.mem_cons, List.not_mem_nil, or_false] at hi
    rcases hi with rfl | rfl
    · exact (run_one h ..).trans (by rw [hno]; rfl)
    · exact (run_one h ..).trans (by rw [hno]; rfl)
  case noFragmentGrid =>
    simp only [List.mem_cons, List.not_mem_nil, or_false] at hi
    rcases hi with rfl | rfl
    · exact (run_one h ..).trans (by rw [fragBody_outside hno]; rfl)
    · exact (run_one h ..).trans (by rw [fragBody_outside hno]; rfl)
  case vemit =>
    let vx : Vertex := ⟨num, (th.val d).toNat, (th.group a 8).map (emitted (s.kernel t.blk))⟩
    have hrun : exec (.vemit d a st) s = .next (afterLane (.vemit d a st) t st (.next (s.modDraw di fun x => x.putVertex vx))) := by
      refine (run_one h ..).trans ?_
      simp only [hdraw, if_neg (Nat.not_lt.mpr hidx)]
      rfl
    refine ⟨_, dr.putVertex vx, hrun, rfl, ?_, putVertex_vertex dr vx, rfl, ?_⟩
    · change (s.draws.modify di fun x => x.putVertex vx)[di]? = _
      rw [List.getElem?_modify_eq, drawOf_get hdraw]
      rfl
    · rw [afterLane, modThread_get]
      exact congrArg (Option.map _) (issuable_thread h.thread)
  case pemit =>
    let vs := (List.range 3).filterMap fun i => dr.vertex num (th.valAt a i).toNat
    let p : Prim := ⟨num, if vs.length = 3 then vs else [], (th.valAt a 3).toNat, none⟩
    let z := s.modDraw di fun x => { x with prims := x.prims ++ [p] }
    have hz : z.draws[di]? = some { dr with prims := dr.prims ++ [p] } := by
      change (s.draws.modify di _)[di]? = _
      rw [List.getElem?_modify_eq, drawOf_get hdraw]
      rfl
    have hrun : exec (.pemit a st) s = .next (afterLane (.pemit a st) t st (.next ((z.releasePrims di).relieve di))) := by
      refine (run_one h ..).trans ?_
      simp only [hdraw]
      rfl
    obtain ⟨hwork, d1, hd1, hperm⟩ := releasePrims_get hz
    have hkeeps := keepsPrims_relieve (z.releasePrims di) di
    obtain ⟨dr', hdr', hprims⟩ := hkeeps.get hd1
    have hboth := hwork.trans hkeeps.toBinWork
    refine ⟨_, dr', hrun, hboth.mem, hdr', ?_, ?_⟩
    · rw [afterLane, modThread_get, hboth.issue, thread?_congr (s := z) (by rw [hboth.blocks])]
      exact congrArg (Option.map _) (issuable_thread h.thread)
    · intro adds
      have hadds : adds p := by
        change (dr'.prims.map Prim.unnumbered).Perm ((dr.prims ++ [p]).map Prim.unnumbered)
        rw [hprims]
        exact hperm
      obtain ⟨hthree, hnone⟩ := primVertices (d := dr) (num := num) (w := fun i => (th.valAt a i).toNat)
      refine ⟨fun x y z hx hy hz => ?_, fun hmiss => ?_⟩
      · have hx' : dr.vertex num (th.valAt a 0).toNat = some x := by rw [Thread.valAt, member_zero]; exact hx
        rw [← hthree x y z hx' hy hz]
        exact hadds
      · have hempty := hnone hmiss
        rw [show ([] : List (List Reg)) = _ from hempty.symm]
        exact hadds
  case fragment =>
    intro sample depths colours rgba mode parks merged
    have hmerge : ∀ (z : State), exec (.omerge a st) s = .next (afterLane (.omerge a st) t st (.next (z.noteDid t 2))) → merged z := by
      intro z hz
      refine ⟨_, hz, rfl, ?_⟩
      rw [afterLane, State.noteDid, modThread_get, modThread_get, Option.map_map]
      rfl
    have hparks : ∀ (j : Instr) (kind : Nat) f, OneLane j s t th → exec j s = s.run j st (fragBody j kind f) → parks j kind := by
      intro j kind f h hexec hpend hth
      refine ⟨afterLane j t st (.go (s1.parkAt t (.layer j 0))), hexec.trans ((run_one h ..).trans ?_), rfl, afterLane_parks _ hth⟩
      rw [fragBody_waits hdraw hfr rfl hpend]
    refine ⟨fun h => hparks _ _ _ h rfl, fun h hpend s2 old s3 hread => ?ztest, fun h => ⟨hparks _ _ _ h rfl, fun hpend =>
      ⟨fun hmode => ?keep, fun hmode s2 hwrite => ?replace, fun hmode s2 old s3 hread hwrite => ?blend⟩⟩⟩
    case ztest =>
      intro pass hwrite
      have hrun : exec (.ztest d a st) s = .next (afterLane (.ztest d a st) t st
          ((s3.noteDid t 1).gdone t d [Reg.plain (BitVec.ofNat 32 ((pass.map fun (x : Nat × Nat × List Byte) => 2 ^ x.1).sum))])) := by
        refine (run_one h ..).trans ?_
        rw [fragBody_acts hdraw hfr rfl hpend]
        have hread' : State.readSamples t th 4 ((dr.samplesOf ((th.valAt a 1).toNat &&& fr.cov)).map fun i =>
          (i, dr.sampleAt (dr.addr 4) 4 fr.x fr.y i)) (s.drainStrand t.blk th.strand) = .ok (s2, old) := hread
        simp only [bind, Except.bind, hread', field_eq_extractLsb']
        by_cases hbit : (octW dr.oct 3).getLsbD 5 = true
        · rw [if_pos hbit] at hwrite
          have hwrite' : s2.gwrite t ((old.filter fun (x : Nat × Nat × List Byte) =>
            depthPass ((octW dr.oct 3).extractLsb' 2 3).toNat (th.val a) (wordOf x.2.2)).map fun (x : Nat × Nat × List Byte) =>
              (x.2.1, wordBytes (th.val a))) = .ok s3 := hwrite
          rw [show (octW dr.oct 3).bit 5 = true from hbit, if_pos rfl, hwrite']
          rfl
        · rw [if_neg hbit] at hwrite
          rw [if_neg (show ¬(octW dr.oct 3).bit 5 = true from hbit), Except.ok.inj hwrite]
          rfl
      refine ⟨_, hrun, rfl, rfl, ?_⟩
      rw [State.gdone, State.noteDid, afterLane, modThread_get, modThread_get, modThread_get, Option.map_map, Option.map_map]
      rfl
    all_goals
      refine hmerge _ ((run_one h ..).trans ?_)
      rw [fragBody_acts hdraw hfr rfl hpend]
      simp only [bind, Except.bind, field_eq_extractLsb', show ((octW dr.oct 3).extractLsb' 6 2).toNat = mode from rfl, hmode]
      have hrgba : [((th.valAt a 0).extractLsb' 0 16).toNat, ((th.valAt a 0).extractLsb' 16 16).toNat,
          ((th.valAt a 1).extractLsb' 0 16).toNat, ((th.valAt a 1).extractLsb' 16 16).toNat] = rgba := by
        obtain ⟨hlo0, hhi0⟩ := word_halves (th.val a)
        obtain ⟨hlo1, hhi1⟩ := word_halves (th.valAt a 1)
        rw [show th.valAt a 0 = th.val a by rw [Thread.valAt, member_zero], hlo0, hhi0, hlo1, hhi1]
    case keep => rfl
    case replace =>
      have hwrite' : (s.drainStrand t.blk th.strand).gwrite t (((dr.samplesOf (th.valAt a 2).toNat).map fun i =>
          (i, dr.sampleAt (dr.addr 3) 8 fr.x fr.y i)).map fun x => (x.2, rgba.flatMap (leBytes 2))) = .ok s2 := hwrite
      rw [if_neg (by decide), if_neg (by decide)]
      simp only [List.map_map, Function.comp_def, hrgba, mergeColour, if_true] at hwrite' ⊢
      rw [hwrite']
      rfl
    case blend =>
      have hread' : State.readSamples t th 8 ((dr.samplesOf (th.valAt a 2).toNat).map fun i =>
          (i, dr.sampleAt (dr.addr 3) 8 fr.x fr.y i)) (s.drainStrand t.blk th.strand) = .ok (s2, old) := hread
      rw [if_neg (by decide), if_pos trivial, hread', hrgba]
      dsimp only
      rw [hwrite]
      rfl

end Sys2Proof.Machine
end

section
namespace Sys2Proof.Machine

/-! ### One change of several threads -/

/-- One change made in each thread of a list without repetitions. -/
theorem foldl_modThread_thread (f : Thread → Thread) (l : List TRef) : ∀ (s : State), l.Nodup → ∀ u,
    (l.foldl (fun s t => s.modThread t f) s).thread? u = if u ∈ l then (s.thread? u).map f else s.thread? u := by
  induction l with
  | nil => exact fun s _ u => (if_neg List.not_mem_nil).symm
  | cons t r ih =>
    intro s hn u
    obtain ⟨ht, hr⟩ := List.nodup_cons.mp hn
    rw [List.foldl_cons, ih _ hr u]
    by_cases hu : u = t
    · subst hu
      rw [if_neg ht, if_pos List.mem_cons_self, modThread_get]
    · rw [modThread_other s f hu]
      exact if_congr (by simp [hu]) rfl rfl

/-- It leaves the rest of the machine. -/
theorem foldl_modThread_only (f : Thread → Thread) (l : List TRef) (s : State) : OnlyThreads s (l.foldl (fun s t => s.modThread t f) s) :=
  foldl_keeps (P := OnlyThreads s) (fun _ t h => onlyThreads_modThread h t f) l (.refl s)

/-! ### Results that arrive (R225, R227) -/

/-- The first result that a test holds of is taken. -/
theorem takePending_first {f : Pending → Bool} {l r : List Pending} {p : Pending} (hl : ∀ x ∈ l, f x = false) (hp : f p = true) :
    takePending f (l ++ p :: r) = some (p, l ++ r) := by
  induction l with
  | nil => exact if_pos hp
  | cons x l ih =>
    obtain ⟨hx, hrest⟩ := List.forall_mem_cons.mp hl
    rw [List.cons_append, takePending, hx, if_neg Bool.false_ne_true, ih hrest]
    rfl

/-- A result that has come, or that a later write has overtaken. -/
theorem arriveResult_first {th : Thread} {f : Pending → Bool} {l r : List Pending} {p : Pending} (h : th.pend = l ++ p :: r)
    (hl : ∀ x ∈ l, f x = false) (hp : f p = true) :
    th.arriveResult f = if p.dead then { th with pend := l ++ r } else ({ th with pend := l ++ r } : Thread).setReg p.reg p.res := by
  rw [Thread.arriveResult, h, takePending_first hl hp]

theorem together_nodup (s : State) (t : TRef) : (s.together t).Nodup := by
  unfold State.together
  split
  · exact List.nodup_nil
  · refine List.nodup_cons.mpr ⟨?_, ?_⟩
    · split
      · simp
      · exact List.not_mem_nil
    · split
      · exact List.nodup_dedup _
      · exact List.nodup_nil

theorem self_mem_together {s : State} {t : TRef} {th : Thread} (h : s.thread? t = some th) : t ∈ s.together t := by
  rw [State.together, h]
  exact List.mem_cons_self

/-! ### The thresholds of progress (R147) -/

/-- A Hang enters the handler of its thread. -/
theorem hang_handled {s : State} {t : TRef} {th : Thread} {core : Nat} (hth : s.thread? t = some th) (hc : s.coreOf t.blk = some core)
    (hcan : th.canTrap) (sub : Nat) (w : Word) :
    (s.hang t sub w).mem = s.mem ∧ Handled (s.hang t sub w) t { th with starve := 0, walk := none } 0x31 sub w := by
  let y : Thread := { th with starve := 0, walk := none }
  let z : State := { s.modThread t fun x => { x.unpark with starve := 0, walk := none } with issue := ⟨core, 0, [t], th.pc, w⟩ }
  have hz : z.thread? t = some y.unpark := by
    change (s.modThread t fun x => { x.unpark with starve := 0, walk := none }).thread? t = _
    rw [modThread_get, hth]
    rfl
  have hhang : s.hang t sub w = z.deliver [⟨t, 0x31, sub, 0⟩] none := by
    rw [State.hang, hc, hth]
  obtain ⟨hh, hmem, -⟩ := deliver_handled (c := 0x31) (by decide) hz hcan sub 0 none
  rw [hhang]
  exact ⟨hmem, handled_unpark (y := y) hh⟩

/-- The high word of an address. -/
theorem high_eq (v : Addr) : Addr.high v = v.extractLsb' 32 32 := by
  apply BitVec.eq_of_toNat_eq
  simp [Addr.high]

/-! ### A service call performed (R272) -/

/-- Its thread has the status in v4 and goes on at PC + 4. -/
theorem served_thread {th : Thread} (h : 4 < th.regs.length) (v : Word) : (th.served v).pc = th.pc + 4 ∧ (th.served v).park = none ∧
    ∀ r, (th.served v).reg r = if r = 4 then Reg.plain v else th.reg r := by
  obtain ⟨-, hpc, -⟩ := putNow_rest th 4 (Reg.plain v)
  exact ⟨congrArg (· + 4) hpc, rfl, putNow_reg th (by decide) h (Reg.plain v)⟩

/-! ### A withheld cycle (R378) -/

theorem threadsOn_nodup (s : State) (core : Nat) : (s.threadsOn core).Nodup := by
  refine List.nodup_flatMap.mpr ⟨fun k _ => List.nodup_range.map fun _ _ h => (TRef.mk.inj h).2, ?_⟩
  refine List.Pairwise.imp (fun {a b} hab => ?_) (List.nodup_range.filter _)
  intro u ha hb
  obtain ⟨x, -, rfl⟩ := List.mem_map.mp ha
  obtain ⟨y, -, hk⟩ := List.mem_map.mp hb
  exact hab (TRef.mk.inj hk).1.symm

/-- What a new cycle keeps beside the counter of its core. -/
theorem newCycle_keeps (s : State) (core : Nat) : (s.newCycle core).mem = s.mem ∧ (s.newCycle core).blocks = s.blocks ∧
    (s.newCycle core).cores = (s.modCore core fun c => { c with cycles := c.cycles + 1 }).cores :=
  foldl_keeps (P := fun z : State => z.mem = s.mem ∧ z.blocks = s.blocks ∧
    z.cores = (s.modCore core fun c => { c with cycles := c.cycles + 1 }).cores)
    (f := State.mustNow) (a := s.modCore core fun c => { c with cycles := c.cycles + 1 }) (fun _ _ h => h) _ ⟨rfl, rfl, rfl⟩

/-- A withheld cycle advances the counter of its core and the stall counts of its threads. -/
theorem withheld_keeps {s : State} {core : Nat} (hcore : core < s.cores.length) :
    let s' := (s.newCycle core).countStalls core
    s'.mem = s.mem ∧ s'.core core = { s.core core with cycles := (s.core core).cycles + 1 } ∧ (∀ c ≠ core, s'.core c = s.core c) ∧
      ∀ u, s'.thread? u = (s.thread? u).map fun x => if u ∈ s.threadsOn core then { x with stall := x.stall - 1 } else x := by
  intro s'
  obtain ⟨hmem, hblocks, hcores⟩ := newCycle_keeps s core
  have honly : OnlyThreads (s.newCycle core) s' := foldl_modThread_only _ _ _
  have hcoreOf : ∀ c, s'.core c = (s.modCore core fun c => { c with cycles := c.cycles + 1 }).core c := fun c => by
    rw [State.core, honly.cores, hcores]
    rfl
  refine ⟨?_, (hcoreOf core).trans (modCore_core_same hcore _), fun c hc => (hcoreOf c).trans (modCore_core_other s hc _), fun u => ?_⟩
  · exact (congrArg State.mem honly.rest :).trans hmem
  · have hlist : (s.newCycle core).threadsOn core = s.threadsOn core := by
      rw [State.threadsOn, State.threadsOn, State.runningOn, State.runningOn, hblocks]
    have hsame : (s.newCycle core).thread? u = s.thread? u := thread?_congr (by rw [hblocks])
    have hfold := foldl_modThread_thread (fun x : Thread => { x with stall := x.stall - 1 }) ((s.newCycle core).threadsOn core)
      (s.newCycle core) (threadsOn_nodup _ core) u
    rw [hlist, hsame] at hfold
    refine Eq.trans ?_ (hfold.trans ?_)
    · rw [← hlist]; rfl
    · cases s.thread? u with
      | none => simp
      | some x => by_cases hu : u ∈ s.threadsOn core <;> simp [hu]

/-- Settles O44: the events of one thread, and a withheld cycle. -/
theorem threadEvents : Obligations.ThreadEvents := by
  unfold Obligations.ThreadEvents
  intro s t th core hth hc hung served
  refine ⟨?yields, fun l p r hpend hl => ?results, fun ea s1 hwalk => ?walks, fun hlive hcan => ?thresholds, fun hregs code hpark => ?services,
    fun hcore => ?cycles⟩
  case yields => exact congrArg Host.Outcome.next (modThread_known s hth fun x => { x with yield := 0 })
  case results =>
    intro came
    refine ⟨fun hdue hheld => ?_, fun c k hdue hreads hcome => ?_⟩
    · have harrive : th.arriveResult (fun q => q.variable p.reg) = _ := arriveResult_first hpend
        (fun x hx => by simp [Pending.variable, hl x hx]) (by simp [Pending.variable, hdue, hheld])
      have honly := foldl_modThread_only (fun x : Thread => x.arriveResult fun q => q.variable p.reg) (s.together t) s
      have hthread := foldl_modThread_thread (fun x : Thread => x.arriveResult fun q => q.variable p.reg) (s.together t) s (together_nodup s t)
      refine ⟨_, rfl, (congrArg State.mem honly.rest :), honly.cores, ?_, fun u _ => hthread u⟩
      refine (hthread t).trans ?_
      rw [if_pos (self_mem_together hth), hth, Option.map_some, harrive]
      exact Eq.symm ((modThread_get ..).trans (by rw [hth]; rfl))
    · have harrive : th.arriveResult (fun q => q.reg == p.reg && q.dueAt (s.core core).cycles) = _ := arriveResult_first hpend
        (fun x hx => by simp [hl x hx]) (by simp [Pending.dueAt, hdue, hcome])
      have hrun : exec (.fixedLatencyResult t.blk t.tid p.reg) s = .next (s.modThread t fun x =>
          if x.reads then x else x.arriveResult fun q => q.reg == p.reg && q.dueAt (s.core core).cycles) := by
        change execFixedLatencyResult t.blk t.tid p.reg s = _
        rw [execFixedLatencyResult, hc]
      rw [hrun, modThread_known s hth, hreads, if_neg Bool.false_ne_true, harrive]
  case walks =>
    have hrun : exec (.walkMigReread t.blk t.tid) s = execWalkMigReread t.blk t.tid s := rfl
    rw [hrun, execWalkMigReread, hth, hc]
    dsimp only
    rw [hwalk]
    refine ⟨fun hwait => ?_, fun x y z hleaf => ?_⟩
    · dsimp only
      rw [hwait]
    · dsimp only
      rw [hleaf]
  case thresholds =>
    refine ⟨fun p hp hchk hlate => ?_, fun hp hfiled hlate => ?_⟩
    · refine ⟨_, ?_, hang_handled hth hc hcan 1 th.word⟩
      change execHangTimeout t.blk t.tid s = _
      rw [execHangTimeout, hc, hth]
      simp [hlive, hp, hchk, progThreshold, hlate]
    · refine ⟨_, ?_, hang_handled hth hc hcan 2 ((s.peek core t th.pc).getD 0)⟩
      change execStarvationTimeout t.blk t.tid s = _
      rw [execStarvationTimeout, hc, hth]
      simp [hlive, hp, hfiled, progThreshold, hlate]
  case services =>
    have hserved : ∀ (s1 : State) (x : Thread) (v : Word) (l : List (Nat × Word)), s1.thread? t = some th → x.pc = th.pc →
        x.regs.length = th.regs.length → (∀ y ∈ l, y.1 ≠ 4 ∧ x.reg y.1 = Reg.plain y.2) → (∀ r, (∀ y ∈ l, y.1 ≠ r) → x.reg r = th.reg r) →
        exec (.serviceCallPerform t.blk t.tid) s = .next (s1.modThread t fun _ => x.served v) → served (l ++ [(4, v)]) := by
      intro s1 x v l h1 hpc hlen hl hrest hrun
      obtain ⟨hpc', hpark', hreg⟩ := served_thread (th := x) (hlen ▸ hregs) v
      refine ⟨_, x.served v, hrun, by rw [modThread_get, h1]; rfl, by rw [hpc', hpc], hpark', fun y hy => ?_, fun r hr => ?_⟩
      · rw [hreg]
        rcases List.mem_append.mp hy with hy | hy
        · obtain ⟨hne, hval⟩ := hl y hy
          rw [if_neg hne, hval]
        · rw [List.mem_singleton.mp hy, if_pos rfl]
      · have h4 : r ≠ 4 := fun h => hr (4, v) (by simp) h.symm
        rw [hreg, if_neg h4, hrest r fun y hy => hr y (by simp [hy])]
    have hplain : ∀ (s1 : State) (v : Word), s1.thread? t = some th → exec (.serviceCallPerform t.blk t.tid) s = .next (s1.modThread t (Thread.served v)) →
        served [(4, v)] := fun s1 v h1 hrun =>
      hserved s1 th v [] h1 rfl rfl (by simp) (fun _ _ => rfl) (hrun.trans (congrArg Host.Outcome.next (modThread_known s1 h1 _)))
    have hrun : exec (.serviceCallPerform t.blk t.tid) s = execServiceCallPerform t.blk t.tid s := rfl
    rw [execServiceCallPerform, hth, hc] at hrun
    dsimp only at hrun
    rw [hpark] at hrun
    refine ⟨fun h0 => ?version, fun h3 => ?unknown, fun h1 x hx => ?alloc, fun h2 x hx => ?free⟩
    case unknown =>
      obtain ⟨n, rfl⟩ := Nat.exists_eq_add_of_le' h3
      exact hplain s _ hth hrun
    case version =>
      subst h0
      obtain ⟨hlen, hpc, -⟩ := putNow_rest th 2 (Reg.plain Config.serviceVersion)
      have hreg := putNow_reg th (a := 2) (by decide) (by omega) (Reg.plain Config.serviceVersion)
      refine hserved s _ 0 [(2, Config.serviceVersion)] hth hpc hlen (by simp [hreg]) (fun r hr => ?_)
        (hrun.trans (congrArg Host.Outcome.next (modThread_known s hth _)))
      rw [hreg, if_neg fun h => hr (2, Config.serviceVersion) (by simp) h.symm]
    case alloc =>
      subst h1
      refine ⟨fun hnone => hplain s _ hth (hrun.trans ?_), fun s1 va hsome hth1 => ?_⟩
      · simp only [← hx, hnone]
      · let lo := (Addr.ofNat va).extractLsb' 0 32
        let hi := (Addr.ofNat va).extractLsb' 32 32
        obtain ⟨hlen, hpc, -⟩ := putNow_rest th 2 (Reg.plain lo)
        obtain ⟨hlen', hpc', -⟩ := putNow_rest (th.putNow 2 (Reg.plain lo)) 3 (Reg.plain hi)
        have hreg := putNow_reg th (a := 2) (by decide) (by omega) (Reg.plain lo)
        have hreg' := putNow_reg (th.putNow 2 (Reg.plain lo)) (a := 3) (by decide) (by omega) (Reg.plain hi)
        refine hserved s1 _ 0 [(2, lo), (3, hi)] hth1 (hpc'.trans hpc) (hlen'.trans hlen) (by simp [hreg, hreg']) (fun r hr => ?_) (hrun.trans ?_)
        · rw [hreg', if_neg fun h => hr (3, hi) (by simp) h.symm, hreg, if_neg fun h => hr (2, lo) (by simp) h.symm]
        · simp only [← hx, hsome]
          rw [modThread_known s1 hth1, low_eq, high_eq]
    case free =>
      subst h2
      refine ⟨fun hnone => hplain s _ hth (hrun.trans ?_), fun s1 hsome hth1 => hplain s1 _ hth1 (hrun.trans ?_)⟩
      · have hx' : s.freeScratch (s.partOf t.blk) (pairVal (th.reg 2).val (th.reg 3).val).toNat = none := hx.symm.trans hnone
        simp only [hx']
      · have hx' : s.freeScratch (s.partOf t.blk) (pairVal (th.reg 2).val (th.reg 3).val).toNat = some s1 := hx.symm.trans hsome
        simp only [hx']
  case cycles =>
    exact ⟨fun hcalm => ⟨_, if_neg (by rw [hcalm]; exact Bool.false_ne_true), withheld_keeps hcore⟩, fun hurgent => if_pos hurgent⟩

end Sys2Proof.Machine
end
